-- ==== Sys2Proof/Word.lean ====
section
/-!
DEFINITION. The word types of the machine and their plainest arithmetic. A byte of memory is 8 bits, a fixed name or a
control word 64 bits (R93, R190). Lanes of declared names have any width from 1 to 64 bits, so they are held as the
natural number their bit string denotes.
-/

namespace Sys2Proof

/-- One byte of memory. -/
abbrev Byte := BitVec 8

/-- A fixed name, control word or register of 64 bits. -/
abbrev Word64 := BitVec 64

end Sys2Proof
end

