-- ==== Sys2Proof/Config.lean ====
section
/-!
DEFINITION. What the spec leaves open and the machine still needs a value for: opaque constants, so that nothing can be
proved about a value of one. Each is named in the assumption log.
-/

namespace Sys2Proof.Config

/-- Clocks of a die's arithmetic clock that pass in one step of the model, by step number and die: the model is
untimed, the spec fixes how counters advance per clock and not how many clocks lie between two steps. (DESIGN CHOICE, log 4) -/
opaque clocks : Nat → Nat → Nat

/-- The 32-byte digest by which an access-table edit extends M3 (R57): word offset and value written. (DESIGN CHOICE, log 15) -/
opaque editDigest : Nat → Nat → Nat

/-- The LZ4 encoding that a compressing courier makes of a chunk (R140): the format fixes what an encoding denotes and not
which of several a compressor makes. (DESIGN CHOICE, log 16) -/
opaque lz4 : List Nat → List Nat

/-- The signature of an attestation reply (R57): the package's private key never leaves it. (DESIGN CHOICE, log 17) -/
opaque signature : List Nat → Nat

/-- `cw.eval` of an uncorrectable error that a thread meets in device memory, by the task virtual address it read and the
physical address of the bad unit: R198 names no unit for device memory, and R191 does not say which address (R17). (DESIGN CHOICE, log 18) -/
opaque eccuMemory : Nat → Nat → Nat

/-- Bits 55:0 of `cw.eval` of an uncorrectable error, by unit and place, for a unit whose words have no address and no row
(R191, R198). (DESIGN CHOICE, log 18) -/
opaque eccuPlace : Nat → Nat → Nat

/-- Whether a thread that can issue goes before the step of another agent that is due, by step number: the spec gives the
agents no common order. (DESIGN CHOICE, log 9) -/
opaque threadFirst : Nat → Bool

/-- Whether an elapsed timer goes before a step that is due, by step number. (DESIGN CHOICE, log 9) -/
opaque timerFirst : Nat → Bool

/-- Whether a trace record finds its die's trace queue full, by step number, die and records so far: the spec gives the
queue's 64 places and not when it empties (R244). (DESIGN CHOICE, log 21) -/
opaque traceFull : Nat → Nat → Nat → Bool

/-- What `cwr` reads of a control word of a slot that holds no thread, by step number and word (R383). (DESIGN CHOICE, log 20) -/
opaque vacantWord : Nat → Nat → Nat

/-- The reason code of a failed boot, by stage and by whether the version rather than the signature failed (R56). (DESIGN CHOICE, log 19) -/
opaque bootReason : Nat → Bool → Nat

/-- How a decoder of the second tier spreads the pages of a GiB of package offset: over 1, 2, 4 or 8 ports, as the value modulo 4
says, from which port on (R18). (DESIGN CHOICE, log 23) -/
opaque cxlWays : Nat → Nat
opaque cxlFirst : Nat → Nat

/-- Whether the receiving side of a link grants an allowance for a flit, by step number and link (R25). (DESIGN CHOICE, log 88) -/
opaque allowance : Nat → Nat → Bool

/-- Whether the mesh port of a core accepts a message, by step number and core (R396). (DESIGN CHOICE, log 88) -/
opaque portAccepts : Nat → Nat → Bool

/-- Which of the running lanes of an expansion finishes next, by step number and job (R142). (DESIGN CHOICE, log 42) -/
opaque laneFirst : Nat → Nat → Nat

/-- Bits that a dump shows of row-store bits which no field holds, by step number, core and word (R202). (DESIGN CHOICE, log 22) -/
opaque rowRest : Nat → Nat → Nat → Nat

end Sys2Proof.Config
end

