-- ==== Sys2Proof/Syntax.lean ====
section
/-!
DEFINITION. The instruction set and the machine's other steps as one inductive: one constructor per row of the
table of operations (282). The first 187 are the 32-bit words of R268 and R270, their fields raw unsigned numbers as
they stand in the word (the machine sign-extends, because a hint may give a field more high bits, R276). The last 95
are the whole and indivisible steps of the other agents (host, stewards, dispatchers, porters, couriers, engines,
links, clocks, debug). What such a step is about (the numbers each names as its arguments) stands in `State.args`.
-/

namespace Sys2Proof

/-- One step of the machine, by its row in the table of operations. -/
inductive Instr where
  /-- hint.imm (R276). -/
  | hintImm (hi : Nat)
  /-- hint.mod (R276). -/
  | hintMod (rm wsize : Nat)
  /-- hint.mma (R276). -/
  | hintMma (stride : Nat)
  /-- hint.scope (R276). -/
  | hintScope (scope ord keep : Nat)
  /-- add (R285). -/
  | add (d a b : Nat)
  /-- sub (R285). -/
  | sub (d a b : Nat)
  /-- and (R285). -/
  | and (d a b : Nat)
  /-- or (R285). -/
  | or (d a b : Nat)
  /-- xor (R285). -/
  | xor (d a b : Nat)
  /-- andn (R285). -/
  | andn (d a b : Nat)
  /-- orn (R285). -/
  | orn (d a b : Nat)
  /-- shl (R285). -/
  | shl (d a b : Nat)
  /-- shr (R285). -/
  | shr (d a b : Nat)
  /-- sra (R285). -/
  | sra (d a b : Nat)
  /-- rol (R285). -/
  | rol (d a b : Nat)
  /-- min (R285). -/
  | min (d a b : Nat)
  /-- max (R285). -/
  | max (d a b : Nat)
  /-- minu (R285). -/
  | minu (d a b : Nat)
  /-- maxu (R285). -/
  | maxu (d a b : Nat)
  /-- abs (R285). -/
  | abs (d a : Nat)
  /-- neg (R285). -/
  | neg (d a : Nat)
  /-- mov (R286). -/
  | mov (d a : Nat)
  /-- cmov (R286). -/
  | cmov (d a b : Nat)
  /-- addi (R287). -/
  | addi (d a imm : Nat)
  /-- andi (R287). -/
  | andi (d a imm : Nat)
  /-- ori (R287). -/
  | ori (d a imm : Nat)
  /-- xori (R287). -/
  | xori (d a imm : Nat)
  /-- shli (R287). -/
  | shli (d a sh : Nat)
  /-- shri (R287). -/
  | shri (d a sh : Nat)
  /-- srai (R287). -/
  | srai (d a sh : Nat)
  /-- roli (R287). -/
  | roli (d a sh : Nat)
  /-- ceq (R288). -/
  | ceq (d a b : Nat)
  /-- cne (R288). -/
  | cne (d a b : Nat)
  /-- clt (R288). -/
  | clt (d a b : Nat)
  /-- cle (R288). -/
  | cle (d a b : Nat)
  /-- cltu (R288). -/
  | cltu (d a b : Nat)
  /-- cleu (R288). -/
  | cleu (d a b : Nat)
  /-- ceqi (R288). -/
  | ceqi (d a imm : Nat)
  /-- cnei (R288). -/
  | cnei (d a imm : Nat)
  /-- clti (R288). -/
  | clti (d a imm : Nat)
  /-- cltui (R288). -/
  | cltui (d a imm : Nat)
  /-- mul (R289). -/
  | mul (d a b : Nat)
  /-- mulh (R289). -/
  | mulh (d a b : Nat)
  /-- mulhu (R289). -/
  | mulhu (d a b : Nat)
  /-- div (R289). -/
  | div (d a b : Nat)
  /-- divu (R289). -/
  | divu (d a b : Nat)
  /-- rem (R289). -/
  | rem (d a b : Nat)
  /-- remu (R289). -/
  | remu (d a b : Nat)
  /-- sethi (R290). -/
  | sethi (d imm : Nat)
  /-- addpc (R290). -/
  | addpc (d imm : Nat)
  /-- clz (R291). -/
  | clz (d a : Nat)
  /-- ctz (R291). -/
  | ctz (d a : Nat)
  /-- popc (R291). -/
  | popc (d a : Nat)
  /-- brev (R291). -/
  | brev (d a : Nat)
  /-- bext (R291). -/
  | bext (d a b : Nat)
  /-- bins (R291). -/
  | bins (d a b : Nat)
  /-- mapld (R292). -/
  | mapld (a imm : Nat)
  /-- resz (R293). -/
  | resz (d kind wd : Nat)
  /-- wqry (R294). -/
  | wqry (d sel nm : Nat)
  /-- pol (R295). -/
  | pol (d pcy : Nat)
  /-- cvt (R296). -/
  | cvt (d a : Nat)
  /-- pack (R297). -/
  | pack (d a : Nat)
  /-- unpk (R298). -/
  | unpk (d a pl : Nat)
  /-- fadd (R311). -/
  | fadd (d a b : Nat)
  /-- fsub (R311). -/
  | fsub (d a b : Nat)
  /-- fmul (R311). -/
  | fmul (d a b : Nat)
  /-- fmin (R312). -/
  | fmin (d a b : Nat)
  /-- fmax (R312). -/
  | fmax (d a b : Nat)
  /-- fabs (R313). -/
  | fabs (d a : Nat)
  /-- fneg (R313). -/
  | fneg (d a : Nat)
  /-- fceq (R314). -/
  | fceq (d a b : Nat)
  /-- fclt (R314). -/
  | fclt (d a b : Nat)
  /-- fcle (R314). -/
  | fcle (d a b : Nat)
  /-- fclass (R315). -/
  | fclass (d a : Nat)
  /-- fma (R311). -/
  | fma (d a b : Nat)
  /-- fnma (R311). -/
  | fnma (d a b : Nat)
  /-- fexp2 (R316). -/
  | fexp2 (d a : Nat)
  /-- flog2 (R316). -/
  | flog2 (d a : Nat)
  /-- frcp (R316). -/
  | frcp (d a : Nat)
  /-- frsq (R316). -/
  | frsq (d a : Nat)
  /-- fsqrt (R316). -/
  | fsqrt (d a : Nat)
  /-- rsum (R317). -/
  | rsum (d a : Nat)
  /-- rmax (R317). -/
  | rmax (d a : Nat)
  /-- rmin (R317). -/
  | rmin (d a : Nat)
  /-- rmaxi (R317). -/
  | rmaxi (d a : Nat)
  /-- rmini (R317). -/
  | rmini (d a : Nat)
  /-- rall (R317). -/
  | rall (d a : Nat)
  /-- rany (R317). -/
  | rany (d a : Nat)
  /-- rfsum (R318). -/
  | rfsum (d a : Nat)
  /-- rfmax (R317). -/
  | rfmax (d a : Nat)
  /-- rfmaxi (R317). -/
  | rfmaxi (d a : Nat)
  /-- vperm (R319). -/
  | vperm (d a b : Nat)
  /-- vshuf (R319). -/
  | vshuf (d a b : Nat)
  /-- vlane (R319). -/
  | vlane (d a b : Nat)
  /-- vins (R319). -/
  | vins (d a b : Nat)
  /-- vidx (R319). -/
  | vidx (d a : Nat)
  /-- vcomp (R319). -/
  | vcomp (d a b : Nat)
  /-- vtopk (R327). -/
  | vtopk (d a b : Nat)
  /-- vsmax (R325). -/
  | vsmax (d a b : Nat)
  /-- vsoft (R325). -/
  | vsoft (d a b : Nat)
  /-- vsamp (R326). -/
  | vsamp (d a b : Nat)
  /-- vscan (R328). -/
  | vscan (d a b : Nat)
  /-- rng (R329). -/
  | rng (d a b : Nat)
  /-- bt (R300). -/
  | bt (c disp : Nat)
  /-- bf (R300). -/
  | bf (c disp : Nat)
  /-- call (R304). -/
  | call (disp : Nat)
  /-- jmp (R301). -/
  | jmp (disp : Nat)
  /-- jr (R302). -/
  | jr (c : Nat)
  /-- callr (R304). -/
  | callr (c : Nat)
  /-- ret (R305). -/
  | ret
  /-- dbnz (R303). -/
  | dbnz (c disp : Nat)
  /-- ld (R334). -/
  | ld (d a sz off : Nat)
  /-- st (R334). -/
  | st (d a sz off : Nat)
  /-- ldv (R334). -/
  | ldv (d a sz off : Nat)
  /-- stv (R334). -/
  | stv (d a sz off : Nat)
  /-- ldx (R335). -/
  | ldx (d a sz off : Nat)
  /-- ldxv (R335). -/
  | ldxv (d a sz off : Nat)
  /-- stx (R335). -/
  | stx (d a sz off : Nat)
  /-- stxv (R335). -/
  | stxv (d a sz off : Nat)
  /-- ldg (R335). -/
  | ldg (d a sz off : Nat)
  /-- stg (R335). -/
  | stg (d a sz off : Nat)
  /-- amo.add (R339). -/
  | amoAdd (d a b ord scope : Nat)
  /-- amo.and (R339). -/
  | amoAnd (d a b ord scope : Nat)
  /-- amo.or (R339). -/
  | amoOr (d a b ord scope : Nat)
  /-- amo.xor (R339). -/
  | amoXor (d a b ord scope : Nat)
  /-- amo.min (R339). -/
  | amoMin (d a b ord scope : Nat)
  /-- amo.max (R339). -/
  | amoMax (d a b ord scope : Nat)
  /-- amo.minu (R339). -/
  | amoMinu (d a b ord scope : Nat)
  /-- amo.maxu (R339). -/
  | amoMaxu (d a b ord scope : Nat)
  /-- amo.xchg (R339). -/
  | amoXchg (d a b ord scope : Nat)
  /-- amo.cas (R339). -/
  | amoCas (d a b ord scope : Nat)
  /-- amo.incw (R339). -/
  | amoIncw (d a b ord scope : Nat)
  /-- amo.bfa (R339). -/
  | amoBfa (d a b ord scope : Nat)
  /-- amo.ld (R339). -/
  | amoLd (d a ord scope : Nat)
  /-- amo.st (R339). -/
  | amoSt (a b ord scope : Nat)
  /-- fence (R340). -/
  | fence (ord scope : Nat)
  /-- aliasf (R340). -/
  | aliasf
  /-- fencec (R340). -/
  | fencec
  /-- bar.arr (R344). -/
  | barArr (d b : Nat)
  /-- bar.wait (R345). -/
  | barWait (a b : Nat)
  /-- bar.sync (R345). -/
  | barSync (b : Nat)
  /-- bar.cfg (R343). -/
  | barCfg (a b : Nat)
  /-- acqs (R346). -/
  | acqs (b : Nat)
  /-- rels (R346). -/
  | rels (b : Nat)
  /-- qput (R346). -/
  | qput (a b : Nat)
  /-- qget (R346). -/
  | qget (d b : Nat)
  /-- qtry (R346). -/
  | qtry (d b : Nat)
  /-- send (R348). -/
  | send (a b : Nat)
  /-- sendh (R348). -/
  | sendh (a b : Nat)
  /-- recv (R349). -/
  | recv (d a : Nat)
  /-- recvt (R349). -/
  | recvt (d a b : Nat)
  /-- waitw.l (R341). -/
  | waitwL (d a b : Nat)
  /-- waitw.x (R341). -/
  | waitwX (d a b : Nat)
  /-- lease (R350). -/
  | lease (a b : Nat)
  /-- lease.rel (R351). -/
  | leaseRel (b : Nat)
  /-- mma (R354). -/
  | mma (a b tile zi : Nat)
  /-- mmas (R354). -/
  | mmas (a b tile zi : Nat)
  /-- mzero (R357). -/
  | mzero (tile : Nat)
  /-- maccrd (R357). -/
  | maccrd (a tile : Nat)
  /-- maccwr (R357). -/
  | maccwr (a tile : Nat)
  /-- scacc (R358). -/
  | scacc (a tile src : Nat)
  /-- mldb (R360). -/
  | mldb (a b slot : Nat)
  /-- mldm (R360). -/
  | mldm (a b slot : Nat)
  /-- cpy (R365). -/
  | cpy (a : Nat)
  /-- qcpy (R365). -/
  | qcpy (a : Nat)
  /-- zcpy (R365). -/
  | zcpy (a : Nat)
  /-- xcpy (R365). -/
  | xcpy (a : Nat)
  /-- jstat (R367). -/
  | jstat (d a : Nat)
  /-- jcancel (R368). -/
  | jcancel (a : Nat)
  /-- spawn (R370). -/
  | spawn (a : Nat)
  /-- done (R371). -/
  | done
  /-- yield (R372). -/
  | yield
  /-- tidq (R373). -/
  | tidq (d b : Nat)
  /-- vtsend (R375). -/
  | vtsend (a b : Nat)
  /-- vtrecv (R376). -/
  | vtrecv (d a : Nat)
  /-- vtadv (R377). -/
  | vtadv (a : Nat)
  /-- vtann (R378). -/
  | vtann (a b : Nat)
  /-- vtnull (R377). -/
  | vtnull
  /-- vthor (R377). -/
  | vthor (d : Nat)
  /-- trap (R380). -/
  | trap (a b : Nat)
  /-- scall (R381). -/
  | scall (a b : Nat)
  /-- eret (R382). -/
  | eret (a : Nat)
  /-- cwr (R383). -/
  | cwr (d a b : Nat)
  /-- cww (R383). -/
  | cww (d a b : Nat)
  /-- snap (R385). -/
  | snap (d : Nat)
  /-- brk (R386). -/
  | brk (b : Nat)
  /-- halt (R382). -/
  | halt
  /-- A host write to a die's submission register enters its FIFO or is dropped (R43). Arguments: fn, die, val. -/
  | submissionWrite
  /-- The stewards handle the FIFO head entry, offering untaken records to the dispatcher (R44). Arguments: die. -/
  | submissionHandle
  /-- Queue command operation 1 sets the partition's queues pre-empting and starts the drain (R47). Arguments: fn, q. -/
  | queuePreempt
  /-- Queue command operation 2 resumes dispatch and restores saved contexts (R47). Arguments: fn, q. -/
  | queueResume
  /-- Queue command operation 3 takes the partition straight to rung 3 (R46). Arguments: fn, q. -/
  | queueAbort
  /-- A queue command with an undefined operation or reserved bits writes code 1 (R46). Arguments: fn, val. -/
  | queueCommandBadOp
  /-- Region command operation 1: function, RCB address, and the base the device takes for the dump area (R37). Arguments: fn, rcb, base. -/
  | regionActivate
  /-- Region command operation 2 validates and deactivates a region node (R37). Arguments: fn, rcb. -/
  | regionDeactivate
  /-- A region command with another operation fails with code 9 (R37). Arguments: fn, val. -/
  | regionCommandBadOp
  /-- A write to the snapshot trigger register fires the trigger network (R55). Arguments: fn, val. -/
  | snapshotTrigger
  /-- A firing has latched in every block and its number becomes the snapshot number (R55). -/
  | snapshotFiringComplete
  /-- A nonce written to the mailbox returns a signed reply with M0 to M3 (R57). Arguments: fn, nonce. -/
  | attestationRequest
  /-- PF0 sets the package power limit used from the next sample (R33). Arguments: fn, val. -/
  | powerLimitWrite
  /-- PF0 sets the access count at which home slices send migration notices (R33). Arguments: fn, val. -/
  | migrationThresholdWrite
  /-- A write to a register without behaviour of its own: master, register (a BAR0 offset below 4096, or a package offset of a debug block), value (R32). Arguments: master, off, val. -/
  | registerWriteOther
  /-- A write to a target's access table takes effect for later requests and extends M3 (R49). Arguments: master, off, val. -/
  | accessTableEdit
  /-- A host read of device space completes with data or Unsupported Request (R16). Arguments: fn, adr, len. -/
  | hostMemoryRead
  /-- A host write to device space is performed at .sys or discarded and counted (R167). Arguments: fn, adr, bytes. -/
  | hostMemoryWrite
  /-- Debug command 1 freezes the package through the trigger network (R242). Arguments: master, die. -/
  | debugFreeze
  /-- Debug command 2 resumes every frozen block where it stopped (R242). Arguments: master, die. -/
  | debugThaw
  /-- Debug command 3 stops one thread at its next instruction boundary (R240). Arguments: master, die, cid, slot. -/
  | debugStop
  /-- Debug command 4 resumes a stopped thread (R240). Arguments: master, die, cid, slot. -/
  | debugGo
  /-- Debug command 5 resumes a thread until one instruction retires (R240). Arguments: master, die, cid, slot. -/
  | debugStep
  /-- Package reset sets every register to its reset value and starts boot stage 1 (R4). -/
  | packageReset
  /-- The first-stage loader (image 0) or the steward, porter or power-controller image (1, 2, 3): its bytes, security version, whether its signature verifies, and the power limit the power-controller image sets (0 for none) (R56). Arguments: image, bytes, version, sigOk, limit. -/
  | firmwareImageVerify
  /-- The host link goes down while device work keeps running (R20). -/
  | hostLinkDown
  /-- The host link retrains and submissions resume (R20). -/
  | hostLinkRetrain
  /-- A CXL port trains to its rate and width (R18). Arguments: port, rate, width. -/
  | cxlPortTrain
  /-- Domain bring-up: the pairs of packages that a fabric link joins (a * 64 + b each) and the routing table (destination, first and second candidate port, 12 for none: destination * 256 + first * 16 + second) (R21). Arguments: joins, routes. -/
  | domainBringup
  /-- A fabric frame is received, checked by CRC-32C and retried at link level if damaged (R21). Arguments: port, crc, payload. -/
  | fabricFrameReceive
  /-- A fabric port loses a lane, goes down and moves its traffic to second candidates (R22). Arguments: port. -/
  | fabricLaneLoss
  /-- A fabric port comes up and posts a LINK event (R22). Arguments: port. -/
  | fabricPortUp
  /-- A die-crossing FIFO delivers a flit against an allowance (R25). Arguments: src, dst. -/
  | dieLinkFlitDeliver
  /-- One 10 us sample: package power, per die the power projected at the next higher step or admission limit, and per die the temperature (R30). Arguments: watts, projected, temps. -/
  | powerSample
  /-- At 115 C the package stops its clocks and reports a thermal trip (R30). Arguments: die. -/
  | thermalTrip
  /-- The supply reaches the new value and the PLL relock begins (R28). Arguments: die. -/
  | supplyRampUpDone
  /-- The PLL relock ends and the arithmetic clock restarts at the new step (R28). Arguments: die. -/
  | relockDone
  /-- The supply ramp down ends the step change, and a pending target starts another (R28). Arguments: die. -/
  | supplyRampDownDone
  /-- A die's stewards miss their 10 ms heartbeat and a steward restart begins (R45). Arguments: die. -/
  | stewardHeartbeatMiss
  /-- A PF0 command reloads the steward image on every core of one die (R45). Arguments: fn, die. -/
  | stewardRestartCommand
  /-- The restart ends and user threads resume where they were held (R45). Arguments: die. -/
  | stewardRestartDone
  /-- A patrol scrub reads one word of a unit and finds it clean (0), with a correctable (1) or an uncorrectable (2) error (R198). Arguments: unit, core, place, found. -/
  | patrolScrub
  /-- The lead dispatcher accepts an offered launch record when the live table has room (R62). Arguments: part, q. -/
  | recordAccept
  /-- A fence record completes once every earlier graph of its queue has completed (R40). Arguments: part, q. -/
  | fenceRecordRelease
  /-- A ready node is placed in a cluster's ready pool when it has room (R66). Arguments: part, app. -/
  | poolPlace
  /-- A dispatcher takes a node from its pool and begins to prepare it (R67). Arguments: cl. -/
  | nodeTake
  /-- A porter serves a residency request for one page, writing back pages if needed (R73). Arguments: cl. -/
  | porterResidency
  /-- A prepared node with its lease held starts its threads on a core that fits (R68). Arguments: cl, app. -/
  | nodeStart
  /-- A porter checks a lease request and replies into st (R76). Arguments: core, slot. -/
  | leaseServe
  /-- A porter handles a migration notice at the home slice and frees a queue entry (R79). Arguments: cl. -/
  | porterNoticeHandle
  /-- A page's copy to the requesting die ends; the leaf is rewritten and moving clears (R79). Arguments: page. -/
  | migrationCopyDone
  /-- Every 1 ms each home slice halves its access counters (R77). Arguments: die. -/
  | counterHalve
  /-- Every 20 us cluster stewards exchange loads and move ready nodes to lighter neighbours (R80). Arguments: cl. -/
  | loadBalance
  /-- A ready repeat node reads its predicate and decides to re-arm or complete (R82). Arguments: part, app. -/
  | repeatDecide
  /-- A waiting re-arm appends the graph's nodes once the live table has room (R82). Arguments: part, app. -/
  | repeatRearm
  /-- The lead dispatcher appends a spawned node and replies into st (R83). Arguments: core, slot. -/
  | spawnAppend
  /-- A task ends after its last done, stores and jobs; leases drop and successors are released (R75). Arguments: task. -/
  | taskEnd
  /-- An access outside the task's reach ends the task and aborts its graph (R196). Arguments: task. -/
  | taskExtentEnd
  /-- The steward serves a trap queue entry, resuming at the handler or making the trap fatal (R192). Arguments: core. -/
  | trapService
  /-- Once the cores have halted, the steward takes a free dump slot and starts the dump (R398). Arguments: part. -/
  | dumpBegin
  /-- The dump completes, the rung-3 reset runs and the FAULT event is posted (R200). Arguments: part. -/
  | dumpComplete
  /-- A fault taken by a steward while dumping truncates the dump and stops the package (R205). Arguments: core, cause. -/
  | deviceFatalFault
  /-- At T1 the partition's threads halt and the context save begins (R47). Arguments: part. -/
  | preemptT1Expire
  /-- The shadow moves and courier copies end and the partition reaches rung 2 (R207). Arguments: part. -/
  | saveComplete
  /-- At T2 without a finished save, the partition is reset at rung 3 (R47). Arguments: part. -/
  | preemptT2Expire
  /-- A load's data returns from the home slices and the thread retires (R336). Arguments: core, slot. -/
  | loadReturn
  /-- A posted store is performed at its home slice, or denied (R336). Arguments: core. -/
  | postedStorePerform
  /-- An atomic is performed at its unit and its old value returns (R339). Arguments: core, slot. -/
  | atomicPerform
  /-- Every 1 us during a stall the device reads rd and grants freed places (R211). Arguments: part. -/
  | logRdPoll
  /-- An operation waiting tmo ms at a source becomes a divergence (R223). Arguments: part, source. -/
  | replayTimeout
  /-- A waiting matrix instruction enters the engine when the previous one completes (R120). Arguments: core. -/
  | matrixStart
  /-- A matrix instruction writes its tiles and its thread becomes ready (R124). Arguments: core. -/
  | matrixComplete
  /-- An operand soft error abandons the instruction; the steward reloads and reissues it (R131). Arguments: core. -/
  | matrixSoftErrorRetry
  /-- A waiting stream instruction enters the stream unit (R323). Arguments: core. -/
  | streamStart
  /-- A stream instruction completes and writes its results (R323). Arguments: core. -/
  | streamComplete
  /-- The spill engine writes a frame's last word and the calling thread is released (R107). Arguments: core, slot. -/
  | frameSpillDone
  /-- The spill engine fills a frame back and ws rises (R108). Arguments: core, slot. -/
  | frameFillDone
  /-- A Yielding thread becomes Ready after 16 clocks (R372). Arguments: core, slot. -/
  | yieldEnd
  /-- A courier port accepts a card when it has room, tags its ranges and returns the tag (R365). Arguments: core, slot. -/
  | cardAccept
  /-- An eligible card takes a free courier channel (R133). Arguments: cl. -/
  | courierJobStart
  /-- A job ends: its number, the block at which a cancel stopped it, and one plus the block whose guard tag failed (0 for none) (R136). Arguments: job, stop, tagErr. -/
  | courierJobComplete
  /-- A written chunk and its predecessors set their valid bits in the ring (R142). Arguments: job. -/
  | xcpyChunkDeliver
  /-- A message reaches its core; it is named by its sender's core and slot (R117). Arguments: core, slot. -/
  | messageArrive
  /-- The reply to a send returns and is written to st (R348). Arguments: core, slot. -/
  | sendReply
  /-- A notice arrives at a refused sender's pigeonhole (R117). Arguments: core, slot. -/
  | contextFreeNotice
  /-- 4,096 clocks after a refusal with the list full, the sender's core gives it a notice (R117). Arguments: core, slot. -/
  | refusalSelfNotice
  /-- A recvt's timeout count expires and writes code 2 (R349). Arguments: core, slot. -/
  | recvtTimeout
  /-- A configured count reaches a barrier unit (R343). Arguments: unit, part, bar, count. -/
  | barrierCountArrive
  /-- An outward arrival sent by a core's completing thread reaches a barrier unit, which counts it and passes it on (R344). Arguments: unit, part, bar, core, slot. -/
  | barrierUnitArrival
  /-- The barrier line rises and each core completes the phase, releasing its waiters (R116). Arguments: part, bar, core. -/
  | barrierLineRise
  /-- An in-neighbour registers the declaring core as an out-neighbour (R226). Arguments: core, slot, nbr. -/
  | vtNeighbourRegister
  /-- A stamped event arrives; it is named by its sender's core and slot (R229). Arguments: core, slot. -/
  | vtEventArrive
  /-- A milestone or null event raises a published clock and the horizon (R228). Arguments: core, dst, stamp. -/
  | vtMilestoneArrive
  /-- After 1,024 blocked clocks with no issue the core raises vt and sends null events (R231). Arguments: core. -/
  | vtNullCountExpire
  /-- The steward's 10 ms heartbeat falls due, which wakes a steward held in halt so that it can give its heartbeat (R382). Arguments: die. -/
  | stewardHeartbeatDue
  deriving DecidableEq, Repr

end Sys2Proof
end

