-- ==== Sys2Proof/WellFormed.lean ====
section
/-!
DEFINITION. Which terms of Instr a word of the instruction set can hold: every field within the bits its format gives it
(R268, R270). A step of another agent holds no field.
-/

namespace Sys2Proof

/-- Every field of the instruction fits the bits its encoding gives it (R268, R270). -/
def Instr.fieldsFit : Instr → Bool
  | .hintImm hi => decide (hi < 4194304)
  | .hintMod rm wsize => decide (rm < 8) && decide (wsize < 2)
  | .hintMma stride => decide (stride < 32768)
  | .hintScope scope ord keep => decide (scope < 4) && decide (ord < 4) && decide (keep < 4)
  | .add d a b => decide (d < 64) && decide (a < 64) && decide (b < 64)
  | .sub d a b => decide (d < 64) && decide (a < 64) && decide (b < 64)
  | .and d a b => decide (d < 64) && decide (a < 64) && decide (b < 64)
  | .or d a b => decide (d < 64) && decide (a < 64) && decide (b < 64)
  | .xor d a b => decide (d < 64) && decide (a < 64) && decide (b < 64)
  | .andn d a b => decide (d < 64) && decide (a < 64) && decide (b < 64)
  | .orn d a b => decide (d < 64) && decide (a < 64) && decide (b < 64)
  | .shl d a b => decide (d < 64) && decide (a < 64) && decide (b < 64)
  | .shr d a b => decide (d < 64) && decide (a < 64) && decide (b < 64)
  | .sra d a b => decide (d < 64) && decide (a < 64) && decide (b < 64)
  | .rol d a b => decide (d < 64) && decide (a < 64) && decide (b < 64)
  | .min d a b => decide (d < 64) && decide (a < 64) && decide (b < 64)
  | .max d a b => decide (d < 64) && decide (a < 64) && decide (b < 64)
  | .minu d a b => decide (d < 64) && decide (a < 64) && decide (b < 64)
  | .maxu d a b => decide (d < 64) && decide (a < 64) && decide (b < 64)
  | .abs d a => decide (d < 64) && decide (a < 64)
  | .neg d a => decide (d < 64) && decide (a < 64)
  | .mov d a => decide (d < 64) && decide (a < 64)
  | .cmov d a b => decide (d < 64) && decide (a < 64) && decide (b < 64)
  | .addi d a imm => decide (d < 64) && decide (a < 64) && decide (imm < 4096)
  | .andi d a imm => decide (d < 64) && decide (a < 64) && decide (imm < 4096)
  | .ori d a imm => decide (d < 64) && decide (a < 64) && decide (imm < 4096)
  | .xori d a imm => decide (d < 64) && decide (a < 64) && decide (imm < 4096)
  | .shli d a sh => decide (d < 64) && decide (a < 64) && decide (sh < 64)
  | .shri d a sh => decide (d < 64) && decide (a < 64) && decide (sh < 64)
  | .srai d a sh => decide (d < 64) && decide (a < 64) && decide (sh < 64)
  | .roli d a sh => decide (d < 64) && decide (a < 64) && decide (sh < 64)
  | .ceq d a b => decide (d < 64) && decide (a < 64) && decide (b < 64)
  | .cne d a b => decide (d < 64) && decide (a < 64) && decide (b < 64)
  | .clt d a b => decide (d < 64) && decide (a < 64) && decide (b < 64)
  | .cle d a b => decide (d < 64) && decide (a < 64) && decide (b < 64)
  | .cltu d a b => decide (d < 64) && decide (a < 64) && decide (b < 64)
  | .cleu d a b => decide (d < 64) && decide (a < 64) && decide (b < 64)
  | .ceqi d a imm => decide (d < 64) && decide (a < 64) && decide (imm < 4096)
  | .cnei d a imm => decide (d < 64) && decide (a < 64) && decide (imm < 4096)
  | .clti d a imm => decide (d < 64) && decide (a < 64) && decide (imm < 4096)
  | .cltui d a imm => decide (d < 64) && decide (a < 64) && decide (imm < 4096)
  | .mul d a b => decide (d < 64) && decide (a < 64) && decide (b < 64)
  | .mulh d a b => decide (d < 64) && decide (a < 64) && decide (b < 64)
  | .mulhu d a b => decide (d < 64) && decide (a < 64) && decide (b < 64)
  | .div d a b => decide (d < 64) && decide (a < 64) && decide (b < 64)
  | .divu d a b => decide (d < 64) && decide (a < 64) && decide (b < 64)
  | .rem d a b => decide (d < 64) && decide (a < 64) && decide (b < 64)
  | .remu d a b => decide (d < 64) && decide (a < 64) && decide (b < 64)
  | .sethi d imm => decide (d < 64) && decide (imm < 1048576)
  | .addpc d imm => decide (d < 64) && decide (imm < 1048576)
  | .clz d a => decide (d < 64) && decide (a < 64)
  | .ctz d a => decide (d < 64) && decide (a < 64)
  | .popc d a => decide (d < 64) && decide (a < 64)
  | .brev d a => decide (d < 64) && decide (a < 64)
  | .bext d a b => decide (d < 64) && decide (a < 64) && decide (b < 64)
  | .bins d a b => decide (d < 64) && decide (a < 64) && decide (b < 64)
  | .mapld a imm => decide (a < 64) && decide (imm < 4096)
  | .resz d kind wd => decide (d < 64) && decide (kind < 16) && decide (wd < 64)
  | .wqry d sel nm => decide (d < 64) && decide (sel < 4) && decide (nm < 64)
  | .pol d pcy => decide (d < 64) && decide (pcy < 4)
  | .cvt d a => decide (d < 64) && decide (a < 64)
  | .pack d a => decide (d < 64) && decide (a < 64)
  | .unpk d a pl => decide (d < 64) && decide (a < 64) && decide (pl < 64)
  | .fadd d a b => decide (d < 64) && decide (a < 64) && decide (b < 64)
  | .fsub d a b => decide (d < 64) && decide (a < 64) && decide (b < 64)
  | .fmul d a b => decide (d < 64) && decide (a < 64) && decide (b < 64)
  | .fmin d a b => decide (d < 64) && decide (a < 64) && decide (b < 64)
  | .fmax d a b => decide (d < 64) && decide (a < 64) && decide (b < 64)
  | .fabs d a => decide (d < 64) && decide (a < 64)
  | .fneg d a => decide (d < 64) && decide (a < 64)
  | .fceq d a b => decide (d < 64) && decide (a < 64) && decide (b < 64)
  | .fclt d a b => decide (d < 64) && decide (a < 64) && decide (b < 64)
  | .fcle d a b => decide (d < 64) && decide (a < 64) && decide (b < 64)
  | .fclass d a => decide (d < 64) && decide (a < 64)
  | .fma d a b => decide (d < 64) && decide (a < 64) && decide (b < 64)
  | .fnma d a b => decide (d < 64) && decide (a < 64) && decide (b < 64)
  | .fexp2 d a => decide (d < 64) && decide (a < 64)
  | .flog2 d a => decide (d < 64) && decide (a < 64)
  | .frcp d a => decide (d < 64) && decide (a < 64)
  | .frsq d a => decide (d < 64) && decide (a < 64)
  | .fsqrt d a => decide (d < 64) && decide (a < 64)
  | .rsum d a => decide (d < 64) && decide (a < 64)
  | .rmax d a => decide (d < 64) && decide (a < 64)
  | .rmin d a => decide (d < 64) && decide (a < 64)
  | .rmaxi d a => decide (d < 64) && decide (a < 64)
  | .rmini d a => decide (d < 64) && decide (a < 64)
  | .rall d a => decide (d < 64) && decide (a < 64)
  | .rany d a => decide (d < 64) && decide (a < 64)
  | .rfsum d a => decide (d < 64) && decide (a < 64)
  | .rfmax d a => decide (d < 64) && decide (a < 64)
  | .rfmaxi d a => decide (d < 64) && decide (a < 64)
  | .vperm d a b => decide (d < 64) && decide (a < 64) && decide (b < 64)
  | .vshuf d a b => decide (d < 64) && decide (a < 64) && decide (b < 64)
  | .vlane d a b => decide (d < 64) && decide (a < 64) && decide (b < 64)
  | .vins d a b => decide (d < 64) && decide (a < 64) && decide (b < 64)
  | .vidx d a => decide (d < 64) && decide (a < 64)
  | .vcomp d a b => decide (d < 64) && decide (a < 64) && decide (b < 64)
  | .vtopk d a b => decide (d < 64) && decide (a < 64) && decide (b < 64)
  | .vsmax d a b => decide (d < 64) && decide (a < 64) && decide (b < 64)
  | .vsoft d a b => decide (d < 64) && decide (a < 64) && decide (b < 64)
  | .vsamp d a b => decide (d < 64) && decide (a < 64) && decide (b < 64)
  | .vscan d a b => decide (d < 64) && decide (a < 64) && decide (b < 64)
  | .rng d a b => decide (d < 64) && decide (a < 64) && decide (b < 64)
  | .bt c disp => decide (c < 64) && decide (disp < 524288)
  | .bf c disp => decide (c < 64) && decide (disp < 524288)
  | .call disp => decide (disp < 67108864)
  | .jmp disp => decide (disp < 67108864)
  | .jr c => decide (c < 64)
  | .callr c => decide (c < 64)
  | .ret => true
  | .dbnz c disp => decide (c < 64) && decide (disp < 262144)
  | .ld d a sz off => decide (d < 64) && decide (a < 64) && decide (sz < 4) && decide (off < 2048)
  | .st d a sz off => decide (d < 64) && decide (a < 64) && decide (sz < 4) && decide (off < 2048)
  | .ldv d a sz off => decide (d < 64) && decide (a < 64) && decide (sz < 4) && decide (off < 2048)
  | .stv d a sz off => decide (d < 64) && decide (a < 64) && decide (sz < 4) && decide (off < 2048)
  | .ldx d a sz off => decide (d < 64) && decide (a < 64) && decide (sz < 4) && decide (off < 2048)
  | .ldxv d a sz off => decide (d < 64) && decide (a < 64) && decide (sz < 4) && decide (off < 2048)
  | .stx d a sz off => decide (d < 64) && decide (a < 64) && decide (sz < 4) && decide (off < 2048)
  | .stxv d a sz off => decide (d < 64) && decide (a < 64) && decide (sz < 4) && decide (off < 2048)
  | .ldg d a sz off => decide (d < 64) && decide (a < 64) && decide (sz < 4) && decide (off < 2048)
  | .stg d a sz off => decide (d < 64) && decide (a < 64) && decide (sz < 4) && decide (off < 2048)
  | .amoAdd d a b ord scope => decide (d < 64) && decide (a < 64) && decide (b < 64) && decide (ord < 4) && decide (scope < 4)
  | .amoAnd d a b ord scope => decide (d < 64) && decide (a < 64) && decide (b < 64) && decide (ord < 4) && decide (scope < 4)
  | .amoOr d a b ord scope => decide (d < 64) && decide (a < 64) && decide (b < 64) && decide (ord < 4) && decide (scope < 4)
  | .amoXor d a b ord scope => decide (d < 64) && decide (a < 64) && decide (b < 64) && decide (ord < 4) && decide (scope < 4)
  | .amoMin d a b ord scope => decide (d < 64) && decide (a < 64) && decide (b < 64) && decide (ord < 4) && decide (scope < 4)
  | .amoMax d a b ord scope => decide (d < 64) && decide (a < 64) && decide (b < 64) && decide (ord < 4) && decide (scope < 4)
  | .amoMinu d a b ord scope => decide (d < 64) && decide (a < 64) && decide (b < 64) && decide (ord < 4) && decide (scope < 4)
  | .amoMaxu d a b ord scope => decide (d < 64) && decide (a < 64) && decide (b < 64) && decide (ord < 4) && decide (scope < 4)
  | .amoXchg d a b ord scope => decide (d < 64) && decide (a < 64) && decide (b < 64) && decide (ord < 4) && decide (scope < 4)
  | .amoCas d a b ord scope => decide (d < 64) && decide (a < 64) && decide (b < 64) && decide (ord < 4) && decide (scope < 4)
  | .amoIncw d a b ord scope => decide (d < 64) && decide (a < 64) && decide (b < 64) && decide (ord < 4) && decide (scope < 4)
  | .amoBfa d a b ord scope => decide (d < 64) && decide (a < 64) && decide (b < 64) && decide (ord < 4) && decide (scope < 4)
  | .amoLd d a ord scope => decide (d < 64) && decide (a < 64) && decide (ord < 4) && decide (scope < 4)
  | .amoSt a b ord scope => decide (a < 64) && decide (b < 64) && decide (ord < 4) && decide (scope < 4)
  | .fence ord scope => decide (ord < 4) && decide (scope < 4)
  | .aliasf => true
  | .fencec => true
  | .barArr d b => decide (d < 64) && decide (b < 64)
  | .barWait a b => decide (a < 64) && decide (b < 64)
  | .barSync b => decide (b < 64)
  | .barCfg a b => decide (a < 64) && decide (b < 64)
  | .acqs b => decide (b < 64)
  | .rels b => decide (b < 64)
  | .qput a b => decide (a < 64) && decide (b < 64)
  | .qget d b => decide (d < 64) && decide (b < 64)
  | .qtry d b => decide (d < 64) && decide (b < 64)
  | .send a b => decide (a < 64) && decide (b < 64)
  | .sendh a b => decide (a < 64) && decide (b < 64)
  | .recv d a => decide (d < 64) && decide (a < 64)
  | .recvt d a b => decide (d < 64) && decide (a < 64) && decide (b < 64)
  | .waitwL d a b => decide (d < 64) && decide (a < 64) && decide (b < 64)
  | .waitwX d a b => decide (d < 64) && decide (a < 64) && decide (b < 64)
  | .lease a b => decide (a < 64) && decide (b < 64)
  | .leaseRel b => decide (b < 64)
  | .mma a b tile zi => decide (a < 64) && decide (b < 64) && decide (tile < 128) && decide (zi < 2)
  | .mmas a b tile zi => decide (a < 64) && decide (b < 64) && decide (tile < 128) && decide (zi < 2)
  | .mzero tile => decide (tile < 128)
  | .maccrd a tile => decide (a < 64) && decide (tile < 128)
  | .maccwr a tile => decide (a < 64) && decide (tile < 128)
  | .scacc a tile src => decide (a < 64) && decide (tile < 128) && decide (src < 128)
  | .mldb a b slot => decide (a < 64) && decide (b < 64) && decide (slot < 16)
  | .mldm a b slot => decide (a < 64) && decide (b < 64) && decide (slot < 16)
  | .cpy a => decide (a < 64)
  | .qcpy a => decide (a < 64)
  | .zcpy a => decide (a < 64)
  | .xcpy a => decide (a < 64)
  | .jstat d a => decide (d < 64) && decide (a < 64)
  | .jcancel a => decide (a < 64)
  | .spawn a => decide (a < 64)
  | .done => true
  | .yield => true
  | .tidq d b => decide (d < 64) && decide (b < 64)
  | .vtsend a b => decide (a < 64) && decide (b < 64)
  | .vtrecv d a => decide (d < 64) && decide (a < 64)
  | .vtadv a => decide (a < 64)
  | .vtann a b => decide (a < 64) && decide (b < 64)
  | .vtnull => true
  | .vthor d => decide (d < 64)
  | .trap a b => decide (a < 64) && decide (b < 64)
  | .scall a b => decide (a < 64) && decide (b < 64)
  | .eret a => decide (a < 64)
  | .cwr d a b => decide (d < 64) && decide (a < 64) && decide (b < 64)
  | .cww d a b => decide (d < 64) && decide (a < 64) && decide (b < 64)
  | .snap d => decide (d < 64)
  | .brk b => decide (b < 64)
  | .halt => true
  | .submissionWrite => true
  | .submissionHandle => true
  | .queuePreempt => true
  | .queueResume => true
  | .queueAbort => true
  | .queueCommandBadOp => true
  | .regionActivate => true
  | .regionDeactivate => true
  | .regionCommandBadOp => true
  | .snapshotTrigger => true
  | .snapshotFiringComplete => true
  | .attestationRequest => true
  | .powerLimitWrite => true
  | .migrationThresholdWrite => true
  | .registerWriteOther => true
  | .accessTableEdit => true
  | .hostMemoryRead => true
  | .hostMemoryWrite => true
  | .debugFreeze => true
  | .debugThaw => true
  | .debugStop => true
  | .debugGo => true
  | .debugStep => true
  | .packageReset => true
  | .firmwareImageVerify => true
  | .hostLinkDown => true
  | .hostLinkRetrain => true
  | .cxlPortTrain => true
  | .domainBringup => true
  | .fabricFrameReceive => true
  | .fabricLaneLoss => true
  | .fabricPortUp => true
  | .dieLinkFlitDeliver => true
  | .powerSample => true
  | .thermalTrip => true
  | .supplyRampUpDone => true
  | .relockDone => true
  | .supplyRampDownDone => true
  | .stewardHeartbeatMiss => true
  | .stewardRestartCommand => true
  | .stewardRestartDone => true
  | .patrolScrub => true
  | .recordAccept => true
  | .fenceRecordRelease => true
  | .poolPlace => true
  | .nodeTake => true
  | .porterResidency => true
  | .nodeStart => true
  | .leaseServe => true
  | .porterNoticeHandle => true
  | .migrationCopyDone => true
  | .counterHalve => true
  | .loadBalance => true
  | .repeatDecide => true
  | .repeatRearm => true
  | .spawnAppend => true
  | .taskEnd => true
  | .taskExtentEnd => true
  | .trapService => true
  | .dumpBegin => true
  | .dumpComplete => true
  | .deviceFatalFault => true
  | .preemptT1Expire => true
  | .saveComplete => true
  | .preemptT2Expire => true
  | .loadReturn => true
  | .postedStorePerform => true
  | .atomicPerform => true
  | .logRdPoll => true
  | .replayTimeout => true
  | .matrixStart => true
  | .matrixComplete => true
  | .matrixSoftErrorRetry => true
  | .streamStart => true
  | .streamComplete => true
  | .frameSpillDone => true
  | .frameFillDone => true
  | .yieldEnd => true
  | .cardAccept => true
  | .courierJobStart => true
  | .courierJobComplete => true
  | .xcpyChunkDeliver => true
  | .messageArrive => true
  | .sendReply => true
  | .contextFreeNotice => true
  | .refusalSelfNotice => true
  | .recvtTimeout => true
  | .barrierCountArrive => true
  | .barrierUnitArrival => true
  | .barrierLineRise => true
  | .vtNeighbourRegister => true
  | .vtEventArrive => true
  | .vtMilestoneArrive => true
  | .vtNullCountExpire => true
  | .stewardHeartbeatDue => true

/-- A well-formed instruction or step. -/
def Instr.wf (i : Instr) : Prop := i.fieldsFit = true

end Sys2Proof
end

