-- ==== Sys2Proof/Decode.lean ====
section
/-!
DEFINITION. The decoder, total on any bytes, and the encoder written from the same formats. A word that the map of R273
does not define is rejected by name: an undefined major, an undefined selector value, or a reserved field that is not
zero (R272). Operand values that a row's own description calls undefined are rejected by the meaning (R280, step 1).
-/

namespace Sys2Proof

/-- Why bytes are no instruction. -/
inductive DecodeError where
  /-- Fewer than four bytes. -/
  | truncated
  /-- A major opcode absent from R273. -/
  | major
  /-- A selector value that R273 does not list for its major. -/
  | selector
  /-- A reserved field that is not zero (R272). -/
  | reserved
  deriving DecidableEq, Repr

/-- Major 0x0 of R273. -/
def decodeHint (w : Nat) : Except DecodeError Instr :=
  match w / 4194304 % 16 with
  | 1 => .ok (.hintImm (w % 4194304))
  | 2 => if w % 262144 = 0 then .ok (.hintMod (w / 524288 % 8) (w / 262144 % 2)) else .error .reserved
  | 3 => if w % 64 = 0 ∧ w / 2097152 % 2 = 0 then .ok (.hintMma (w / 64 % 32768)) else .error .reserved
  | 4 => if w % 65536 = 0 then .ok (.hintScope (w / 1048576 % 4) (w / 262144 % 4) (w / 65536 % 4)) else .error .reserved
  | _ => .error .selector

/-- Major 0x1 of R273. -/
def decodeAluR (w : Nat) : Except DecodeError Instr :=
  match w % 256 with
  | 0 => .ok (.add (w / 1048576 % 64) (w / 16384 % 64) (w / 256 % 64))
  | 1 => .ok (.sub (w / 1048576 % 64) (w / 16384 % 64) (w / 256 % 64))
  | 2 => .ok (.and (w / 1048576 % 64) (w / 16384 % 64) (w / 256 % 64))
  | 3 => .ok (.or (w / 1048576 % 64) (w / 16384 % 64) (w / 256 % 64))
  | 4 => .ok (.xor (w / 1048576 % 64) (w / 16384 % 64) (w / 256 % 64))
  | 5 => .ok (.andn (w / 1048576 % 64) (w / 16384 % 64) (w / 256 % 64))
  | 6 => .ok (.orn (w / 1048576 % 64) (w / 16384 % 64) (w / 256 % 64))
  | 7 => .ok (.shl (w / 1048576 % 64) (w / 16384 % 64) (w / 256 % 64))
  | 8 => .ok (.shr (w / 1048576 % 64) (w / 16384 % 64) (w / 256 % 64))
  | 9 => .ok (.sra (w / 1048576 % 64) (w / 16384 % 64) (w / 256 % 64))
  | 10 => .ok (.rol (w / 1048576 % 64) (w / 16384 % 64) (w / 256 % 64))
  | 11 => .ok (.min (w / 1048576 % 64) (w / 16384 % 64) (w / 256 % 64))
  | 12 => .ok (.max (w / 1048576 % 64) (w / 16384 % 64) (w / 256 % 64))
  | 13 => .ok (.minu (w / 1048576 % 64) (w / 16384 % 64) (w / 256 % 64))
  | 14 => .ok (.maxu (w / 1048576 % 64) (w / 16384 % 64) (w / 256 % 64))
  | 15 => if w / 256 % 64 = 0 then .ok (.abs (w / 1048576 % 64) (w / 16384 % 64)) else .error .reserved
  | 16 => if w / 256 % 64 = 0 then .ok (.neg (w / 1048576 % 64) (w / 16384 % 64)) else .error .reserved
  | 17 => if w / 256 % 64 = 0 then .ok (.mov (w / 1048576 % 64) (w / 16384 % 64)) else .error .reserved
  | 18 => .ok (.cmov (w / 1048576 % 64) (w / 16384 % 64) (w / 256 % 64))
  | _ => .error .selector

/-- Major 0x2 of R273. -/
def decodeAluI (w : Nat) : Except DecodeError Instr :=
  match w / 4096 % 4 with
  | 0 => .ok (.addi (w / 1048576 % 64) (w / 16384 % 64) (w % 4096))
  | 1 => .ok (.andi (w / 1048576 % 64) (w / 16384 % 64) (w % 4096))
  | 2 => .ok (.ori (w / 1048576 % 64) (w / 16384 % 64) (w % 4096))
  | 3 => .ok (.xori (w / 1048576 % 64) (w / 16384 % 64) (w % 4096))
  | _ => .error .selector

/-- Major 0x3 of R273. -/
def decodeShiftI (w : Nat) : Except DecodeError Instr :=
  match w / 4096 % 4 with
  | 0 => if w / 64 % 64 = 0 then .ok (.shli (w / 1048576 % 64) (w / 16384 % 64) (w % 64)) else .error .reserved
  | 1 => if w / 64 % 64 = 0 then .ok (.shri (w / 1048576 % 64) (w / 16384 % 64) (w % 64)) else .error .reserved
  | 2 => if w / 64 % 64 = 0 then .ok (.srai (w / 1048576 % 64) (w / 16384 % 64) (w % 64)) else .error .reserved
  | 3 => if w / 64 % 64 = 0 then .ok (.roli (w / 1048576 % 64) (w / 16384 % 64) (w % 64)) else .error .reserved
  | _ => .error .selector

/-- Major 0x4 of R273. -/
def decodeCmpR (w : Nat) : Except DecodeError Instr :=
  match w % 256 with
  | 0 => .ok (.ceq (w / 1048576 % 64) (w / 16384 % 64) (w / 256 % 64))
  | 1 => .ok (.cne (w / 1048576 % 64) (w / 16384 % 64) (w / 256 % 64))
  | 2 => .ok (.clt (w / 1048576 % 64) (w / 16384 % 64) (w / 256 % 64))
  | 3 => .ok (.cle (w / 1048576 % 64) (w / 16384 % 64) (w / 256 % 64))
  | 4 => .ok (.cltu (w / 1048576 % 64) (w / 16384 % 64) (w / 256 % 64))
  | 5 => .ok (.cleu (w / 1048576 % 64) (w / 16384 % 64) (w / 256 % 64))
  | _ => .error .selector

/-- Major 0x5 of R273. -/
def decodeCmpI (w : Nat) : Except DecodeError Instr :=
  match w / 4096 % 4 with
  | 0 => .ok (.ceqi (w / 1048576 % 64) (w / 16384 % 64) (w % 4096))
  | 1 => .ok (.cnei (w / 1048576 % 64) (w / 16384 % 64) (w % 4096))
  | 2 => .ok (.clti (w / 1048576 % 64) (w / 16384 % 64) (w % 4096))
  | 3 => .ok (.cltui (w / 1048576 % 64) (w / 16384 % 64) (w % 4096))
  | _ => .error .selector

/-- Major 0x6 of R273. -/
def decodeMul (w : Nat) : Except DecodeError Instr :=
  match w % 256 with
  | 0 => .ok (.mul (w / 1048576 % 64) (w / 16384 % 64) (w / 256 % 64))
  | 1 => .ok (.mulh (w / 1048576 % 64) (w / 16384 % 64) (w / 256 % 64))
  | 2 => .ok (.mulhu (w / 1048576 % 64) (w / 16384 % 64) (w / 256 % 64))
  | 3 => .ok (.div (w / 1048576 % 64) (w / 16384 % 64) (w / 256 % 64))
  | 4 => .ok (.divu (w / 1048576 % 64) (w / 16384 % 64) (w / 256 % 64))
  | 5 => .ok (.rem (w / 1048576 % 64) (w / 16384 % 64) (w / 256 % 64))
  | 6 => .ok (.remu (w / 1048576 % 64) (w / 16384 % 64) (w / 256 % 64))
  | _ => .error .selector

/-- Major 0x7 of R273. -/
def decodeSethi (w : Nat) : Except DecodeError Instr :=
  .ok (.sethi (w / 1048576 % 64) (w % 1048576))

/-- Major 0x8 of R273. -/
def decodeAddpc (w : Nat) : Except DecodeError Instr :=
  .ok (.addpc (w / 1048576 % 64) (w % 1048576))

/-- Major 0x9 of R273. -/
def decodeBits (w : Nat) : Except DecodeError Instr :=
  match w % 256 with
  | 0 => if w / 256 % 64 = 0 then .ok (.clz (w / 1048576 % 64) (w / 16384 % 64)) else .error .reserved
  | 1 => if w / 256 % 64 = 0 then .ok (.ctz (w / 1048576 % 64) (w / 16384 % 64)) else .error .reserved
  | 2 => if w / 256 % 64 = 0 then .ok (.popc (w / 1048576 % 64) (w / 16384 % 64)) else .error .reserved
  | 3 => if w / 256 % 64 = 0 then .ok (.brev (w / 1048576 % 64) (w / 16384 % 64)) else .error .reserved
  | 4 => .ok (.bext (w / 1048576 % 64) (w / 16384 % 64) (w / 256 % 64))
  | 5 => .ok (.bins (w / 1048576 % 64) (w / 16384 % 64) (w / 256 % 64))
  | _ => .error .selector

/-- Major 0xa of R273. -/
def decodePattern (w : Nat) : Except DecodeError Instr :=
  match w / 4096 % 4 with
  | 0 => if w / 1048576 % 64 = 0 then .ok (.mapld (w / 16384 % 64) (w % 4096)) else .error .reserved
  | 1 => if w / 1024 % 4 = 0 ∧ w / 16384 % 64 = 0 then .ok (.resz (w / 1048576 % 64) (w / 64 % 16) (w % 64)) else .error .reserved
  | 2 => if w / 256 % 16 = 0 ∧ w / 16384 % 64 = 0 then .ok (.wqry (w / 1048576 % 64) (w / 64 % 4) (w % 64)) else .error .reserved
  | 3 => if w / 4 % 1024 = 0 ∧ w / 16384 % 64 = 0 then .ok (.pol (w / 1048576 % 64) (w % 4)) else .error .reserved
  | _ => .error .selector

/-- Major 0xb of R273. -/
def decodeConv (w : Nat) : Except DecodeError Instr :=
  match w % 256 with
  | 0 => if w / 256 % 64 = 0 then .ok (.cvt (w / 1048576 % 64) (w / 16384 % 64)) else .error .reserved
  | 1 => if w / 256 % 64 = 0 then .ok (.pack (w / 1048576 % 64) (w / 16384 % 64)) else .error .reserved
  | 2 => .ok (.unpk (w / 1048576 % 64) (w / 16384 % 64) (w / 256 % 64))
  | _ => .error .selector

/-- Major 0xc of R273. -/
def decodeFloatR (w : Nat) : Except DecodeError Instr :=
  match w % 256 with
  | 0 => .ok (.fadd (w / 1048576 % 64) (w / 16384 % 64) (w / 256 % 64))
  | 1 => .ok (.fsub (w / 1048576 % 64) (w / 16384 % 64) (w / 256 % 64))
  | 2 => .ok (.fmul (w / 1048576 % 64) (w / 16384 % 64) (w / 256 % 64))
  | 3 => .ok (.fmin (w / 1048576 % 64) (w / 16384 % 64) (w / 256 % 64))
  | 4 => .ok (.fmax (w / 1048576 % 64) (w / 16384 % 64) (w / 256 % 64))
  | 5 => if w / 256 % 64 = 0 then .ok (.fabs (w / 1048576 % 64) (w / 16384 % 64)) else .error .reserved
  | 6 => if w / 256 % 64 = 0 then .ok (.fneg (w / 1048576 % 64) (w / 16384 % 64)) else .error .reserved
  | 7 => .ok (.fceq (w / 1048576 % 64) (w / 16384 % 64) (w / 256 % 64))
  | 8 => .ok (.fclt (w / 1048576 % 64) (w / 16384 % 64) (w / 256 % 64))
  | 9 => .ok (.fcle (w / 1048576 % 64) (w / 16384 % 64) (w / 256 % 64))
  | 10 => if w / 256 % 64 = 0 then .ok (.fclass (w / 1048576 % 64) (w / 16384 % 64)) else .error .reserved
  | _ => .error .selector

/-- Major 0xd of R273. -/
def decodeFma (w : Nat) : Except DecodeError Instr :=
  match w % 256 with
  | 0 => .ok (.fma (w / 1048576 % 64) (w / 16384 % 64) (w / 256 % 64))
  | 1 => .ok (.fnma (w / 1048576 % 64) (w / 16384 % 64) (w / 256 % 64))
  | _ => .error .selector

/-- Major 0xe of R273. -/
def decodeFloatFn (w : Nat) : Except DecodeError Instr :=
  match w % 256 with
  | 0 => if w / 256 % 64 = 0 then .ok (.fexp2 (w / 1048576 % 64) (w / 16384 % 64)) else .error .reserved
  | 1 => if w / 256 % 64 = 0 then .ok (.flog2 (w / 1048576 % 64) (w / 16384 % 64)) else .error .reserved
  | 2 => if w / 256 % 64 = 0 then .ok (.frcp (w / 1048576 % 64) (w / 16384 % 64)) else .error .reserved
  | 3 => if w / 256 % 64 = 0 then .ok (.frsq (w / 1048576 % 64) (w / 16384 % 64)) else .error .reserved
  | 4 => if w / 256 % 64 = 0 then .ok (.fsqrt (w / 1048576 % 64) (w / 16384 % 64)) else .error .reserved
  | _ => .error .selector

/-- Major 0xf of R273. -/
def decodeLanes (w : Nat) : Except DecodeError Instr :=
  match w % 256 with
  | 0 => if w / 256 % 64 = 0 then .ok (.rsum (w / 1048576 % 64) (w / 16384 % 64)) else .error .reserved
  | 1 => if w / 256 % 64 = 0 then .ok (.rmax (w / 1048576 % 64) (w / 16384 % 64)) else .error .reserved
  | 2 => if w / 256 % 64 = 0 then .ok (.rmin (w / 1048576 % 64) (w / 16384 % 64)) else .error .reserved
  | 3 => if w / 256 % 64 = 0 then .ok (.rmaxi (w / 1048576 % 64) (w / 16384 % 64)) else .error .reserved
  | 4 => if w / 256 % 64 = 0 then .ok (.rmini (w / 1048576 % 64) (w / 16384 % 64)) else .error .reserved
  | 5 => if w / 256 % 64 = 0 then .ok (.rall (w / 1048576 % 64) (w / 16384 % 64)) else .error .reserved
  | 6 => if w / 256 % 64 = 0 then .ok (.rany (w / 1048576 % 64) (w / 16384 % 64)) else .error .reserved
  | 7 => if w / 256 % 64 = 0 then .ok (.rfsum (w / 1048576 % 64) (w / 16384 % 64)) else .error .reserved
  | 8 => if w / 256 % 64 = 0 then .ok (.rfmax (w / 1048576 % 64) (w / 16384 % 64)) else .error .reserved
  | 9 => if w / 256 % 64 = 0 then .ok (.rfmaxi (w / 1048576 % 64) (w / 16384 % 64)) else .error .reserved
  | 16 => .ok (.vperm (w / 1048576 % 64) (w / 16384 % 64) (w / 256 % 64))
  | 17 => .ok (.vshuf (w / 1048576 % 64) (w / 16384 % 64) (w / 256 % 64))
  | 18 => .ok (.vlane (w / 1048576 % 64) (w / 16384 % 64) (w / 256 % 64))
  | 19 => .ok (.vins (w / 1048576 % 64) (w / 16384 % 64) (w / 256 % 64))
  | 20 => if w / 256 % 64 = 0 then .ok (.vidx (w / 1048576 % 64) (w / 16384 % 64)) else .error .reserved
  | 21 => .ok (.vcomp (w / 1048576 % 64) (w / 16384 % 64) (w / 256 % 64))
  | _ => .error .selector

/-- Major 0x10 of R273. -/
def decodeStream (w : Nat) : Except DecodeError Instr :=
  match w % 256 with
  | 0 => .ok (.vtopk (w / 1048576 % 64) (w / 16384 % 64) (w / 256 % 64))
  | 1 => .ok (.vsmax (w / 1048576 % 64) (w / 16384 % 64) (w / 256 % 64))
  | 2 => .ok (.vsoft (w / 1048576 % 64) (w / 16384 % 64) (w / 256 % 64))
  | 3 => .ok (.vsamp (w / 1048576 % 64) (w / 16384 % 64) (w / 256 % 64))
  | 4 => .ok (.vscan (w / 1048576 % 64) (w / 16384 % 64) (w / 256 % 64))
  | _ => .error .selector

/-- Major 0x11 of R273. -/
def decodeRng (w : Nat) : Except DecodeError Instr :=
  match w % 256 with
  | 0 => .ok (.rng (w / 1048576 % 64) (w / 16384 % 64) (w / 256 % 64))
  | _ => .error .selector

/-- Major 0x12 of R273. -/
def decodeBranch (w : Nat) : Except DecodeError Instr :=
  match w / 524288 % 2 with
  | 0 => .ok (.bf (w / 1048576 % 64) (w % 524288))
  | 1 => .ok (.bt (w / 1048576 % 64) (w % 524288))
  | _ => .error .selector

/-- Major 0x13 of R273. -/
def decodeCall (w : Nat) : Except DecodeError Instr :=
  .ok (.call (w % 67108864))

/-- Major 0x14 of R273. -/
def decodeJmp (w : Nat) : Except DecodeError Instr :=
  .ok (.jmp (w % 67108864))

/-- Major 0x15 of R273. -/
def decodeControl (w : Nat) : Except DecodeError Instr :=
  match w / 262144 % 4 with
  | 0 => if w % 262144 = 0 then .ok (.jr (w / 1048576 % 64)) else .error .reserved
  | 1 => if w % 262144 = 0 then .ok (.callr (w / 1048576 % 64)) else .error .reserved
  | 2 => if w % 262144 = 0 ∧ w / 1048576 % 64 = 0 then .ok (.ret) else .error .reserved
  | 3 => .ok (.dbnz (w / 1048576 % 64) (w % 262144))
  | _ => .error .selector

/-- Major 0x18 of R273. -/
def decodeLd (w : Nat) : Except DecodeError Instr :=
  match w / 8192 % 2 with
  | 0 => .ok (.ld (w / 1048576 % 64) (w / 16384 % 64) (w / 2048 % 4) (w % 2048))
  | _ => .error .selector

/-- Major 0x19 of R273. -/
def decodeSt (w : Nat) : Except DecodeError Instr :=
  match w / 8192 % 2 with
  | 0 => .ok (.st (w / 1048576 % 64) (w / 16384 % 64) (w / 2048 % 4) (w % 2048))
  | _ => .error .selector

/-- Major 0x1a of R273. -/
def decodeLdv (w : Nat) : Except DecodeError Instr :=
  match w / 8192 % 2 with
  | 0 => .ok (.ldv (w / 1048576 % 64) (w / 16384 % 64) (w / 2048 % 4) (w % 2048))
  | _ => .error .selector

/-- Major 0x1b of R273. -/
def decodeStv (w : Nat) : Except DecodeError Instr :=
  match w / 8192 % 2 with
  | 0 => .ok (.stv (w / 1048576 % 64) (w / 16384 % 64) (w / 2048 % 4) (w % 2048))
  | _ => .error .selector

/-- Major 0x1c of R273. -/
def decodeLdx (w : Nat) : Except DecodeError Instr :=
  match w / 8192 % 2 with
  | 0 => .ok (.ldx (w / 1048576 % 64) (w / 16384 % 64) (w / 2048 % 4) (w % 2048))
  | 1 => .ok (.ldxv (w / 1048576 % 64) (w / 16384 % 64) (w / 2048 % 4) (w % 2048))
  | _ => .error .selector

/-- Major 0x1d of R273. -/
def decodeStx (w : Nat) : Except DecodeError Instr :=
  match w / 8192 % 2 with
  | 0 => .ok (.stx (w / 1048576 % 64) (w / 16384 % 64) (w / 2048 % 4) (w % 2048))
  | 1 => .ok (.stxv (w / 1048576 % 64) (w / 16384 % 64) (w / 2048 % 4) (w % 2048))
  | _ => .error .selector

/-- Major 0x1e of R273. -/
def decodeLdg (w : Nat) : Except DecodeError Instr :=
  match w / 8192 % 2 with
  | 0 => .ok (.ldg (w / 1048576 % 64) (w / 16384 % 64) (w / 2048 % 4) (w % 2048))
  | _ => .error .selector

/-- Major 0x1f of R273. -/
def decodeStg (w : Nat) : Except DecodeError Instr :=
  match w / 8192 % 2 with
  | 0 => .ok (.stg (w / 1048576 % 64) (w / 16384 % 64) (w / 2048 % 4) (w % 2048))
  | _ => .error .selector

/-- Major 0x20 of R273. -/
def decodeAmo (w : Nat) : Except DecodeError Instr :=
  match w / 16 % 16 with
  | 0 => .ok (.amoAdd (w / 1048576 % 64) (w / 16384 % 64) (w / 256 % 64) (w / 4 % 4) (w % 4))
  | 1 => .ok (.amoAnd (w / 1048576 % 64) (w / 16384 % 64) (w / 256 % 64) (w / 4 % 4) (w % 4))
  | 2 => .ok (.amoOr (w / 1048576 % 64) (w / 16384 % 64) (w / 256 % 64) (w / 4 % 4) (w % 4))
  | 3 => .ok (.amoXor (w / 1048576 % 64) (w / 16384 % 64) (w / 256 % 64) (w / 4 % 4) (w % 4))
  | 4 => .ok (.amoMin (w / 1048576 % 64) (w / 16384 % 64) (w / 256 % 64) (w / 4 % 4) (w % 4))
  | 5 => .ok (.amoMax (w / 1048576 % 64) (w / 16384 % 64) (w / 256 % 64) (w / 4 % 4) (w % 4))
  | 6 => .ok (.amoMinu (w / 1048576 % 64) (w / 16384 % 64) (w / 256 % 64) (w / 4 % 4) (w % 4))
  | 7 => .ok (.amoMaxu (w / 1048576 % 64) (w / 16384 % 64) (w / 256 % 64) (w / 4 % 4) (w % 4))
  | 8 => .ok (.amoXchg (w / 1048576 % 64) (w / 16384 % 64) (w / 256 % 64) (w / 4 % 4) (w % 4))
  | 9 => .ok (.amoCas (w / 1048576 % 64) (w / 16384 % 64) (w / 256 % 64) (w / 4 % 4) (w % 4))
  | 10 => .ok (.amoIncw (w / 1048576 % 64) (w / 16384 % 64) (w / 256 % 64) (w / 4 % 4) (w % 4))
  | 11 => .ok (.amoBfa (w / 1048576 % 64) (w / 16384 % 64) (w / 256 % 64) (w / 4 % 4) (w % 4))
  | 12 => if w / 256 % 64 = 0 then .ok (.amoLd (w / 1048576 % 64) (w / 16384 % 64) (w / 4 % 4) (w % 4)) else .error .reserved
  | 13 => if w / 1048576 % 64 = 0 then .ok (.amoSt (w / 16384 % 64) (w / 256 % 64) (w / 4 % 4) (w % 4)) else .error .reserved
  | _ => .error .selector

/-- Major 0x21 of R273. -/
def decodeFence (w : Nat) : Except DecodeError Instr :=
  match w / 16 % 16 with
  | 0 => if w / 256 % 262144 = 0 then .ok (.fence (w / 4 % 4) (w % 4)) else .error .reserved
  | 1 => if w % 16 = 0 ∧ w / 256 % 262144 = 0 then .ok (.aliasf) else .error .reserved
  | 2 => if w % 16 = 0 ∧ w / 256 % 262144 = 0 then .ok (.fencec) else .error .reserved
  | _ => .error .selector

/-- Major 0x22 of R273. -/
def decodeSync (w : Nat) : Except DecodeError Instr :=
  match w % 256 with
  | 0 => if w / 16384 % 64 = 0 then .ok (.barArr (w / 1048576 % 64) (w / 256 % 64)) else .error .reserved
  | 1 => if w / 1048576 % 64 = 0 then .ok (.barWait (w / 16384 % 64) (w / 256 % 64)) else .error .reserved
  | 2 => if w / 16384 % 4096 = 0 then .ok (.barSync (w / 256 % 64)) else .error .reserved
  | 3 => if w / 1048576 % 64 = 0 then .ok (.barCfg (w / 16384 % 64) (w / 256 % 64)) else .error .reserved
  | 4 => if w / 16384 % 4096 = 0 then .ok (.acqs (w / 256 % 64)) else .error .reserved
  | 5 => if w / 16384 % 4096 = 0 then .ok (.rels (w / 256 % 64)) else .error .reserved
  | 6 => if w / 1048576 % 64 = 0 then .ok (.qput (w / 16384 % 64) (w / 256 % 64)) else .error .reserved
  | 7 => if w / 16384 % 64 = 0 then .ok (.qget (w / 1048576 % 64) (w / 256 % 64)) else .error .reserved
  | 8 => if w / 16384 % 64 = 0 then .ok (.qtry (w / 1048576 % 64) (w / 256 % 64)) else .error .reserved
  | _ => .error .selector

/-- Major 0x23 of R273. -/
def decodeMessage (w : Nat) : Except DecodeError Instr :=
  match w % 256 with
  | 0 => if w / 1048576 % 64 = 0 then .ok (.send (w / 16384 % 64) (w / 256 % 64)) else .error .reserved
  | 1 => if w / 1048576 % 64 = 0 then .ok (.sendh (w / 16384 % 64) (w / 256 % 64)) else .error .reserved
  | 2 => if w / 256 % 64 = 0 then .ok (.recv (w / 1048576 % 64) (w / 16384 % 64)) else .error .reserved
  | 3 => .ok (.recvt (w / 1048576 % 64) (w / 16384 % 64) (w / 256 % 64))
  | _ => .error .selector

/-- Major 0x24 of R273. -/
def decodeWaitw (w : Nat) : Except DecodeError Instr :=
  match w % 256 with
  | 0 => .ok (.waitwL (w / 1048576 % 64) (w / 16384 % 64) (w / 256 % 64))
  | 1 => .ok (.waitwX (w / 1048576 % 64) (w / 16384 % 64) (w / 256 % 64))
  | _ => .error .selector

/-- Major 0x25 of R273. -/
def decodeLease (w : Nat) : Except DecodeError Instr :=
  match w % 256 with
  | 0 => if w / 1048576 % 64 = 0 then .ok (.lease (w / 16384 % 64) (w / 256 % 64)) else .error .reserved
  | 1 => if w / 16384 % 4096 = 0 then .ok (.leaseRel (w / 256 % 64)) else .error .reserved
  | _ => .error .selector

/-- Major 0x28 of R273. -/
def decodeMatrix (w : Nat) : Except DecodeError Instr :=
  match w / 16777216 % 4 with
  | 0 => if w % 16 = 0 then .ok (.mma (w / 262144 % 64) (w / 4096 % 64) (w / 32 % 128) (w / 16 % 2)) else .error .reserved
  | 1 => if w % 16 = 0 then .ok (.mmas (w / 262144 % 64) (w / 4096 % 64) (w / 32 % 128) (w / 16 % 2)) else .error .reserved
  | _ => .error .selector

/-- Major 0x29 of R273. -/
def decodeAcc (w : Nat) : Except DecodeError Instr :=
  match w / 16777216 % 4 with
  | 0 => if w % 2048 = 0 ∧ w / 262144 % 64 = 0 then .ok (.mzero (w / 2048 % 128)) else .error .reserved
  | 1 => if w % 2048 = 0 then .ok (.maccrd (w / 262144 % 64) (w / 2048 % 128)) else .error .reserved
  | 2 => if w % 2048 = 0 then .ok (.maccwr (w / 262144 % 64) (w / 2048 % 128)) else .error .reserved
  | 3 => if w % 16 = 0 then .ok (.scacc (w / 262144 % 64) (w / 2048 % 128) (w / 16 % 128)) else .error .reserved
  | _ => .error .selector

/-- Major 0x2a of R273. -/
def decodeMatrixLoad (w : Nat) : Except DecodeError Instr :=
  match w / 16777216 % 4 with
  | 0 => if w % 256 = 0 then .ok (.mldb (w / 262144 % 64) (w / 4096 % 64) (w / 256 % 16)) else .error .reserved
  | 1 => if w % 256 = 0 then .ok (.mldm (w / 262144 % 64) (w / 4096 % 64) (w / 256 % 16)) else .error .reserved
  | _ => .error .selector

/-- Major 0x2c of R273. -/
def decodeCourier (w : Nat) : Except DecodeError Instr :=
  match w % 256 with
  | 0 => if w / 256 % 64 = 0 ∧ w / 1048576 % 64 = 0 then .ok (.cpy (w / 16384 % 64)) else .error .reserved
  | 1 => if w / 256 % 64 = 0 ∧ w / 1048576 % 64 = 0 then .ok (.qcpy (w / 16384 % 64)) else .error .reserved
  | 2 => if w / 256 % 64 = 0 ∧ w / 1048576 % 64 = 0 then .ok (.zcpy (w / 16384 % 64)) else .error .reserved
  | 3 => if w / 256 % 64 = 0 ∧ w / 1048576 % 64 = 0 then .ok (.xcpy (w / 16384 % 64)) else .error .reserved
  | 4 => if w / 256 % 64 = 0 then .ok (.jstat (w / 1048576 % 64) (w / 16384 % 64)) else .error .reserved
  | 5 => if w / 256 % 64 = 0 ∧ w / 1048576 % 64 = 0 then .ok (.jcancel (w / 16384 % 64)) else .error .reserved
  | _ => .error .selector

/-- Major 0x30 of R273. -/
def decodeTask (w : Nat) : Except DecodeError Instr :=
  match w % 256 with
  | 0 => if w / 256 % 64 = 0 ∧ w / 1048576 % 64 = 0 then .ok (.spawn (w / 16384 % 64)) else .error .reserved
  | 1 => if w / 256 % 262144 = 0 then .ok (.done) else .error .reserved
  | 2 => if w / 256 % 262144 = 0 then .ok (.yield) else .error .reserved
  | 3 => if w / 16384 % 64 = 0 then .ok (.tidq (w / 1048576 % 64) (w / 256 % 64)) else .error .reserved
  | _ => .error .selector

/-- Major 0x31 of R273. -/
def decodeVt (w : Nat) : Except DecodeError Instr :=
  match w % 256 with
  | 0 => if w / 1048576 % 64 = 0 then .ok (.vtsend (w / 16384 % 64) (w / 256 % 64)) else .error .reserved
  | 1 => if w / 256 % 64 = 0 then .ok (.vtrecv (w / 1048576 % 64) (w / 16384 % 64)) else .error .reserved
  | 2 => if w / 256 % 64 = 0 ∧ w / 1048576 % 64 = 0 then .ok (.vtadv (w / 16384 % 64)) else .error .reserved
  | 3 => if w / 1048576 % 64 = 0 then .ok (.vtann (w / 16384 % 64) (w / 256 % 64)) else .error .reserved
  | 4 => if w / 256 % 262144 = 0 then .ok (.vtnull) else .error .reserved
  | 5 => if w / 256 % 4096 = 0 then .ok (.vthor (w / 1048576 % 64)) else .error .reserved
  | _ => .error .selector

/-- Major 0x32 of R273. -/
def decodeSystem (w : Nat) : Except DecodeError Instr :=
  match w % 256 with
  | 0 => if w / 1048576 % 64 = 0 then .ok (.trap (w / 16384 % 64) (w / 256 % 64)) else .error .reserved
  | 1 => if w / 1048576 % 64 = 0 then .ok (.scall (w / 16384 % 64) (w / 256 % 64)) else .error .reserved
  | 2 => if w / 256 % 64 = 0 ∧ w / 1048576 % 64 = 0 then .ok (.eret (w / 16384 % 64)) else .error .reserved
  | 3 => .ok (.cwr (w / 1048576 % 64) (w / 16384 % 64) (w / 256 % 64))
  | 4 => .ok (.cww (w / 1048576 % 64) (w / 16384 % 64) (w / 256 % 64))
  | 5 => if w / 256 % 4096 = 0 then .ok (.snap (w / 1048576 % 64)) else .error .reserved
  | 6 => if w / 16384 % 4096 = 0 then .ok (.brk (w / 256 % 64)) else .error .reserved
  | 7 => if w / 256 % 262144 = 0 then .ok (.halt) else .error .reserved
  | _ => .error .selector

/-- The instruction of one 32-bit word: the map of R273 by its major opcode, bits 31:26. -/
def decodeWord (w : Nat) : Except DecodeError Instr :=
  match w / 67108864 with
  | 0 => decodeHint w
  | 1 => decodeAluR w
  | 2 => decodeAluI w
  | 3 => decodeShiftI w
  | 4 => decodeCmpR w
  | 5 => decodeCmpI w
  | 6 => decodeMul w
  | 7 => decodeSethi w
  | 8 => decodeAddpc w
  | 9 => decodeBits w
  | 10 => decodePattern w
  | 11 => decodeConv w
  | 12 => decodeFloatR w
  | 13 => decodeFma w
  | 14 => decodeFloatFn w
  | 15 => decodeLanes w
  | 16 => decodeStream w
  | 17 => decodeRng w
  | 18 => decodeBranch w
  | 19 => decodeCall w
  | 20 => decodeJmp w
  | 21 => decodeControl w
  | 24 => decodeLd w
  | 25 => decodeSt w
  | 26 => decodeLdv w
  | 27 => decodeStv w
  | 28 => decodeLdx w
  | 29 => decodeStx w
  | 30 => decodeLdg w
  | 31 => decodeStg w
  | 32 => decodeAmo w
  | 33 => decodeFence w
  | 34 => decodeSync w
  | 35 => decodeMessage w
  | 36 => decodeWaitw w
  | 37 => decodeLease w
  | 40 => decodeMatrix w
  | 41 => decodeAcc w
  | 42 => decodeMatrixLoad w
  | 44 => decodeCourier w
  | 48 => decodeTask w
  | 49 => decodeVt w
  | 50 => decodeSystem w
  | _ => .error .major

/-- The 32-bit number of four bytes, lowest address first (R2). -/
def word32 (b0 b1 b2 b3 : Byte) : Nat :=
  b0.toNat + b1.toNat * 256 + b2.toNat * 65536 + b3.toNat * 16777216

/-- The four bytes of a 32-bit number, lowest address first (R2). -/
def wordBytes (w : Nat) : List Byte :=
  [BitVec.ofNat 8 w, BitVec.ofNat 8 (w / 256), BitVec.ofNat 8 (w / 65536), BitVec.ofNat 8 (w / 16777216)]

/-- An instruction read, with the bytes that follow it. -/
def withRest (rest : List Byte) : Except DecodeError Instr → Except DecodeError (Instr × List Byte)
  | .ok i => .ok (i, rest)
  | .error e => .error e

/-- Decode one instruction from bytes, with the bytes that follow it (R267). -/
def decode : List Byte → Except DecodeError (Instr × List Byte)
  | b0 :: b1 :: b2 :: b3 :: rest => withRest rest (decodeWord (word32 b0 b1 b2 b3))
  | _ => .error .truncated

/-- The 32-bit word of an instruction, from the formats of R268 and R270 and the selectors of R273. A step of another
agent has no word. -/
def encode : Instr → Option Nat
  | .hintImm hi => some (4194304 + hi)
  | .hintMod rm wsize => some (8388608 + rm * 524288 + wsize * 262144)
  | .hintMma stride => some (12582912 + stride * 64)
  | .hintScope scope ord keep => some (16777216 + scope * 1048576 + ord * 262144 + keep * 65536)
  | .add d a b => some (67108864 + d * 1048576 + a * 16384 + b * 256)
  | .sub d a b => some (67108865 + d * 1048576 + a * 16384 + b * 256)
  | .and d a b => some (67108866 + d * 1048576 + a * 16384 + b * 256)
  | .or d a b => some (67108867 + d * 1048576 + a * 16384 + b * 256)
  | .xor d a b => some (67108868 + d * 1048576 + a * 16384 + b * 256)
  | .andn d a b => some (67108869 + d * 1048576 + a * 16384 + b * 256)
  | .orn d a b => some (67108870 + d * 1048576 + a * 16384 + b * 256)
  | .shl d a b => some (67108871 + d * 1048576 + a * 16384 + b * 256)
  | .shr d a b => some (67108872 + d * 1048576 + a * 16384 + b * 256)
  | .sra d a b => some (67108873 + d * 1048576 + a * 16384 + b * 256)
  | .rol d a b => some (67108874 + d * 1048576 + a * 16384 + b * 256)
  | .min d a b => some (67108875 + d * 1048576 + a * 16384 + b * 256)
  | .max d a b => some (67108876 + d * 1048576 + a * 16384 + b * 256)
  | .minu d a b => some (67108877 + d * 1048576 + a * 16384 + b * 256)
  | .maxu d a b => some (67108878 + d * 1048576 + a * 16384 + b * 256)
  | .abs d a => some (67108879 + d * 1048576 + a * 16384)
  | .neg d a => some (67108880 + d * 1048576 + a * 16384)
  | .mov d a => some (67108881 + d * 1048576 + a * 16384)
  | .cmov d a b => some (67108882 + d * 1048576 + a * 16384 + b * 256)
  | .addi d a imm => some (134217728 + d * 1048576 + a * 16384 + imm)
  | .andi d a imm => some (134221824 + d * 1048576 + a * 16384 + imm)
  | .ori d a imm => some (134225920 + d * 1048576 + a * 16384 + imm)
  | .xori d a imm => some (134230016 + d * 1048576 + a * 16384 + imm)
  | .shli d a sh => some (201326592 + d * 1048576 + a * 16384 + sh)
  | .shri d a sh => some (201330688 + d * 1048576 + a * 16384 + sh)
  | .srai d a sh => some (201334784 + d * 1048576 + a * 16384 + sh)
  | .roli d a sh => some (201338880 + d * 1048576 + a * 16384 + sh)
  | .ceq d a b => some (268435456 + d * 1048576 + a * 16384 + b * 256)
  | .cne d a b => some (268435457 + d * 1048576 + a * 16384 + b * 256)
  | .clt d a b => some (268435458 + d * 1048576 + a * 16384 + b * 256)
  | .cle d a b => some (268435459 + d * 1048576 + a * 16384 + b * 256)
  | .cltu d a b => some (268435460 + d * 1048576 + a * 16384 + b * 256)
  | .cleu d a b => some (268435461 + d * 1048576 + a * 16384 + b * 256)
  | .ceqi d a imm => some (335544320 + d * 1048576 + a * 16384 + imm)
  | .cnei d a imm => some (335548416 + d * 1048576 + a * 16384 + imm)
  | .clti d a imm => some (335552512 + d * 1048576 + a * 16384 + imm)
  | .cltui d a imm => some (335556608 + d * 1048576 + a * 16384 + imm)
  | .mul d a b => some (402653184 + d * 1048576 + a * 16384 + b * 256)
  | .mulh d a b => some (402653185 + d * 1048576 + a * 16384 + b * 256)
  | .mulhu d a b => some (402653186 + d * 1048576 + a * 16384 + b * 256)
  | .div d a b => some (402653187 + d * 1048576 + a * 16384 + b * 256)
  | .divu d a b => some (402653188 + d * 1048576 + a * 16384 + b * 256)
  | .rem d a b => some (402653189 + d * 1048576 + a * 16384 + b * 256)
  | .remu d a b => some (402653190 + d * 1048576 + a * 16384 + b * 256)
  | .sethi d imm => some (469762048 + d * 1048576 + imm)
  | .addpc d imm => some (536870912 + d * 1048576 + imm)
  | .clz d a => some (603979776 + d * 1048576 + a * 16384)
  | .ctz d a => some (603979777 + d * 1048576 + a * 16384)
  | .popc d a => some (603979778 + d * 1048576 + a * 16384)
  | .brev d a => some (603979779 + d * 1048576 + a * 16384)
  | .bext d a b => some (603979780 + d * 1048576 + a * 16384 + b * 256)
  | .bins d a b => some (603979781 + d * 1048576 + a * 16384 + b * 256)
  | .mapld a imm => some (671088640 + a * 16384 + imm)
  | .resz d kind wd => some (671092736 + d * 1048576 + kind * 64 + wd)
  | .wqry d sel nm => some (671096832 + d * 1048576 + sel * 64 + nm)
  | .pol d pcy => some (671100928 + d * 1048576 + pcy)
  | .cvt d a => some (738197504 + d * 1048576 + a * 16384)
  | .pack d a => some (738197505 + d * 1048576 + a * 16384)
  | .unpk d a pl => some (738197506 + d * 1048576 + a * 16384 + pl * 256)
  | .fadd d a b => some (805306368 + d * 1048576 + a * 16384 + b * 256)
  | .fsub d a b => some (805306369 + d * 1048576 + a * 16384 + b * 256)
  | .fmul d a b => some (805306370 + d * 1048576 + a * 16384 + b * 256)
  | .fmin d a b => some (805306371 + d * 1048576 + a * 16384 + b * 256)
  | .fmax d a b => some (805306372 + d * 1048576 + a * 16384 + b * 256)
  | .fabs d a => some (805306373 + d * 1048576 + a * 16384)
  | .fneg d a => some (805306374 + d * 1048576 + a * 16384)
  | .fceq d a b => some (805306375 + d * 1048576 + a * 16384 + b * 256)
  | .fclt d a b => some (805306376 + d * 1048576 + a * 16384 + b * 256)
  | .fcle d a b => some (805306377 + d * 1048576 + a * 16384 + b * 256)
  | .fclass d a => some (805306378 + d * 1048576 + a * 16384)
  | .fma d a b => some (872415232 + d * 1048576 + a * 16384 + b * 256)
  | .fnma d a b => some (872415233 + d * 1048576 + a * 16384 + b * 256)
  | .fexp2 d a => some (939524096 + d * 1048576 + a * 16384)
  | .flog2 d a => some (939524097 + d * 1048576 + a * 16384)
  | .frcp d a => some (939524098 + d * 1048576 + a * 16384)
  | .frsq d a => some (939524099 + d * 1048576 + a * 16384)
  | .fsqrt d a => some (939524100 + d * 1048576 + a * 16384)
  | .rsum d a => some (1006632960 + d * 1048576 + a * 16384)
  | .rmax d a => some (1006632961 + d * 1048576 + a * 16384)
  | .rmin d a => some (1006632962 + d * 1048576 + a * 16384)
  | .rmaxi d a => some (1006632963 + d * 1048576 + a * 16384)
  | .rmini d a => some (1006632964 + d * 1048576 + a * 16384)
  | .rall d a => some (1006632965 + d * 1048576 + a * 16384)
  | .rany d a => some (1006632966 + d * 1048576 + a * 16384)
  | .rfsum d a => some (1006632967 + d * 1048576 + a * 16384)
  | .rfmax d a => some (1006632968 + d * 1048576 + a * 16384)
  | .rfmaxi d a => some (1006632969 + d * 1048576 + a * 16384)
  | .vperm d a b => some (1006632976 + d * 1048576 + a * 16384 + b * 256)
  | .vshuf d a b => some (1006632977 + d * 1048576 + a * 16384 + b * 256)
  | .vlane d a b => some (1006632978 + d * 1048576 + a * 16384 + b * 256)
  | .vins d a b => some (1006632979 + d * 1048576 + a * 16384 + b * 256)
  | .vidx d a => some (1006632980 + d * 1048576 + a * 16384)
  | .vcomp d a b => some (1006632981 + d * 1048576 + a * 16384 + b * 256)
  | .vtopk d a b => some (1073741824 + d * 1048576 + a * 16384 + b * 256)
  | .vsmax d a b => some (1073741825 + d * 1048576 + a * 16384 + b * 256)
  | .vsoft d a b => some (1073741826 + d * 1048576 + a * 16384 + b * 256)
  | .vsamp d a b => some (1073741827 + d * 1048576 + a * 16384 + b * 256)
  | .vscan d a b => some (1073741828 + d * 1048576 + a * 16384 + b * 256)
  | .rng d a b => some (1140850688 + d * 1048576 + a * 16384 + b * 256)
  | .bt c disp => some (1208483840 + c * 1048576 + disp)
  | .bf c disp => some (1207959552 + c * 1048576 + disp)
  | .call disp => some (1275068416 + disp)
  | .jmp disp => some (1342177280 + disp)
  | .jr c => some (1409286144 + c * 1048576)
  | .callr c => some (1409548288 + c * 1048576)
  | .ret => some (1409810432)
  | .dbnz c disp => some (1410072576 + c * 1048576 + disp)
  | .ld d a sz off => some (1610612736 + d * 1048576 + a * 16384 + sz * 2048 + off)
  | .st d a sz off => some (1677721600 + d * 1048576 + a * 16384 + sz * 2048 + off)
  | .ldv d a sz off => some (1744830464 + d * 1048576 + a * 16384 + sz * 2048 + off)
  | .stv d a sz off => some (1811939328 + d * 1048576 + a * 16384 + sz * 2048 + off)
  | .ldx d a sz off => some (1879048192 + d * 1048576 + a * 16384 + sz * 2048 + off)
  | .ldxv d a sz off => some (1879056384 + d * 1048576 + a * 16384 + sz * 2048 + off)
  | .stx d a sz off => some (1946157056 + d * 1048576 + a * 16384 + sz * 2048 + off)
  | .stxv d a sz off => some (1946165248 + d * 1048576 + a * 16384 + sz * 2048 + off)
  | .ldg d a sz off => some (2013265920 + d * 1048576 + a * 16384 + sz * 2048 + off)
  | .stg d a sz off => some (2080374784 + d * 1048576 + a * 16384 + sz * 2048 + off)
  | .amoAdd d a b ord scope => some (2147483648 + d * 1048576 + a * 16384 + b * 256 + ord * 4 + scope)
  | .amoAnd d a b ord scope => some (2147483664 + d * 1048576 + a * 16384 + b * 256 + ord * 4 + scope)
  | .amoOr d a b ord scope => some (2147483680 + d * 1048576 + a * 16384 + b * 256 + ord * 4 + scope)
  | .amoXor d a b ord scope => some (2147483696 + d * 1048576 + a * 16384 + b * 256 + ord * 4 + scope)
  | .amoMin d a b ord scope => some (2147483712 + d * 1048576 + a * 16384 + b * 256 + ord * 4 + scope)
  | .amoMax d a b ord scope => some (2147483728 + d * 1048576 + a * 16384 + b * 256 + ord * 4 + scope)
  | .amoMinu d a b ord scope => some (2147483744 + d * 1048576 + a * 16384 + b * 256 + ord * 4 + scope)
  | .amoMaxu d a b ord scope => some (2147483760 + d * 1048576 + a * 16384 + b * 256 + ord * 4 + scope)
  | .amoXchg d a b ord scope => some (2147483776 + d * 1048576 + a * 16384 + b * 256 + ord * 4 + scope)
  | .amoCas d a b ord scope => some (2147483792 + d * 1048576 + a * 16384 + b * 256 + ord * 4 + scope)
  | .amoIncw d a b ord scope => some (2147483808 + d * 1048576 + a * 16384 + b * 256 + ord * 4 + scope)
  | .amoBfa d a b ord scope => some (2147483824 + d * 1048576 + a * 16384 + b * 256 + ord * 4 + scope)
  | .amoLd d a ord scope => some (2147483840 + d * 1048576 + a * 16384 + ord * 4 + scope)
  | .amoSt a b ord scope => some (2147483856 + a * 16384 + b * 256 + ord * 4 + scope)
  | .fence ord scope => some (2214592512 + ord * 4 + scope)
  | .aliasf => some (2214592528)
  | .fencec => some (2214592544)
  | .barArr d b => some (2281701376 + d * 1048576 + b * 256)
  | .barWait a b => some (2281701377 + a * 16384 + b * 256)
  | .barSync b => some (2281701378 + b * 256)
  | .barCfg a b => some (2281701379 + a * 16384 + b * 256)
  | .acqs b => some (2281701380 + b * 256)
  | .rels b => some (2281701381 + b * 256)
  | .qput a b => some (2281701382 + a * 16384 + b * 256)
  | .qget d b => some (2281701383 + d * 1048576 + b * 256)
  | .qtry d b => some (2281701384 + d * 1048576 + b * 256)
  | .send a b => some (2348810240 + a * 16384 + b * 256)
  | .sendh a b => some (2348810241 + a * 16384 + b * 256)
  | .recv d a => some (2348810242 + d * 1048576 + a * 16384)
  | .recvt d a b => some (2348810243 + d * 1048576 + a * 16384 + b * 256)
  | .waitwL d a b => some (2415919104 + d * 1048576 + a * 16384 + b * 256)
  | .waitwX d a b => some (2415919105 + d * 1048576 + a * 16384 + b * 256)
  | .lease a b => some (2483027968 + a * 16384 + b * 256)
  | .leaseRel b => some (2483027969 + b * 256)
  | .mma a b tile zi => some (2684354560 + a * 262144 + b * 4096 + tile * 32 + zi * 16)
  | .mmas a b tile zi => some (2701131776 + a * 262144 + b * 4096 + tile * 32 + zi * 16)
  | .mzero tile => some (2751463424 + tile * 2048)
  | .maccrd a tile => some (2768240640 + a * 262144 + tile * 2048)
  | .maccwr a tile => some (2785017856 + a * 262144 + tile * 2048)
  | .scacc a tile src => some (2801795072 + a * 262144 + tile * 2048 + src * 16)
  | .mldb a b slot => some (2818572288 + a * 262144 + b * 4096 + slot * 256)
  | .mldm a b slot => some (2835349504 + a * 262144 + b * 4096 + slot * 256)
  | .cpy a => some (2952790016 + a * 16384)
  | .qcpy a => some (2952790017 + a * 16384)
  | .zcpy a => some (2952790018 + a * 16384)
  | .xcpy a => some (2952790019 + a * 16384)
  | .jstat d a => some (2952790020 + d * 1048576 + a * 16384)
  | .jcancel a => some (2952790021 + a * 16384)
  | .spawn a => some (3221225472 + a * 16384)
  | .done => some (3221225473)
  | .yield => some (3221225474)
  | .tidq d b => some (3221225475 + d * 1048576 + b * 256)
  | .vtsend a b => some (3288334336 + a * 16384 + b * 256)
  | .vtrecv d a => some (3288334337 + d * 1048576 + a * 16384)
  | .vtadv a => some (3288334338 + a * 16384)
  | .vtann a b => some (3288334339 + a * 16384 + b * 256)
  | .vtnull => some (3288334340)
  | .vthor d => some (3288334341 + d * 1048576)
  | .trap a b => some (3355443200 + a * 16384 + b * 256)
  | .scall a b => some (3355443201 + a * 16384 + b * 256)
  | .eret a => some (3355443202 + a * 16384)
  | .cwr d a b => some (3355443203 + d * 1048576 + a * 16384 + b * 256)
  | .cww d a b => some (3355443204 + d * 1048576 + a * 16384 + b * 256)
  | .snap d => some (3355443205 + d * 1048576)
  | .brk b => some (3355443206 + b * 256)
  | .halt => some (3355443207)
  | .submissionWrite => none
  | .submissionHandle => none
  | .queuePreempt => none
  | .queueResume => none
  | .queueAbort => none
  | .queueCommandBadOp => none
  | .regionActivate => none
  | .regionDeactivate => none
  | .regionCommandBadOp => none
  | .snapshotTrigger => none
  | .snapshotFiringComplete => none
  | .attestationRequest => none
  | .powerLimitWrite => none
  | .migrationThresholdWrite => none
  | .registerWriteOther => none
  | .accessTableEdit => none
  | .hostMemoryRead => none
  | .hostMemoryWrite => none
  | .debugFreeze => none
  | .debugThaw => none
  | .debugStop => none
  | .debugGo => none
  | .debugStep => none
  | .packageReset => none
  | .firmwareImageVerify => none
  | .hostLinkDown => none
  | .hostLinkRetrain => none
  | .cxlPortTrain => none
  | .domainBringup => none
  | .fabricFrameReceive => none
  | .fabricLaneLoss => none
  | .fabricPortUp => none
  | .dieLinkFlitDeliver => none
  | .powerSample => none
  | .thermalTrip => none
  | .supplyRampUpDone => none
  | .relockDone => none
  | .supplyRampDownDone => none
  | .stewardHeartbeatMiss => none
  | .stewardRestartCommand => none
  | .stewardRestartDone => none
  | .patrolScrub => none
  | .recordAccept => none
  | .fenceRecordRelease => none
  | .poolPlace => none
  | .nodeTake => none
  | .porterResidency => none
  | .nodeStart => none
  | .leaseServe => none
  | .porterNoticeHandle => none
  | .migrationCopyDone => none
  | .counterHalve => none
  | .loadBalance => none
  | .repeatDecide => none
  | .repeatRearm => none
  | .spawnAppend => none
  | .taskEnd => none
  | .taskExtentEnd => none
  | .trapService => none
  | .dumpBegin => none
  | .dumpComplete => none
  | .deviceFatalFault => none
  | .preemptT1Expire => none
  | .saveComplete => none
  | .preemptT2Expire => none
  | .loadReturn => none
  | .postedStorePerform => none
  | .atomicPerform => none
  | .logRdPoll => none
  | .replayTimeout => none
  | .matrixStart => none
  | .matrixComplete => none
  | .matrixSoftErrorRetry => none
  | .streamStart => none
  | .streamComplete => none
  | .frameSpillDone => none
  | .frameFillDone => none
  | .yieldEnd => none
  | .cardAccept => none
  | .courierJobStart => none
  | .courierJobComplete => none
  | .xcpyChunkDeliver => none
  | .messageArrive => none
  | .sendReply => none
  | .contextFreeNotice => none
  | .refusalSelfNotice => none
  | .recvtTimeout => none
  | .barrierCountArrive => none
  | .barrierUnitArrival => none
  | .barrierLineRise => none
  | .vtNeighbourRegister => none
  | .vtEventArrive => none
  | .vtMilestoneArrive => none
  | .vtNullCountExpire => none
  | .stewardHeartbeatDue => none

/-- The instruction whose bits are w, laid out as the hardware stores it and given to the decoder. -/
def decodeTableWord (_nbits w : Nat) : Option Instr :=
  match decode (wordBytes w) with
  | .ok (i, _) => some i
  | .error _ => none

end Sys2Proof
end

