-- ==== Sys2Proof/Machine/State.lean ====
section
/-!
DEFINITION. The state of one KL-480 package, as plain data: threads, cores, tasks, couriers, dispatchers, dies, links,
the host interface, and the memory of the load-store domain. A comment "MODEL" marks a field that is the model's own
and not the spec's. Tables are lists of key and value, keys strictly rising; an absent key is at its reset value.
-/

namespace Sys2Proof.Machine

/-- A table by key, keys strictly rising. -/
abbrev Tab (α : Type) := List (Nat × α)

/-- Bytes by address, addresses strictly rising, no entry equal to what an unlisted address reads as. -/
abbrev Mem := List Host.Cell

/-- MODEL: how much of each agent's past happens before a point (R170): agent number to count of its releases. -/
abbrev Clock := Tab Nat

/-- The element kinds of R95. -/
inductive Kind where
  | uns | sgn | f8e4m3 | f8e5m2 | f16 | bf16 | f32 | f64
  deriving DecidableEq, Repr

/-- The policies of R95; `wrap` is `ieee` for a float name. -/
inductive Policy where
  | wrap | sat | trap
  deriving DecidableEq, Repr

/-- The rounding modes of R151. -/
inductive RMode where
  | rne | rtz | rup | rdn | rsn
  deriving DecidableEq, Repr

/-- A descriptor of a name (R95). -/
structure Desc where
  /-- Bits of a lane, 1-64. -/
  width : Nat
  /-- Lane count, 1-64. -/
  lanes : Nat
  kind : Kind
  pol : Policy
  /-- Windowed (R106). -/
  win : Bool
  deriving DecidableEq, Repr

/-- One field of the row store: where it stands (R97, R98) and the bit string of each lane. -/
structure Field where
  row : Nat
  bit : Nat
  lanes : List Nat
  deriving DecidableEq, Repr

/-- A declared name: its descriptor and its field, or its four fields by frame slot when windowed (R106). -/
structure NameSt where
  desc : Desc
  fields : List Field
  deriving DecidableEq, Repr

/-- The states of a thread (R84) but Halted, which `Thread.trapped`, `Thread.stopped` and a stop of its task, partition
or die say beside them, since a halted thread resumes in the state it was found in (R208). (DESIGN CHOICE, log 14) -/
inductive Status where
  | ready | inFlight | out | blocked | held | yielding | finished
  deriving DecidableEq, Repr

/-- An instruction between issue and retirement, with the operands it has read. -/
structure Op where
  instr : Instr
  /-- Address of the instruction's own word. -/
  pc : Nat
  /-- The hint word that binds it (R276). -/
  hint : Option Nat
  args : List Nat
  deriving DecidableEq, Repr

/-- One access in a location's history (R174). -/
structure Access where
  agent : Nat
  /-- Count of the agent's releases before it. -/
  epoch : Nat
  /-- Slot of the thread, 15 for a courier job (R176). -/
  slot : Nat
  write : Bool
  atomic : Bool
  deriving DecidableEq, Repr

/-- The place of an agent, for the scopes of R179: package-wide core number. -/
abbrev Place := Nat

/-- A release that an acquire of the value may synchronise with (R182): what happens before it, who made it, how far. -/
structure Head where
  vc : Clock
  place : Place
  scope : Nat
  deriving DecidableEq, Repr

/-- The thread's latest atomic read, for an acquire fence (R183): the releases its value carries and the scope at which
it already acted as an acquire, if it did. -/
structure LastRead where
  heads : List Head
  scope : Option Nat
  deriving DecidableEq, Repr

/-- A user thread, or the steward in slot 15 (R84, R85, R93, R105, R106, R153, R190, R245). -/
structure Thread where
  /-- MODEL: number of its task; 0 for the steward. -/
  task : Nat
  /-- MODEL: its number among the agents of R167. -/
  agent : Nat
  /-- Program counter, a task virtual address (R267). -/
  pc : Nat
  /-- Declared names n0-n55 (R94). -/
  names : Tab NameSt
  lk : Word64
  ws : Word64
  tid : Word64
  ta : Word64
  cid : Word64
  st : Word64
  rmode : RMode
  /-- The rsn counter (R153). -/
  rsn : Word64
  /-- Frame depth (R106). -/
  depth : Nat
  /-- Frames that are in memory (R107, R108). -/
  spilled : List Nat
  /-- The frames being filled, in the order of their fills, each with the address its words are read from (R108, R109). -/
  fill : List (Nat × Nat)
  /-- The pending hint word (R277). -/
  hint : Option Nat
  status : Status
  /-- The instruction in progress. -/
  op : Option Op
  /-- Halted at trap entry (R192). (DESIGN CHOICE, log 14) -/
  trapped : Bool
  /-- Halted by debug (R240, R241). (DESIGN CHOICE, log 14) -/
  stopped : Bool
  /-- A debug step is under way (R240, op 5). (DEDUCED, log 64) -/
  stepping : Bool
  /-- The next issue ignores breakpoint and watchpoint hits (R240, op 4). (DEDUCED, log 46) -/
  suppress : Bool
  /-- It waits for a place in the log or for its turn under replay (R218, R221). -/
  logWait : Bool
  cause : Word64
  epc : Word64
  eval : Word64
  race : Word64
  /-- Cause and `cw.epc` of the trap that a new trap in handler state came upon (R194). -/
  prior : Option (Nat × Nat)
  /-- `cw.map` gen and moves (R105). -/
  mapGen : BitVec 32
  mapMoves : BitVec 16
  /-- `cw.slotcls` (R245). -/
  clsIssued : BitVec 16
  clsMemory : BitVec 16
  clsMessage : BitVec 16
  clsVacant : BitVec 16
  /-- A pending release fence and its scope (R340). -/
  relFence : Option Nat
  lastRead : LastRead
  /-- Source and sequence number of its latest logged operation, or of its node's start record (R216). (DEDUCED, log 67) -/
  lastRec : Option (Nat × Nat)
  /-- MODEL: the values other than the one it waits on that its `waitw` has been shown, oldest first, with the releases that each
  carried (R341). -/
  saw : List (Nat × List Head)
  /-- Clocks of its instruction's own steps still to come, and whether its issue clock is among them (R88, R245, R246). -/
  busy : Nat
  fresh : Bool
  /-- MODEL: what happens before its next access. -/
  vc : Clock
  deriving DecidableEq, Repr

/-- A message of 64 bytes with its sender (R117, R348). -/
structure Msg where
  core : Nat
  slot : Nat
  /-- Eight words, lowest address first. -/
  words : List Nat
  /-- The sender's latest record as it stood at the send (R216). (DEDUCED, log 67) -/
  after : Option (Nat × Nat)
  vc : Clock
  deriving DecidableEq, Repr

/-- A queue register (R114): the words held, oldest first, each with what happens before its put. -/
structure QueueReg where
  vals : List (Nat × Clock)
  /-- Slots blocked in `qget`, in the order they blocked. -/
  readers : List Nat
  /-- Slots blocked in `qput`, in the order they blocked. -/
  writers : List Nat
  deriving DecidableEq, Repr

/-- A stage (R115). -/
structure Stage where
  full : Bool
  owner : Option Nat
  /-- Slots blocked in `acqs` with the state each wants, in the order they blocked. -/
  wait : List (Nat × Bool)
  /-- What happens before the next take (R170). -/
  vc : Clock
  deriving DecidableEq, Repr

/-- A named barrier (R116) and its configuration (R343). -/
structure Barrier where
  mask : Nat
  arrived : Nat
  phase : BitVec 16
  level : Nat
  sent : Bool
  /-- A phase barrier (R344). -/
  pb : Bool
  ncomp : Nat
  nmsg : Nat
  /-- Deliveries and completions counted and not yet used (R344). -/
  gotMsg : Nat
  gotComp : Nat
  /-- Package whose unit counts level 4. -/
  root : Nat
  /-- Slot whose arrival completed the count. -/
  last : Nat
  /-- What happens before the completion of the phase under way, and before that of each phase completed (R170). -/
  vc : Clock
  past : Tab Clock
  deriving DecidableEq, Repr

/-- A pigeonhole (R117, R118). -/
structure Pigeon where
  msg : Option Msg
  refused : BitVec 32
  notices : Nat
  deriving DecidableEq, Repr

/-- A store that has retired and is not yet performed (R336), its lanes in ascending order. -/
structure Posted where
  task : Nat
  slot : Nat
  agent : Nat
  epoch : Nat
  /-- Physical address, task virtual address and value of each byte. -/
  bytes : List (Nat × Nat × Byte)
  /-- Extent entry of each lane's first byte. -/
  entries : List Nat
  deriving DecidableEq, Repr

/-- A weight-buffer slot (R125-R127). -/
structure WSlot where
  image : List Byte
  inUse : Bool
  adr : Nat
  len : Nat
  deriving DecidableEq, Repr

/-- An instruction that waits for or runs in the matrix engine or the stream unit (R120, R323). -/
structure EngineOp where
  slot : Nat
  op : Op
  started : Bool
  /-- An uncorrectable operand error has been met once (R131). -/
  retried : Bool
  deriving DecidableEq, Repr

/-- A virtual-time event held or in flight (R227, R375). -/
structure VtEvent where
  stamp : Nat
  sender : Nat
  seq : Nat
  /-- The payload's 32 bytes. -/
  payload : List Byte
  vc : Clock
  deriving DecidableEq, Repr

/-- An in-neighbour (R226, R229): its core, lookahead and largest published clock. -/
structure InNbr where
  core : Nat
  look : Nat
  pub : Nat
  deriving DecidableEq, Repr

/-- A range of local-store granules that a courier job has in flight (R135, R178). -/
structure Tag where
  job : Nat
  /-- First granule and granule count, within the core's 2 MiB. -/
  first : Nat
  count : Nat
  write : Bool
  deriving DecidableEq, Repr

/-- A compute core (R84). -/
structure Core where
  /-- Slot that issued last (R87). -/
  last : Nat
  threads : Tab Thread
  /-- Rows that the `resz` or `mapld` of a slot has locked (R104, R105), and the run of row-store bits that the move of a slot
  has claimed (R103). -/
  locks : List (Nat × List Nat)
  claims : List (Nat × Nat × Nat)
  /-- Slots in the trap queue, in entry order (R192). -/
  trapQ : List Nat
  queues : Tab QueueReg
  stages : Tab Stage
  barriers : Tab Barrier
  pigeons : Tab Pigeon
  /-- The arrival buffer of 16 messages with their target slots (R117). -/
  arrivals : List (Nat × Msg)
  /-- The refusal list of 32 senders: core and slot (R117). -/
  refusals : List (Nat × Nat)
  /-- Up to 32 posted stores, oldest first (R336). -/
  posted : List Posted
  /-- The accumulator store: element row * 64 + column; absent is zero (R129). -/
  acc : Tab Nat
  /-- Tiles whose dirty flag is set, and whose saturation flag is set (R129). -/
  dirty : List Nat
  sat : List Nat
  /-- The weight buffer's 16 slots (R125). -/
  wbuf : Tab WSlot
  /-- The side memory: byte record * 64 + offset; absent is zero (R128). -/
  side : Mem
  /-- Where each `mldm` took its records from: first record, local address, length (R361). -/
  sideSrc : List (Nat × Nat × Nat)
  /-- The matrix engine's instructions in issue order, and the stream unit's. -/
  matrixQ : List EngineOp
  streamQ : List EngineOp
  /-- Jobs that hold a place of the courier port, in the order they were accepted (R133). -/
  portQ : List Nat
  /-- Next job tag (R365). -/
  nextTag : Nat
  /-- The 16 most recently accepted jobs, newest first (R367). -/
  recent : List Nat
  /-- The virtual clock (R228). -/
  vt : Word64
  events : List VtEvent
  /-- In-neighbours, once declared (R226). -/
  inNbrs : Option (List InNbr)
  /-- Out-neighbours with their lookaheads. -/
  outNbrs : List (Nat × Nat)
  /-- Last sequence number sent to each receiver (R227). -/
  sendSeq : Tab Nat
  /-- Places of this core's quota in use at each receiver (R229). -/
  quota : Tab Nat
  /-- Receivers to which the core's clock has still to go, behind an event that waits for its place (R227, R228). -/
  clockHeld : List Nat
  /-- Slots blocked in `vtrecv`, in the order they blocked (R230). -/
  vtWait : List Nat
  /-- `cw.ready` (R246). -/
  readyNone : BitVec 16
  readyOne : BitVec 16
  readyTwo : BitVec 16
  readyFour : BitVec 16
  /-- MODEL: histories for race detection (R174): by granule, by register-window field, by tile. -/
  hGran : Tab (List Access)
  hWin : Tab (List Access)
  hTile : Tab (List Access)
  tags : List Tag
  /-- MODEL: the releases that the value of each 4-byte local word carries (R182). -/
  heads : Tab (List Head)
  deriving DecidableEq, Repr

/-- An extent table entry (R72), with the range it was filled from, which its thread shares divide (R60, R177). -/
structure Extent where
  mode : Nat
  perm : Nat
  vbase : Nat
  pbase : Nat
  share : Nat
  len : Nat
  /-- Base and length of the whole range. -/
  rbase : Nat
  rlen : Nat
  /-- The runs of its pages that are marked comp (R70): task virtual base and length. -/
  comp : List (Nat × Nat)
  /-- Filled by `lease` (R76). -/
  leased : Bool
  deriving DecidableEq, Repr

/-- Why a task ends by EXTENT (R197). -/
structure ExtentEnd where
  thread : Nat
  lane : Nat
  reason : Nat
  adr : Nat
  deriving DecidableEq, Repr

/-- A task: the running form of a node (R11, R68, R69, R75). -/
structure Task where
  part : Nat
  core : Nat
  /-- Append number of its node. -/
  app : Nat
  hw : Nat
  localBase : Nat
  ta : Nat
  code : Nat
  codelen : Nat
  /-- Threads it started with. -/
  threads : Nat
  /-- Its slots, `done` threads included (R371). -/
  slots : List Nat
  ext : Tab Extent
  /-- Handler offset and cause mask (R193). -/
  handler : Option (Nat × Nat)
  /-- Pages of 64 KiB its leases count in, by the extent entry that holds them (R74, R75). -/
  leases : List (Nat × Nat)
  ending : Option ExtentEnd
  /-- MODEL: the history of each thread share (R174): entry * 16 + owner. -/
  hShare : Tab (List Access)
  /-- MODEL: what happens before its threads start. -/
  vc : Clock
  deriving DecidableEq, Repr

/-- A footprint range (R60). -/
structure Range where
  mode : Nat
  base : Nat
  share : Nat
  len : Nat
  deriving DecidableEq, Repr

/-- A node record (R59). -/
structure NodeRec where
  code : Nat
  codelen : Nat
  entry : Nat
  argoff : Nat
  arglen : Nat
  hw : Nat
  threads : Nat
  prio : Nat
  aff : Nat
  kind : Nat
  preds : List Nat
  ranges : List Range
  deriving DecidableEq, Repr

/-- Where a live node stands (R63-R68, R82). -/
inductive NodeState where
  /-- Counts not yet zero. -/
  | waiting
  /-- Ready, not in a pool. -/
  | ready
  /-- In the ready pool of a cluster. -/
  | pooled (cl : Nat)
  /-- Taken by a dispatcher; pages still to be made resident. -/
  | preparing (cl : Nat)
  /-- Its lease is held and it waits for a core. -/
  | prepared (cl : Nat)
  /-- Its task runs. -/
  | running (task : Nat)
  /-- A repeat node that has read a predicate and waits for room to re-arm. -/
  | rearm (predicate : Nat)
  deriving DecidableEq, Repr

/-- A live node (R62-R65). -/
structure Node where
  graph : Nat
  index : Nat
  desc : NodeRec
  /-- Append numbers of the live predecessors, declared and derived. -/
  preds : List Nat
  derived : List Nat
  st : NodeState
  spawned : Bool
  /-- The cluster whose pool it found full and waits for (R66), and whether it was prepared and has come back to the head of its
  pool (R75). -/
  wants : Option Nat
  returned : Bool
  /-- The record that appended it or made it ready (R216). (DEDUCED, log 67) -/
  after : Option (Nat × Nat)
  /-- Pages leased while it is prepared (R68), and the extents they give. -/
  leases : List (Nat × Nat)
  ext : Tab Extent
  /-- MODEL: what happens before its start (R170). -/
  vc : Clock
  deriving DecidableEq, Repr

/-- How a record ends when not with success (R53). -/
structure RecError where
  kind : Nat
  node : Nat
  thread : Nat
  lane : Nat
  reason : Nat
  adr : Nat
  deriving DecidableEq, Repr

/-- A graph record that has been accepted and is not complete (R58, R63, R82). -/
structure Graph where
  queue : Nat
  seq : Nat
  space : Nat
  nnodes : Nat
  nodes : List NodeRec
  arg : Nat
  cword : Nat
  cval : Nat
  iter : Nat
  spawned : Nat
  aborted : Bool
  err : Option RecError
  /-- The op 1 record of the last node to complete (R216). -/
  lastDone : Option (Nat × Nat)
  /-- MODEL: what happens before the record's completion. -/
  vc : Clock
  deriving DecidableEq, Repr

/-- A launch record (R40). -/
structure Launch where
  seq : Nat
  kind : Nat
  graph : Nat
  arg : Nat
  cword : Nat
  cval : Nat
  /-- A reserved field is not zero. -/
  bad : Bool
  deriving DecidableEq, Repr

/-- A launch queue (R39, R42). -/
structure Queue where
  header : Nat
  ring : Nat
  entries : Nat
  owner : Nat
  t1 : Nat
  t2 : Nat
  taken : Nat
  rung : Nat
  state : Nat
  fault : Bool
  stale : Bool
  overrun : Bool
  /-- Records completed; the status word shows it modulo 2^16. -/
  done : Nat
  /-- Records taken. -/
  count : Nat
  /-- A fence record that has been taken and not released (R40). -/
  fence : Option Launch
  /-- Records taken behind the fence and not yet acted on, oldest first. (DESIGN CHOICE, log 69) -/
  hold : List Launch
  deriving DecidableEq, Repr

/-- MODEL: a step of another agent, with what it is about. -/
structure Due where
  step : Instr
  args : List Nat
  deriving DecidableEq, Repr

/-- What waits for a place in the order log or for its turn under replay (R218, R221): a thread, or a step. -/
inductive Waiter where
  | thread (core slot : Nat)
  | step (i : Due)
  deriving DecidableEq, Repr

/-- The order log of a partition (R210-R223). Header and records stand in memory; these are the device's own. -/
structure Log where
  wr : Nat
  /-- The rd value last accepted (R211). -/
  rd : Nat
  flags : Nat
  stalls : Nat
  /-- Records each source has written, or under replay has passed (R212, R220). -/
  seqs : Tab Nat
  /-- Held operations, in the order their requests reached the allocator. -/
  held : List Waiter
  /-- Held operations to which a freed place has been granted. -/
  granted : List Waiter
  /-- Operations waiting for their turn under replay, with their sources. -/
  turns : List (Nat × Waiter)
  diverged : Bool
  deriving DecidableEq, Repr

/-- How far a stop of a partition has come (R47, R38, R200). -/
inductive Ladder where
  | none
  /-- Draining until T1. -/
  | drain
  /-- Halted, saving until T2. -/
  | save
  /-- Halted by a fatal fault; its dump is not yet complete. -/
  | dump
  /-- At the end of the ladder. -/
  | stopped
  deriving DecidableEq, Repr

/-- A fatal fault whose dump is due or under way (R200-R204). -/
structure Dump where
  core : Nat
  slot : Nat
  task : Nat
  cause : Nat
  epc : Nat
  eval : Nat
  /-- The first trap, or the second fault of the context (R194, R204): cause, slot and `cw.epc`. -/
  second : Option (Nat × Nat × Nat)
  /-- Dump slot taken, once the dump has begun. -/
  dslot : Option Nat
  /-- The `count` of the area's header after it began. -/
  seq : Nat
  /-- It is complete, truncated, or found no free slot. -/
  done : Bool
  deriving DecidableEq, Repr

/-- A context save (R206): the cores as they halted and the local-store bytes of their tasks. -/
structure Saved where
  cores : Tab Core
  loc : Mem
  deriving DecidableEq, Repr

/-- A page that a porter made resident (R73): the leaf that maps it, and its backing copy. -/
structure Frame where
  size : Nat
  leaf : Nat
  space : Nat
  va : Nat
  back : Nat
  zfill : Bool
  /-- MODEL: order of its last release. -/
  released : Nat
  deriving DecidableEq, Repr

/-- A request to a porter to make one page resident (R68, R73): the node, space and page, or the `lease` that asks. -/
structure Residency where
  part : Nat
  app : Nat
  space : Nat
  va : Nat
  deriving DecidableEq, Repr

/-- An active partition (R35-R47, R58-R69). Its number is its lowest cluster (R39). -/
structure Part where
  rcb : Nat
  mode : Nat
  logpol : Nat
  fdom : Nat
  prio : Nat
  clusters : List Nat
  mem : Nat
  logbase : Nat
  logbytes : Nat
  courier : Nat
  queues : Tab Queue
  /-- Last append number given (R62). -/
  append : BitVec 32
  live : Tab Node
  graphs : Tab Graph
  /-- The dump area's base (R200). -/
  dumpBase : Nat
  dumps : List Dump
  ladder : Ladder
  /-- Every thread is stopped at an instruction boundary (R47 rung 2, R200). -/
  halted : Bool
  /-- T2 of the pre-empting queue, and the reason a rung-3 reset gives (R47). -/
  t2 : Nat
  reason : Nat
  saved : Option Saved
  log : Log
  /-- Frames that porters drew from its budget, by base (R73). -/
  frames : Tab Frame
  residency : List Residency
  /-- Addresses of the access-table entries that the stewards wrote for it (R50). -/
  entries : List Nat
  /-- Bytes of its budget that the save area holds on each die (R206). -/
  shadow : List Nat
  /-- The states in which a stop found its threads: core, slot and code of R399. -/
  found : List (Nat × Nat × Nat)
  deriving DecidableEq, Repr

/-- The fields of an active region node that its children are checked against (R36, R37). -/
structure Region where
  parent : Nat
  part : Bool
  level : Nat
  grant : List Nat
  mem : Nat
  logbytes : Nat
  courier : Nat
  fdom : Nat
  prio : Nat
  deriving DecidableEq, Repr

/-- What a home slice keeps of a 64 KiB page (R74, R77). -/
structure Page where
  leases : Nat
  queued : Bool
  overflow : Bool
  moving : Bool
  /-- Accesses from dies 0-3 and from the fabric. -/
  counts : List Nat
  /-- Die whose notice is held back, or that a move under way goes to (R77, R79). -/
  dest : Nat
  deriving DecidableEq, Repr

/-- A range of a courier card: a local run or a task virtual run with its physical base (R364). -/
structure Run where
  virt : Bool
  adr : Nat
  /-- Offset in the core's local store, or physical address. -/
  phys : Nat
  len : Nat
  deriving DecidableEq, Repr

/-- A courier job (R133-R145, R363-R368). -/
structure Job where
  core : Nat
  slot : Nat
  task : Nat
  agent : Nat
  tag : Nat
  /-- 0 `cpy`, 1 `qcpy`, 2 `zcpy`, 3 `xcpy`. -/
  kind : Nat
  src : Nat
  dst : Nat
  len : Nat
  cw : Nat
  cval : Nat
  ver : Nat
  flags : Nat
  p0 : Nat
  p1 : Nat
  p2 : Nat
  reads : List Run
  writes : List Run
  /-- 1 queued, 2 running, 3 ended (R367). -/
  state : Nat
  code : Nat
  zblk : Bool
  tiny : Bool
  rawc : Bool
  cancel : Bool
  /-- Expansion (R142, R143): chunks that have taken permits, that have been given slots, and that have been delivered; the
  first chunk's slot; the first failed chunk and its code. -/
  taken : Nat
  given : Nat
  delivered : Nat
  firstSlot : Nat
  failed : Option (Nat × Nat)
  /-- Chunks written to their slots, by their place in the job, whose lanes may finish in any order (R142). -/
  written : List Nat
  /-- The issuing thread's latest record as the port accepted the card (R216). (DEDUCED, log 67) -/
  after : Option (Nat × Nat)
  vc : Clock
  deriving DecidableEq, Repr

/-- A counter of a barrier unit (R343). -/
structure BarUnit where
  /-- Expected count received last. -/
  expect : Nat
  /-- Arrivals still expected in the phase under way; none between phases. -/
  left : Option Nat
  deriving DecidableEq, Repr

/-- Phases of a frequency step change (R28, R29). -/
inductive Change where
  | none
  | rampUp (step : Nat)
  | relock (step : Nat)
  | rampDown
  deriving DecidableEq, Repr

/-- A cached translation (R71). -/
structure Tlb where
  space : Nat
  va : Nat
  size : Nat
  /-- Physical address of the leaf and its two words. -/
  leaf : Nat
  word0 : Nat
  word1 : Nat
  deriving DecidableEq, Repr

/-- The debug block of a die (R235-R244). -/
structure Debug where
  enable : Bool
  /-- Breakpoint words 0 and 1, entry i at 2i and 2i + 1. -/
  bp : Tab Nat
  wp : Tab Nat
  freezeRec : Nat
  traceBase : Nat
  traceSize : Nat
  written : Nat
  lost : Nat
  sel : Tab Nat
  deriving DecidableEq, Repr

/-- A die (R12, R27-R30, R32, R43, R45, R71, R81, R235). -/
structure Die where
  step : Nat
  target : Nat
  change : Change
  cyc : Word64
  etime : Word64
  admission : Nat
  /-- Held below the steward's target by the power limit, and by temperature (R30). -/
  powerHold : Bool
  thermalHold : Bool
  /-- The submission FIFO: function and value written, oldest first (R43). -/
  fifo : List (Nat × Nat)
  drops : BitVec 32
  rejects : BitVec 32
  /-- A steward restart is under way (R45). -/
  restart : Bool
  tlb : List Tlb
  dbg : Debug
  /-- The firing that the snapshot registers of the die's blocks latched last (R55). (DESIGN CHOICE, log 86) -/
  latched : Nat
  deriving DecidableEq, Repr

/-- The notification queue of a porter core (R78). -/
structure Notices where
  /-- Page and requesting die, oldest first. -/
  entries : List (Nat × Nat)
  /-- Places of the ring of 256 at which the oldest entry stands and the next will. -/
  head : Nat
  tail : Nat
  deferred : Nat
  deriving DecidableEq, Repr

/-- A fabric port (R21, R22). -/
structure Port where
  up : Bool
  retries : Nat
  /-- Payloads of the frames received intact, newest first. (DESIGN CHOICE, log 54) -/
  frames : List (List Nat)
  deriving DecidableEq, Repr

/-- One event of a host function's ring (R51-R53): its 32 bytes. -/
abbrev Event := List Nat

/-- The event ring of a host function (R51). -/
structure Ring where
  events : List Event
  /-- The ring has no free place. (DESIGN CHOICE, log 30) -/
  full : Bool
  /-- Times that the function's MSI-X vector 0 has been raised. -/
  raised : Nat
  /-- Last sequence number of each source. -/
  seqs : Tab Nat
  /-- Events of each source lost since its last delivered one. -/
  lost : Tab Nat
  deriving DecidableEq, Repr

/-- The host side: registers of the page (R32), rings, and the completion of the last host read (R16). (DEDUCED, log 39) -/
structure HostSt where
  /-- Queue command result by function. -/
  queueResult : Tab Nat
  regionResult : Nat
  powerLimit : Nat
  /-- A power limit that PF0 has written and the controller's next sample puts in use (R33). -/
  powerNext : Option Nat
  migThreshold : Nat
  /-- The attestation mailbox: the words written, by function * 256 + offset. -/
  mailbox : Tab Nat
  /-- The reply of a function's last attestation request (R57). -/
  reply : Tab (List Nat)
  rings : Tab Ring
  linkUp : Bool
  /-- Bytes of the last host read, or none for Unsupported Request, and whether they came poisoned (R17). -/
  lastRead : Option (List Nat)
  lastPoison : Bool
  deriving DecidableEq, Repr

/-- The package (R14, R21, R30, R55-R57, R242). -/
structure Pkg where
  num : Nat
  /-- M0-M3 (R57). -/
  measure : List Nat
  /-- Boot stage reached, images verified at stage 2, security version and fused counter (R56). -/
  stage : Nat
  verified : List Nat
  version : Nat
  fused : Nat
  bootFailed : Bool
  frozen : Bool
  /-- A trigger firing is spreading; number of the last firing that completed (R55). -/
  firing : Bool
  /-- DESIGN CHOICE, log 86. -/
  snapshot : Nat
  /-- Threads that wait for the firing under way (R385): core and slot. -/
  snapWait : List (Nat × Nat)
  /-- Host requests that wait for the stewards of a die to restart (R45): the die and the step. (DESIGN CHOICE, log 70) -/
  parked : List (Nat × Due)
  /-- Clocks stopped by a thermal trip, or all work stopped by a device-fatal fault (R30, R205). -/
  tripped : Bool
  fatal : Bool
  /-- Candidate ports per destination package (R21). -/
  routes : Tab (Nat × Nat)
  ports : Tab Port
  /-- Rate in GT/s and width of each trained CXL port (R18). -/
  cxl : Tab (Nat × Nat)
  /-- Pair of packages that the last bring-up found too far apart (R21). -/
  offending : Option (Nat × Nat)
  deriving DecidableEq, Repr

/-- MODEL: a step that falls due at a count of a die's clocks or of its elapsed time. -/
structure Timer where
  ev : Due
  die : Nat
  /-- Counts `cw.cyc`; otherwise `cw.etime`. -/
  onCyc : Bool
  due : Nat
  deriving DecidableEq, Repr

/-- The whole machine. -/
structure State where
  /-- Memory of the load-store domain by 52-bit physical address (R14). (DEDUCED, log 62) -/
  mem : Mem
  /-- Local store of every core: core * 2^21 + offset (R111). -/
  loc : Mem
  cores : Tab Core
  tasks : Tab Task
  parts : Tab Part
  /-- Active region nodes by RCB address (R37). -/
  regions : Tab Region
  pages : Tab Page
  jobs : Tab Job
  barUnits : Tab BarUnit
  dies : Tab Die
  notices : Tab Notices
  /-- Flits in each direction of each die-to-die link, source die * 4 + destination die, oldest first (R25), each
  with the die it is bound for. -/
  links : Tab (List (Nat × Due))
  /-- Flits that a sender holds for want of an allowance, by the same numbers (R25, R26). -/
  unsent : Tab (List (Nat × Due))
  pkg : Pkg
  host : HostSt
  /-- Access-table words by physical address; an unlisted word is at its reset value (R48, R50). -/
  acl : Tab Nat
  /-- MODEL: the releases that the value of each 4-byte word of device memory carries (R182). -/
  heads : Tab (List Head)
  /-- Words with an uncorrectable error: unit, core, place (R198), and corrected errors counted by unit (R17, R198). -/
  bad : List (Nat × Nat × Nat)
  /-- DEDUCED, log 37. -/
  corrected : Tab Nat
  /-- MODEL: the core and slot whose instruction the step runs. -/
  cur : Option (Nat × Nat)
  /-- MODEL: what the step of another agent that runs now is about. -/
  args : List Nat
  /-- MODEL: core after which the next core to issue is looked for. -/
  turn : Nat
  /-- MODEL: counts of agents, tasks, jobs, graphs and lease releases so far. -/
  agents : Nat
  taskCount : Nat
  jobCount : Nat
  graphCount : Nat
  releases : Nat
  /-- MODEL: steps so far. -/
  tick : Nat
  /-- MODEL: what the outside world does next, and choices of which step comes next, oldest first. -/
  inputs : List Due
  /-- MODEL: steps that earlier steps have made due, oldest first. -/
  pending : List Due
  timers : List Timer
  /-- MODEL: the frames that porters will choose, oldest first. -/
  frameChoice : List Nat
  deriving DecidableEq, Repr

/-- Why the machine stops. -/
inductive Fault where
  /-- Raised by an instruction of a thread when no thread issues: `exec` was asked to run a word with no slot to run it
  in. Safe: no step of the machine does so. -/
  | noThread
  deriving DecidableEq, Repr

/-- Why an instruction has no meaning. -/
inductive Refusal where
  /-- Raised by an arm of `exec` whose instruction has not been given its meaning. Safe: nothing can be proved of it. -/
  | notModelled (mnemonic : String)
  deriving DecidableEq, Repr

/-- A core after reset (R87, R111-R118, R129, R228, R246, R365). (DESIGN CHOICE, log 3; DESIGN CHOICE, log 5) -/
def Core.reset : Core :=
  { last := 15, threads := [], locks := [], claims := [], trapQ := [], queues := [], stages := [], barriers := [], pigeons := [],
    arrivals := [], refusals := [], posted := [], acc := [], dirty := [], sat := [], wbuf := [], side := [],
    sideSrc := [], matrixQ := [], streamQ := [], portQ := [], nextTag := 1, recent := [], vt := 0, events := [],
    inNbrs := none, outNbrs := [], sendSeq := [], quota := [], clockHeld := [], vtWait := [], readyNone := 0, readyOne := 0,
    readyTwo := 0, readyFour := 0, hGran := [], hWin := [], hTile := [], tags := [], heads := [] }

/-- The debug block after reset (R235, R236, R243). (DESIGN CHOICE, log 85) -/
def Debug.reset : Debug :=
  { enable := false, bp := [], wp := [], freezeRec := 0, traceBase := 0, traceSize := 0, written := 0, lost := 0,
    sel := [] }

/-- A die after reset: step 2, 1,200 MHz (R29), counters zero (R28, R32). (DESIGN CHOICE, log 6) -/
def Die.reset : Die :=
  { step := 2, target := 2, change := .none, cyc := 0, etime := 0, admission := 128, powerHold := false,
    thermalHold := false, fifo := [], drops := 0, rejects := 0, restart := false, tlb := [],
    dbg := .reset, latched := 0 }

/-- The host side after reset (R32, R33). (DESIGN CHOICE, log 51; DESIGN CHOICE, log 85) -/
def HostSt.reset : HostSt :=
  { queueResult := [], regionResult := 0, powerLimit := 2200, powerNext := none, migThreshold := 1024, mailbox := [], reply := [],
    rings := [], linkUp := true, lastRead := some [], lastPoison := false }

/-- The package after reset: boot stage 1 (R56), M0-M3 cleared (R57). (DESIGN CHOICE, log 7; DESIGN CHOICE, log 8; DESIGN CHOICE, log 51; DESIGN CHOICE, log 85) -/
def Pkg.reset : Pkg :=
  { num := 0, measure := [0, 0, 0, 0], stage := 1, verified := [], version := 0, fused := 0, bootFailed := false,
    frozen := false, firing := false, snapshot := 0, snapWait := [], parked := [], tripped := false, fatal := false, routes := [],
    ports := [], cxl := [], offending := none }

/-- The machine right after package reset: no region active, no task, memory with nothing listed. (DESIGN CHOICE, log 1; DESIGN CHOICE, log 2) -/
def State.reset : State :=
  { mem := [], loc := [], cores := [], tasks := [], parts := [], regions := [], pages := [], jobs := [],
    barUnits := [], dies := [], notices := [], links := [], unsent := [], pkg := .reset, host := .reset, acl := [], heads := [],
    bad := [], corrected := [], cur := none, args := [], turn := 511, agents := 0, taskCount := 0, jobCount := 0, graphCount := 0,
    releases := 0, tick := 0, inputs := [], pending := [], timers := [], frameChoice := [] }

end Sys2Proof.Machine
end

