-- ==== Sys2Proof/Machine/Tables.lean ====
section
/-!
DEFINITION. Tables by key and memory by address: reading, writing, and the canonical form that makes equal contents equal
data. Byte order (R2) is decided here once.
-/

namespace Sys2Proof.Machine

/-- The entry of a key. -/
def look {α : Type} : Tab α → Nat → Option α
  | [], _ => none
  | (a, x) :: r, k => if a = k then some x else look r k

/-- The entry of a key, or a default. -/
def lookD {α : Type} (t : Tab α) (k : Nat) (d : α) : α :=
  (look t k).getD d

/-- Set the entry of a key, keeping the keys strictly rising. -/
def put {α : Type} : Tab α → Nat → α → Tab α
  | [], k, v => [(k, v)]
  | (a, x) :: r, k, v =>
    if k < a then (k, v) :: (a, x) :: r else if a = k then (k, v) :: r else (a, x) :: put r k v

/-- Remove the entry of a key. -/
def del {α : Type} : Tab α → Nat → Tab α
  | [], _ => []
  | (a, x) :: r, k => if a = k then del r k else (a, x) :: del r k

/-- Keys strictly rising. -/
abbrev Tab.wf {α : Type} (t : Tab α) : Prop :=
  t.Pairwise (fun x y => x.1 < y.1)

/-- What an unlisted address of memory or local store reads as. (DESIGN CHOICE, log 1; DESIGN CHOICE, log 2) -/
def unlisted : Byte := 0

/-- The byte at an address. (DESIGN CHOICE, log 1) -/
def Mem.get : Mem → Nat → Byte
  | [], _ => unlisted
  | (a, b) :: r, k => if a = k then b else Mem.get r k

/-- Write one byte, keeping the canonical form: the value an unlisted address reads as removes the entry. -/
def Mem.set : Mem → Nat → Byte → Mem
  | [], k, v => if v = unlisted then [] else [(k, v)]
  | (a, b) :: r, k, v =>
    if k < a then (if v = unlisted then (a, b) :: r else (k, v) :: (a, b) :: r)
    else if a = k then (if v = unlisted then r else (k, v) :: r)
    else (a, b) :: Mem.set r k v

/-- The canonical form: addresses strictly rising, no entry equal to what an unlisted address reads as. -/
abbrev Mem.wf (m : Mem) : Prop :=
  m.Pairwise (fun x y => x.1 < y.1) ∧ ∀ x ∈ m, x.2 ≠ unlisted

/-- n bytes from an address up. -/
def Mem.bytes (m : Mem) (a : Nat) : Nat → List Byte
  | 0 => []
  | n + 1 => m.get a :: Mem.bytes m (a + 1) n

/-- The number of n bytes from an address up, little-endian (R2). -/
def Mem.read (m : Mem) (a : Nat) : Nat → Nat
  | 0 => 0
  | n + 1 => (m.get a).toNat + 256 * Mem.read m (a + 1) n

/-- The number of a list of bytes, lowest address first. -/
def leNat : List Byte → Nat
  | [] => 0
  | b :: r => b.toNat + 256 * leNat r

/-- The n low bytes of a number, lowest address first. -/
def leBytes (v : Nat) : Nat → List Byte
  | 0 => []
  | n + 1 => BitVec.ofNat 8 v :: leBytes (v / 256) n

/-- Numbers of a width in bytes, lowest address first. -/
def packWords (width : Nat) (l : List Nat) : List Byte := l.flatMap (fun v => leBytes v width)

/-- Join two clocks: the later count of each agent. -/
def Clock.join (a b : Clock) : Clock :=
  b.foldl (fun acc x => put acc x.1 (max x.2 (lookD acc x.1 0))) a

/-- The first n of a list of numbers from a start. -/
def upFrom (a : Nat) : Nat → List Nat
  | 0 => []
  | n + 1 => a :: upFrom (a + 1) n

/-- Bits hi down to lo of a number. -/
def bits (w hi lo : Nat) : Nat :=
  w / 2 ^ lo % 2 ^ (hi + 1 - lo)

/-- Bit i of a number. -/
def bit (w i : Nat) : Bool :=
  w / 2 ^ i % 2 = 1

/-- A number as a bit at a place. -/
def bitAt (b : Bool) (i : Nat) : Nat :=
  if b then 2 ^ i else 0

/-- The numbers below n at which a mask has a one. -/
def ones (mask n : Nat) : List Nat :=
  (upFrom 0 n).filter (fun i => bit mask i)

/-- Count of ones of a mask below n. -/
def popcount (mask n : Nat) : Nat :=
  (ones mask n).length

/-- Insert into a list that a relation keeps in order, after its equals. -/
def insertBy {α : Type} (before : α → α → Bool) (x : α) : List α → List α
  | [] => [x]
  | y :: r => if before x y then x :: y :: r else y :: insertBy before x r

/-- Sort by insertion, equals in their given order. -/
def sortBy {α : Type} (before : α → α → Bool) (l : List α) : List α :=
  l.foldl (fun acc x => insertBy before x acc) []

/-- Replace the i-th entry of a list. -/
def setAt {α : Type} : List α → Nat → α → List α
  | [], _, _ => []
  | _ :: r, 0, v => v :: r
  | x :: r, i + 1, v => x :: setAt r i v

/-- Round up to a multiple. -/
def roundUp (a m : Nat) : Nat :=
  (a + m - 1) / m * m

/-- Two intervals of addresses share a byte. -/
def overlaps (a n b m : Nat) : Bool :=
  decide (a < b + m) && decide (b < a + n) && decide (0 < n) && decide (0 < m)

/-! ### Physical addresses (R14) -/

/-- Package of a physical address, and offset within it (R14). (DESIGN CHOICE, log 7) -/
def pkgOf (a : Nat) : Nat := a / 2 ^ 46
def offsetOf (a : Nat) : Nat := a % 2 ^ 46

/-- The die whose device memory holds an address. -/
def memDie (a : Nat) : Option Nat :=
  if offsetOf a < 2 ^ 42 ∧ offsetOf a % 2 ^ 40 < 768 * 2 ^ 30 then some (offsetOf a / 2 ^ 40) else none

/-- The second-tier window. -/
def secondTier (a : Nat) : Bool := decide (2 ^ 44 ≤ offsetOf a) && decide (offsetOf a < 2 ^ 45)

/-- An address that holds bytes of device or second-tier memory. -/
def backed (a : Nat) : Bool := (memDie a).isSome || secondTier a

/-- A byte of some core's local store (R111): core * 2^21 + offset. (DESIGN CHOICE, log 2) -/
def inLocal (a : Nat) : Bool := decide (a < 512 * 2097152)

/-- A list with a number in it, once. -/
def addOnce (l : List Nat) (n : Nat) : List Nat := if l.contains n then l else l ++ [n]

end Sys2Proof.Machine
end

