-- ==== Sys2Proof/Machine/Floats.lean ====
section
/-!
DEFINITION. Float formats, exact values and the one rounding (R147-R154). A value is an exact rational with a sign, so
that every operation is formed exactly and rounded once. An irrational result (square root, exponential, logarithm) is
the middle of an interval 2^-p wide that holds it, which rounds as it does because no rounding boundary lies inside.
-/

namespace Sys2Proof.Machine

/-- The value of a float: the number n / d with a sign (zero keeps its sign), an infinity, or NaN. -/
inductive FVal where
  | nan
  | inf (neg : Bool)
  | num (neg : Bool) (n d : Nat)
  deriving DecidableEq, Repr

/-- A float format of R147: exponent bits, bias, stored significand bits, whether it has infinities, and the bit string of
its largest finite value and of its canonical NaN (R148). -/
structure Fmt where
  width : Nat
  exp : Nat
  bias : Nat
  man : Nat
  hasInf : Bool
  maxBits : Nat
  nanBits : Nat
  deriving DecidableEq, Repr

def fmtE4M3 : Fmt := { width := 8, exp := 4, bias := 7, man := 3, hasInf := false, maxBits := 0x7E, nanBits := 0x7F }
def fmtE5M2 : Fmt := { width := 8, exp := 5, bias := 15, man := 2, hasInf := true, maxBits := 0x7B, nanBits := 0x7E }
def fmtF16 : Fmt := { width := 16, exp := 5, bias := 15, man := 10, hasInf := true, maxBits := 0x7BFF, nanBits := 0x7E00 }
def fmtBF16 : Fmt := { width := 16, exp := 8, bias := 127, man := 7, hasInf := true, maxBits := 0x7F7F, nanBits := 0x7FC0 }
def fmtF32 : Fmt :=
  { width := 32, exp := 8, bias := 127, man := 23, hasInf := true, maxBits := 0x7F7FFFFF, nanBits := 0x7FC00000 }
def fmtF64 : Fmt :=
  { width := 64, exp := 11, bias := 1023, man := 52, hasInf := true, maxBits := 0x7FEFFFFFFFFFFFFF
    nanBits := 0x7FF8000000000000 }

/-- The format of a float kind. -/
def Kind.fmt? : Kind → Option Fmt
  | .uns => none
  | .sgn => none
  | .f8e4m3 => some fmtE4M3
  | .f8e5m2 => some fmtE5M2
  | .f16 => some fmtF16
  | .bf16 => some fmtBF16
  | .f32 => some fmtF32
  | .f64 => some fmtF64

def Kind.isFloat (k : Kind) : Bool := k.fmt?.isSome
def Kind.isInt (k : Kind) : Bool := !k.isFloat

/-- The kind codes of R95. -/
def Kind.ofCode : Nat → Option Kind
  | 0 => some .uns
  | 1 => some .sgn
  | 2 => some .f8e4m3
  | 3 => some .f8e5m2
  | 4 => some .f16
  | 5 => some .bf16
  | 6 => some .f32
  | 7 => some .f64
  | _ => none

def Kind.code : Kind → Nat
  | .uns => 0
  | .sgn => 1
  | .f8e4m3 => 2
  | .f8e5m2 => 3
  | .f16 => 4
  | .bf16 => 5
  | .f32 => 6
  | .f64 => 7

/-- 2^e as numerator and denominator. -/
def pow2Num (e : Int) : Nat := if 0 ≤ e then 2 ^ e.toNat else 1
def pow2Den (e : Int) : Nat := if 0 ≤ e then 1 else 2 ^ (-e).toNat

/-- The value that a bit string denotes (R147). -/
def Fmt.value (f : Fmt) (x : Nat) : FVal :=
  let neg := bit x (f.width - 1)
  let e := x / 2 ^ f.man % 2 ^ f.exp
  let m := x % 2 ^ f.man
  let top := 2 ^ f.exp - 1
  if f.hasInf && e == top then (if m = 0 then .inf neg else .nan)
  else if !f.hasInf && e == top && m == 2 ^ f.man - 1 then .nan
  else
    let sig := if e = 0 then m else m + 2 ^ f.man
    let q : Int := (max e 1 : Nat) - (f.bias : Int) - (f.man : Int)
    .num neg (sig * pow2Num q) (pow2Den q)

/-- The largest e with 2^e ≤ n / d, for n and d not zero. -/
def log2Rat (n d : Nat) : Int :=
  let e : Int := (Nat.log2 n : Int) - (Nat.log2 d : Int)
  if n * pow2Den e < d * pow2Num e then e - 1 else e

/-- How a rounding goes: to the magnitude sig * 2^q below, or to the next one above. -/
def roundsUp (mode : RMode) (neg : Bool) (low rem den draw : Nat) : Bool :=
  match mode with
  | .rne => decide (den < 2 * rem) || (decide (2 * rem = den) && decide (low % 2 = 1))
  | .rtz => false
  | .rup => !neg && decide (rem ≠ 0)
  | .rdn => neg && decide (rem ≠ 0)
  | .rsn => decide (rem ≠ 0) && decide (draw < rem * 16777216 / den)

/-- The bit string of a rounded magnitude sig * 2^q of a format, without its sign. -/
def Fmt.magBits (f : Fmt) (sig : Nat) (q : Int) : Nat :=
  if sig < 2 ^ f.man then sig
  else if sig = 2 ^ (f.man + 1) then ((q + 1 + f.man + f.bias).toNat) * 2 ^ f.man
  else ((q + f.man + f.bias).toNat) * 2 ^ f.man + (sig - 2 ^ f.man)

/-- A rounding's result, before the policy (R154). -/
inductive Rounded where
  | nan
  | inf (neg : Bool)
  | fin (x : Nat)
  deriving DecidableEq, Repr

/-- The sign bit of a format. -/
def Fmt.sign (f : Fmt) (neg : Bool) : Nat := bitAt neg (f.width - 1)

/-- rnd of R6: the exact value rounded to a format under a mode; `draw` is the 24-bit number of R153. (DESIGN CHOICE, log 84) -/
def Fmt.round (f : Fmt) (mode : RMode) (draw : Nat) : FVal → Rounded
  | .nan => .nan
  | .inf neg => .inf neg
  | .num neg 0 _ => .fin (f.sign neg)
  | .num neg n d =>
    let emin : Int := 1 - (f.bias : Int)
    let emax : Int := (f.maxBits / 2 ^ f.man : Nat) - (f.bias : Int)
    let e := log2Rat n d
    -- above the binade of the largest finite value the neighbours are that value and one spacing more (R153)
    let q := (if mode = .rsn then min (max e emin) emax else max e emin) - (f.man : Int)
    let num := n * pow2Den q
    let den := d * pow2Num q
    let maxSig := f.maxBits % 2 ^ f.man + 2 ^ f.man
    let capped := mode = .rsn && decide (q = emax - (f.man : Int)) && decide (maxSig < num / den)
    let low := if capped then maxSig else num / den
    let rem := num - low * den
    let sig := if roundsUp mode neg low rem den draw then low + 1 else low
    let mag := f.magBits sig q
    if f.maxBits < mag then
      match mode with
      | .rne => .inf neg
      | .rtz => .fin (f.sign neg + f.maxBits)
      | .rup => if neg then .fin (f.sign neg + f.maxBits) else .inf neg
      | .rdn => if neg then .inf neg else .fin (f.sign neg + f.maxBits)
      | .rsn => .inf neg
    else .fin (f.sign neg + mag)

/-- The policy's outcome of a rounded result (R154): a bit string, or nothing where FPX is raised. -/
def Fmt.policy (f : Fmt) (p : Policy) : Rounded → Option Nat
  | .fin x => some x
  | .inf neg =>
    match p with
    | .wrap => some (if f.hasInf then f.sign neg + (2 ^ f.exp - 1) * 2 ^ f.man else f.nanBits)
    | .sat => some (f.sign neg + f.maxBits)
    | .trap => none
  | .nan =>
    match p with
    | .wrap => some f.nanBits
    | .sat => some f.nanBits
    | .trap => none

/-- Round and apply a policy. -/
def Fmt.fit (f : Fmt) (mode : RMode) (draw : Nat) (p : Policy) (v : FVal) : Option Nat := f.policy p (f.round mode draw v)

/-! ### Exact arithmetic (R149, R311) -/

def FVal.neg : FVal → FVal
  | .nan => .nan
  | .inf s => .inf (!s)
  | .num s n d => .num (!s) n d

/-- Sum; `rdn` says that the mode in force is rdn, which decides the sign of an exact zero. -/
def FVal.add (rdn : Bool) : FVal → FVal → FVal
  | .nan, _ => .nan
  | _, .nan => .nan
  | .inf s, .inf t => if s = t then .inf s else .nan
  | .inf s, _ => .inf s
  | _, .inf t => .inf t
  | .num s n d, .num t m e =>
    let den := if d % e = 0 then d else if e % d = 0 then e else d * e
    let a := n * (den / d)
    let b := m * (den / e)
    if s = t then .num s (a + b) den
    else if a = b then .num rdn 0 1
    else if b < a then .num s (a - b) den else .num t (b - a) den

def FVal.mul : FVal → FVal → FVal
  | .nan, _ => .nan
  | _, .nan => .nan
  | .inf s, .inf t => .inf (s != t)
  | .inf s, .num t m _ => if m = 0 then .nan else .inf (s != t)
  | .num s n _, .inf t => if n = 0 then .nan else .inf (s != t)
  | .num s n d, .num t m e => .num (s != t) (n * m) (d * e)

def FVal.div : FVal → FVal → FVal
  | .nan, _ => .nan
  | _, .nan => .nan
  | .inf _, .inf _ => .nan
  | .inf s, .num t _ _ => .inf (s != t)
  | .num s _ _, .inf t => .num (s != t) 0 1
  | .num s n d, .num t m e =>
    if m = 0 then (if n = 0 then .nan else .inf (s != t)) else .num (s != t) (n * e) (d * m)

/-- Less than, on values that are not NaN; −0 equals +0 (R314). -/
def FVal.lt : FVal → FVal → Bool
  | .nan, _ => false
  | _, .nan => false
  | .inf s, .inf t => s && !t
  | .inf s, .num _ _ _ => s
  | .num _ _ _, .inf t => !t
  | .num s n d, .num t m e =>
    if n = 0 && m = 0 then false
    else if s && !t then true
    else if !s && t then false
    else if s then decide (m * d < n * e) else decide (n * e < m * d)

/-- Equality of values that are not NaN; −0 equals +0. -/
def FVal.eq (x y : FVal) : Bool :=
  match x, y with
  | .nan, _ => false
  | _, .nan => false
  | _, _ => !x.lt y && !y.lt x

/-- The order of R150 on values that are not NaN: as `lt`, with −0 below +0. -/
def FVal.below (x y : FVal) : Bool :=
  match x, y with
  | .num true 0 _, .num false 0 _ => true
  | _, _ => x.lt y

def FVal.isNan : FVal → Bool
  | .nan => true
  | _ => false

/-- The integer that a mode rounds a finite value to (R155); `draw` as in R153. -/
def FVal.toInt (mode : RMode) (draw : Nat) : FVal → Int
  | .num neg n d =>
    let low := n / d
    let mag := if roundsUp mode neg low (n % d) d draw then low + 1 else low
    if neg then -(mag : Int) else mag
  | _ => 0

/-- The exact value of an integer; zero is +0. -/
def FVal.ofInt (v : Int) : FVal := .num (decide (v < 0)) v.natAbs 1

/-- The binary64 bit string of a value, rounded rne under the ieee policy, and back: every step in binary64 (R158, R164). -/
def rne64 (v : FVal) : FVal :=
  match fmtF64.fit .rne 0 .wrap v with
  | some x => fmtF64.value x
  | none => .nan

/-! ### Irrational results (R316, R164) -/

/-- A value inside an interval from low / 2^p to (low + 1) / 2^p, as its middle. -/
def middle (low p : Nat) : FVal := .num false (2 * low + 1) (2 ^ (p + 1))

/-- Integer square root, by binary digits from the top: `fuel` digits. -/
def isqrtLoop (n : Nat) : Nat → Nat → Nat
  | 0, r => r
  | fuel + 1, r =>
    let c := r + 2 ^ fuel
    isqrtLoop n fuel (if c * c ≤ n then c else r)

def isqrt (n : Nat) : Nat := isqrtLoop n (Nat.log2 n / 2 + 1) 0

/-- Bits below the point that the square roots are formed to: beyond the last bit and the 24 drawn bits of any result. (DEDUCED, log 75) -/
def rootBits : Nat := 1200

/-- √(n / d), exact where it is rational. -/
def sqrtRat (n d : Nat) : FVal :=
  let r := isqrt (n * 2 ^ (2 * rootBits) / d)
  if r * r * d = n * 2 ^ (2 * rootBits) then .num false r (2 ^ rootBits) else middle r rootBits

/-- Fixed point with p bits below the point: 2 atanh(z / 2^p) = Σ 2 z^(2i+1) / (2i+1), `fuel` terms from index i on. -/
def atanhLoop (p zz : Nat) : Nat → Nat → Nat → Nat → Nat
  | 0, _, _, acc => acc
  | fuel + 1, i, pw, acc => atanhLoop p zz fuel (i + 1) (pw * zz / 2 ^ p) (acc + 2 * pw / (2 * i + 1))

def twoAtanh (p z : Nat) : Nat := atanhLoop p (z * z / 2 ^ p) (p / 3 + 2) 0 z 0

/-- ln 2 = 2 atanh(1/3). -/
def ln2 (p : Nat) : Nat := twoAtanh p (2 ^ p / 3)

/-- exp(r / 2^p) for 0 ≤ r < 2^p, by its series. -/
def expLoop (p r : Nat) : Nat → Nat → Nat → Nat → Nat
  | 0, _, _, acc => acc
  | fuel + 1, i, term, acc => expLoop p r fuel (i + 1) (term * r / 2 ^ p / (i + 1)) (acc + term)

def expFix (p r : Nat) : Nat := expLoop p r (p / 3 + 8) 0 (2 ^ p) 0

/-- Bits dropped from a fixed-point result: its error lies well below their weight. -/
def guardBits : Nat := 64

/-- The middle of the interval that holds x / 2^p × 2^k, when the error cannot have moved it across an interval's end. (DEDUCED, log 75; DESIGN CHOICE, log 84) -/
def settle (p x : Nat) (k : Int) : Option FVal :=
  let low := x / 2 ^ guardBits
  let r := x % 2 ^ guardBits
  if r < 2 ^ 32 || 2 ^ guardBits - 2 ^ 32 < r then none
  else
    match middle low (p - guardBits) with
    | .num s n d => some (.num s (n * pow2Num k) (d * pow2Den k))
    | v => some v

/-- Try a function at rising precisions. -/
def rising (f : Nat → Option FVal) : FVal :=
  match f 320 with
  | some v => v
  | none => match f 640 with
    | some v => v
    | none => (f 1280).getD .nan

/-- ⌊(−1)^neg n × 2^p / d⌋. -/
def fixedFloor (neg : Bool) (n d p : Nat) : Int :=
  if neg then -(((n * 2 ^ p + d - 1) / d : Nat) : Int) else ((n * 2 ^ p / d : Nat) : Int)

/-- 2^x for a finite x: exact for an integer x. Below 2^-300 in magnitude the result lies next to 1; beyond 2,100 it lies
outside every format's range. -/
def exp2Val (neg : Bool) (n d : Nat) : FVal :=
  if n % d = 0 && decide (n / d ≤ 2100) then
    (if neg then .num false 1 (2 ^ (n / d)) else .num false (2 ^ (n / d)) 1)
  else if 2100 * d ≤ n then (if neg then .num false 1 (2 ^ 2200) else .num false (2 ^ 2200) 1)
  else if n * 2 ^ 300 < d then (if neg then middle (2 ^ 300 - 1) 300 else middle (2 ^ 300) 300)
  else rising (fun p =>
    let x := fixedFloor neg n d p
    let k := x / 2 ^ p
    let f := (x - k * 2 ^ p).toNat
    settle p (expFix p (f * ln2 p / 2 ^ p)) k)

/-- e^x for a finite x, as 2^k e^r. -/
def expVal (neg : Bool) (n d : Nat) : FVal :=
  if n = 0 then .num false 1 1
  else if 1500 * d ≤ n then (if neg then .num false 1 (2 ^ 2200) else .num false (2 ^ 2200) 1)
  else if n * 2 ^ 300 < d then (if neg then middle (2 ^ 300 - 1) 300 else middle (2 ^ 300) 300)
  else rising (fun p =>
    let x := fixedFloor neg n d p
    let l := ln2 p
    let k := x / l
    settle p (expFix p (x - k * l).toNat) k)

/-- log2 of n / d > 0: exact for a power of two. -/
def log2Val (n d : Nat) : FVal :=
  let e := log2Rat n d
  let num := n * pow2Den e
  let den := d * pow2Num e
  if num = den then FVal.ofInt e
  else rising (fun p =>
    let z := (num - den) * 2 ^ p / (num + den)
    let m := twoAtanh p z * 2 ^ p / ln2 p
    let v : Int := e * 2 ^ p + m
    match settle p v.natAbs 0 with
    | some (.num _ a b) => some (.num (decide (v < 0)) a b)
    | x => x)

/-- The exponential of a binary64 value, rounded to binary64 (R325). (DEDUCED, log 75) -/
def exp64 : FVal → FVal
  | .nan => .nan
  | .inf true => .num false 0 1
  | .inf false => .inf false
  | .num s n d => rne64 (expVal s n d)

end Sys2Proof.Machine
end

