-- ==== Sys2Proof/Machine/Ops.lean ====
section
/-!
DEFINITION. The named operations over the state. Every change of state is one of the acts below, so that what a step can
do is said once; a trail is a state together with the fact that acts lead to it from where the step began. Then: where
things are, what is due next, what happens before what (R170), taking a trap (R190-R192) and returning from one (R193,
R382), and the end of a task by EXTENT (R196).
-/

namespace Sys2Proof.Machine

/-- One primitive change of the state. -/
inductive Act where
  | mem (adr : Nat) (b : Byte)
  | loc (adr : Nat) (b : Byte)
  | core (c : Nat) (k : Core)
  | task (n : Nat) (x : Option Task)
  | part (n : Nat) (x : Option Part)
  | region (adr : Nat) (x : Option Region)
  | page (n : Nat) (x : Page)
  | job (n : Nat) (x : Option Job)
  | barUnit (n : Nat) (x : BarUnit)
  | die (d : Nat) (x : Die)
  | notices (cl : Nat) (x : Notices)
  | link (n : Nat) (x : List (Nat × Due))
  | unsent (n : Nat) (x : List (Nat × Due))
  | pkg (x : Pkg)
  | host (x : HostSt)
  | acl (off v : Nat)
  | heads (adr : Nat) (x : List Head)
  | errors (bad : List (Nat × Nat × Nat)) (corrected : Tab Nat)
  | cur (x : Option (Nat × Nat)) (args : List Nat) (turn : Nat)
  | counts (agents tasks jobs graphs releases : Nat)
  | agenda (tick : Nat) (inputs pending : List Due) (timers : List Timer)
  | frameChoice (x : List Nat)
  | reset
  deriving DecidableEq, Repr

/-- Set or remove an entry. -/
def putOrDel {α : Type} (t : Tab α) (k : Nat) : Option α → Tab α
  | some x => put t k x
  | none => del t k

/-- Package reset (R4): every register at its reset value; what memory and local store hold, the package's number, its
fused counter and the model's own agenda are no registers and stay. (DESIGN CHOICE, log 8) -/
def State.packageReset (s : State) : State :=
  { State.reset with
    mem := s.mem, loc := s.loc, pkg := { Pkg.reset with num := s.pkg.num, fused := s.pkg.fused }, bad := s.bad
    tick := s.tick, inputs := s.inputs, frameChoice := s.frameChoice, agents := s.agents, taskCount := s.taskCount
    jobCount := s.jobCount, graphCount := s.graphCount, releases := s.releases }

/-- What an act does; a write to an unbacked address writes nothing (R16). -/
def Act.apply (s : State) : Act → State
  | .mem a b => { s with mem := if backed a then s.mem.set a b else s.mem }
  | .loc a b => { s with loc := if inLocal a then s.loc.set a b else s.loc }
  | .core c k => { s with cores := put s.cores c k }
  | .task n x => { s with tasks := putOrDel s.tasks n x }
  | .part n x => { s with parts := putOrDel s.parts n x }
  | .region a x => { s with regions := putOrDel s.regions a x }
  | .page n x => { s with pages := put s.pages n x }
  | .job n x => { s with jobs := putOrDel s.jobs n x }
  | .barUnit n x => { s with barUnits := put s.barUnits n x }
  | .die d x => { s with dies := put s.dies d x }
  | .notices c x => { s with notices := put s.notices c x }
  | .link n x => { s with links := put s.links n x }
  | .unsent n x => { s with unsent := put s.unsent n x }
  | .pkg x => { s with pkg := x }
  | .host x => { s with host := x }
  | .acl o v => { s with acl := put s.acl o v }
  | .heads a x => { s with heads := put s.heads a x }
  | .errors b c => { s with bad := b, corrected := c }
  | .cur x a n => { s with cur := x, args := a, turn := n }
  | .counts a t j g r => { s with agents := a, taskCount := t, jobCount := j, graphCount := g, releases := r }
  | .agenda n i p t => { s with tick := n, inputs := i, pending := p, timers := t }
  | .frameChoice x => { s with frameChoice := x }
  | .reset => s.packageReset

/-- A state that acts lead to from another. -/
inductive Reach (s : State) : State → Prop where
  | refl : Reach s s
  | act {t : State} (h : Reach s t) (a : Act) : Reach s (a.apply t)

/-- A state that acts lead to from s, with the fact that they do. -/
abbrev Trail (s : State) := { t : State // Reach s t }

/-- Where a step begins. -/
def begin (s : State) : Trail s := ⟨s, .refl⟩

/-- One act more. -/
def Trail.act {s : State} (t : Trail s) (a : Act) : Trail s := ⟨a.apply t.1, .act t.2 a⟩

/-- The outcome of a step that has come to a next state. -/
def done {s : State} (t : Trail s) : Host.Outcome State Fault Refusal := .next t.1

/-- Do something for each entry of a list, in order. -/
def forEach {s : State} {α : Type} (t : Trail s) (l : List α) (f : Trail s → α → Trail s) : Trail s :=
  l.foldl f t

/-! ### Reading -/

def State.core (s : State) (c : Nat) : Core := lookD s.cores c .reset
def State.die (s : State) (d : Nat) : Die := lookD s.dies d .reset
def State.thread? (s : State) (c sl : Nat) : Option Thread := look (s.core c).threads sl
def State.task? (s : State) (n : Nat) : Option Task := look s.tasks n
def State.part? (s : State) (n : Nat) : Option Part := look s.parts n
def State.page (s : State) (n : Nat) : Page :=
  lookD s.pages n { leases := 0, queued := false, overflow := false, moving := false, counts := [0, 0, 0, 0, 0], dest := 0 }
def State.noticesOf (s : State) (cl : Nat) : Notices := lookD s.notices cl { entries := [], head := 0, tail := 0, deferred := 0 }
def State.headsAt (s : State) (a : Nat) : List Head := lookD s.heads a []
def State.barUnit (s : State) (n : Nat) : BarUnit :=
  lookD s.barUnits n { expect := 1, left := none }

def Core.queue (k : Core) (q : Nat) : QueueReg := lookD k.queues q { vals := [], readers := [], writers := [] }
def Core.stage (k : Core) (q : Nat) : Stage := lookD k.stages q { full := false, owner := none, wait := [], vc := [] }
def Core.barrier (k : Core) (b : Nat) : Barrier :=
  lookD k.barriers b
    { mask := 0, arrived := 0, phase := 0, level := 0, sent := false, pb := false, ncomp := 0, nmsg := 0, gotMsg := 0,
      gotComp := 0, root := 0, last := 0, vc := [], past := [] }
def Core.pigeon (k : Core) (sl : Nat) : Pigeon := lookD k.pigeons sl { msg := none, refused := 0, notices := 0 }
def Core.wslot (k : Core) (n : Nat) : WSlot := lookD k.wbuf n { image := [], inUse := false, adr := 0, len := 0 }

/-- The die of a core, the cluster of a core, the die of a cluster (R13). -/
def dieOf (c : Nat) : Nat := c / 128
def clusterOf (c : Nat) : Nat := c / 8
def dieOfCluster (cl : Nat) : Nat := cl / 16

/-- The die relocks: its arithmetic clock stands still (R28). -/
def Die.relocking (d : Die) : Bool :=
  match d.change with
  | .relock _ => true
  | _ => false

/-- The home die of an address; the thread's own for one outside this package. -/
def State.homeDie (s : State) (own a : Nat) : Nat := if pkgOf a = s.pkg.num then (memDie a).getD own else own

/-- The partition that a cluster is granted to. -/
def State.partOfCluster (s : State) (cl : Nat) : Option Nat :=
  (s.parts.find? (fun p => p.2.clusters.contains cl)).map (·.1)

/-- The partition of a core. -/
def State.partOfCore (s : State) (c : Nat) : Option Nat := s.partOfCluster (clusterOf c)

/-- The cores of a partition. -/
def Part.cores (p : Part) : List Nat := p.clusters.flatMap (fun cl => upFrom (cl * 8) 8)

/-- The byte of a core's local store, by offset within its 2 MiB (R111). -/
def locKey (c off : Nat) : Nat := c * 2097152 + off

/-! ### Writing -/

def Trail.setCore {s : State} (t : Trail s) (c : Nat) (k : Core) : Trail s := t.act (.core c k)
def Trail.modCore {s : State} (t : Trail s) (c : Nat) (f : Core → Core) : Trail s := t.setCore c (f (t.1.core c))
def Trail.setThread {s : State} (t : Trail s) (c sl : Nat) (th : Thread) : Trail s :=
  t.modCore c (fun k => { k with threads := put k.threads sl th })
def Trail.modThread {s : State} (t : Trail s) (c sl : Nat) (f : Thread → Thread) : Trail s :=
  match t.1.thread? c sl with
  | some th => t.setThread c sl (f th)
  | none => t
def Trail.modDie {s : State} (t : Trail s) (d : Nat) (f : Die → Die) : Trail s := t.act (.die d (f (t.1.die d)))
def Trail.modTask {s : State} (t : Trail s) (n : Nat) (f : Task → Task) : Trail s :=
  match t.1.task? n with
  | some x => t.act (.task n (some (f x)))
  | none => t
def Trail.modPart {s : State} (t : Trail s) (n : Nat) (f : Part → Part) : Trail s :=
  match t.1.part? n with
  | some x => t.act (.part n (some (f x)))
  | none => t
def Trail.modJob {s : State} (t : Trail s) (n : Nat) (f : Job → Job) : Trail s :=
  match look t.1.jobs n with
  | some x => t.act (.job n (some (f x)))
  | none => t
def Trail.modPage {s : State} (t : Trail s) (n : Nat) (f : Page → Page) : Trail s := t.act (.page n (f (t.1.page n)))
def Trail.modPkg {s : State} (t : Trail s) (f : Pkg → Pkg) : Trail s := t.act (.pkg (f t.1.pkg))
def Trail.modHost {s : State} (t : Trail s) (f : HostSt → HostSt) : Trail s := t.act (.host (f t.1.host))

/-- Write bytes of memory, the first at the lowest address (R2). -/
def Trail.memWrite {s : State} (t : Trail s) (a : Nat) : List Byte → Trail s
  | [] => t
  | b :: r => Trail.memWrite (t.act (.mem a b)) (a + 1) r

/-- Write bytes of a core's local store, by offset. -/
def Trail.locWrite {s : State} (t : Trail s) (c off : Nat) : List Byte → Trail s
  | [] => t
  | b :: r => Trail.locWrite (t.act (.loc (locKey c off) b)) c (off + 1) r

/-- A new agent number (R167). -/
def Trail.newAgent {s : State} (t : Trail s) : Trail s × Nat :=
  (t.act (.counts (t.1.agents + 1) t.1.taskCount t.1.jobCount t.1.graphCount t.1.releases), t.1.agents + 1)

/-! ### What is due next -/

/-- Make a step due. -/
def Trail.pend {s : State} (t : Trail s) (i : Instr) (args : List Nat) : Trail s :=
  t.act (.agenda t.1.tick t.1.inputs (t.1.pending ++ [⟨i, args⟩]) t.1.timers)

/-- Make a step due ahead of those already due. -/
def Trail.pendFirst {s : State} (t : Trail s) (i : Instr) (args : List Nat) : Trail s :=
  t.act (.agenda t.1.tick t.1.inputs (⟨i, args⟩ :: t.1.pending) t.1.timers)

/-- Make a step due unless it already is. -/
def Trail.pendOnce {s : State} (t : Trail s) (i : Instr) (args : List Nat) : Trail s :=
  if t.1.pending.contains ⟨i, args⟩ then t else t.pend i args

/-- Make a step due when a die's clock count or elapsed time has risen by n. (DESIGN CHOICE, log 4) -/
def Trail.timer {s : State} (t : Trail s) (d : Nat) (onCyc : Bool) (n : Nat) (i : Instr) (args : List Nat) : Trail s :=
  let now := if onCyc then (t.1.die d).cyc.toNat else (t.1.die d).etime.toNat
  t.act (.agenda t.1.tick t.1.inputs t.1.pending (t.1.timers ++ [{ ev := ⟨i, args⟩, die := d, onCyc := onCyc, due := now + n }]))

/-- Drop the timers of a step. -/
def Trail.noTimer {s : State} (t : Trail s) (i : Instr) (args : List Nat) : Trail s :=
  t.act (.agenda t.1.tick t.1.inputs t.1.pending (t.1.timers.filter (fun x => decide (x.ev ≠ ⟨i, args⟩))))

/-- Units of `cw.etime` in a microsecond (1/14.4 GHz). -/
def etimePerUs : Nat := 14400

/-- The next die on the way, X first (R12). -/
def nextHop (src dst : Nat) : Nat :=
  if src % 2 = dst % 2 then dst % 2 + 2 * (dst / 2 % 2) else dst % 2 + 2 * (src / 2)

/-- The receiving side of a link grants an allowance: never while a die of the pair relocks or the package is frozen, and
otherwise when it has room, which the spec leaves open (R25, R26, R242). (DESIGN CHOICE, log 88) -/
def State.linkAllows (s : State) (src hop : Nat) : Bool :=
  !(s.die src).relocking && !(s.die hop).relocking && !s.pkg.frozen && Config.allowance s.tick (src * 4 + hop)

/-- Send a step from one die to another: at once on one die, else through the die-crossing FIFOs. A flit for which there is no
allowance, or that stands behind one, is held by its sender (R25, R26). -/
def Trail.sendTo {s : State} (t : Trail s) (src dst : Nat) (i : Instr) (args : List Nat) : Trail s :=
  if src = dst then t.pend i args
  else
    let hop := nextHop src dst
    let n := src * 4 + hop
    let behind := lookD t.1.unsent n []
    let t := if behind.isEmpty && t.1.linkAllows src hop then t.act (.link n (lookD t.1.links n [] ++ [(dst, ⟨i, args⟩)]))
      else t.act (.unsent n (behind ++ [(dst, ⟨i, args⟩)]))
    t.pend .dieLinkFlitDeliver [src, hop]

/-! ### Happens-before (R170) -/

/-- The thread's access happens after x. (DEDUCED, log 77) -/
def covered (vc : Clock) (x : Access) : Bool := decide (x.epoch ≤ lookD vc x.agent 0)

/-- The earliest access of a history that a new access races with (R168, R174). (DEDUCED, log 76; DEDUCED, log 77) -/
def raceWith (h : List Access) (agent : Nat) (vc : Clock) (write atomic : Bool) : Option Access :=
  h.find? (fun x => decide (x.agent ≠ agent) && (x.write || write) && !(x.atomic && atomic) && !covered vc x)

/-- A history after a new access: what the access makes unneeded is dropped. A plain access stays when an atomic one follows, since
an atomic of another agent races with the plain one alone. (DEDUCED, log 77) -/
def enter (h : List Access) (x : Access) (vc : Clock) : List Access :=
  h.filter (fun y => (x.atomic && !y.atomic) ||
    (if x.write then !covered vc y && decide (y.agent ≠ x.agent) else decide (y.agent ≠ x.agent) || y.write)) ++ [x]

/-- The access that a thread makes now. -/
def Thread.access (th : Thread) (sl : Nat) (write atomic : Bool) : Access :=
  { agent := th.agent, epoch := lookD th.vc th.agent 0, slot := sl, write := write, atomic := atomic }

/-- After a release: what the agent does next does not happen before what acquires the release. (DEDUCED, log 77) -/
def Clock.bump (vc : Clock) (agent : Nat) : Clock := put vc agent (lookD vc agent 0 + 1)

/-- The thread has released: its count rises. -/
def Thread.released (th : Thread) : Thread := { th with vc := th.vc.bump th.agent }

/-- The thread has acquired what happens before a release. -/
def Thread.acquired (th : Thread) (vc : Clock) : Thread := { th with vc := th.vc.join vc }

/-- Whether an agent on one core lies within a scope around another core (R179). -/
def within (scope p q : Nat) : Bool :=
  if scope = 0 then decide (p = q) else if scope = 1 then decide (clusterOf p = clusterOf q) else true

/-- The release and the acquire meet R181. -/
def meets (h : Head) (scope place : Nat) : Bool := within h.scope h.place place && within scope place h.place

/-- Acquire, at a scope, the releases that a value carries. -/
def Thread.acquireHeads (th : Thread) (hs : List Head) (scope place : Nat) : Thread :=
  hs.foldl (fun th h => if meets h scope place then th.acquired h.vc else th) th

/-! ### Traps (R190-R192) -/

/-- Why an instruction ends without effect: a trap (cause, `cw.eval`, the race word of R176), or the task's end by EXTENT
(reason, lane, address). -/
inductive Stop where
  | trap (cause eval : Nat) (race : Option Nat)
  | extent (reason lane adr : Nat)
  deriving DecidableEq, Repr

/-- The causes of R191. -/
def ILL : Nat := 0x01
def PRIV : Nat := 0x02
def KIND : Nat := 0x03
def OVF : Nat := 0x04
def LOST : Nat := 0x05
def MAPFULL : Nat := 0x06
def ALIGN : Nat := 0x07
def DIVZ : Nat := 0x08
def FPX : Nat := 0x09
def RACE : Nat := 0x0A
def SCALE : Nat := 0x0B
def ACCR : Nat := 0x0C
def WBUF : Nat := 0x0D
def VTPAST : Nat := 0x0E
def ZLA : Nat := 0x0F
def DIVERGE : Nat := 0x10
def BRK : Nat := 0x11
def WATCH : Nat := 0x12
def LEASEDENY : Nat := 0x13
def ECCU : Nat := 0x14

/-- The causes that a handler may take (R191). -/
def handlerMay (cause : Nat) : Bool :=
  decide (1 ≤ cause) && decide (cause ≤ 0x13) && !(cause == DIVERGE || cause == BRK || cause == WATCH)

/-- Raise a trap. -/
def trap {α : Type} (cause eval : Nat) : Except Stop α := .error (.trap cause eval none)

/-- End the task by EXTENT. -/
def extent {α : Type} (reason lane adr : Nat) : Except Stop α := .error (.extent reason lane adr)

/-- The thread is in handler state (R193). -/
def Thread.inh (th : Thread) : Bool := bit th.cause.toNat 31

/-- `cw.cause` of a trap (R190). -/
def causeWord (code major : Nat) (hinted inh : Bool) : Word64 :=
  BitVec.ofNat 64 (code + major % 64 * 256 + bitAt hinted 16 + bitAt inh 31)

/-- The thread at trap entry: Halted, the control words written, the hint and a pending release fence dropped (R190, R192,
R277, R340). -/
def Thread.trapEntry (th : Thread) (cause eval : Nat) (race : Option Nat) (pc major : Nat) (hinted : Bool) : Thread :=
  { th with
    pc := if hinted then pc - 4 else pc, status := .ready, op := none, hint := none, trapped := true, logWait := false
    relFence := none, suppress := false, saw := []
    prior := if th.inh then some (th.cause.toNat % 256, th.epc.toNat) else none
    cause := causeWord cause major hinted th.inh
    epc := BitVec.ofNat 64 (if hinted then pc - 4 else pc)
    eval := BitVec.ofNat 64 eval
    race := match race with | some r => BitVec.ofNat 64 r | none => th.race }

/-- A partition whose dump this core's steward writes. -/
def State.dumpingCore (s : State) (c : Nat) : Bool :=
  s.parts.any (fun p => p.2.dumps.any (fun d => decide (d.core = c) && d.dslot.isSome))

/-! ### Writing memory, and what waits on it (R182, R341) -/

/-- A waiting thread goes on with the instruction that it has issued: it looks again at what it waited for. (DEDUCED, log 80) -/
def Thread.again (th : Thread) : Thread := { th with status := .ready }

/-- The releases that the value of a local run carries. -/
def Core.headsOf (k : Core) (off len : Nat) : List Head :=
  (upFrom (off / 4) ((off + len + 3) / 4 - off / 4)).foldl
    (fun l w => l ++ (lookD k.heads w []).filter (fun h => !l.contains h)) []

/-- The releases that the value of a run of device memory carries. -/
def State.headsOf (s : State) (a len : Nat) : List Head :=
  (upFrom (a / 4) ((a + len + 3) / 4 - a / 4)).foldl (fun l w => l ++ (s.headsAt w).filter (fun h => !l.contains h)) []

/-- The first 32-byte unit of a run of memory with an uncorrectable error: its address (R17). (DESIGN CHOICE, log 36) -/
def State.memBad (s : State) (a len : Nat) : Option Nat :=
  (s.bad.find? (fun b => decide (b.1 = 0) && decide (a < b.2.2 * 32 + 32) && decide (b.2.2 * 32 < a + len) && decide (0 < len))).map
    (fun b => b.2.2 * 32)

/-- A local-store word of a run of a core has an uncorrectable error (R198): its place. -/
def State.locBad (s : State) (c off len : Nat) : Option Nat :=
  (s.bad.find? (fun b => decide (b.1 = 2) && decide (b.2.1 = c) && decide (off < b.2.2 * 8 + 8) &&
    decide (b.2.2 * 8 < off + len) && decide (0 < len))).map (fun b => b.2.2)

/-- Units of memory, of 32 bytes in device memory and 8 in local store, that a write covers whole have no error any more. (DESIGN CHOICE, log 36) -/
def Trail.mendRun {s : State} (t : Trail s) (core : Option Nat) (a len : Nat) : Trail s :=
  let whole := fun (size : Nat) (b : Nat × Nat × Nat) => decide (a ≤ b.2.2 * size) && decide (b.2.2 * size + size ≤ a + len)
  t.act (.errors (t.1.bad.filter (fun b => match core with
    | some c => !(decide (b.1 = 2) && decide (b.2.1 = c) && whole 8 b)
    | none => !(decide (b.1 = 0) && whole 32 b))) t.1.corrected)

/-- Words of a unit of a core that are written anew have no error any more. (DESIGN CHOICE, log 36) -/
def Trail.mend {s : State} (t : Trail s) (unit c : Nat) (inside : Nat → Bool) : Trail s :=
  t.act (.errors (t.1.bad.filter (fun b => !(decide (b.1 = unit) && decide (b.2.1 = c) && inside b.2.2))) t.1.corrected)

/-- A thread in a `waitw.l` or `waitw.x` that has not retired, on a word that a run of bytes touches (R341). -/
def Thread.waitsOn (th : Thread) (loc : Bool) (a len : Nat) : Bool :=
  (decide (th.status = .blocked) || decide (th.status = .ready)) &&
    (match th.op with
     | some o =>
       (match o.instr with | .waitwL _ _ _ => loc | .waitwX _ _ _ => !loc | _ => false) && overlaps (o.args.headD 0) 8 a len
     | none => false)

/-- The value that a blocked `waitw` waits to see changed. -/
def Thread.waitValue (th : Thread) : Nat := match th.op with | some o => o.args.getD 1 0 | none => 0

/-- The thread after the word that it waits on has been written: it is woken at the first value that differs, which it then
returns whatever is written later (R341). A word that cannot be read wakes it too, for its error. -/
def Thread.sees (th : Thread) (v : Nat) (hs : List Head) (bad : Bool) : Thread :=
  let woken := fun (th : Thread) => if th.logWait then th else th.again
  if bad then woken th else if v = th.waitValue then th else woken { th with saw := th.saw ++ [(v, hs)] }

/-- The unit that holds a word re-reads it for the threads of a core that wait on it (R341). -/
def Trail.wakeWord {s : State} (t : Trail s) (c : Nat) (loc : Bool) (a len : Nat) : Trail s :=
  forEach t ((t.1.core c).threads.filter (fun p => p.2.waitsOn loc a len)) (fun t p =>
    let w := match p.2.op with | some o => o.args.headD 0 | none => 0
    let v := if loc then t.1.loc.read (locKey c w) 8 else t.1.mem.read w 8
    let hs := if loc then (t.1.core c).headsOf w 8 else t.1.headsOf w 8
    let bad := if loc then (t.1.locBad c w 8).isSome else (t.1.memBad w 8).isSome
    t.modThread c p.1 (fun th => if th.waitsOn loc a len then th.sees v hs bad else th))

/-- Set the releases that the words of a run carry. -/
def Trail.setHeads {s : State} (t : Trail s) (a len : Nat) (hs : List Head) : Trail s :=
  forEach t (upFrom (a / 4) ((a + len + 3) / 4 - a / 4))
    (fun t w => if t.1.headsAt w = hs then t else t.act (.heads w hs))

/-- Write device memory with the releases that the bytes carry; a plain write carries none (R182). Threads that wait on a
word of the run see it (R341). -/
def Trail.memPut {s : State} (t : Trail s) (a : Nat) (bs : List Byte) (hs : List Head) : Trail s :=
  let t := ((t.memWrite a bs).setHeads a bs.length hs).mendRun none a bs.length
  forEach t (t.1.cores.filter (fun k => k.2.threads.any (fun p => p.2.waitsOn false a bs.length)))
    (fun t k => t.wakeWord k.1 false a bs.length)

def Trail.memStore {s : State} (t : Trail s) (a : Nat) (bs : List Byte) : Trail s := t.memPut a bs []

/-- Record words 0 of the traced threads of a die (R244). -/
def State.traced (s : State) (c sl : Nat) : Bool :=
  let d := (s.die (dieOf c)).dbg
  (upFrom 0 4).any (fun j => let w := lookD d.sel j 0
    bit w 63 && decide (bits w 10 4 = c % 128) && decide (bits w 3 0 = sl))

/-- A trace record, written to the die's ring, for a traced thread; one that finds the trace queue full is lost (R244). (DESIGN CHOICE, log 21) -/
def Trail.trace {s : State} (t : Trail s) (c sl kind word1 : Nat) : Trail s :=
  if t.1.traced c sl then
    let d := t.1.die (dieOf c)
    let g := d.dbg
    if g.traceSize / 16 = 0 || Config.traceFull t.1.tick (dieOf c) (g.written + g.lost) then t.modDie (dieOf c) (fun d => { d with dbg := { g with lost := g.lost + 1 } })
    else
      let at_ := g.traceBase + g.written % (g.traceSize / 16) * 16
      let w0 := kind * 2 ^ 60 + c % 128 * 2 ^ 53 + sl * 2 ^ 49 + d.etime.toNat % 2 ^ 48
      let t := t.memStore at_ (leBytes w0 8 ++ leBytes word1 8)
      t.modDie (dieOf c) (fun d => { d with dbg := { g with written := g.written + 1 } })
  else t

/-- The thread whose operation a waiting step performs, where it is a thread's. -/
def Due.thread (d : Due) : Option (Nat × Nat) :=
  let a := fun i => d.args.getD i 0
  match d.step with
  | .atomicPerform | .leaseServe | .spawnAppend | .recvtTimeout | .messageArrive | .contextFreeNotice | .refusalSelfNotice =>
    some (a 0, a 1)
  | .barrierUnitArrival => some (a 3, a 4)
  | _ => none

/-- A waiter of the order log is this thread, or a step that performs an operation of its. -/
def Waiter.about (w : Waiter) (c sl : Nat) : Bool :=
  match w with
  | .thread a b => decide (a = c) && decide (b = sl)
  | .step d => d.thread == some (c, sl)

/-- Wake what waits for the log (R218, R221): a thread goes on with its instruction, a step becomes due again. -/
def Trail.wakeWaiter {s : State} (t : Trail s) (w : Waiter) : Trail s :=
  match w with
  | .thread c sl => t.modThread c sl (fun th => if th.logWait then { th.again with logWait := false } else th)
  | .step d => t.pendOnce d.step d.args

/-- Of the operations of a partition to which places have been granted, the first goes on: they are performed in the order in
which their requests arrived (R218). (DEDUCED, log 91) -/
def Trail.nextGranted {s : State} (t : Trail s) (n : Nat) : Trail s :=
  match (t.1.part? n).bind (fun p => p.log.granted.head?) with
  | some w => t.wakeWaiter w
  | none => t

/-- A thread waits for nothing at the order log any more, and no timeout of its runs (R218, R221, R223, R349). -/
def Trail.dropWaits {s : State} (t : Trail s) (c sl : Nat) : Trail s :=
  let t := t.noTimer .recvtTimeout [c, sl]
  let t := t.act (.agenda t.1.tick t.1.inputs t.1.pending
    (t.1.timers.filter (fun x => !(decide (x.ev.step = .replayTimeout) && decide (x.ev.args.drop 2 = [c, sl])))))
  match t.1.partOfCore c with
  | some n => (t.modPart n (fun p => { p with log :=
      { p.log with
        held := p.log.held.filter (fun w => !w.about c sl), granted := p.log.granted.filter (fun w => !w.about c sl)
        turns := p.log.turns.filter (fun w => !w.2.about c sl) } })).nextGranted n
  | none => t

/-- A thread between a hint and the instruction that it binds, or held in that instruction, stands before both words again: a halt
never falls between them (R277). -/
def Trail.unissue {s : State} (t : Trail s) (c sl : Nat) : Trail s :=
  match t.1.thread? c sl with
  | some th =>
    if th.hint.isNone then t
    else (t.setThread c sl { th with pc := th.pc - 4, status := .ready, op := none, hint := none, logWait := false, saw := [] }).dropWaits
      c sl
  | none => t

/-- The steward's thread is held in `halt` (R382). -/
def Thread.inHalt (th : Thread) : Bool :=
  decide (th.status = .blocked) && (match th.op with | some o => (match o.instr with | .halt => true | _ => false) | none => false)

/-- A steward held in `halt` goes on at its next word (R382). -/
def Trail.wakeSteward {s : State} (t : Trail s) (c : Nat) : Trail s :=
  match t.1.thread? c 15 with
  | some th => if th.inHalt then t.setThread c 15 { th with pc := th.pc + 4, status := .ready, op := none, hint := none } else t
  | none => t

/-- A host or debug request reaches a die, or its heartbeat falls due (R382, R45). -/
def Trail.wakeDie {s : State} (t : Trail s) (d : Nat) : Trail s :=
  forEach t ((t.1.cores.filter (fun k => decide (dieOf k.1 = d))).map (·.1)) (fun t c => t.wakeSteward c)

/-- A steward restart of a die begins: its user threads are held, and its stewards are gone until their image is reloaded
(R45). -/
def Trail.beginRestart {s : State} (t : Trail s) (d : Nat) : Trail s :=
  if (t.1.die d).restart then t
  else
    let t := t.modDie d (fun x => { x with restart := true })
    let t := forEach t ((t.1.cores.filter (fun k => decide (dieOf k.1 = d))).map (·.1)) (fun t c =>
      t.modCore c (fun k => { k with threads := del k.threads 15 }))
    t.pendOnce .stewardRestartDone [d]

/-- TAKING A TRAP, the one operation for every cause: the words are saved in the thread, the thread is Halted, and the trap
enters the core's trap queue, which the steward serves (R190-R192). A trap of the steward itself enters no queue; while it
writes a dump it is device-fatal (R205), and an error in its own rows restarts the stewards of its die (R199). (DEDUCED, log 34) -/
def Trail.takeTrap {s : State} (t : Trail s) (c sl cause eval : Nat) (race : Option Nat) (pc major : Nat) (hinted : Bool) :
    Trail s :=
  let t := (t.modThread c sl (fun th => th.trapEntry cause eval race pc major hinted)).dropWaits c sl
  let t := t.trace c sl 4 (cause * 2 ^ 56 + (if hinted then pc - 4 else pc) % 2 ^ 56)
  if sl = 15 then
    (if t.1.dumpingCore c then t.pend .deviceFatalFault [c, cause]
     else if cause = ECCU ∧ eval / 2 ^ 56 = 1 then t.beginRestart (dieOf c) else t)
  else ((t.modCore c (fun k => { k with trapQ := k.trapQ ++ [sl] })).pend .trapService [c]).wakeSteward c

/-- The thread waits in `lease.rel` for what still touches its entry (R351). -/
def Thread.waitsRelease (th : Thread) : Bool :=
  decide (th.status = .inFlight) && (match th.op with | some o => (match o.instr with | .leaseRel _ => true | _ => false) | none => false)

/-- An access of a thread of a core has ended: a `lease.rel` that waits for it looks again (R351). -/
def Trail.wakeReleases {s : State} (t : Trail s) (c : Nat) : Trail s :=
  forEach t ((t.1.core c).threads.filter (fun p => p.2.waitsRelease)) (fun t p =>
    t.modThread c p.1 (fun th => if th.waitsRelease then th.again else th))

/-- A thread's instruction has ended: what waits for the threads of its task or its partition to stand still looks again
(R196, R200, R207), and so does a `lease.rel` of its core (R351). -/
def Trail.settle {s : State} (t : Trail s) (c sl : Nat) : Trail s :=
  match t.1.thread? c sl with
  | none => t
  | some th =>
    match t.1.task? th.task with
    | none => t
    | some x =>
      let t := t.wakeReleases c
      let t := if x.ending.isSome then t.pendOnce .taskExtentEnd [th.task] else t
      match t.1.part? x.part with
      | some p => if p.ladder = .dump then t.pendOnce .dumpBegin [x.part] else if p.ladder = .save then t.pendOnce .saveComplete [x.part] else t
      | none => t

/-- A thread as it resumes after a trap, at an address, in or out of handler state (R192, R193, R382). -/
def Thread.resumeAt (th : Thread) (pc : Nat) (inh : Bool) : Thread :=
  { th with
    pc := pc % 2 ^ 56, trapped := false, status := .ready, op := none, hint := none, saw := []
    cause := BitVec.ofNat 64 (th.cause.toNat % 2 ^ 31 + bitAt inh 31 + th.cause.toNat / 2 ^ 32 * 2 ^ 32) }

/-- RETURN FROM A TRAP: the thread leaves the trap queue and resumes (R192, R193, R382). -/
def Trail.returnFromTrap {s : State} (t : Trail s) (c sl pc : Nat) (inh : Bool) : Trail s :=
  let t := t.modCore c (fun k => { k with trapQ := k.trapQ.filter (fun x => decide (x ≠ sl)) })
  let t := t.modThread c sl (fun th => th.resumeAt pc inh)
  t.trace c sl 7 (pc % 2 ^ 56)

/-- The address after a trapping instruction: `cw.epc` + 4, or + 8 when a hint bound it (R193). -/
def Thread.skipPc (th : Thread) : Nat := th.epc.toNat + (if bit th.cause.toNat 16 then 8 else 4)

/-- The task of a thread ends by EXTENT: the first such end stands (R196). -/
def Trail.endTask {s : State} (t : Trail s) (n : Nat) (e : ExtentEnd) : Trail s :=
  match t.1.task? n with
  | some x =>
    if x.ending.isSome then t else (t.act (.task n (some { x with ending := some e }))).pend .taskExtentEnd [n]
  | none => t

/-- An instruction stops: it changes nothing but what the stop itself writes (R8). -/
def Trail.stop {s : State} (t : Trail s) (c sl : Nat) (th : Thread) (pc major : Nat) (hinted : Bool) : Stop → Trail s
  | .trap cause eval race => t.takeTrap c sl cause eval race pc major hinted
  | .extent reason lane adr =>
    let t := t.modThread c sl (fun th => { th with status := .blocked, op := none, hint := none, logWait := false, saw := [] })
    t.endTask th.task { thread := th.tid.toNat, lane := lane, reason := reason, adr := adr }

end Sys2Proof.Machine
end

