-- ==== Sys2Proof/Machine/Flags.lean ====
section
/-!
DEFINITION. What an assignment to a name does: fit() and the policies (R7, R154, R155), the readings of a bit string
(R6, R281), the rounding in force and its draws (R152, R153, R165), truth values (R288), and the layout of `st` (R330).
-/

namespace Sys2Proof.Machine

/-- The exact number a bit string denotes under an integer kind (R146); an uns reading for any other kind. -/
def extInt (k : Kind) (w x : Nat) : Int :=
  if k = .sgn ∧ 2 ^ (w - 1) ≤ x then (x : Int) - 2 ^ w else x

/-- The range of an integer name (R7, R146). -/
def rangeLo (k : Kind) (w : Nat) : Int := if k = .sgn then -(2 ^ (w - 1) : Int) else 0
def rangeHi (k : Kind) (w : Nat) : Int := if k = .sgn then 2 ^ (w - 1) - 1 else 2 ^ w - 1

/-- The w-bit two's-complement string of an integer. -/
def bitsOf (w : Nat) (v : Int) : Nat := (v % 2 ^ w).toNat

/-- fit(v, n) for an integer name, as the lane's bit string; nothing where the policy raises OVF (R7). -/
def fitInt (d : Desc) (v : Int) : Option Nat :=
  if rangeLo d.kind d.width ≤ v ∧ v ≤ rangeHi d.kind d.width then some (bitsOf d.width v)
  else
    match d.pol with
    | .wrap => some (bitsOf d.width v)
    | .sat => some (bitsOf d.width (if v < rangeLo d.kind d.width then rangeLo d.kind d.width else rangeHi d.kind d.width))
    | .trap => none

/-- The generator of R165. -/
def rngRounds (k : Nat) : Nat → Nat → Nat → Nat
  | 0, _, x => x
  | fuel + 1, i, x =>
    rngRounds k fuel (i + 1)
      ((Nat.xor x ((k + i * 0x9E3779B97F4A7C15) % 2 ^ 64)) * 0xD1342543DE82EF95 % 2 ^ 64)

def rng (k c l : Nat) : Nat :=
  let x := rngRounds (k % 2 ^ 64) 6 0 ((c + l) % 2 ^ 64)
  Nat.xor x (x / 2 ^ 29)

/-- The 24-bit number drawn for a lane under rsn (R153): key ta + tid × 2^56, counter n. -/
def Thread.draw (th : Thread) (l : Nat) : Nat :=
  rng ((th.ta.toNat + th.tid.toNat * 2 ^ 56) % 2 ^ 64) th.rsn.toNat l / 2 ^ 40

/-- Assign an exact value to lane l of a float name: fit() under a mode (R7, R154). -/
def fitFloat (th : Thread) (mode : RMode) (d : Desc) (l : Nat) (v : FVal) : Option Nat :=
  match d.kind.fmt? with
  | some f => f.fit mode (if mode = .rsn then th.draw l else 0) d.pol v
  | none => none

/-- Assign a float value to lane l of an integer name (R155): rounded under the mode, then fit(). -/
def fitFloatToInt (th : Thread) (mode : RMode) (d : Desc) (l : Nat) (v : FVal) : Option Nat :=
  match v with
  | .num _ _ _ => fitInt d (v.toInt mode (if mode = .rsn then th.draw l else 0))
  | .inf neg =>
    if d.pol = .trap then none else some (bitsOf d.width (if neg then rangeLo d.kind d.width else rangeHi d.kind d.width))
  | .nan => if d.pol = .trap then none else some 0

/-- The float value of a lane under its kind; an integer lane's exact value. -/
def laneValue (k : Kind) (w x : Nat) : FVal :=
  match k.fmt? with
  | some f => f.value x
  | none => FVal.ofInt (extInt k w x)

/-- A truth value in an integer name (R288): true is 1 in an uns d and −1 in a sgn d. -/
def truth (d : Desc) (b : Bool) : Nat :=
  if b then (if d.kind = .sgn then 2 ^ d.width - 1 else 1) else 0

/-- After an instruction that rounded under rsn, the counter has advanced by the lanes of d (R153). -/
def Thread.drawn (th : Thread) (mode : RMode) (lanes : Nat) : Thread :=
  if mode = .rsn then { th with rsn := th.rsn + BitVec.ofNat 64 lanes } else th

/-- The `st` word of a reply (R330). -/
def reply (code data : Nat) : Word64 := BitVec.ofNat 64 (code % 256 + data % 2 ^ 32 * 2 ^ 32)

/-- A thread that receives a reply in `st`. -/
def Thread.replied (th : Thread) (code data : Nat) : Thread := { th with st := reply code data }

/-- `amo.bfa` changes the sat bit of `st` alone (R330, R188). -/
def Thread.satBit (th : Thread) (b : Bool) : Thread :=
  { th with st := BitVec.ofNat 64 (th.st.toNat / 512 * 512 + bitAt b 8 + th.st.toNat % 256) }

/-- The rounding-mode codes of R151. -/
def RMode.ofCode : Nat → Option RMode
  | 0 => some .rne
  | 1 => some .rtz
  | 2 => some .rup
  | 3 => some .rdn
  | 4 => some .rsn
  | _ => none

def RMode.code : RMode → Nat
  | .rne => 0
  | .rtz => 1
  | .rup => 2
  | .rdn => 3
  | .rsn => 4

/-- The policy codes of R95. -/
def Policy.ofCode : Nat → Option Policy
  | 0 => some .wrap
  | 1 => some .sat
  | 2 => some .trap
  | _ => none

def Policy.code : Policy → Nat
  | .wrap => 0
  | .sat => 1
  | .trap => 2

end Sys2Proof.Machine
end

