-- ==== Sys2Proof/Machine/Operands.lean ====
section
/-!
DEFINITION. Operand forms: names (R86, R93, R279), immediates and offsets with or without a binding hint (R268, R276), the
operand values that make a word an undefined encoding (R280 step 1), and the common course of a thread's instruction: the
checks of R280, the stop of an instruction that fails one, and its retirement.
-/

namespace Sys2Proof.Machine

/-- What an instruction of a thread is given: the core, slot and thread it issues in, the word and its hint. -/
structure Ctx where
  s : State
  c : Nat
  sl : Nat
  k : Core
  th : Thread
  i : Instr
  hint : Option Nat

/-- The instruction's word. -/
def Ctx.word (x : Ctx) : Nat := (encode x.i).getD 0

/-- The thread is the steward (R84). (DESIGN CHOICE, log 12) -/
def Ctx.steward (x : Ctx) : Bool := decide (x.sl = 15)

/-- The thread's task. -/
def Ctx.task (x : Ctx) : Option Task := x.s.task? x.th.task

/-! ### Hints (R275, R276) -/

/-- The kind of a hint word. -/
def hintKind (w : Nat) : Nat := bits w 25 22

/-- The high immediate bits of a binding `hint.imm`. -/
def Ctx.hintHi (x : Ctx) : Option Nat :=
  match x.hint with
  | some w => if hintKind w = 1 then some (bits w 21 0) else none
  | none => none

/-- A field of n bits as a signed number. -/
def signed (n v : Nat) : Int := if 2 ^ (n - 1) ≤ v then (v : Int) - 2 ^ n else v

/-- The immediate of an I-format word (R281). -/
def Ctx.immI (x : Ctx) (imm : Nat) : Int :=
  match x.hintHi with
  | some hi => signed 34 (hi * 2 ^ 12 + imm)
  | none => signed 12 imm

/-- The value of a U-format word (R290). -/
def Ctx.immU (x : Ctx) (imm : Nat) : Int :=
  4096 * (match x.hintHi with
    | some hi => signed 42 (hi * 2 ^ 20 + imm)
    | none => signed 20 imm)

/-- The byte offset of an M-format word whose elements have a size (R331). -/
def Ctx.offM (x : Ctx) (off size : Nat) : Int :=
  size * (match x.hintHi with
    | some hi => signed 33 (hi * 2 ^ 11 + off)
    | none => signed 11 off)

/-- The rounding mode in force: that of a binding `hint.mod`, else the thread's (R152). -/
def Ctx.mode (x : Ctx) : RMode :=
  match x.hint with
  | some w => if hintKind w = 2 then (RMode.ofCode (bits w 21 19)).getD x.th.rmode else x.th.rmode
  | none => x.th.rmode

/-- The access size of an atomic: 4 bytes under a binding `hint.mod` with wsize (R339). -/
def Ctx.amoSize (x : Ctx) : Nat :=
  match x.hint with
  | some w => if hintKind w = 2 && bit w 18 then 4 else 8
  | none => 8

/-- Scope and order of a binding `hint.scope` whose scope is not zero (R276). -/
def Ctx.hintScope (x : Ctx) : Option (Nat × Nat) :=
  match x.hint with
  | some w => if hintKind w = 4 && decide (bits w 21 20 ≠ 0) then some (bits w 21 20, bits w 19 18) else none
  | none => none

/-- The stride of a binding `hint.mma`, in bytes. -/
def Ctx.hintStride (x : Ctx) : Option Nat :=
  match x.hint with
  | some w => if hintKind w = 3 then some (32 * bits w 20 6) else none
  | none => none

/-- The instruction takes high immediate bits (R276): majors 0x02 and 0x05, `mapld`, U and M formats. -/
def takesImm (word : Nat) : Bool :=
  let mj := word / 67108864
  mj == 2 || mj == 5 || (mj == 0x0A && bits word 13 12 == 0) || mj == 7 || mj == 8 || (decide (0x18 ≤ mj) && decide (mj ≤ 0x1F))

/-- A float instruction that rounds under the thread's mode (R309, R296); `rm` is the override's code. -/
def takesMode (i : Instr) (th : Thread) (rm : Nat) : Bool :=
  match i with
  | .fadd _ _ _ | .fsub _ _ _ | .fmul _ _ _ | .fmin _ _ _ | .fmax _ _ _ | .fma _ _ _ | .fnma _ _ _ => true
  | .fexp2 _ _ | .flog2 _ _ | .frcp _ _ | .frsq _ _ | .fsqrt _ _ => true
  | .rfsum _ _ => decide (rm ≤ 3)
  | .cvt d a =>
    let isF := fun n => match look th.names n with | some x => x.desc.kind.isFloat | none => false
    isF d || isF a
  | _ => false

/-- A hint word binds an instruction legally (R276). -/
def binds (h : Nat) (i : Instr) (th : Thread) : Bool :=
  let word := (encode i).getD 0
  let mj := word / 67108864
  if hintKind h = 1 then takesImm word
  else if hintKind h = 2 then
    let rm := bits h 21 19
    if rm = 7 then mj == 0x20 else !bit h 18 && takesMode i th rm
  else if hintKind h = 3 then mj == 0x28
  else if bits h 21 20 ≠ 0 then
    let ord := bits h 19 18
    match i with
    | .ldx _ _ _ _ => decide (ord ≤ 1)
    | .stx _ _ _ _ => ord == 0 || ord == 2
    | _ => false
  else
    match i with
    | .ldx _ _ _ _ | .stx _ _ _ _ | .ldxv _ _ _ _ | .stxv _ _ _ _ | .ldg _ _ _ _ | .stg _ _ _ _ => true
    | _ => false

/-! ### Undefined operand values (R280 step 1) -/

/-- An operand value that the instruction's own description makes an undefined encoding. -/
def illOperand : Instr → Bool
  | .hintMod rm w => rm == 5 || rm == 6 || (rm == 7 && w == 0)
  | .hintScope sc o k => k == 3 || (sc == 0 && o != 0)
  | .wqry _ sel nm => sel != 0 && nm != 0
  | .unpk _ _ p => p == 0 || decide (8 < p)
  | .amoLd _ _ o _ => decide (2 ≤ o)
  | .amoSt _ _ o _ => o == 1 || o == 3
  | .fence o _ => o == 0
  | .barArr _ b => decide (32 ≤ b)
  | .barWait _ b => decide (32 ≤ b)
  | .barSync b => decide (32 ≤ b)
  | .barCfg _ b => decide (32 ≤ b)
  | .acqs b => decide (16 ≤ b)
  | .rels b => decide (8 ≤ b)
  | .qput _ b => decide (8 ≤ b)
  | .qget _ b => decide (8 ≤ b)
  | .qtry _ b => decide (8 ≤ b)
  | .lease _ b => decide (5 ≤ b)
  | .leaseRel b => decide (16 ≤ b)
  | .tidq _ b => decide (6 ≤ b)
  | .trap _ b => !handlerMay b
  | .scall a b => b == 0 || decide (5 ≤ b) || (b != 1 && a != 0)
  | .cwr _ _ b => decide (14 ≤ b)
  | .cww _ _ b => decide (14 ≤ b)
  | _ => false

/-! ### Privilege (R93, R274, R383) -/

/-- The name an instruction treats as a destination. -/
def destination : Instr → Option Nat
  | .add d _ _ | .sub d _ _ | .and d _ _ | .or d _ _ | .xor d _ _ | .andn d _ _ | .orn d _ _ | .shl d _ _ | .shr d _ _
  | .sra d _ _ | .rol d _ _ | .min d _ _ | .max d _ _ | .minu d _ _ | .maxu d _ _ | .cmov d _ _ => some d
  | .abs d _ | .neg d _ | .mov d _ => some d
  | .addi d _ _ | .andi d _ _ | .ori d _ _ | .xori d _ _ | .shli d _ _ | .shri d _ _ | .srai d _ _ | .roli d _ _ => some d
  | .ceq d _ _ | .cne d _ _ | .clt d _ _ | .cle d _ _ | .cltu d _ _ | .cleu d _ _ => some d
  | .ceqi d _ _ | .cnei d _ _ | .clti d _ _ | .cltui d _ _ => some d
  | .mul d _ _ | .mulh d _ _ | .mulhu d _ _ | .div d _ _ | .divu d _ _ | .rem d _ _ | .remu d _ _ => some d
  | .sethi d _ | .addpc d _ => some d
  | .clz d _ | .ctz d _ | .popc d _ | .brev d _ => some d
  | .bext d _ _ | .bins d _ _ => some d
  | .resz d _ _ | .wqry d _ _ => some d
  | .pol d _ => some d
  | .cvt d _ | .pack d _ => some d
  | .unpk d _ _ => some d
  | .fadd d _ _ | .fsub d _ _ | .fmul d _ _ | .fmin d _ _ | .fmax d _ _ | .fma d _ _ | .fnma d _ _ => some d
  | .fabs d _ | .fneg d _ | .fclass d _ => some d
  | .fceq d _ _ | .fclt d _ _ | .fcle d _ _ => some d
  | .fexp2 d _ | .flog2 d _ | .frcp d _ | .frsq d _ | .fsqrt d _ => some d
  | .rsum d _ | .rmax d _ | .rmin d _ | .rmaxi d _ | .rmini d _ | .rall d _ | .rany d _ | .rfsum d _ | .rfmax d _
  | .rfmaxi d _ => some d
  | .vperm d _ _ | .vshuf d _ _ | .vlane d _ _ | .vins d _ _ | .vcomp d _ _ => some d
  | .vidx d _ => some d
  | .vtopk d _ _ | .vsmax d _ _ | .vsamp d _ _ | .vscan d _ _ => some d
  | .rng d _ _ => some d
  | .dbnz c _ => some c
  | .ld d _ _ _ | .ldv d _ _ _ | .ldx d _ _ _ | .ldxv d _ _ _ | .ldg d _ _ _ => some d
  | .amoAdd d _ _ _ _ | .amoAnd d _ _ _ _ | .amoOr d _ _ _ _ | .amoXor d _ _ _ _ | .amoMin d _ _ _ _ | .amoMax d _ _ _ _
  | .amoMinu d _ _ _ _ | .amoMaxu d _ _ _ _ | .amoXchg d _ _ _ _ | .amoCas d _ _ _ _ | .amoIncw d _ _ _ _
  | .amoBfa d _ _ _ _ => some d
  | .amoLd d _ _ _ => some d
  | .barArr d _ | .qget d _ | .qtry d _ => some d
  | .recv d _ => some d
  | .recvt d _ _ | .waitwL d _ _ | .waitwX d _ _ => some d
  | .maccrd a _ => some a
  | .jstat d _ => some d
  | .tidq d _ => some d
  | .vtrecv d _ => some d
  | .vthor d => some d
  | .cwr d _ _ => some d
  | .snap d => some d
  | _ => none

/-- The names that an instruction reads, or writes other than as a destination. -/
def sources : Instr → List Nat
  | .add _ a b | .sub _ a b | .and _ a b | .or _ a b | .xor _ a b | .andn _ a b | .orn _ a b | .shl _ a b | .shr _ a b
  | .sra _ a b | .rol _ a b | .min _ a b | .max _ a b | .minu _ a b | .maxu _ a b | .cmov _ a b => [a, b]
  | .ceq _ a b | .cne _ a b | .clt _ a b | .cle _ a b | .cltu _ a b | .cleu _ a b => [a, b]
  | .mul _ a b | .mulh _ a b | .mulhu _ a b | .div _ a b | .divu _ a b | .rem _ a b | .remu _ a b => [a, b]
  | .bext _ a b | .bins _ a b | .rng _ a b => [a, b]
  | .fadd _ a b | .fsub _ a b | .fmul _ a b | .fmin _ a b | .fmax _ a b | .fma _ a b | .fnma _ a b => [a, b]
  | .fceq _ a b | .fclt _ a b | .fcle _ a b => [a, b]
  | .vperm _ a b | .vshuf _ a b | .vlane _ a b | .vins _ a b | .vcomp _ a b => [a, b]
  | .vtopk _ a b | .vsmax _ a b | .vsoft _ a b | .vsamp _ a b | .vscan _ a b => [a, b]
  | .amoAdd _ a b _ _ | .amoAnd _ a b _ _ | .amoOr _ a b _ _ | .amoXor _ a b _ _ | .amoMin _ a b _ _ | .amoMax _ a b _ _
  | .amoMinu _ a b _ _ | .amoMaxu _ a b _ _ | .amoXchg _ a b _ _ | .amoCas _ a b _ _ | .amoIncw _ a b _ _
  | .amoBfa _ a b _ _ => [a, b]
  | .amoSt a b _ _ | .send a b | .sendh a b | .recvt _ a b | .waitwL _ a b | .waitwX _ a b => [a, b]
  | .mma a b _ _ | .mmas a b _ _ | .mldb a b _ | .mldm a b _ | .vtsend a b | .vtann a b => [a, b]
  | .st d a _ _ | .stv d a _ _ | .stx d a _ _ | .stxv d a _ _ | .stg d a _ _ => [d, a]
  | .abs _ a | .neg _ a | .mov _ a => [a]
  | .addi _ a _ | .andi _ a _ | .ori _ a _ | .xori _ a _ | .shli _ a _ | .shri _ a _ | .srai _ a _ | .roli _ a _ => [a]
  | .ceqi _ a _ | .cnei _ a _ | .clti _ a _ | .cltui _ a _ => [a]
  | .clz _ a | .ctz _ a | .popc _ a | .brev _ a | .cvt _ a | .pack _ a | .unpk _ a _ => [a]
  | .fabs _ a | .fneg _ a | .fclass _ a | .fexp2 _ a | .flog2 _ a | .frcp _ a | .frsq _ a | .fsqrt _ a => [a]
  | .rsum _ a | .rmax _ a | .rmin _ a | .rmaxi _ a | .rmini _ a | .rall _ a | .rany _ a | .rfsum _ a | .rfmax _ a
  | .rfmaxi _ a | .vidx _ a => [a]
  | .ld _ a _ _ | .ldv _ a _ _ | .ldx _ a _ _ | .ldxv _ a _ _ | .ldg _ a _ _ | .amoLd _ a _ _ => [a]
  | .mapld a _ | .bt a _ | .bf a _ | .jr a | .callr a | .barWait a _ | .barCfg a _ | .qput a _ | .recv _ a | .lease a _ => [a]
  | .maccwr a _ | .scacc a _ _ | .cpy a | .qcpy a | .zcpy a | .xcpy a | .jstat _ a | .jcancel a | .spawn a => [a]
  | .vtrecv _ a | .vtadv a | .trap a _ | .scall a _ | .eret a | .cww _ a _ => [a]
  | _ => []

/-- Every name that an instruction reads or writes. -/
def namesOf (i : Instr) : List Nat := (destination i).toList ++ sources i

/-- The privilege check of an instruction of a user thread: the `cw.eval` of its PRIV (R93, R274, R383). -/
def privileged (i : Instr) : Option Nat :=
  match i with
  | .cww _ _ b => some (64 + b)
  | .eret _ => some 0xFF
  | .halt => some 0xFF
  | .cwr d a _ => if a ≠ 0 then some 0xFF else if 59 ≤ d ∧ d ≤ 62 then some d else none
  | i =>
    match destination i with
    | some d => if 59 ≤ d ∧ d ≤ 62 then some d else none
    | none => none

/-- The instruction acts in local-time mode alone (R225, R374). -/
def needsLocalTime : Instr → Bool
  | .vtsend _ _ | .vtrecv _ _ | .vtadv _ | .vtann _ _ | .vtnull | .vthor _ => true
  | _ => false

/-- The thread's partition is in local-time mode (R35). -/
def Ctx.localTime (x : Ctx) : Bool :=
  match x.task.bind (fun n => x.s.part? n.part) with
  | some p => p.mode == 3
  | none => false

/-- R280, steps 1 to 3. -/
def guard (x : Ctx) : Except Stop Unit :=
  if illOperand x.i || (needsLocalTime x.i && !x.localTime) then trap ILL x.word
  else
    match x.hint with
    | some h =>
      if !binds h x.i x.th then trap ILL x.word
      else if x.steward then .ok ()
      else match privileged x.i with
        | some v => trap PRIV v
        | none => .ok ()
    | none =>
      if x.steward then .ok ()
      else match privileged x.i with
        | some v => trap PRIV v
        | none => .ok ()

/-! ### Names (R86, R93, R106, R279) -/

/-- The descriptor of a fixed name (R93). -/
def fixedDesc : Desc := { width := 64, lanes := 1, kind := .uns, pol := .wrap, win := false }

/-- The descriptor of a name: declared, or fixed. -/
def Thread.desc? (th : Thread) (n : Nat) : Option Desc :=
  if n < 56 then (look th.names n).map (·.desc) else some fixedDesc

/-- The field of a name that the thread's frame denotes (R106). -/
def Thread.field? (th : Thread) (n : Nat) : Option Field :=
  match look th.names n with
  | some x => x.fields[if x.desc.win then th.depth % 4 else 0]?
  | none => none

/-- The lanes of a name; `vt` is the core's virtual clock. -/
def Thread.lanes (th : Thread) (vt : Word64) (n : Nat) : List Nat :=
  if n < 56 then (match th.field? n with | some f => f.lanes | none => [])
  else if n = 57 then [th.lk.toNat]
  else if n = 58 then [th.ws.toNat]
  else if n = 59 then [th.tid.toNat]
  else if n = 60 then [th.ta.toNat]
  else if n = 61 then [th.cid.toNat]
  else if n = 62 then [vt.toNat]
  else if n = 63 then [th.st.toNat]
  else [0]

/-- Write the lanes of a name. Writes to zr are discarded (R93), and so are the steward's to tid, ta, cid and vt. -/
def Thread.setLanes (th : Thread) (n : Nat) (v : List Nat) : Thread :=
  if n < 56 then
    match look th.names n with
    | some x =>
      let j := if x.desc.win then th.depth % 4 else 0
      match x.fields[j]? with
      | some f => { th with names := put th.names n { x with fields := setAt x.fields j { f with lanes := v } } }
      | none => th
    | none => th
  else if n = 57 then { th with lk := BitVec.ofNat 64 (v.headD 0) }
  else if n = 58 then { th with ws := BitVec.ofNat 64 (v.headD 0) }
  else if n = 63 then { th with st := BitVec.ofNat 64 (v.headD 0) }
  else th

/-- Write lane 0 of a name and leave the others. -/
def Thread.setLane0 (th : Thread) (vt : Word64) (n v : Nat) : Thread := th.setLanes n (v :: (th.lanes vt n).drop 1)

/-- The classes of R279. -/
inductive Cls where
  | any | int | flt | pred
  deriving DecidableEq, Repr

/-- The name is declared and of its class, or KIND (R86, R279). (DEDUCED, log 74) -/
def Ctx.check (x : Ctx) (n : Nat) (cls : Cls) : Except Stop Desc :=
  match x.th.desc? n with
  | none => trap KIND n
  | some d =>
    let ok := match cls with
      | .any => true
      | .int => d.kind.isInt
      | .flt => d.kind.isFloat
      | .pred => decide (d.width = 1)
    if ok then .ok d else trap KIND n

/-- A source of an element-wise operation into d: one lane, or as many as d (R279). (DEDUCED, log 74) -/
def Ctx.checkSrc (x : Ctx) (n : Nat) (cls : Cls) (d : Nat) : Except Stop Desc := do
  let s ← x.check n cls
  match x.th.desc? d with
  | some e => if s.lanes = 1 || decide (s.lanes = e.lanes) then .ok s else trap KIND n
  | none => .ok s

/-- What an instruction asks of d for its operand n, where d is declared (R279, R280). -/
def Ctx.relates (x : Ctx) (n d : Nat) (ok : Desc → Bool) : Except Stop Unit :=
  match x.th.desc? d with
  | some e => if ok e then .ok () else trap KIND n
  | none => .ok ()

/-- A row-store word that holds bits of n lanes of a field, from lane l up, has an uncorrectable error (R99, R198): its row.
(DESIGN CHOICE, log 18) -/
def Ctx.fieldBad (x : Ctx) (d : Desc) (f : Field) (l n : Nat) : Option Nat :=
  let first := f.row * 8 + (f.bit + d.width * l) / 64
  let last := f.row * 8 + (f.bit + d.width * (l + n) - 1) / 64
  (x.s.bad.find? (fun b => decide (b.1 = 1) && decide (b.2.1 = x.c) && decide (first ≤ b.2.2) && decide (b.2.2 ≤ last))).map
    (fun b => b.2.2 / 8)

/-- A row-store word of the name's field has an uncorrectable error (R99, R198). (DESIGN CHOICE, log 18) -/
def Ctx.rowBad (x : Ctx) (n : Nat) : Option Nat :=
  match x.th.desc? n, x.th.field? n with
  | some d, some f => x.fieldBad d f 0 d.lanes
  | _, _ => none

/-- Read the lanes of a name; an uncorrectable row-store word raises ECCU (R99). (DEDUCED, log 74) -/
def Ctx.read (x : Ctx) (n : Nat) : Except Stop (List Nat) :=
  match x.rowBad n with
  | some row => trap ECCU (1 * 2 ^ 56 + row)
  | none => .ok (x.th.lanes x.k.vt n)

/-- Lane l, or lane 0 of a one-lane operand (R281). -/
def lane (v : List Nat) (l : Nat) : Nat :=
  match v with
  | [a] => a
  | v => v.getD l 0

/-- Lane 0 of a name that holds an address, count, key or word, read unsigned. -/
def Ctx.read0 (x : Ctx) (n : Nat) : Except Stop Nat := do
  let v ← x.read n
  .ok (v.headD 0)

/-! ### Lanes -/

/-- The lanes of d computed one by one; the first that stops decides (R9). -/
def eachLane (f : Nat → Except Stop Nat) : Nat → Nat → Except Stop (List Nat)
  | _, 0 => .ok []
  | l, n + 1 => do
    let v ← f l
    let r ← eachLane f (l + 1) n
    .ok (v :: r)

/-- A lane's assignment, or its trap. -/
def orTrap (cause l : Nat) : Option Nat → Except Stop Nat
  | some v => .ok v
  | none => trap cause l

/-- A float lane's assignment of an integer value, or an integer lane's (R7). -/
def Ctx.assignInt (x : Ctx) (dd : Desc) (v : Int) (l : Nat) : Except Stop Nat :=
  if dd.kind.isFloat then orTrap FPX l (fitFloat x.th x.mode dd l (FVal.ofInt v)) else orTrap OVF l (fitInt dd v)

/-- One integer assigned by fit() to every lane of a name of any kind. -/
def Ctx.assignAll (x : Ctx) (dd : Desc) (v : Int) : Except Stop (List Nat) := eachLane (x.assignInt dd v) 0 dd.lanes

/-- The thread after `assignAll` of a value to a name. -/
def Ctx.assigned (x : Ctx) (dd : Desc) (d : Nat) (r : List Nat) (th : Thread) : Thread :=
  (th.setLanes d r).drawn (if dd.kind.isFloat then x.mode else .rne) dd.lanes

/-! ### The course of an instruction -/

/-- What an instruction that passes its checks does. -/
abbrev Effect (s : State) := Trail s → Trail s

/-- A thread after an instruction has retired: at the next word, Ready, its hint consumed; a debug step stops it
(R88, R240). -/
def Thread.retire (th : Thread) (pc : Nat) : Thread :=
  { th with
    pc := pc, status := .ready, op := none, hint := none, logWait := false, suppress := false, saw := []
    stopped := th.stopped || th.stepping }

/-- The instruction retires, its thread at the given address. -/
def retireAt {s : State} (x : Ctx) (pc : Nat) (t : Trail s) : Trail s := t.modThread x.c x.sl (fun th => th.retire pc)

/-- The instruction retires to the next word. -/
def retireNext {s : State} (x : Ctx) (t : Trail s) : Trail s := retireAt x (x.th.pc + 4) t

/-- An instruction that only changes its own thread, and retires. -/
def own {s : State} (x : Ctx) (f : Thread → Thread) : Effect s :=
  fun t => t.setThread x.c x.sl ((f x.th).retire (x.th.pc + 4))

/-- An instruction that stays in flight, out or blocked with the operands it has read. -/
def Thread.wait (th : Thread) (i : Instr) (hint : Option Nat) (st : Status) (args : List Nat) : Thread :=
  { th with status := st, op := some { instr := i, pc := th.pc, hint := hint, args := args } }

/-- The thread stopped at a hit and goes on: the hit that its control words name, and that alone, is suppressed for its next
issue (R240 op 4): a breakpoint's, a watchpoint's, or that of a `brk`, whose `cw.eval` is 0x40 or more. (DEDUCED, log 46) -/
def Thread.suppresses (th : Thread) (cause : Nat) (brk : Bool) : Bool :=
  th.suppress && decide (th.cause.toNat % 256 = cause) && decide (0x40 ≤ th.eval.toNat) == brk

/-- Leave the instruction unfinished. -/
def waits {s : State} (x : Ctx) (st : Status) (args : List Nat) : Effect s :=
  fun t => t.modThread x.c x.sl (fun th => th.wait x.i x.hint st args)

/-- The context of the instruction that issues in a slot. -/
def State.ctx? (s : State) (c sl : Nat) (i : Instr) : Option Ctx :=
  (s.thread? c sl).map (fun th => { s := s, c := c, sl := sl, k := s.core c, th := th, i := i, hint := th.hint })

/-- An instruction of the current thread: the checks of R280 steps 1 to 3, then its own checks and effect; one that
stops changes nothing else (R8). -/
def issue (i : Instr) (s : State) (f : Ctx → Except Stop (Effect s)) : Host.Outcome State Fault Refusal :=
  match s.cur with
  | none => .fault .noThread
  | some (c, sl) =>
    match s.ctx? c sl i with
    | none => .fault .noThread
    | some x =>
      match (do guard x; f x) with
      | .ok g => done (g (begin s))
      | .error e => done ((begin s).stop c sl x.th x.th.pc (x.word / 67108864) x.hint.isSome e)

/-- The context of the instruction in progress in a slot, with the operands it has read. -/
def State.opCtx? (s : State) (c sl : Nat) : Option (Ctx × List Nat) :=
  match s.thread? c sl with
  | some th => th.op.map (fun o => ({ s := s, c := c, sl := sl, k := s.core c, th := th, i := o.instr, hint := o.hint }, o.args))
  | none => none

/-- An instruction in progress goes on: to its effect, or to a stop. -/
def Trail.resume {s : State} (t : Trail s) (c sl : Nat) (f : Ctx → List Nat → Except Stop (Effect s)) : Trail s :=
  match t.1.opCtx? c sl with
  | none => t
  | some (x, a) =>
    match f x a with
    | .ok g => (g t).settle c sl
    | .error e => (t.stop c sl x.th x.th.pc (x.word / 67108864) x.hint.isSome e).settle c sl

/-- A step of another agent. (DESIGN CHOICE, log 13) -/
def event (s : State) (f : Trail s → Trail s) : Host.Outcome State Fault Refusal := done (f (begin s))

/-- The n-th number a step of another agent is about. -/
def State.arg (s : State) (n : Nat) : Nat := s.args.getD n 0

end Sys2Proof.Machine
end

