-- ==== Sys2Proof/Machine/Sched.lean ====
section
/-!
DEFINITION. What comes next: the passing of time on each die (R27, R28, R245, R246), which due step or which thread is
next (R87), and the fetch of its instruction (R267, R237).
-/

namespace Sys2Proof.Machine

/-- The `cw.etime` increment per clock of a frequency step (R27). -/
def etimeStep : Nat → Nat
  | 0 => 24
  | 1 => 16
  | 2 => 12
  | 3 => 10
  | _ => 8

/-- The frequency of a step in MHz (R27). -/
def stepMhz : Nat → Nat
  | 0 => 600
  | 1 => 900
  | 2 => 1200
  | 3 => 1440
  | _ => 1800

/-- The thread is Halted (R84): at trap entry, by debug, by the end of its task, by the stop of its partition, or by a
steward restart (R45). The steward's own thread is halted by none of these but a trap. (DESIGN CHOICE, log 14) -/
def State.halted (s : State) (c sl : Nat) (th : Thread) : Bool :=
  th.trapped ||
  (decide (sl ≠ 15) &&
    (th.stopped || (s.die (dieOf c)).restart ||
     (match s.task? th.task with
      | some x => x.ending.isSome || (match s.part? x.part with | some p => p.halted | none => false)
      | none => false)))

/-! ### The next instruction of a thread -/

/-- The physical address a thread fetches from: its code extent, entry 0 (R267, R72); the steward's image is not
translated. (DESIGN CHOICE, log 12) -/
def State.fetchAddr (s : State) (sl : Nat) (th : Thread) : Option Nat :=
  if sl = 15 then some th.pc
  else
    match s.task? th.task with
    | none => none
    | some x =>
      match look x.ext 0 with
      | none => none
      | some e => if e.vbase ≤ th.pc ∧ th.pc + 4 ≤ e.vbase + e.len then some (e.pbase + (th.pc - e.vbase)) else none

/-- The word at an address of code, decoded. -/
def State.decodeAt (s : State) (a : Nat) : Option Instr :=
  match decode (s.mem.bytes a 4) with
  | .ok (i, _) => some i
  | .error _ => none

/-- The instruction that a thread issues next: the one that it has issued and waits in, or the one at its pc. -/
def State.nextInstr (s : State) (sl : Nat) (th : Thread) : Option Instr :=
  match th.op with
  | some o => some o.instr
  | none => (s.fetchAddr sl th).bind s.decodeAt

/-! ### Locked rows (R104, R105) -/

/-- The rows that a field of a size in bits stands in. -/
def Field.rows (f : Field) (size : Nat) : List Nat := upFrom f.row ((f.bit + size + 511) / 512)

/-- The rows of the fields that an instruction reads or writes; a `call` writes those of the frame that it enters. -/
def Thread.touches (th : Thread) (i : Instr) : List Nat :=
  let rows := fun (d : Desc) (f : Field) => f.rows (d.width * d.lanes)
  (namesOf i).flatMap (fun n => match th.desc? n, th.field? n with
    | some d, some f => rows d f
    | _, _ => []) ++
    (match i with
     | .call _ | .callr _ => (th.names.filter (fun n => n.2.desc.win)).flatMap (fun n =>
         match n.2.fields[(th.depth + 1) % 4]? with | some f => rows n.2.desc f | none => [])
     | _ => [])

/-- The rows that other slots of a core have locked. -/
def Core.lockedRows (k : Core) (sl : Nat) : List Nat := (k.locks.filter (fun l => decide (l.1 ≠ sl))).flatMap (·.2)

/-- The instruction that a thread would issue touches a row that another slot has locked: the thread is Held (R84, R104). -/
def State.lockedOut (s : State) (c sl : Nat) (th : Thread) : Bool :=
  let rows := (s.core c).lockedRows sl
  !rows.isEmpty && th.op.isNone && (match s.nextInstr sl th with
    | some i => (th.touches i).any (fun r => rows.contains r)
    | none => false)

/-- What an instruction that waits in its slot waits for has not come: the home die of the word of a `waitw.x` relocks
(R26), or the core's mesh port does not accept its event (R396). -/
def State.heldBack (s : State) (c : Nat) (th : Thread) : Bool :=
  match th.op with
  | none => false
  | some o =>
    match o.instr with
    | .waitwX _ _ _ => th.saw.isEmpty && (s.die (s.homeDie (dieOf c) (o.args.headD 0))).relocking
    | .vtsend _ _ => !Config.portAccepts s.tick c
    | _ => false

/-- The thread is Ready and not Halted or Held (R84), on a die whose clock runs. -/
def State.couldIssue (s : State) (c sl : Nat) (th : Thread) : Bool :=
  decide (th.status = .ready) && !s.halted c sl th && !(s.die (dieOf c)).relocking && !s.lockedOut c sl th && !s.heldBack c th

/-- The thread can issue: its last instruction has retired (R88), and no other of its core issues in this clock (R87). A thread that
goes on with an instruction that it has issued takes no issue clock. -/
def State.canIssue (s : State) (c sl : Nat) (th : Thread) : Bool :=
  s.couldIssue c sl th && decide (th.busy = 0) && (th.op.isSome || !(s.core c).threads.any (fun p => p.2.fresh))

/-! ### The passing of time -/

/-- The blocking waits of R91. -/
def blockingWait : Instr → Bool
  | .recv _ _ | .recvt _ _ _ | .waitwL _ _ _ | .waitwX _ _ _ | .barWait _ _ | .barSync _ | .acqs _ | .qget _ _ | .qput _ _
  | .lease _ _ | .vtrecv _ _ => true
  | _ => false

/-- A thread waits on memory, on a message, or issues: the class that its clocks count in after the steps of its own
instruction (R245). 0 issued, 1 memory, 2 message, 3 vacant, 4 none; `log` is the class of a wait at the order log. -/
def slotClass (engineBusy : Bool) (log : Option Nat) (th : Thread) : Nat :=
  if th.status = .finished then 4
  else if th.stopped then 3
  else match log with
    | some n => n
    | none =>
      match th.status with
      | .ready => (match th.op with | some o => if blockingWait o.instr then 2 else 1 | none => 3)
      | .yielding => 3
      | .held => 1
      | .blocked => 2
      | .out => if engineBusy then 0 else 1
      | .inFlight =>
        (match th.op with
         | some o => (match o.instr with | .vtsend _ _ => 2 | .vtann _ _ => 2 | _ => 1)
         | none => 0)
      | .finished => 4

/-- A thread's wait at the order log: for a place, not ready on memory; for its turn under replay, on message (R218, R221, R245). -/
def State.logClass (s : State) (c sl : Nat) : Option Nat :=
  match (s.partOfCore c).bind s.part? with
  | none => none
  | some p =>
    if (p.log.held ++ p.log.granted).any (fun w => w.about c sl) then some 1
    else if p.log.turns.any (fun w => w.2.about c sl) then some 2 else none

/-- Clocks added to a thread's counters (R245). -/
def Thread.clocked (th : Thread) (cls n : Nat) : Thread :=
  let v := BitVec.ofNat 16 n
  match cls with
  | 0 => { th with clsIssued := th.clsIssued + v }
  | 1 => { th with clsMemory := th.clsMemory + v }
  | 2 => { th with clsMessage := th.clsMessage + v }
  | 3 => { th with clsVacant := th.clsVacant + v }
  | _ => th

/-- A thread after n clocks of its die: those of its own instruction's steps, its issue clock first, are over (R88). -/
def Thread.aged (th : Thread) (n : Nat) : Thread :=
  { th with busy := if th.busy = 0 then 0 else th.busy - n, fresh := th.fresh && decide (n = 0) }

/-- Of the clocks 1 to n - 1 of some, those with fewer than m threads ready; `l` says, in rising order, from which clock on
each is. -/
def clocksBelow (l : List Nat) (m n : Nat) : Nat :=
  (match l[m - 1]? with | some b => min n (max 1 b) | none => n) - 1

/-- How many of n clocks count in the buckets one, two and four of `cw.ready` (R246): the first by the threads that issue in
it or could, the others by those whose last instruction has retired. -/
def State.readyClocks (s : State) (c n : Nat) (k : Core) : Nat × Nat × Nat :=
  let users := k.threads.filter (fun t => decide (t.1 < 15))
  let could := users.filter (fun t => t.2.op.isNone && s.couldIssue c t.1 t.2)
  let first := (users.filter (fun t => t.2.fresh)).length + (could.filter (fun t => decide (t.2.busy = 0) && !t.2.fresh)).length
  let l := sortBy (fun a b => decide (a < b)) (could.map (fun t => t.2.busy))
  let at0 := fun (p : Bool) => if p && decide (0 < n) then 1 else 0
  (at0 (first == 1) + (clocksBelow l 2 n - clocksBelow l 1 n),
   at0 (first == 2 || first == 3) + (clocksBelow l 4 n - clocksBelow l 2 n),
   at0 (decide (4 ≤ first)) + (n - 1 - clocksBelow l 4 n))

/-- n clocks pass on a core, the last of them clock `cyc` of its die: `cw.ready` counts each in one bucket (R246), and each
user thread's class counts (R245), which holds while pre-emption halts the partition. -/
def State.clockCore (s : State) (c n : Nat) (cyc : Word64) (k : Core) : Core :=
  let r := s.readyClocks c n k
  let one := k.readyOne + BitVec.ofNat 16 r.1
  let two := k.readyTwo + BitVec.ofNat 16 r.2.1
  let four := k.readyFour + BitVec.ofNat 16 r.2.2
  let still := ((s.partOfCore c).bind s.part?).any (·.halted)
  let running := fun sl => (k.matrixQ ++ k.streamQ).any (fun e => decide (e.slot = sl) && e.started)
  { k with
    readyNone := cyc.setWidth 16 - one - two - four, readyOne := one, readyTwo := two, readyFour := four
    threads := k.threads.map (fun t => (t.1,
      if still || decide (15 ≤ t.1) then t.2.aged n
      else ((t.2.clocked 0 (min t.2.busy n)).clocked (slotClass (running t.1) (s.logClass c t.1) t.2) (n - t.2.busy)).aged n)) }

/-- Time passes on one die: n clocks, or n reference ticks while it relocks (R27, R28); in a freeze `cw.cyc` and the
counters of cores hold and `cw.etime` runs (R242). (DESIGN CHOICE, log 4) -/
def Trail.passDie {s : State} (t : Trail s) (d n : Nat) : Trail s :=
  let x := t.1.die d
  if x.relocking then t.act (.die d { x with etime := x.etime + BitVec.ofNat 64 (144 * n) })
  else if t.1.pkg.frozen then t.act (.die d { x with etime := x.etime + BitVec.ofNat 64 (etimeStep x.step * n) })
  else
    let t := t.act (.die d
      { x with cyc := x.cyc + BitVec.ofNat 64 n, etime := x.etime + BitVec.ofNat 64 (etimeStep x.step * n) })
    forEach t (t.1.cores.filter (fun k => decide (dieOf k.1 = d))) 
      (fun t k => t.setCore k.1 (t.1.clockCore k.1 n (t.1.die d).cyc k.2))

/-- The die relocks for 2.2 µs: 220 reference ticks of 144 (R28). -/
def relockTime : Nat := 220 * 144

/-- Steps that a freeze lets go on (R242): those by which instructions in flight retire, with the requests that home slices have
accepted, the firing itself, and a frequency change that the power controller has begun. (DESIGN CHOICE, log 83) -/
def frozenStep : Instr → Bool
  | .loadReturn | .atomicPerform | .postedStorePerform | .messageArrive | .sendReply | .spawnAppend | .cardAccept
  | .vtNeighbourRegister | .resz _ _ _ | .mapld _ _ | .snapshotFiringComplete | .supplyRampUpDone | .relockDone
  | .supplyRampDownDone => true
  | _ => false

/-- A timer that stands still: in a freeze (R242), or while its partition is halted (R209, R223, R231). (DESIGN CHOICE, log 83) -/
def State.paused (s : State) (x : Timer) : Bool :=
  let halted := fun n => match s.part? n with | some p => p.halted | none => false
  if s.pkg.frozen then !frozenStep x.ev.step
  else match x.ev.step with
  | .recvtTimeout | .vtNullCountExpire =>
    (match s.partOfCore (x.ev.args.headD 0) with | some n => halted n | none => false)
  | .replayTimeout => halted (x.ev.args.headD 0)
  | _ => false

/-- The count that a timer runs on. -/
def State.counter (s : State) (x : Timer) : Nat :=
  if x.onCyc then (s.die x.die).cyc.toNat else (s.die x.die).etime.toNat

/-- Paused timers fall due as much later as time has passed. -/
def holdTimers (old : State) {s : State} (t : Trail s) : Trail s :=
  t.act (.agenda t.1.tick t.1.inputs t.1.pending
    (t.1.timers.map (fun x => if old.paused x then { x with due := x.due + (t.1.counter x - old.counter x) } else x)))

/-- Time passes on every die, by a number of clocks that the spec leaves open; after a thermal trip none passes (R30). (DESIGN CHOICE, log 4) -/
def passTime (s : State) : Trail s :=
  let t := (begin s).act (.agenda (s.tick + 1) s.inputs s.pending s.timers)
  if s.pkg.tripped then t
  else holdTimers s (forEach t [0, 1, 2, 3] (fun t d => t.passDie d (Config.clocks s.tick d)))

/-- Threads whose debug step has ended stop for debug, with a trace record (R240, R244). -/
def stepsEnd {s : State} (t : Trail s) : Trail s :=
  forEach t (t.1.cores.filter (fun k => k.2.threads.any (fun p => p.2.stepping && p.2.stopped))) (fun t k =>
    forEach t (k.2.threads.filter (fun p => p.2.stepping && p.2.stopped)) (fun t p =>
      (t.modThread k.1 p.1 (fun th => { th with stepping := false })).trace k.1 p.1 5 (p.2.pc % 2 ^ 56)))

/-- The die a due step is bound to, if one: it stands still while that die relocks (R26, R395, R397). (DESIGN CHOICE, log 83) -/
def stepDie (i : Due) : Option Nat :=
  let a := i.args.headD 0
  match i.step with
  | .resz _ _ _ | .mapld _ _ => some (dieOf a)
  | .snapshotFiringComplete => some (if i.args.length = 2 then dieOf a else a)
  | .loadReturn | .postedStorePerform | .atomicPerform | .matrixStart | .matrixComplete | .matrixSoftErrorRetry
  | .streamStart | .streamComplete | .frameSpillDone | .frameFillDone | .yieldEnd | .cardAccept | .messageArrive
  | .sendReply | .contextFreeNotice | .refusalSelfNotice | .recvtTimeout | .vtNullCountExpire
  | .trapService | .leaseServe | .spawnAppend => some (dieOf a)
  | .vtMilestoneArrive => some (dieOf (i.args.getD 1 0))
  | .vtEventArrive => some (dieOf (if i.args.length = 2 then a else i.args.getD 1 0))
  | .vtNeighbourRegister => some (dieOf (i.args.getD 2 a))
  | .nodeTake | .nodeStart | .porterResidency | .porterNoticeHandle | .courierJobStart | .loadBalance =>
    some (dieOfCluster a)
  | .submissionHandle => some a
  | .barrierCountArrive | .barrierUnitArrival => some (if a < 64 then a / 16 else if a < 68 then a - 64 else 0)
  | .barrierLineRise => some (dieOf (i.args.getD 2 0))
  | _ => none

/-- The dies on the way from a die to the home of each of some addresses (R12). -/
def State.wayTo (s : State) (src : Nat) (l : List Nat) : List Nat :=
  src :: l.flatMap (fun a => let d := s.homeDie src a; [nextHop src d, d])

/-- The physical addresses of the lanes of a load in flight. -/
def physOf : List Nat → List Nat
  | _ :: _ :: ph :: _ :: _ :: _ :: r => ph :: physOf r
  | _ => []

/-- The dies that an access to device memory crosses: a load's lanes, a posted store's bytes, a courier job's runs (R26). -/
def State.accessDies (s : State) (i : Due) : List Nat :=
  let a := i.args.headD 0
  match i.step with
  | .loadReturn =>
    (match (s.thread? a (i.args.getD 1 0)).bind (·.op) with
     | some o => s.wayTo (dieOf a) (physOf o.args)
     | none => [])
  | .postedStorePerform =>
    (match (s.core a).posted with
     | p :: _ => s.wayTo (dieOf a) (p.bytes.map (·.1))
     | [] => [])
  | .courierJobComplete | .xcpyChunkDeliver =>
    (match look s.jobs a with
     | some j => s.wayTo (dieOf j.core) (((j.reads ++ j.writes).filter (·.virt)).flatMap (fun r => [r.phys, r.phys + r.len - 1]))
     | none => [])
  | _ => []

/-- A step that is due can run now: no die it needs relocks; die-to-die flits need both dies (R26). (DESIGN CHOICE, log 83) -/
def State.runnable (s : State) (i : Due) : Bool :=
  match i.step, i.args with
  | .dieLinkFlitDeliver, [a, b] => !(s.die a).relocking && !(s.die b).relocking
  | _, _ => ((stepDie i).toList ++ s.accessDies i).all (fun d => !(s.die d).relocking)

/-- Take the first entry that a test accepts out of a list. -/
def takeFirst {α : Type} (p : α → Bool) : List α → Option (α × List α)
  | [] => none
  | x :: r =>
    if p x then some (x, r)
    else match takeFirst p r with
      | some (y, r') => some (y, x :: r')
      | none => none

/-- A freeze keeps a step from acting (R242). (DESIGN CHOICE, log 83) -/
def State.freezes (s : State) (i : Instr) : Bool := s.pkg.frozen && !frozenStep i

/-- Timers that come while their die relocks: the end of the relock, and the timeouts of pre-emption (R28, R47). -/
def relockStep : Instr → Bool
  | .relockDone | .preemptT1Expire | .preemptT2Expire => true
  | _ => false

/-- The timer ends an instruction that a freeze lets retire though its clock stands still (R242). -/
def State.retiresFrozen (s : State) (x : Timer) : Bool :=
  s.pkg.frozen && (match x.ev.step with | .resz _ _ _ | .mapld _ _ => true | _ => false)

/-- A timer's count has been reached. (DESIGN CHOICE, log 4) -/
def State.elapsed (s : State) (x : Timer) : Bool :=
  (decide (x.due ≤ s.counter x) || s.retiresFrozen x) && !s.freezes x.ev.step &&
    (!(s.die x.die).relocking || relockStep x.ev.step)

/-- The slots of a core that can issue. -/
def State.readySlots (s : State) (c : Nat) (k : Core) : List Nat :=
  (k.threads.filter (fun t => s.canIssue c t.1 t.2)).map (·.1)

/-- The first of some numbers after n, wrapping (R87). -/
def firstAfter (n : Nat) (l : List Nat) : Option Nat :=
  match l.find? (fun x => decide (n < x)) with
  | some x => some x
  | none => l.head?

/-- The core and slot that issue next: the cores take turns, and a core's slots in its rotation (R87). (DESIGN CHOICE, log 5; DESIGN CHOICE, log 9) -/
def State.pickThread (s : State) : Option (Nat × Nat) :=
  let ready := s.cores.filter (fun k => !(s.readySlots k.1 k.2).isEmpty)
  match firstAfter s.turn (ready.map (·.1)) with
  | none => none
  | some c =>
    let k := s.core c
    (firstAfter k.last (s.readySlots c k)).map (fun sl => (c, sl))

/-- The lowest breakpoint entry that matches the thread's next instruction (R236, R237). -/
def State.breakpoint (s : State) (c sl : Nat) (th : Thread) : Option Nat :=
  let g := (s.die (dieOf c)).dbg
  if !g.enable || th.suppresses BRK false || th.hint.isSome || sl = 15 then none
  else (upFrom 0 16).find? (fun i =>
    let w0 := lookD g.bp (2 * i) 0
    let w1 := lookD g.bp (2 * i + 1) 0
    bit w0 63 && decide (w0 % 2 ^ 56 = th.pc) && decide (w0 % 4 = 0) && decide (bits w1 10 4 = c % 128) &&
      decide (bits w1 3 0 = sl))

/-- What a thread issues: an instruction, a word that decodes to none, a breakpoint hit on a word, a word with an uncorrectable
error in a unit, or a fetch outside its code. -/
inductive Fetched where
  | instr (i : Instr)
  | illegal (word : Nat)
  | breakpoint (n word : Nat)
  | poisoned (unit word : Nat)
  | outside
  deriving DecidableEq, Repr

/-- Fetch and decode a thread's next instruction. An instruction that has issued and waits is fetched no more (R237). -/
def State.fetch (s : State) (c sl : Nat) (th : Thread) : Fetched :=
  match th.op with
  | some o => .instr o.instr
  | none =>
    match s.breakpoint c sl th, s.fetchAddr sl th with
    | some n, a => .breakpoint n (match a with | some a => s.mem.read a 4 | none => 0)
    | none, none => .outside
    | none, some a =>
      match s.memBad a 4 with
      | some u => .poisoned u (s.mem.read a 4)
      | none =>
        match s.decodeAt a with
        | some i => .instr i
        | none => .illegal (s.mem.read a 4)

/-- Clocks of a core without an issue after which a thread blocked in `vtrecv` makes it send null events (R231). -/
def quietClocks : Nat := 1024

/-- The count of quiet clocks of a core starts again, while a thread of it is blocked in `vtrecv` (R231). (DEDUCED, log 45) -/
def Trail.quietAgain {s : State} (t : Trail s) (c : Nat) : Trail s :=
  if (t.1.core c).vtWait.isEmpty then t
  else (t.noTimer .vtNullCountExpire [c]).timer (dieOf c) true quietClocks .vtNullCountExpire [c]

/-- Clocks of an instruction's own steps (R88): one for a hint (R277), six for a basic instruction, and one more for each
further row of the largest field that a vector instruction names. -/
def Thread.clocksOf (th : Thread) : Instr → Nat
  | .hintImm _ | .hintMod _ _ | .hintMma _ | .hintScope _ _ _ => 1
  | i =>
    let bits := (namesOf i).foldl (fun m n => match th.desc? n with | some d => max m (d.width * d.lanes) | none => m) 1
    6 + (bits + 511) / 512 - 1

/-- The slot issues: it is the one that issued last, its instruction's steps begin, and the step runs for it (R87, R88). An
instruction that goes on after a wait issues no second time. -/
def Trail.issuing {s : State} (t : Trail s) (c sl : Nat) (th : Thread) (i : Instr) : Trail s :=
  let t := t.act (.cur (some (c, sl)) [] c)
  if th.op.isSome then t
  else
    let t := t.modCore c (fun k => { k with
      last := sl, threads := put k.threads sl { th with busy := th.clocksOf i, fresh := true } })
    if sl = 15 then t else t.quietAgain c

/-- A thread that cannot issue its word stops: BRK, ECCU, ILL or the task's end (R237, R17, R273, R267). (DESIGN CHOICE, log 18) -/
def Trail.stopFetch {s : State} (t : Trail s) (c sl : Nat) (th : Thread) : Fetched → Trail s
  | .instr _ => t
  | .illegal w => t.stop c sl th th.pc (w / 67108864) th.hint.isSome (.trap ILL w none)
  | .breakpoint n w => t.stop c sl th th.pc (w / 67108864) false (.trap BRK n none)
  | .poisoned u w => t.stop c sl th th.pc (w / 67108864) th.hint.isSome (.trap ECCU (Config.eccuMemory th.pc u) none)
  | .outside => t.stop c sl th th.pc 0 th.hint.isSome (.extent 1 0 th.pc)

/-- A step of another agent that can run now, with what remains due and the timers that remain: the first step already due, or
the first timer that has elapsed. (DESIGN CHOICE, log 9) -/
def State.nextDue (s : State) : Option (Due × List Due × List Timer) :=
  let first := (takeFirst (fun i => s.runnable i && !s.freezes i.step) s.pending).map (fun p => (p.1, p.2, s.timers))
  let timed := (takeFirst s.elapsed s.timers).map (fun p => (p.1.ev, s.pending, p.2))
  match first, timed with
  | some a, some b => some (if Config.timerFirst s.tick then b else a)
  | some a, none => some a
  | none, b => b

/-- What the machine does next. -/
inductive Move where
  /-- A step of another agent. -/
  | due (i : Due)
  /-- An instruction of a thread. -/
  | thread (i : Instr)
  /-- A thread that stops at its fetch, or nothing at all. -/
  | none
  deriving DecidableEq, Repr

/-- The next thread issues. -/
def threadMove {s : State} (t : Trail s) : Trail s × Move :=
  match t.1.pickThread with
  | none => (t, .none)
  | some (c, sl) =>
    match t.1.thread? c sl with
    | none => (t, .none)
    | some th =>
      match t.1.fetch c sl th with
      | .instr i => (t.issuing c sl th i, .thread i)
      | f => ((t.issuing c sl th .done).stopFetch c sl th f, .none)

/-- The next move and the state it starts from: an input, else a due step that can run, an elapsed timer, or the next thread
that can issue; which of them comes first is left open. An input that a relock stalls becomes due after it (R26). In a freeze no thread issues (R242). Once a
device-fatal fault has stopped the package, inputs alone act (R205); once its clocks have stopped, a package reset alone
(R30). (DESIGN CHOICE, log 9; DESIGN CHOICE, log 83) -/
def nextMove (s : State) : Trail s × Move :=
  let t := stepsEnd (passTime s)
  let u := t.1
  let run := fun (t : Trail s) (i : Due) => (t.act (.cur none i.args t.1.turn), Move.due i)
  match u.inputs with
  | i :: r =>
    let t := t.act (.agenda u.tick r u.pending u.timers)
    if u.pkg.tripped && decide (i.step ≠ .packageReset) then (t, .none)
    else if !u.runnable i then (t.pend i.step i.args, .none)
    else run t i
  | [] =>
    if u.pkg.tripped || u.pkg.fatal then (t, .none)
    else if u.pickThread.isSome && !u.pkg.frozen && (u.nextDue.isNone || Config.threadFirst u.tick) then threadMove t
    else
      match u.nextDue with
      | some (i, p, x) => run (t.act (.agenda u.tick [] p x)) i
      | none => if u.pkg.frozen then (t, .none) else threadMove t

end Sys2Proof.Machine
end

