-- ==== Sys2Proof/Machine/Boot.lean ====
section
/-!
DEFINITION. Threads and tasks as they start (R85, R68), and a one-thread task laid down from outside, in which a given
word is the next instruction to issue.
-/

namespace Sys2Proof.Machine

/-- A thread as it starts (R85): Ready at its entry, no pattern, lk and st zero, ws the top of the local run, depth 0,
rne. (DESIGN CHOICE, log 11) -/
def Thread.start (task agent pc hw tid ta core pkg : Nat) (vc : Clock) (rec : Option (Nat × Nat)) : Thread :=
  { task := task, agent := agent, pc := pc, names := [], lk := 0, ws := BitVec.ofNat 64 (hw * 4096)
    tid := BitVec.ofNat 64 tid, ta := BitVec.ofNat 64 ta, cid := BitVec.ofNat 64 (core + pkg * 65536), st := 0
    rmode := .rne, rsn := 0, depth := 0, spilled := [], fill := [], hint := none, status := .ready, op := none
    trapped := false, stopped := false, stepping := false, suppress := false, logWait := false, cause := 0, epc := 0
    eval := 0, race := 0, prior := none, mapGen := 0, mapMoves := 0, clsIssued := 0, clsMemory := 0, clsMessage := 0
    clsVacant := 0, relFence := none, lastRead := { heads := [], scope := none }, lastRec := rec, saw := [], busy := 0, fresh := false
    vc := put vc agent 1 }

/-- One thread of a task starts in a slot: no message of an earlier thread stays in its pigeonhole. (DEDUCED, log 79) -/
def Trail.startThread {s : State} (t : Trail s) (c sl : Nat) (th : Thread) : Trail s :=
  let t := t.modCore c (fun k => { k with
    threads := put k.threads sl th, pigeons := del k.pigeons sl, arrivals := k.arrivals.filter (fun m => decide (m.1 ≠ sl))
    hWin := k.hWin.filter (fun h => decide (h.1 / 256 ≠ sl)) })
  t.trace c sl 1 (th.pc % 2 ^ 56)

/-- The code extent (R72 entry 0): mode CODE, perm exec and rd. -/
def codeExtent (vbase pbase len : Nat) : Extent :=
  { mode := 5, perm := 9, vbase := vbase, pbase := pbase, share := 0, len := len, rbase := vbase, rlen := len
    comp := [], leased := false }

/-- Where a word placed from outside stands. -/
def placedAt : Nat := 0x100000

/-- The task that runs a placed word: one thread, a local run of the whole 2 MiB. (DESIGN CHOICE, log 11) -/
def placedTask : Task :=
  { part := 0, core := 0, app := 0, hw := 512, localBase := 0, ta := 0, code := placedAt, codelen := 64, threads := 1
    slots := [0], ext := [(0, codeExtent placedAt placedAt 64)], handler := none, leases := [], ending := none
    hShare := [], vc := [] }

/-- s with a word, and zeros up to 64 bytes, at the code base of a one-thread task on core 0, whose thread in slot 0 is
the one to issue next. (DESIGN CHOICE, log 11) -/
def State.place (s : State) (w : Nat) : State :=
  let n := s.taskCount + 1
  let d := s.die 0
  let k := s.core 0
  let th := Thread.start n (s.agents + 1) placedAt 512 0 0 0 s.pkg.num [] none
  let others := k.threads.map (fun p => (p.1, { p.2 with fresh := false }))
  let k := { k with last := 15, locks := [], threads := put others 0 th }
  { s with
    mem := ((wordBytes w ++ List.replicate 60 0).foldl (fun (m : Mem × Nat) b => (m.1.set m.2 b, m.2 + 1)) (s.mem, placedAt)).1
    tasks := put s.tasks n placedTask
    taskCount := n
    agents := s.agents + 1
    cores := put s.cores 0 k
    dies := put s.dies 0 { d with change := .none, restart := false, dbg := { d.dbg with enable := false } }
    bad := s.bad.filter (fun b => decide (b.1 ≠ 0) || decide (b.2.2 ≠ placedAt / 32))
    pkg := { s.pkg with frozen := false, tripped := false, fatal := false }
    inputs := [], pending := [], timers := [], turn := 511 }

end Sys2Proof.Machine
end

