-- ==== Sys2Proof/Machine/Access.lean ====
section
/-!
DEFINITION. Access to a core's local address space (R110-R112, R331-R333): where an address leads, the checks in the
order of R195 with races (R168, R174-R178) and watchpoints (R238), reading and writing; and what else many instructions
share: the row store's first fit (R97, R98) and context-free notices (R117).
-/

namespace Sys2Proof.Machine

/-- A location of local race detection (R168): a granule of the core's local store, a field of a name of a slot, a
tile. -/
inductive Loc where
  | gran (g : Nat)
  | win (slot name frame : Nat)
  | tile (n : Nat)
  deriving DecidableEq, Repr

/-- The address a task would use for a granule: its own local base taken off (R176). -/
def Ctx.granAddr (x : Ctx) (g : Nat) : Nat := g * 32 - (match x.task with | some t => t.localBase | none => 0)

/-- The key of a register-window field in its table. -/
def winKey (slot name frame : Nat) : Nat := (slot * 64 + name) * 4 + frame

def Core.history (k : Core) : Loc → List Access
  | .gran g => lookD k.hGran g []
  | .win sl n f => lookD k.hWin (winKey sl n f) []
  | .tile n => lookD k.hTile n []

def Core.setHistory (k : Core) (l : Loc) (h : List Access) : Core :=
  match l with
  | .gran g => { k with hGran := put k.hGran g h }
  | .win sl n f => { k with hWin := put k.hWin (winKey sl n f) h }
  | .tile n => { k with hTile := put k.hTile n h }

/-- A race word (R176). (DEDUCED, log 28) -/
def raceWord (cls other : Nat) (wr : Bool) (whr : Nat) : Nat := cls * 2 ^ 61 + other * 2 ^ 57 + bitAt wr 56 + whr % 2 ^ 56

/-- The race that an access of the thread to a location completes, as its race word (R135, R174, R178). (DEDUCED, log 76) -/
def Ctx.race (x : Ctx) (l : Loc) (write atomic : Bool) : Option Nat :=
  let h := raceWith (x.k.history l) x.th.agent x.th.vc write atomic
  match l with
  | .gran g =>
    match x.k.tags.find? (fun t => decide (t.first ≤ g) && decide (g < t.first + t.count) && (t.write || write)) with
    | some t => some (raceWord 5 15 t.write (x.granAddr g))
    | none => h.map (fun a => raceWord 1 a.slot a.write (x.granAddr g))
  | .win sl n _ => h.map (fun a => raceWord 2 a.slot a.write (0x01000000 + sl * 0x8000 + n * 0x200))
  | .tile n => h.map (fun a => raceWord 3 a.slot a.write n)

/-- The race check over a list of lanes and their locations: the lowest racing lane traps (R9, R175). (DEDUCED, log 76) -/
def Ctx.raceCheck (x : Ctx) (write atomic : Bool) : List (Nat × Loc) → Except Stop Unit
  | [] => .ok ()
  | (l, p) :: r =>
    match x.race p write atomic with
    | some w => .error (.trap RACE l (some w))
    | none => x.raceCheck write atomic r

/-- Locations enter the histories as the thread's accesses. -/
def Core.enterAll (k : Core) (th : Thread) (sl : Nat) (write atomic : Bool) (ls : List Loc) : Core :=
  ls.foldl (fun k l => k.setHistory l (enter (k.history l) (th.access sl write atomic) th.vc)) k

def Trail.enterAll {s : State} (t : Trail s) (x : Ctx) (write atomic : Bool) (ls : List Loc) : Trail s :=
  if x.steward then t else t.modCore x.c (fun k => k.enterAll x.th x.sl write atomic ls)

/-- The granules of a run of a core's local store. -/
def granules (off len : Nat) : List Nat := if len = 0 then [] else upFrom (off / 32) ((off + len + 31) / 32 - off / 32)

/-! ### Addresses -/

/-- Bytes of the task's local run, and where it begins in the core's local store; the steward has all of it (R69, R110). -/
def Ctx.runLen (x : Ctx) : Nat := if x.steward then 2097152 else (match x.task with | some t => t.hw * 4096 | none => 0)
def Ctx.runBase (x : Ctx) : Nat := if x.steward then 0 else (match x.task with | some t => t.localBase | none => 0)

/-- A run of bytes lies within the task's local run. -/
def Ctx.inRun (x : Ctx) (a : Int) (len : Nat) : Bool := decide (0 ≤ a) && decide (a + len ≤ (x.runLen : Int))

/-- An address as `cw.eval` shows it. -/
def showAddr (a : Int) : Nat := bitsOf 64 a

/-- A local-store word of a run of the core has an uncorrectable error (R198): its `cw.eval`, the word's address as the
task names it. (DESIGN CHOICE, log 18; DEDUCED, log 73) -/
def Ctx.localBad (x : Ctx) (off len : Nat) : Option Nat :=
  (x.s.locBad x.c off len).map (fun p => 2 * 2 ^ 56 + (p * 8 - x.runBase))

/-- Where a local access leads (R110). -/
inductive Place3 where
  | store (off : Nat)
  | window (slot name lane : Nat)
  | status (off : Nat)
  deriving DecidableEq, Repr

/-- Step 1 of R195 for one lane: alignment to the size; register windows take 8-byte elements alone (R112). -/
def alignLocal (a : Int) (size : Nat) : Bool :=
  decide (a % size = 0) && (decide (size = 8) || !(decide (0x01000000 ≤ a) && decide (a < 0x01080000)))

/-- A slot's thread belongs to the accessing task; every slot is the steward's (R112). (DEDUCED, log 81) -/
def Ctx.ownSlot (x : Ctx) (sl : Nat) : Bool :=
  x.steward || (match look x.k.threads sl with | some th => decide (th.task = x.th.task) | none => false)

/-- Step 2 of R195 for one lane: the region, or the task's end. -/
def Ctx.region (x : Ctx) (l : Nat) (a : Int) (size : Nat) (write : Bool) : Except Stop Place3 :=
  if x.inRun a size then .ok (.store (x.runBase + a.toNat))
  else if 0x01000000 ≤ a ∧ a < 0x01080000 then
    let w := a.toNat - 0x01000000
    if x.ownSlot (w / 0x8000) then .ok (.window (w / 0x8000) (w / 0x200 % 64) (w / 8 % 64)) else extent 3 l (showAddr a)
  else if 0x02000000 ≤ a ∧ a < 0x02001000 then
    if write && !x.steward then extent 4 l (showAddr a) else .ok (.status (a.toNat - 0x02000000))
  else extent 3 l (showAddr a)

/-- Each lane and its result; the first that stops decides. -/
def eachOf {α β : Type} (f : α → Except Stop β) : List α → Except Stop (List β)
  | [] => .ok []
  | a :: r => do
    let v ← f a
    let vs ← eachOf f r
    .ok (v :: vs)

/-- The location of a lane's access, if it is one (R168). -/
def Ctx.locOf (x : Ctx) : Place3 → Option Loc
  | .store off => some (.gran (off / 32))
  | .window sl n _ =>
    match look x.k.threads sl with
    | some th =>
      (match th.desc? n with
       | some d => some (.win sl n (if d.win then th.depth % 4 else 0))
       | none => some (.win sl n 0))
    | none => some (.win sl n 0)
  | .status _ => none

/-- The lowest watchpoint of the thread's die that an access touches (R236, R238). -/
def Ctx.watch (x : Ctx) (virt : Bool) (reads writes : Bool) (runs : List (Int × Nat)) : Option Nat :=
  let g := (x.s.die (dieOf x.c)).dbg
  if !g.enable || x.steward || x.th.suppresses WATCH false then none
  else (upFrom 0 8).find? (fun i =>
    let w0 := lookD g.wp (2 * i) 0
    let w1 := lookD g.wp (2 * i + 1) 0
    let base := w0 % 2 ^ 56
    let len := w1 % 2 ^ 32
    bit w0 63 && ((bit w0 61 && reads) || (bit w0 60 && writes)) && decide (bit w0 59 = virt) &&
      decide (bits w1 42 36 = x.c % 128) && decide (bits w1 35 32 = x.sl) &&
      runs.any (fun r => decide (0 ≤ r.1) && overlaps r.1.toNat r.2 base len))

/-- The watch check: WATCH with the entry's number. -/
def Ctx.watchCheck (x : Ctx) (virt reads writes : Bool) (runs : List (Int × Nat)) : Except Stop Unit :=
  match x.watch virt reads writes runs with
  | some n => trap WATCH n
  | none => .ok ()

/-- The checks of a local load or store over its lanes, each an address (R195, R333): where each lane leads. -/
def Ctx.localChecks (x : Ctx) (size : Nat) (write : Bool) (lanes : List (Nat × Int)) : Except Stop (List Place3) := do
  match lanes.find? (fun p => !alignLocal p.2 size) with
  | some p => trap ALIGN (showAddr p.2)
  | none =>
    let ps ← eachOf (fun p => x.region p.1 p.2 size write) lanes
    if x.steward then .ok ps
    else
      let locs := (lanes.zip ps).filterMap (fun p => (x.locOf p.2).map (fun l => (p.1.1, l)))
      x.raceCheck write false locs
      x.watchCheck false (!write) write (lanes.map (fun p => (p.2, size)))
      .ok ps

/-- The checks of an access to one run of the task's local store by an instruction that is no load or store: its
granules as reads or writes. -/
def Ctx.runRace (x : Ctx) (a len : Nat) (write atomic : Bool) : Except Stop Unit :=
  if x.steward then .ok () else x.raceCheck write atomic ((granules (x.runBase + a) len).map (fun g => (0, .gran g)))

/-- A run's granules enter the histories. -/
def Trail.enterRun {s : State} (t : Trail s) (x : Ctx) (a len : Nat) (write atomic : Bool) : Trail s :=
  t.enterAll x write atomic ((granules (x.runBase + a) len).map .gran)

/-- Bytes of the task's local run. -/
def Ctx.locBytes (x : Ctx) (a len : Nat) : List Byte := x.s.loc.bytes (locKey x.c (x.runBase + a)) len
def Ctx.locNum (x : Ctx) (a len : Nat) : Nat := x.s.loc.read (locKey x.c (x.runBase + a)) len

/-- An uncorrectable error in a run that the instruction reads (R198). -/
def Ctx.runEcc (x : Ctx) (a len : Nat) : Except Stop Unit :=
  match x.localBad (x.runBase + a) len with
  | some v => trap ECCU v
  | none => .ok ()

/-- Where the ring block of an expansion job stands in its core's local store (R141). -/
def State.ringAt (s : State) (j : Job) : Nat :=
  j.dst + (match s.task? j.task with | some x => x.localBase | none => 0)

/-- Expansion jobs of a core whose ring block a run of bytes touches look for permits again (R142). -/
def Trail.wakeRing {s : State} (t : Trail s) (c off len : Nat) : Trail s :=
  forEach t (t.1.jobs.filter (fun j => decide (j.2.kind = 3) && decide (j.2.state = 2) && decide (j.2.core = c) &&
    overlaps (t.1.ringAt j.2) 64 off len)) (fun t j => t.pendOnce .xcpyChunkDeliver [j.1])

/-- Set the releases that the local words of a run carry. -/
def Core.setHeads (k : Core) (off len : Nat) (hs : List Head) : Core :=
  let rest := k.heads.filter (fun h => !overlaps (h.1 * 4) 4 off len)
  if hs.isEmpty then { k with heads := rest }
  else { k with heads := (upFrom (off / 4) ((off + len + 3) / 4 - off / 4)).foldl (fun t w => put t w hs) rest }

/-- Write local-store bytes with the releases that they carry; a plain write carries none, and ends the sequences of the
words it touches (R182). Threads that wait on a word of the run see it (R341). -/
def Trail.localWrite {s : State} (t : Trail s) (c off : Nat) (bs : List Byte) (hs : List Head) : Trail s :=
  let t := ((t.locWrite c off bs).modCore c (fun k => k.setHeads off bs.length hs)).mendRun (some c) off bs.length
  (t.wakeWord c true off bs.length).wakeRing c off bs.length

def Trail.localStore {s : State} (t : Trail s) (c off : Nat) (bs : List Byte) : Trail s := t.localWrite c off bs []

/-! ### Register windows (R112) and the status range (R110, R114-R118) -/

/-- A lane of a name as a 64-bit word: sgn values sign-extended, others zero-extended (R107, R112). -/
def wordOf (d : Desc) (v : Nat) : Nat := if d.kind = .sgn then bitsOf 64 (extInt .sgn d.width v) else v

/-- A read of a register window. -/
def readWindow (k : Core) (sl n l : Nat) : Nat :=
  match look k.threads sl with
  | none => 0
  | some th =>
    match th.desc? n with
    | none => 0
    | some d => if l < d.lanes then wordOf d ((th.lanes k.vt n).getD l 0) else 0

/-- The lane that a write of a register window stores; nothing where the write is discarded, an error where OVF is
raised. -/
def windowLane (k : Core) (sl n l w : Nat) : Except Unit (Option Nat) :=
  match look k.threads sl with
  | none => .ok none
  | some th =>
    if 56 ≤ n then .ok none
    else
      match th.desc? n with
      | none => .ok none
      | some d =>
        if d.lanes ≤ l then .ok none
        else if d.kind.isFloat then .ok (some (w % 2 ^ d.width))
        else
          match fitInt d (extInt d.kind 64 w) with
          | some v => .ok (some v)
          | none => .error ()

/-- Write a lane of a name of another slot. -/
def Thread.setLane (th : Thread) (n l v : Nat) : Thread :=
  match th.field? n with
  | some f => th.setLanes n (setAt f.lanes l v)
  | none => th

/-- The word of a mask of slots. -/
def maskOf (l : List Nat) : Nat := l.foldl (fun m i => if bit m i then m else m + 2 ^ i) 0

/-- The slot is blocked in an instruction. -/
def Core.blockedIn (k : Core) (sl : Nat) (p : Instr → Bool) : Bool :=
  match look k.threads sl with
  | some th => decide (th.status = .blocked) && !th.logWait && (match th.op with | some o => p o.instr | none => false)
  | none => false

def isRecv : Instr → Bool
  | .recv _ _ => true
  | .recvt _ _ _ => true
  | _ => false

/-- Pigeonhole status (R118). -/
def Core.pigeonWord (k : Core) (sl : Nat) : Nat :=
  let p := k.pigeon sl
  p.refused.toNat * 2 ^ 32 + p.notices * 2 ^ 8 + bitAt (k.blockedIn sl isRecv) 1 + bitAt p.msg.isSome 0

/-- Queue status (R114). -/
def Core.queueWord (k : Core) (q : Nat) : Nat :=
  let x := k.queue q
  maskOf x.readers * 2 ^ 48 + maskOf x.writers * 2 ^ 32 + x.vals.length

/-- Stage status (R115). -/
def Core.stageWord (k : Core) (n : Nat) : Nat :=
  let x := k.stage n
  maskOf (x.wait.map (·.1)) * 2 ^ 48 + bitAt x.full 8 + (match x.owner with | some o => 16 + o | none => 0)

/-- Barrier status (R116). -/
def Core.barrierWord (k : Core) (b : Nat) : Nat :=
  let x := k.barrier b
  x.mask * 2 ^ 48 + x.arrived * 2 ^ 32 + x.phase.toNat * 2 ^ 16 + x.level * 2 ^ 8 + bitAt x.sent 0

/-- The 8-byte word at an offset of the status range; a pigeonhole of a slot that holds another task reads zero (R110). -/
def Core.statusWord (k : Core) (mine : Nat → Bool) (off : Nat) : Nat :=
  if off < 0x400 then
    (if mine (off / 64) then (match (k.pigeon (off / 64)).msg with | some m => m.words.getD (off / 8 % 8) 0 | none => 0) else 0)
  else if off < 0x480 then (if mine ((off - 0x400) / 8) then k.pigeonWord ((off - 0x400) / 8) else 0)
  else if off < 0x500 then 0
  else if off < 0x540 then k.queueWord ((off - 0x500) / 8)
  else if off < 0x580 then k.stageWord ((off - 0x540) / 8)
  else if off < 0x680 then k.barrierWord ((off - 0x580) / 8)
  else 0

/-- A little-endian read of the status range. -/
def Core.readStatus (k : Core) (mine : Nat → Bool) (off size : Nat) : Nat :=
  k.statusWord mine (off / 8 * 8) / 256 ^ (off % 8) % 256 ^ size

/-- An uncorrectable error in a word of the core's status range, by its place there; `cw.eval` names its local address
(R110, R198). (DESIGN CHOICE, log 18) -/
def Ctx.syncBad (x : Ctx) (place : Nat) : Except Stop Unit :=
  if x.s.bad.contains (6, x.c, place) then trap ECCU (6 * 2 ^ 56 + (0x02000000 + place)) else .ok ()

/-- The field that a register-window place names, with its thread and descriptor: none for a lane that reads zero (R112). -/
def Ctx.windowField (x : Ctx) (sl n l : Nat) : Option (Thread × Desc × Field) :=
  match look x.k.threads sl with
  | some th =>
    (match th.desc? n, th.field? n with
     | some d, some f => if l < d.lanes then some (th, d, f) else none
     | _, _ => none)
  | none => none

/-- A register-window place of an access lies in a row that another slot has locked: the access is Held (R104, R112). -/
def Ctx.windowLocked (x : Ctx) (ps : List Place3) : Bool :=
  let rows := x.k.lockedRows x.sl
  !rows.isEmpty && ps.any (fun p => match p with
    | .window sl n l =>
      (match x.windowField sl n l with
       | some (_, d, f) => (f.rows (d.width * d.lanes)).any (fun r => rows.contains r)
       | none => false)
    | _ => false)

/-- An instruction that a locked row, or the move of another slot, holds (R103, R104, R112). -/
def waitsForRows : Instr → Bool
  | .ld _ _ _ _ | .ldv _ _ _ _ | .st _ _ _ _ | .stv _ _ _ _ | .resz _ _ _ | .mapld _ _ => true
  | _ => false

/-- The threads of a core that its locks hold look at the rows again. -/
def Core.rowsFreed (k : Core) : Core :=
  { k with threads := k.threads.map (fun p => (p.1,
      if p.2.status = .held ∧ (match p.2.op with | some o => waitsForRows o.instr | none => false) = true then p.2.again else p.2)) }

/-- A slot's locks and its claim of row-store bits are gone (R103, R104). -/
def Core.unlock (k : Core) (sl : Nat) : Core :=
  ({ k with locks := k.locks.filter (fun l => decide (l.1 ≠ sl)), claims := k.claims.filter (fun c => decide (c.1 ≠ sl)) } : Core).rowsFreed

/-- A local read of one element. Of a register window, the lane's own row-store words alone are read. (DEDUCED, log 81) -/
def Ctx.readPlace (x : Ctx) (size : Nat) : Place3 → Except Stop Nat
  | .store off =>
    match x.localBad off size with
    | some v => trap ECCU v
    | none => .ok (x.s.loc.read (locKey x.c off) size)
  | .window sl n l =>
    match x.windowField sl n l with
    | some (_, d, f) =>
      (match x.fieldBad d f l 1 with
       | some row => trap ECCU (2 ^ 56 + row)
       | none => .ok (readWindow x.k sl n l))
    | none => .ok (readWindow x.k sl n l)
  | .status off => do
    x.syncBad (off / 8 * 8)
    .ok (x.k.readStatus x.ownSlot off size)

/-! ### Data names (R332) -/

/-- A data name of elements of s bytes: a float has that width (R332). -/
def Ctx.checkData (x : Ctx) (n size : Nat) : Except Stop Desc := do
  let d ← x.check n .any
  if d.kind.isFloat && decide (d.width ≠ 8 * size) then trap KIND n else .ok d

/-- The lane that a loaded element gives (R332). -/
def loadLane (d : Desc) (size l v : Nat) : Except Stop Nat :=
  if d.kind.isFloat then .ok v else orTrap OVF l (fitInt d (extInt d.kind (8 * size) v))

/-- The element that a lane stores (R332). -/
def storeLane (d : Desc) (size v : Nat) : Nat :=
  if d.kind.isFloat then v else bitsOf (8 * size) (extInt d.kind d.width v)

/-! ### The row store (R97, R98) -/

/-- Bits that a field occupies: a field beyond 512 bits has its rows whole. -/
def span (size : Nat) : Nat := if size ≤ 512 then size else roundUp size 512

/-- The runs of row-store bits that a name occupies, from its first bit. -/
def NameSt.runs (n : NameSt) : List (Nat × Nat) :=
  n.fields.map (fun f => (f.row * 512 + f.bit, span (n.desc.width * n.desc.lanes)))

/-- The runs that threads of a core occupy or have claimed for a move (R103), one slot left out. -/
def Core.occupied (k : Core) (but : Nat) : List (Nat × Nat) :=
  (k.threads.filter (fun t => decide (t.1 ≠ but))).flatMap (fun t => t.2.names.flatMap (fun n => n.2.runs)) ++
    (k.claims.filter (fun c => decide (c.1 ≠ but))).map (fun c => (c.2.1, c.2.2))

/-- A run of bits is free. -/
def free (occ : List (Nat × Nat)) (a n : Nat) : Bool := !occ.any (fun r => overlaps r.1 r.2 a n)

/-- The lowest offset of a row at which a field of at most 512 bits fits. -/
def fitInRow (occ : List (Nat × Nat)) (row size : Nat) : Option Nat :=
  let inRow := occ.filter (fun r => overlaps r.1 r.2 (row * 512) 512)
  let starts := sortBy (fun a b => decide (a < b)) (row * 512 :: inRow.map (fun r => r.1 + r.2))
  starts.find? (fun a => decide (a + size ≤ row * 512 + 512) && free inRow a size)

/-- First fit from a row up, over some rows. -/
def fitFrom (occ : List (Nat × Nat)) (size : Nat) : Nat → Nat → Option (Nat × Nat)
  | _, 0 => none
  | row, fuel + 1 =>
    if size ≤ 512 then
      match fitInRow occ row size with
      | some a => some (row, a - row * 512)
      | none => fitFrom occ size (row + 1) fuel
    else
      let n := (size + 511) / 512
      if n ≤ fuel + 1 && free occ (row * 512) (n * 512) then some (row, 0) else fitFrom occ size (row + 1) fuel

/-- First fit in the pool of a slot: rows 0-991 for users, 992-1023 for the steward (R97). -/
def firstFit (sl : Nat) (occ : List (Nat × Nat)) (size : Nat) : Option (Nat × Nat) :=
  if sl = 15 then fitFrom occ size 992 32 else fitFrom occ size 0 992

/-- Place a number of fields of one size, one after another. -/
def placeCopies (sl size lanes : Nat) : Nat → List (Nat × Nat) → Option (List Field × List (Nat × Nat))
  | 0, occ => some ([], occ)
  | n + 1, occ =>
    match firstFit sl occ size with
    | none => none
    | some (row, b) =>
      match placeCopies sl size lanes n ((row * 512 + b, span size) :: occ) with
      | none => none
      | some (fs, occ) => some ({ row := row, bit := b, lanes := List.replicate lanes 0 } :: fs, occ)

/-- Place the names of a pattern, in the order of the list. -/
def placeAll (sl : Nat) : List (Nat × Desc) → List (Nat × Nat) → Option (List (Nat × NameSt))
  | [], _ => some []
  | (n, d) :: r, occ =>
    match placeCopies sl (d.width * d.lanes) d.lanes (if d.win then 4 else 1) occ with
    | none => none
    | some (fs, occ) => (placeAll sl r occ).map (fun l => (n, { desc := d, fields := fs }) :: l)

/-- Place a pattern by R98: decreasing size, then ascending name number; every lane zero. -/
def placePattern (sl : Nat) (ds : List (Nat × Desc)) (occ : List (Nat × Nat)) : Option (Tab NameSt) :=
  let size := fun (p : Nat × Desc) => p.2.width * p.2.lanes
  (placeAll sl (sortBy (fun a b => decide (size b < size a)) ds) occ).map
    (fun l => l.foldl (fun t p => put t p.1 p.2) [])

/-! ### Context-free notices (R117) -/

/-- The core's refusal list is told that something has freed, and is cleared. -/
def Trail.contextFree {s : State} (t : Trail s) (c : Nat) : Trail s :=
  let l := (t.1.core c).refusals
  if l.isEmpty then t
  else
    forEach (t.modCore c (fun k => { k with refusals := [] })) l
      (fun t p => t.sendTo (dieOf c) (dieOf p.1) .contextFreeNotice [p.1, p.2])

end Sys2Proof.Machine
end

