-- ==== Sys2Proof/Machine/Targets.lean ====
section
/-!
DEFINITION. Physical addresses (R14, R15), access tables (R48-R50), access counters with their notices (R77), and errors of
device memory (R17).
-/

namespace Sys2Proof.Machine

/-- The home slice of a device-memory address (R15). -/
def homeSlice (a : Nat) : Nat := a % 2 ^ 40 / 256 % 96 / 4

/-- A package of the load-store domain: this one, or one with a route (R21). -/
def State.inDomain (s : State) (p : Nat) : Bool := p == s.pkg.num || (look s.pkg.routes p).isSome

/-- A fabric port is up (R22). -/
def State.portUp (s : State) (p : Nat) : Bool := match look s.pkg.ports p with | some x => x.up | none => false

/-- The port that traffic to a package takes: the first of its candidates that is up (R21, R22). -/
def State.portTo (s : State) (p : Nat) : Option Nat :=
  match look s.pkg.routes p with
  | some (a, b) => if s.portUp a then some a else if s.portUp b then some b else none
  | none => none

/-- An address lies in this package, or in one that a port leads to. (DEDUCED, log 62) -/
def State.reaches (s : State) (a : Nat) : Bool := pkgOf a == s.pkg.num || (s.portTo (pkgOf a)).isSome

/-- A request meets a link error: its destination has no candidate port, which the domain is told of (R22). (DEDUCED, log 52) -/
def Trail.linkError {s : State} (t : Trail s) : Trail s := t.pendOnce .fabricLaneLoss [12]

/-! ### Access tables -/

/-- The address of a target's access table (R50). -/
def tableAt (pkg die ty idx : Nat) : Nat := pkg * 2 ^ 46 + 2 ^ 45 + die * 2 ^ 40 + ty * 2 ^ 36 + idx * 65536 + 32768

/-- The address of a debug block's access table (R235, R50). -/
def debugTable (pkg die : Nat) : Nat := pkg * 2 ^ 46 + 0x2F0000000000 + die * 65536 + 32768

/-- Master identifiers (R48). -/
def partMaster (pkg n : Nat) : Nat := pkg * 256 + n
def fnMaster (pkg f : Nat) : Nat := 2 ^ 14 + pkg * 256 + f
def sysMaster (pkg : Nat) : Nat := 2 ^ 15 + pkg * 256

/-- Permission bits of word 0. -/
def permRd : Nat := 52
def permWr : Nat := 53
def permAtom : Nat := 54
def permCtrl : Nat := 55

/-- Word w of entry i of a table: as written, or as at reset (R48). (DEDUCED, log 31) -/
def State.tableWord (s : State) (base i w : Nat) : Nat :=
  match look s.acl (base + 16 * i + 8 * w) with
  | some v => v
  | none =>
    let pkg := pkgOf base
    if w = 1 then (if i < 2 then 0xFFFF0000 else 0)
    else if i = 0 then 2 ^ 63 + 15 * 2 ^ 52 + sysMaster pkg
    else if i = 1 then 2 ^ 63 + 11 * 2 ^ 52 + fnMaster pkg 0
    else 0

/-- The first entry that names a master and holds an address, by GiB of package offset; a target without a memory range
ignores the range (R48, R49). -/
def State.tableEntry (s : State) (base master : Nat) (gib : Option Nat) : Option Nat :=
  (upFrom 0 128).find? (fun i =>
    let w0 := s.tableWord base i 0
    let w1 := s.tableWord base i 1
    bit w0 63 && decide (bits w0 15 0 = master) &&
      (match gib with
       | some g => decide (bits w1 15 0 ≤ g) && decide (g ≤ bits w1 31 16)
       | none => true))

/-- A target's table grants a permission (R49). (DEDUCED, log 32) -/
def State.grants (s : State) (base master : Nat) (gib : Option Nat) (perm : Nat) : Bool :=
  match s.tableEntry base master gib with
  | some i => bit (s.tableWord base i 0) perm
  | none => false

/-- The CXL port that serves a second-tier address: its decoder spreads pages of 4 KiB over 1, 2, 4 or 8 ports in turn (R18). (DESIGN CHOICE, log 23) -/
def cxlPort (a : Nat) : Nat :=
  let g := offsetOf a / 2 ^ 30
  (Config.cxlFirst g + a / 4096 % 2 ^ (Config.cxlWays g % 4)) % 8

/-- The fabric port by which a request leaves the package grants a permission; a request that stays in it passes none (R48,
R50). (DEDUCED, log 63) -/
def State.portLets (s : State) (master a perm : Nat) : Bool :=
  pkgOf a == s.pkg.num || (match s.portTo (pkgOf a) with
    | some p => s.grants (tableAt s.pkg.num (p / 3) 1 (p % 3)) master none perm
    | none => true)

/-- A master may access an address of device memory (R49): the fabric port on the way and the home slice let it. No thread, host
function or dispatcher reaches the second tier (R19). (DEDUCED, log 31; DEDUCED, log 63) -/
def State.mayAccess (s : State) (master a perm : Nat) : Bool :=
  s.portLets master a perm &&
  match memDie a with
  | some d => s.grants (tableAt (pkgOf a) d 0 (homeSlice a)) master (some (offsetOf a / 2 ^ 30)) perm
  | none => false

/-- A courier job or a porter may access an address: of device memory, or of the second tier through its CXL port (R19, R49).
(DESIGN CHOICE, log 23) -/
def State.mayReach (s : State) (master a perm : Nat) : Bool :=
  s.mayAccess master a perm || (secondTier a && s.portLets master a perm &&
    s.grants (tableAt (pkgOf a) (cxlPort a / 2) 2 (cxlPort a % 2)) master (some (offsetOf a / 2 ^ 30)) perm)

/-- The addresses at which an access to a run of memory is checked: one in each 256-byte unit, which one home slice holds whole
(R15). (DEDUCED, log 82) -/
def unitsOf (a len : Nat) : List Nat := a :: (upFrom (a / 256 + 1) ((a + len - 1) / 256 - a / 256)).map (· * 256)

/-- A master may access every unit of a run of device memory; a courier job or a porter, of the second tier too. -/
def State.mayAccessRun (s : State) (master a len perm : Nat) : Bool := (unitsOf a len).all (fun b => s.mayAccess master b perm)
def State.mayReachRun (s : State) (master a len perm : Nat) : Bool := (unitsOf a len).all (fun b => s.mayReach master b perm)

/-- The master of the thread's partition; the steward's is the system's. -/
def Ctx.master (x : Ctx) : Nat :=
  if x.steward then sysMaster x.s.pkg.num
  else partMaster x.s.pkg.num (match x.task with | some n => n.part | none => 0)

/-! ### Counters and notices -/

/-- The 64 KiB page of an address. -/
def pageOf (a : Nat) : Nat := a / 65536

/-- An entry enters a notification queue, at the place of its tail; or its oldest entry leaves (R78). -/
def Notices.push (q : Notices) (e : Nat × Nat) : Notices := { q with entries := q.entries ++ [e], tail := (q.tail + 1) % 256 }
def Notices.pop (q : Notices) : Notices := { q with entries := q.entries.drop 1, head := (q.head + 1) % 256 }

/-- The die whose counter starts a notice at a counted access: the accessing die, or another, but not the home die, that has
reached a threshold which is not zero (R33, R77). The fabric counter never does. -/
def overThreshold (counts : List Nat) (home die th : Nat) : Option Nat :=
  (die :: [0, 1, 2, 3]).find? (fun d => decide (d < 4) && d != home && decide (th ≤ counts.getD d 0) && th != 0)

/-- An access from a die counts in the page's counters, and may send a notice (R77). -/
def Trail.countAccess {s : State} (t : Trail s) (die a : Nat) : Trail s :=
  match memDie a with
  | none => t
  | some home =>
    if pkgOf a ≠ t.1.pkg.num then t
    else
      let pg := t.1.page (pageOf a)
      let counts := setAt pg.counts die (min (pg.counts.getD die 0 + 1) 0xFFFF)
      let th := t.1.host.migThreshold
      match overThreshold counts home die th with
      | none => t.act (.page (pageOf a) { pg with counts := counts })
      | some d =>
        if pg.queued then t.act (.page (pageOf a) { pg with counts := counts })
        else if pg.overflow then
          t.act (.page (pageOf a) { pg with counts := if pg.dest = die then setAt counts die th else counts })
        else
          let cl := home * 16 + homeSlice (pageOf a * 65536) % 16
          let q := t.1.noticesOf cl
          if q.entries.length < 256 then
            ((t.act (.page (pageOf a) { pg with counts := counts, queued := true })).act
              (.notices cl (q.push (pageOf a * 65536, d)))).pend .porterNoticeHandle [cl]
          else
            (t.act (.page (pageOf a) { pg with counts := setAt counts d th, overflow := true, dest := d })).act
              (.notices cl { q with deferred := q.deferred + 1 })

/-- Each of some addresses is accessed from a die. -/
def Trail.countAll {s : State} (t : Trail s) (die : Nat) (l : List Nat) : Trail s := forEach t l (fun t a => t.countAccess die a)

/-! ### Poison (R17) -/

/-- A porter's copy of a run of memory takes its uncorrectable errors along: the units of the copy into which a bad unit of the
source falls are bad. (DESIGN CHOICE, log 36) -/
def Trail.copyPoison {s : State} (t : Trail s) (src dst len : Nat) : Trail s :=
  let moved := (t.1.bad.filter (fun b => decide (b.1 = 0) && decide (src < b.2.2 * 32 + 32) && decide (b.2.2 * 32 < src + len))).map
    (fun b => (b.1, b.2.1, (b.2.2 * 32 + dst - src) / 32))
  t.act (.errors (t.1.bad ++ moved.filter (fun b => !t.1.bad.contains b)) t.1.corrected)

/-- A porter copies a run of memory, and zeroes or writes nothing else. -/
def Trail.porterCopy {s : State} (t : Trail s) (src dst len : Nat) : Trail s :=
  (t.memStore dst (t.1.mem.bytes src len)).copyPoison src dst len

end Sys2Proof.Machine
end

