-- ==== Sys2Proof/Machine/ControlMap.lean ====
section
/-!
DEFINITION. The control window (R14, R50): what its addresses name, and the registers of the host page (R32, R33) and of the debug
block (R235, R236) as a read of them returns. A steward's loads and stores reach it too.
-/

namespace Sys2Proof.Machine

/-- The access table of the host register page (R50). (DEDUCED, log 32) -/
def hostTable (pkg : Nat) : Nat := tableAt pkg 0 5 0

/-- A read of a function's register page; an offset not listed reads zero (R32). (DEDUCED, log 39) -/
def State.readPage (s : State) (fn off : Nat) : Nat :=
  let d := off / 0x40
  if off < 0x100 then
    (if off % 0x40 = 0x08 then (s.die d).drops.toNat else if off % 0x40 = 0x10 then (s.die d).rejects.toNat else 0)
  else if off = 0x208 then lookD s.host.queueResult fn 0
  else if off = 0x308 then s.host.regionResult
  else if off = 0x408 then s.pkg.snapshot
  else if 0x500 ≤ off ∧ off < 0x600 then lookD s.host.mailbox (fn * 256 + (off - 0x500)) 0
  else if off = 0x600 then s.host.powerLimit
  else if off = 0x608 then s.host.migThreshold
  else 0

/-! ### Control pages (R50, R235) -/

/-- What a control address names. -/
inductive Control where
  /-- A word of an access table: the table's base, and whether its target has a memory range. -/
  | table (base : Nat) (ranged : Bool)
  /-- A register of a die's debug block. -/
  | debug (die off : Nat)
  /-- A register of the host register page. -/
  | page (off : Nat)
  | unbacked
  deriving DecidableEq, Repr

/-- Indexes of each type of target on a die (R50). -/
def typeCount (die ty : Nat) : Nat :=
  match ty with
  | 0 => 24
  | 1 => 3
  | 2 => 2
  | 3 => 128
  | 4 => 1
  | 5 => if die = 0 then 1 else 0
  | _ => 0

/-- An offset of a control page lies in its access table. -/
def inTable (off : Nat) : Bool := decide (0x8000 ≤ off) && decide (off < 0x8800)

/-- What a control address names in this package. (DEDUCED, log 31) -/
def State.control (s : State) (a : Nat) : Control :=
  let off := offsetOf a
  if pkgOf a ≠ s.pkg.num then .unbacked
  else if 0x2F0000000000 ≤ off ∧ off < 0x2F0000040000 then
    let d := (off - 0x2F0000000000) / 65536
    let o := off % 65536
    if inTable o then .table (debugTable s.pkg.num d) false else .debug d o
  else if 2 ^ 45 ≤ off ∧ off < 2 ^ 45 + 2 ^ 42 then
    let r := off - 2 ^ 45
    let die := r / 2 ^ 40
    let ty := r / 2 ^ 36 % 16
    let i := r / 65536 % 2 ^ 20
    if typeCount die ty ≤ i then .unbacked
    else if inTable (r % 65536) then .table (tableAt s.pkg.num die ty i) (ty == 0 || ty == 2)
    else if ty = 5 ∧ r % 65536 < 0x1000 then .page (r % 65536)
    else .unbacked
  else .unbacked

/-- A table grants a master a permission at a control address. -/
def State.mayControl (s : State) (master a perm : Nat) : Bool :=
  match s.control a with
  | .table base ranged => s.grants base master (if ranged then some (offsetOf a / 2 ^ 30) else none) perm
  | .debug d _ => s.grants (debugTable s.pkg.num d) master none perm
  | .page _ => s.grants (hostTable s.pkg.num) master none perm
  | .unbacked => false

/-- A read of the debug block; an offset not listed reads zero. -/
def State.readDebug (s : State) (d off : Nat) : Nat :=
  let g := (s.die d).dbg
  if off = 0 then bitAt g.enable 63 + bitAt s.pkg.frozen 62
  else if off = 0x10 then g.freezeRec
  else if 0x100 ≤ off ∧ off < 0x200 then lookD g.bp ((off - 0x100) / 8) 0
  else if 0x200 ≤ off ∧ off < 0x280 then lookD g.wp ((off - 0x200) / 8) 0
  else if off = 0x300 then g.traceBase
  else if off = 0x308 then g.traceSize
  else if off = 0x310 then g.written
  else if off = 0x318 then g.lost
  else if 0x320 ≤ off ∧ off < 0x340 then lookD g.sel ((off - 0x320) / 8) 0
  else 0

/-- A word of a control page, as a read of it returns. -/
def State.readControl (s : State) (fn a : Nat) : Nat :=
  match s.control a with
  | .table base _ => s.tableWord base ((a - base) / 16) (a / 8 % 2)
  | .debug d off => s.readDebug d off
  | .page off => s.readPage fn off
  | .unbacked => 0

/-- The step that a store of a master which is no host function to a control word is (R50, R235). (DEDUCED, log 31) -/
def State.storeStep (s : State) (m a v : Nat) : Option Due :=
  match s.control a with
  | .table _ _ => some ⟨.accessTableEdit, [m, a, v]⟩
  | .debug _ _ | .page _ => some ⟨.registerWriteOther, [m, a, v]⟩
  | .unbacked => none

end Sys2Proof.Machine
end

