-- ==== Sys2Proof/Machine/LocalMem.lean ====
section
/-!
DEFINITION. Local loads and stores (R331-R334) of the core's local address space: local store, register windows and the
status range (R110, R112).
-/

namespace Sys2Proof.Machine

/-- The lanes of a vector form from a start address. -/
def strided (a : Int) (size n : Nat) : List (Nat × Int) := (upFrom 0 n).map (fun l => (l, a + l * size))

/-- The locations of some accesses (R168). -/
def Ctx.locsOf (x : Ctx) (ps : List Place3) : List Loc := ps.filterMap x.locOf

/-- An access is Held while a register window that it names stands in a locked row (R104, R112). -/
def heldOnWindow {s : State} (x : Ctx) (ps : List Place3) (f : Except Stop (Effect s)) : Except Stop (Effect s) :=
  if x.windowLocked ps then .ok (waits x .held []) else f

/-- `ld` and `ldv`: n lanes from the address in a (R334). -/
def localLoad (i : Instr) (d a sz off : Nat) (vec : Bool) (s : State) : Host.Outcome State Fault Refusal :=
  issue i s (fun x => do
    let size := 2 ^ sz
    let _ ← x.check a .int
    let dd ← x.checkData d size
    let base ← x.read0 a
    let lanes := strided (base + x.offM off size) size (if vec then dd.lanes else 1)
    let ps ← x.localChecks size false lanes
    heldOnWindow x ps (do
      let r ← eachOf (fun p => do
        let v ← x.readPlace size p.2
        loadLane dd size p.1 v) ((upFrom 0 ps.length).zip ps)
      .ok (fun t =>
        own x (fun th => if vec then th.setLanes d r else th.setLane0 x.k.vt d (r.headD 0)) (t.enterAll x false false (x.locsOf ps)))))

/-- ld (R334). -/
def execLd (d a sz off : Nat) (s : State) : Host.Outcome State Fault Refusal := localLoad (.ld d a sz off) d a sz off false s

/-- ldv (R334). -/
def execLdv (d a sz off : Nat) (s : State) : Host.Outcome State Fault Refusal := localLoad (.ldv d a sz off) d a sz off true s

/-- A lane's write: bytes of local store, a lane of a name, or nothing. -/
inductive LocalPut where
  | bytes (off v : Nat)
  | name (slot name lane v : Nat)
  | none
  deriving DecidableEq, Repr

/-- What one lane of a store writes (R112, R332). -/
def Ctx.putOf (x : Ctx) (l v : Nat) : Place3 → Except Stop LocalPut
  | .store off => .ok (.bytes off v)
  | .window sl n j =>
    match windowLane x.k sl n j v with
    | .ok (some w) => .ok (.name sl n j w)
    | .ok none => .ok .none
    | .error _ => trap OVF l
  | .status _ => .ok .none

/-- Carry out one lane's write. -/
def Trail.localPut {s : State} (t : Trail s) (c size : Nat) : LocalPut → Trail s
  | .bytes off v => t.localStore c off (leBytes v size)
  | .name sl n j v => t.modThread c sl (fun th => th.setLane n j v)
  | .none => t

/-- `st` and `stv` (R334). -/
def localStoreOp (i : Instr) (d a sz off : Nat) (vec : Bool) (s : State) : Host.Outcome State Fault Refusal :=
  issue i s (fun x => do
    let size := 2 ^ sz
    let _ ← x.check a .int
    let dd ← x.checkData d size
    let base ← x.read0 a
    let vd ← x.read d
    let n := if vec then dd.lanes else 1
    let ps ← x.localChecks size true (strided (base + x.offM off size) size n)
    heldOnWindow x ps (do
      let w ← eachOf (fun p => x.putOf p.1 (storeLane dd size (vd.getD p.1 0)) p.2) ((upFrom 0 n).zip ps)
      .ok (fun t => forEach (own x id (t.enterAll x true false (x.locsOf ps))) w (fun t p => t.localPut x.c size p))))

/-- st (R334). -/
def execSt (d a sz off : Nat) (s : State) : Host.Outcome State Fault Refusal :=
  localStoreOp (.st d a sz off) d a sz off false s

/-- stv (R334). -/
def execStv (d a sz off : Nat) (s : State) : Host.Outcome State Fault Refusal :=
  localStoreOp (.stv d a sz off) d a sz off true s

end Sys2Proof.Machine
end

