-- ==== Sys2Proof/Machine/Report.lean ====
section
/-!
DEFINITION. Events to the host's rings (R51-R53) and queue status words (R42).
-/

namespace Sys2Proof.Machine

/-- The ring of a function. -/
def HostSt.ring (h : HostSt) (f : Nat) : Ring := lookD h.rings f { events := [], full := false, raised := 0, seqs := [], lost := [] }

/-- The 32 bytes of an event: source, kind, sequence number, payload bytes 8-27, lost count (R51). -/
def eventBytes (src kind seq : Nat) (payload : List Nat) (lost : Nat) : List Nat :=
  ((leBytes src 2 ++ leBytes kind 2 ++ leBytes seq 4).map (·.toNat)) ++ (payload ++ List.replicate (20 - payload.length) 0).take 20 ++
    (leBytes lost 4).map (·.toNat)

/-- An event of a source for a function's ring, after whose record vector 0 is raised; on a full ring it counts as lost (R51). Events
of different sources, which have no order (R54), stand in that of their steps. (DEDUCED, log 29; DESIGN CHOICE, log 30; DESIGN CHOICE, log 97) -/
def Ring.post (r : Ring) (src kind : Nat) (payload : List Nat) : Ring :=
  let lost := lookD r.lost src 0
  if r.full then { r with lost := put r.lost src (lost + 1) }
  else
    let n := lookD r.seqs src 0 + 1
    { r with
      events := r.events ++ [eventBytes src kind n payload lost], raised := r.raised + 1, seqs := put r.seqs src n
      lost := put r.lost src 0 }

def Trail.postEvent {s : State} (t : Trail s) (f src kind : Nat) (payload : List Nat) : Trail s :=
  t.modHost (fun h => { h with rings := put h.rings f ((h.ring f).post src kind payload) })

/-- Bytes of a number as an event payload holds them. -/
def natBytes (v n : Nat) : List Nat := (leBytes v n).map (·.toNat)

/-- Event sources (R52). -/
def queueSource (part q : Nat) : Nat := part * 8 + q
def domainSource (d : Nat) : Nat := 4096 + d
def powerSource (die : Nat) : Nat := 8192 + die
def portSource (port : Nat) : Nat := 12288 + port
def packageSource : Nat := 16384

/-- The queue status word (R42). -/
def Queue.word (q : Queue) : Nat :=
  q.taken % 2 ^ 32 * 2 ^ 32 + q.state * 2 ^ 27 + bitAt q.fault 26 + bitAt q.stale 25 + bitAt q.overrun 24 + q.done % 65536

/-- The status word with the rung that the latest pre-emption reached (R42). -/
def Queue.status (q : Queue) : Nat := q.word + q.rung % 4 * 2 ^ 30

/-- A queue changes, and the device writes its status word (R42). (DEDUCED, log 50) -/
def Trail.modQueue {s : State} (t : Trail s) (n i : Nat) (f : Queue → Queue) : Trail s :=
  match t.1.part? n with
  | none => t
  | some p =>
    match look p.queues i with
    | none => t
    | some q =>
      let q := f q
      (t.act (.part n (some { p with queues := put p.queues i q }))).memStore (q.header + 16) (leBytes q.status 8)

/-- The lowest-numbered queue of a partition that is not in state error (R53). -/
def Part.firstQueue (p : Part) : Option (Nat × Queue) := p.queues.find? (fun q => decide (q.2.state ≠ 4))

/-- Post an event of a fault domain: PF0, and the owners of the queues of its partitions (R52). -/
def Trail.postDomain {s : State} (t : Trail s) (d kind : Nat) (payload : List Nat) : Trail s :=
  let owners := (t.1.parts.filter (fun p => decide (p.2.fdom = d))).foldl
    (fun l p => p.2.queues.foldl (fun l q => addOnce l q.2.owner) l) [0]
  forEach t owners (fun t f => t.postEvent f (domainSource d) kind payload)

end Sys2Proof.Machine
end

