-- ==== Sys2Proof/Machine/OrderLog.lean ====
section
/-!
DEFINITION. The order log: records and hashes (R212-R216), the flags of unlogged accesses (R217), a ring that fills (R218,
R219), and the turns of a replay (R220-R223). An operation that needs a record asks the gate; it is performed and recorded
in one step, or it waits, or it diverges.
-/

namespace Sys2Proof.Machine

/-- CRC-32C, bit by bit. -/
def crcBits : Nat → Nat → Nat
  | 0, c => c
  | n + 1, c => crcBits n (if c % 2 = 1 then Nat.xor (c / 2) 0x82F63B78 else c / 2)

def crc32c (bs : List Byte) : Nat :=
  Nat.xor (bs.foldl (fun c b => crcBits 8 (Nat.xor c b.toNat)) 0xFFFFFFFF) 0xFFFFFFFF

/-- A record before it has a sequence number (R212, R213). -/
structure Rec where
  kind : Nat
  source : Nat
  cls : Nat
  core : Nat
  slot : Nat
  after : Option (Nat × Nat)
  op : Nat
  input : List Byte
  deriving DecidableEq, Repr

/-- The operand hash (R213). -/
def Rec.hash (r : Rec) : Nat := if r.input.isEmpty then 0 else crc32c r.input % 65536

def Rec.word0 (r : Rec) (seq : Nat) : Nat :=
  r.kind * 2 ^ 60 + r.source * 2 ^ 48 + seq % 2 ^ 32 * 2 ^ 16 + r.cls * 2 ^ 13 + r.core % 512 * 16 + r.slot % 16

def Rec.word1 (r : Rec) : Nat :=
  (match r.after with | some (a, q) => a * 2 ^ 52 + q % 2 ^ 32 * 2 ^ 20 | none => 0xFFF * 2 ^ 52) + r.op % 16 * 65536 + r.hash

/-- Source identifiers (R214). -/
def coreSource (c : Nat) : Nat := c
def sliceSource (a : Nat) : Nat := 512 + (memDie a).getD 0 * 24 + homeSlice a
def clusterSource (cl : Nat) : Nat := 1024 + cl
def dispatcherSource (cl : Nat) : Nat := 1536 + cl
def courierSource (cl : Nat) : Nat := 2048 + cl
def porterSource (cl : Nat) : Nat := 2560 + cl
/-- DEDUCED, log 33. -/
def barrierSource (u : Nat) : Nat := 3072 + u
def portSourceId (port : Nat) : Nat := 3584 + port

/-- The die of a source. -/
def sourceDie (src : Nat) : Nat :=
  let i := src % 512
  match src / 512 with
  | 0 => i / 128
  | 1 => i / 24
  | 6 => if i < 64 then i / 16 else if i < 68 then i - 64 else 0
  | 7 => i / 3
  | _ => i / 16

/-- Record slots of a ring (R210), and flags. -/
def Log.cap (p : Part) : Nat := (p.logbytes - 64) / 16
def flagNotExact : Nat := 0
def flagTimeRead : Nat := 1
def flagMarked : Nat := 2
def flagStalled : Nat := 3
def flagDiverged : Nat := 4

/-- A flag set. -/
def setFlag (v i : Nat) : Nat := if bit v i then v else v + 2 ^ i

/-- The device writes a field of the log's header. -/
def Trail.logHeader {s : State} (t : Trail s) (n off v len : Nat) : Trail s :=
  match t.1.part? n with
  | some p => t.memStore (p.logbase + off) (leBytes v len)
  | none => t

/-- Set a flag of the header. -/
def Trail.logFlag {s : State} (t : Trail s) (n i : Nat) : Trail s :=
  match t.1.part? n with
  | some p =>
    if p.mode = 1 && !bit p.log.flags i then
      (t.modPart n (fun p => { p with log := { p.log with flags := setFlag p.log.flags i } })).logHeader n 20
        (setFlag p.log.flags i) 4
    else t
  | none => t

/-- The rd that the device accepts (R211). -/
def State.readRd (s : State) (p : Part) : Nat :=
  let m := s.mem.read (p.logbase + 8) 8
  if p.log.rd ≤ m ∧ m ≤ p.log.wr then m else p.log.rd

/-- Free places of a ring under STALL, after reading rd when it looks full, less the places granted. -/
def State.freePlaces (s : State) (p : Part) : Nat :=
  let used := p.log.wr + p.log.granted.length
  if used - p.log.rd < Log.cap p then Log.cap p - (used - p.log.rd) else Log.cap p - (used - s.readRd p)

/-! ### The input log of a replay (R220) -/

/-- The directory entry of a source: count and first. -/
def State.replayEntry (s : State) (p : Part) (src : Nat) : Option (Nat × Nat) :=
  let ndir := s.mem.read (p.logbase + 40) 4
  ((upFrom 0 ndir).find? (fun i => decide (s.mem.read (p.logbase + 64 + 16 * i) 2 = src))).map
    (fun i => (s.mem.read (p.logbase + 68 + 16 * i) 4, s.mem.read (p.logbase + 72 + 16 * i) 8))

/-- The first record of a source, from its k-th on, that is no MARK record with op 1 or 2 (R221): its sequence number and
words. -/
def State.recordFrom (s : State) (base : Nat) : Nat → Nat → Option (Nat × Nat × Nat)
  | 0, _ => none
  | fuel + 1, k =>
    let w0 := s.mem.read (base + 16 * k) 8
    let w1 := s.mem.read (base + 16 * k + 8) 8
    if bits w0 63 60 = 9 && (bits w1 19 16 == 1 || bits w1 19 16 == 2) then s.recordFrom base fuel (k + 1)
    else some (k + 1, w0, w1)

/-- The next record of a source: its sequence number and words; nothing when its records are exhausted. -/
def State.nextRecord (s : State) (p : Part) (src : Nat) : Option (Nat × Nat × Nat) :=
  let k := lookD p.log.seqs src 0
  match s.replayEntry p src with
  | some (count, first) => s.recordFrom (p.logbase + 64 + 16 * s.mem.read (p.logbase + 40) 4 + 16 * first) (count - k) k
  | none => none

/-- Records of a source in the log. -/
def State.recordCount (s : State) (p : Part) (src : Nat) : Nat :=
  match s.replayEntry p src with
  | some (count, _) => count
  | none => 0

/-! ### The gate -/

/-- What an operation that needs a record may do. -/
inductive Gate where
  | run
  | hold
  | turn
  | diverge (seq : Nat)
  deriving DecidableEq, Repr

/-- Ask for an operation (R218, R219, R221, R223). Of the operations that have a place, the first alone is performed (log 91). A
task's end waits for its own record instead of diverging (R394). -/
def State.gate (s : State) (n : Nat) (r : Rec) (w : Waiter) : Gate :=
  match s.part? n with
  | none => .run
  | some p =>
    if p.mode = 1 then
      if bit p.log.flags flagMarked || p.logpol = 1 then .run
      else match p.log.granted with
        | g :: _ => if g = w then .run else .hold
        | [] => if !p.log.held.isEmpty || s.freePlaces p = 0 then .hold else .run
    else if p.mode = 2 then
      match s.nextRecord p r.source with
      | none => if bit (s.mem.read (p.logbase + 20) 4) flagMarked then .run else .diverge (s.recordCount p r.source + 1)
      | some (seq, w0, w1) =>
        let passed := bits w1 63 52 = 0xFFF || decide (bits w1 51 20 ≤ lookD p.log.seqs (bits w1 63 52) 0)
        if bits w0 15 13 ≠ r.cls ∨ bits w0 12 4 ≠ r.core % 512 ∨ bits w0 3 0 ≠ r.slot % 16 ∨ !passed then .turn
        else
          let same := decide (bits w0 63 60 = r.kind) && decide (bits w1 19 16 = r.op % 16)
          if same && decide (bits w1 15 0 = r.hash) then .run
          else if decide (r.cls = 2) && decide (r.kind = 0) && decide (r.op = 1) then .turn
          else .diverge seq
    else .run

/-- Write a record into the ring, and then wr (R210). -/
def Trail.putRecord {s : State} (t : Trail s) (n : Nat) (r : Rec) : Trail s × Option (Nat × Nat) :=
  match t.1.part? n with
  | none => (t, none)
  | some p =>
    let seq := (lookD p.log.seqs r.source 0 + 1) % 2 ^ 32
    let a := p.logbase + 64 + p.log.wr % Log.cap p * 16
    let t := (t.memStore a (leBytes (r.word0 seq) 8 ++ leBytes r.word1 8)).modPart n
      (fun p => { p with log := { p.log with wr := p.log.wr + 1, seqs := put p.log.seqs r.source seq } })
    (t.logHeader n 0 (p.log.wr + 1) 8, some (r.source, seq))

/-- The record that the next operation of a source will write or pass, if it will. -/
def State.recName (s : State) (n src : Nat) : Option (Nat × Nat) :=
  match s.part? n with
  | none => none
  | some p =>
    if p.mode = 1 then
      if bit p.log.flags flagMarked then none else some (src, (lookD p.log.seqs src 0 + 1) % 2 ^ 32)
    else if p.mode = 2 then (s.nextRecord p src).map (fun r => (src, r.1))
    else none

/-- A MARK record of the lead dispatcher (R215). -/
def markRecord (lead op : Nat) : Rec :=
  { kind := 9, source := dispatcherSource lead, cls := 2, core := lead, slot := 0, after := none, op := op, input := [] }

/-- Under MARK, a ring that has become full, with one place left, takes its MARK record in it, and no source writes another
(R219). -/
def Trail.markFull {s : State} (t : Trail s) (n : Nat) : Trail s :=
  match t.1.part? n with
  | none => t
  | some p =>
    if p.logpol = 1 ∧ bit p.log.flags flagMarked = false ∧ Log.cap p ≤ p.log.wr - p.log.rd + 1 then
      let rd := t.1.readRd p
      let t := t.modPart n (fun p => { p with log := { p.log with rd := rd } })
      if p.log.wr - rd + 1 < Log.cap p then t
      else (((t.logHeader n 24 p.log.wr 8).logFlag n flagMarked).putRecord n (markRecord n 0)).1
    else t

/-- What tells the replay timers of waiters apart. -/
def Waiter.key : Waiter → List Nat
  | .thread c sl => [c, sl]
  | .step d => 512 :: d.args

/-- An operation that has been performed is recorded, or its record is passed (R216, R221); its agent's latest record
moves on. The answer names the record. -/
def Trail.recordAs {s : State} (t : Trail s) (n : Nat) (r : Rec) (w : Waiter) : Trail s × Option (Nat × Nat) :=
  let latest := fun (t : Trail s) (q : Nat × Nat) =>
    if r.cls = 0 then t.modThread r.core r.slot (fun th => { th with lastRec := some q }) else t
  match t.1.part? n with
  | none => (t, none)
  | some p =>
    if p.mode = 1 then
      if bit p.log.flags flagMarked then (t, none)
      else
        let rd := t.1.readRd p
        let t := t.modPart n (fun p => { p with log := { p.log with
          granted := p.log.granted.filter (fun v => decide (v ≠ w))
          rd := if Log.cap p ≤ p.log.wr - p.log.rd then rd else p.log.rd } })
        match t.putRecord n r with
        | (t, some q) => ((latest (t.markFull n) q).nextGranted n, some q)
        | (t, none) => (t, none)
    else if p.mode = 2 then
      match t.1.nextRecord p r.source with
      | none => (t, none)
      | some (seq, _, _) =>
        let turns := p.log.turns.filter (fun v => decide (v.2 ≠ w))
        -- a `waitw` whose record is next waits for its value, not for a turn
        let stays := turns.filter (fun v => match v.2 with
          | .thread c sl => (match t.1.thread? c sl with | some th => !th.logWait | none => false)
          | .step _ => false)
        let t := t.modPart n (fun p => { p with log := { p.log with seqs := put p.log.seqs r.source seq, turns := stays } })
        let t := t.noTimer .replayTimeout (n :: r.source :: w.key)
        (forEach (latest t (r.source, seq)) turns (fun t v => t.wakeWaiter v.2), some (r.source, seq))
    else (t, none)

/-- A LOGFULL event (R53, R218). -/
def Trail.postLogFull {s : State} (t : Trail s) (n : Nat) (p : Part) : Trail s :=
  match p.firstQueue with
  | some (i, q) => t.postEvent q.owner (queueSource n i) 2 (natBytes p.log.wr 8 ++ natBytes p.log.rd 8)
  | none => t

/-- An operation is held for a place (R218): at the first hold the stall begins. -/
def Trail.holdFor {s : State} (t : Trail s) (n : Nat) (w : Waiter) : Trail s :=
  match t.1.part? n with
  | none => t
  | some p =>
    let rd := t.1.readRd p
    if p.log.held.contains w || p.log.granted.contains w then t
    else
      let first := p.log.held.isEmpty
      let t := t.modPart n (fun p => { p with log := { p.log with
        held := p.log.held ++ [w], rd := rd, stalls := if first then p.log.stalls + 1 else p.log.stalls } })
      if first then
        ((((t.logFlag n flagStalled).logHeader n 32 (p.log.stalls + 1) 8).postLogFull n p).timer (dieOfCluster n) false
          etimePerUs .logRdPoll [n])
      else t

/-- An operation waits for its turn at a source (R221), under the replay timeout if there is one (R223). -/
def Trail.turnFor {s : State} (t : Trail s) (n src : Nat) (w : Waiter) : Trail s :=
  match t.1.part? n with
  | none => t
  | some p =>
    let tmo := t.1.mem.read (p.logbase + 44) 4
    let t := if p.log.turns.contains (src, w) then t
      else t.modPart n (fun p => { p with log := { p.log with turns := p.log.turns ++ [(src, w)] } })
    let ev : Due := ⟨.replayTimeout, n :: src :: w.key⟩
    if tmo = 0 || t.1.timers.any (fun x => decide (x.ev = ev)) then t
    else t.timer (sourceDie src) false (tmo * 1000 * etimePerUs) ev.step ev.args

/-- A divergence is marked in the log, the first with its place (R222). -/
def Trail.diverged {s : State} (t : Trail s) (n src seq : Nat) : Trail s :=
  match t.1.part? n with
  | none => t
  | some p =>
    let f := setFlag (t.1.mem.read (p.logbase + 20) 4) flagDiverged
    let t := t.logHeader n 20 f 4
    if p.log.diverged then t
    else (t.modPart n (fun p => { p with log := { p.log with diverged := true } })).logHeader n 48
      (src % 4096 * 2 ^ 32 + seq % 2 ^ 32) 8

/-- A logged operation: it is performed and recorded, or it waits, or it diverges. Outside record and replay it is
performed. -/
def Trail.logged {s : State} (t : Trail s) (part : Option Nat) (r : Rec) (w : Waiter) (wait : Effect s)
    (bad : Nat → Effect s) (go : Effect s) : Trail s :=
  match part with
  | none => go t
  | some n =>
    match t.1.gate n r w with
    | .run => ((go t).recordAs n r w).1
    | .hold => (wait t).holdFor n w
    | .turn => (wait t).turnFor n r.source w
    | .diverge seq => bad seq (t.diverged n r.source seq)

/-- The thread's partition. -/
def Ctx.part (x : Ctx) : Option Nat := if x.steward then none else x.task.map (·.part)

/-- A record of the thread at a source: it follows the thread's latest (R216). -/
def Ctx.threadRec (x : Ctx) (kind source op : Nat) (input : List Byte) : Rec :=
  { kind := kind, source := source, cls := 0, core := x.c, slot := x.sl, after := x.th.lastRec, op := op, input := input }

/-- A record of a thread of a core, by slot. -/
def State.recOf (s : State) (c sl kind source op : Nat) (input : List Byte) : Rec :=
  { kind := kind, source := source, cls := 0, core := c, slot := sl
    after := match s.thread? c sl with | some th => th.lastRec | none => none, op := op, input := input }

/-- A slot's thread stops where it stands. -/
def Trail.stopSlot {s : State} (t : Trail s) (c sl : Nat) (e : Stop) : Trail s :=
  match t.1.thread? c sl with
  | some th =>
    let w := match th.op with | some o => (encode o.instr).getD 0 | none => 0
    t.stop c sl th th.pc (w / 67108864) th.hint.isSome e
  | none => t

/-- The thread waits for the log, in its instruction, which it then carries out anew (R218, R277). (DEDUCED, log 80) -/
def Thread.waitLog (th : Thread) : Thread := { th with status := .blocked, logWait := true }

/-- The thread stops by DIVERGE (R222). -/
def Ctx.diverges {s : State} (x : Ctx) (seq : Nat) : Effect s :=
  fun t => t.stop x.c x.sl x.th x.th.pc (x.word / 67108864) x.hint.isSome (.trap DIVERGE seq none)

/-- A logged operation that a thread performs in its own execute step. -/
def Ctx.logged {s : State} (x : Ctx) (r : Rec) (go : Effect s) : Effect s :=
  fun t => t.logged x.part r (.thread x.c x.sl) (fun t => (waits x .blocked [] t).modThread x.c x.sl Thread.waitLog) x.diverges go

/-- A logged operation of a thread's instruction that a unit performs: it waits as a step (R218, R221). -/
def Ctx.loggedAt {s : State} (x : Ctx) (r : Rec) (d : Due) (go : Effect s) : Effect s :=
  fun t => t.logged x.part r (.step d) id x.diverges go

/-- When no source holds an operation, stalled clears (R218). -/
def Trail.clearStall {s : State} (t : Trail s) (n : Nat) : Trail s :=
  match t.1.part? n with
  | none => t
  | some p =>
    let f := p.log.flags - bitAt (bit p.log.flags flagStalled) flagStalled
    if p.log.held.isEmpty && bit p.log.flags flagStalled then
      (t.modPart n (fun q => { q with log := { q.log with flags := f } })).logHeader n 20 f 4
    else t

/-- LOG_RD_POLL: rd is read, and freed places go to held operations in the order of their requests, in which they are performed
(R211, R218). (DEDUCED, log 91) -/
def execLogRdPoll (s : State) : Host.Outcome State Fault Refusal :=
  event s (fun t =>
    let n := s.arg 0
    match t.1.part? n with
    | none => t
    | some p =>
      let rd := t.1.readRd p
      let k := Log.cap p - (p.log.wr + p.log.granted.length - rd)
      let given := p.log.held.take k
      let rest := p.log.held.drop k
      let t := t.modPart n (fun q => { q with log := { q.log with
        rd := if p.log.held.isEmpty then q.log.rd else rd, held := rest, granted := q.log.granted ++ given } })
      let t := (if given.isEmpty then t else t.nextGranted n).clearStall n
      if rest.isEmpty then t else t.timer (dieOfCluster n) false etimePerUs .logRdPoll [n])

end Sys2Proof.Machine
end

