-- ==== Sys2Proof/Machine/TaskMem.lean ====
section
/-!
DEFINITION. Task-virtual loads, stores, gathers and scatters (R331, R333, R335-R337) through the extent table (R72), and
the steps that carry them out: LOAD_RETURN and POSTED_STORE_PERFORM. An access in an ATOMIC range, or under `hint.scope`,
goes the way of an atomic (R337, R339).
-/

namespace Sys2Proof.Machine

/-- The steward's image and memory are not translated: one extent over all of physical memory. (DESIGN CHOICE, log 12) -/
def stewardExtent : Extent :=
  { mode := 4, perm := 15, vbase := 0, pbase := 0, share := 0, len := 2 ^ 52, rbase := 0, rlen := 2 ^ 52, comp := []
    leased := false }

/-- Permission bits of an extent entry (R72). -/
def extRd : Nat := 0
def extWr : Nat := 1
def extAtom : Nat := 2

/-- The lowest valid entry that holds a run of bytes and permits an access (R72); no entry holds an address of 2^56 or more (R331). -/
def Ctx.findExtent (x : Ctx) (a : Int) (len perm : Nat) : Option (Nat × Extent) :=
  if x.steward then (if 0 ≤ a ∧ a + len ≤ 2 ^ 52 then some (0, stewardExtent) else none)
  else if 2 ^ 56 < a + len then none
  else
    match x.task with
    | some n =>
      n.ext.find? (fun e => decide ((e.2.vbase : Int) ≤ a) && decide (a + len ≤ (e.2.vbase : Int) + e.2.len) && bit e.2.perm perm)
    | none => none

/-- An uncorrectable error in an entry of the extent table of the thread's task, which it has read (R198). The entries of a task
stand at 0x1000 + 16 times its first slot. (DESIGN CHOICE, log 18) -/
def Ctx.entryEcc (x : Ctx) (e : Nat) : Except Stop Unit :=
  match x.task with
  | some n =>
    let place := 0x1000 + 16 * n.slots.headD 0 + e
    if x.s.bad.contains (6, x.c, place) then trap ECCU (6 * 2 ^ 56 + Config.eccuPlace 6 place % 2 ^ 56) else .ok ()
  | none => .ok ()

/-- The thread that owns the share of an address (R60). -/
def Extent.owner (e : Extent) (va : Nat) : Option Nat :=
  let names := ones e.share 15
  if names.isEmpty then none else names[(va - e.rbase) / (e.rlen / names.length)]?

/-- A run of bytes touches a page marked comp (R70). -/
def Extent.inComp (e : Extent) (va len : Nat) : Bool := e.comp.any (fun r => overlaps r.1 r.2 va len)

/-- A task's number for the share of an address: the first entry of the share's range, and the owner. -/
def Task.shareKey (n : Task) (e : Extent) (va : Nat) : Option Nat :=
  match e.owner va, n.ext.find? (fun f => f.2.rbase == e.rbase && f.2.rlen == e.rlen && f.2.mode == e.mode) with
  | some o, some f => some (f.1 * 16 + o)
  | _, _ => none

/-- One lane of a task-virtual access that has passed its extent check. -/
structure VLane where
  l : Nat
  va : Nat
  phys : Nat
  ent : Nat
  /-- The share it reads or writes, plus one; 0 for none. -/
  share : Nat
  racy : Bool
  atomic : Bool
  deriving DecidableEq, Repr

/-- A lane in an entry. -/
def Ctx.vlane (x : Ctx) (l : Nat) (a : Int) (e : Nat × Extent) : VLane :=
  { l := l, va := a.toNat, phys := e.2.pbase + (a.toNat - e.2.vbase), ent := e.1
    share := match x.task.bind (fun n => n.shareKey e.2 a.toNat) with | some k => k + 1 | none => 0
    racy := e.2.mode == 4 && !x.steward, atomic := e.2.mode == 3 }

/-- Step 2 of R195 for a lane that reads. -/
def Ctx.readLane (x : Ctx) (scalar : Bool) (size : Nat) (p : Nat × Int) : Except Stop VLane :=
  match x.findExtent p.2 size extRd with
  | none => extent 1 p.1 (showAddr p.2)
  | some e => do
    x.entryEcc e.1
    if e.2.mode = 3 ∧ !(scalar && decide (4 ≤ size) && bit e.2.perm extAtom) then extent 9 p.1 (showAddr p.2)
    else if e.2.inComp p.2.toNat size then extent 5 p.1 (showAddr p.2)
    else .ok (x.vlane p.1 p.2 e)

/-- Step 2 of R195 for a lane that writes: the thread's own share (R177). -/
def Ctx.writeLane (x : Ctx) (size : Nat) (p : Nat × Int) : Except Stop VLane :=
  match x.findExtent p.2 size extWr with
  | none => extent 1 p.1 (showAddr p.2)
  | some e => do
    x.entryEcc e.1
    if e.2.share ≠ 0 ∧ e.2.owner p.2.toNat ≠ some x.th.tid.toNat then extent 2 p.1 (showAddr p.2)
    else .ok (x.vlane p.1 p.2 e)

/-- The lowest misaligned lane address raises ALIGN (R331). -/
def alignLanes (size : Nat) (lanes : List (Nat × Int)) : Except Stop Unit :=
  match (lanes.filter (fun p => decide (p.2 % (size : Int) ≠ 0))).map (·.2) with
  | [] => .ok ()
  | a :: r => trap ALIGN (showAddr (r.foldl min a))

/-- The lane addresses of an access: lanes of a vector from one base, or one address per lane of a (R331, R335). KIND is taken in
the order a, d (R280). -/
def Ctx.addresses (x : Ctx) (d a size off : Nat) (form : Nat) : Except Stop (List (Nat × Int)) := do
  let da ← x.check a .int
  x.relates a d (fun dd => decide (form ≠ 2) || da.lanes == dd.lanes)
  let dd ← x.checkData d size
  let va ← x.read a
  let o := x.offM off size
  if form = 2 then .ok ((upFrom 0 dd.lanes).map (fun l => (l, (va.getD l 0 : Int) + o)))
  else .ok (strided ((va.headD 0 : Int) + o) size (if form = 1 then dd.lanes else 1))

/-! ### Lanes as numbers in an instruction in flight -/

def VLane.pack (v : VLane) : List Nat := [v.l, v.va, v.phys, v.ent, v.share, bitAt v.racy 0]

def unpackLanes : List Nat → List VLane
  | l :: va :: ph :: e :: sh :: rc :: r =>
    { l := l, va := va, phys := ph, ent := e, share := sh, racy := rc == 1, atomic := false } :: unpackLanes r
  | _ => []

/-! ### Waiting for posted stores, jobs and places -/

/-- An instruction that waits in step 5 for something that has not let its request leave the core; it will issue again. (DEDUCED, log 80) -/
def holds {s : State} (x : Ctx) : Effect s := waits x .inFlight []

/-- What threads of a core wait for in step 5 may have come: they issue again. (DEDUCED, log 80) -/
def Trail.retry {s : State} (t : Trail s) (c : Nat) : Trail s :=
  forEach t ((t.1.core c).threads.filter (fun p =>
    decide (p.2.status = .inFlight) && (match p.2.op with | some o => o.args.isEmpty | none => false)))
    (fun t p => t.modThread c p.1 Thread.again)

/-- Every thread of a task has executed `done`. -/
def State.allDone (s : State) (n : Nat) (x : Task) : Bool :=
  !(s.core x.core).threads.any (fun p => decide (p.2.task = n) && decide (p.2.status ≠ .finished))

/-- What a task's end waits for may have come (R75, R196). -/
def Trail.pokeTask {s : State} (t : Trail s) (n : Nat) : Trail s :=
  match t.1.task? n with
  | some x =>
    if x.ending.isSome then t.pendOnce .taskExtentEnd [n]
    else if t.1.allDone n x then t.pendOnce .taskEnd [n] else t
  | none => t

/-- The thread's earlier stores have all been performed. -/
def Ctx.drained (x : Ctx) : Bool := !x.k.posted.any (fun p => decide (p.agent = x.th.agent))

/-- A release waits until the thread's posted stores have been performed (R170, R173). (DEDUCED, log 80) -/
def afterStores {s : State} (x : Ctx) (go : Effect s) : Effect s := if x.drained then go else holds x

/-! ### Loads -/

/-- The numbers that an atomic in flight carries (R339): aop, size, order, scope, named address, where it is, b, and the
compared value or bound. -/
def atomicArgs (aop size ord scope va phys b e : Nat) : List Nat := [aop, size, ord, scope, va, phys, b, e]

/-- An atomic leaves for its unit. -/
def sendAtomic {s : State} (x : Ctx) (args : List Nat) : Effect s :=
  fun t => (waits x .inFlight args t).sendTo (dieOf x.c) (t.1.homeDie (dieOf x.c) (args.getD 5 0)) .atomicPerform [x.c, x.sl]

/-- A device atomic of a scalar `ldx` or `stx` under `hint.scope`, or of an atomic: an address below 2^56 (R331), in an
ATOMIC entry with atom (R337, R339). (DEDUCED, log 72) -/
def Ctx.atomicLane (x : Ctx) (size : Nat) (a : Int) : Except Stop VLane :=
  if 2 ^ 56 ≤ a then extent 1 0 (showAddr a)
  else match x.findExtent a size extAtom with
  | some e => do
    x.entryEcc e.1
    if (x.steward || e.2.mode == 3) && decide (4 ≤ size) then .ok (x.vlane 0 a e) else extent 9 0 (showAddr a)
  | none => extent 9 0 (showAddr a)

/-- A load of a page marked comp (R70, R333). -/
def Ctx.notComp (x : Ctx) (v : VLane) (size : Nat) : Except Stop Unit :=
  match x.task.bind (fun n => look n.ext v.ent) with
  | some e => if e.inComp v.va size then extent 5 v.l v.va else .ok ()
  | none => .ok ()

/-- The 64-bit two's-complement string of lane 0 of a name, a float's bits zero-extended (R393). -/
def word64 (d : Desc) (v : List Nat) : Nat := if d.kind.isFloat then v.headD 0 else bitsOf 64 (extInt d.kind d.width (v.headD 0))

/-- Loads, whose watch check follows the race check at the home slice (R333, R336): `ldx` (form 0), `ldxv` (1), `ldg` (2). -/
def taskLoad (i : Instr) (form d a sz off : Nat) (s : State) : Host.Outcome State Fault Refusal :=
  issue i s (fun x => do
    let size := 2 ^ sz
    let lanes ← x.addresses d a size off form
    alignLanes size lanes
    match x.hintScope with
    | some (sc, ord) =>
      let v ← x.atomicLane size ((lanes.headD (0, 0)).2)
      x.notComp v size
      x.watchCheck true true true [(v.va, size)]
      .ok (sendAtomic x (atomicArgs 12 size ord sc v.va v.phys 0 0))
    | none =>
      let vs ← eachOf (x.readLane (form == 0) size) lanes
      if vs.any (·.atomic) then
        let v := vs.headD { l := 0, va := 0, phys := 0, ent := 0, share := 0, racy := false, atomic := true }
        x.watchCheck true true true [(v.va, size)]
        .ok (sendAtomic x (atomicArgs 12 size 0 2 v.va v.phys 0 0))
      else
        .ok (fun t => (waits x .inFlight (vs.flatMap VLane.pack) t).sendTo (dieOf x.c)
          (t.1.homeDie (dieOf x.c) ((vs.map (·.phys)).headD 0)) .loadReturn [x.c, x.sl]))

/-- ldx (R335). -/
def execLdx (d a sz off : Nat) (s : State) : Host.Outcome State Fault Refusal := taskLoad (.ldx d a sz off) 0 d a sz off s

/-- ldxv (R335). -/
def execLdxv (d a sz off : Nat) (s : State) : Host.Outcome State Fault Refusal :=
  taskLoad (.ldxv d a sz off) 1 d a sz off s

/-- ldg (R335). -/
def execLdg (d a sz off : Nat) (s : State) : Host.Outcome State Fault Refusal := taskLoad (.ldg d a sz off) 2 d a sz off s

/-- The data name and element size of a load in flight, and whether it writes lane 0 alone. -/
def loadShape : Instr → Option (Nat × Nat × Bool)
  | .ldx d _ sz _ => some (d, 2 ^ sz, true)
  | .ldxv d _ sz _ => some (d, 2 ^ sz, false)
  | .ldg d _ sz _ => some (d, 2 ^ sz, false)
  | _ => none

/-- A posted store of the thread to some of the bytes a load reads has not been performed (R336). -/
def Ctx.behindStore (x : Ctx) (vs : List VLane) (size : Nat) : Bool :=
  x.k.posted.any (fun p => decide (p.agent = x.th.agent) &&
    p.bytes.any (fun b => vs.any (fun v => decide (v.phys ≤ b.1) && decide (b.1 < v.phys + size))))

/-- The race of a read of a thread share: its last write does not happen before the read (R174, R176). (DEDUCED, log 28) -/
def Ctx.shareRace (x : Ctx) (v : VLane) : Except Stop Unit :=
  match v.share, x.task with
  | k + 1, some n =>
    match (lookD n.hShare k []).getLast? with
    | some w =>
      if w.agent ≠ x.th.agent ∧ !covered x.th.vc w then .error (.trap RACE v.l (some (raceWord 4 w.slot true v.va))) else .ok ()
    | none => .ok ()
  | _, _ => .ok ()

/-- An address in the control window, which a steward's loads and stores reach (R14, R50). (DESIGN CHOICE, log 12) -/
def Ctx.inControl (x : Ctx) (a : Nat) : Bool := x.steward && decide (x.s.control a ≠ .unbacked)

/-- A target lets a lane of a load (R49). -/
def Ctx.mayLoad (x : Ctx) (a : Nat) : Bool :=
  if x.inControl a then x.s.mayControl x.master a permRd else x.s.mayAccess x.master a permRd

/-- The data of a lane that has come back: poisoned, or a value (R17). (DESIGN CHOICE, log 18) -/
def Ctx.loadData (x : Ctx) (size : Nat) (v : VLane) : Except Stop Nat :=
  match x.s.memBad v.phys size with
  | some a => trap ECCU (Config.eccuMemory v.va a)
  | none => .ok (if x.inControl v.phys then x.s.readControl 0 (v.phys / 8 * 8) / 256 ^ (v.phys % 8) % 256 ^ size else x.s.mem.read v.phys size)

/-- A plain access to a RACY range is flagged, not logged (R217). -/
def Trail.flagRacy {s : State} (t : Trail s) (part : Option Nat) (racy : Bool) : Trail s :=
  match part, racy with
  | some n, true => t.logFlag n flagNotExact
  | _, _ => t

/-- LOAD_RETURN: every lane's data has come back, and the load retires (R332, R336). (DESIGN CHOICE, log 71) -/
def execLoadReturn (s : State) : Host.Outcome State Fault Refusal :=
  event s (fun t => t.resume (s.arg 0) (s.arg 1) (fun x a =>
    match loadShape x.i with
    | none => .ok id
    | some (d, size, one) =>
      let vs := unpackLanes a
      if x.th.status ≠ .inFlight ∨ vs.isEmpty then .ok id
      else if x.behindStore vs size then .ok (fun t => t.pend .loadReturn [x.c, x.sl])
      else if vs.any (fun v => !x.s.reaches v.phys) then .ok Trail.linkError
      else do
        let dd ← x.check d .any
        match vs.find? (fun v => !x.mayLoad v.phys) with
        | some v => extent 8 v.l v.va
        | none =>
          let _ ← eachOf x.shareRace vs
          x.watchCheck true true false (vs.map (fun v => ((v.va : Int), size)))
          let ws ← eachOf (x.loadData size) vs
          let r ← eachOf (fun p => loadLane dd size p.1 p.2) ((vs.map (·.l)).zip ws)
          .ok (fun t => own x (fun th => if one then th.setLane0 x.k.vt d (r.headD 0) else th.setLanes d r)
            ((t.countAll (dieOf x.c) (vs.map (·.phys))).flagRacy x.part (vs.any (·.racy))))))

/-! ### Stores -/

/-- A store retires and is posted (R336). -/
def post {s : State} (x : Ctx) (size : Nat) (vs : List VLane) (ws : List Nat) : Effect s :=
  fun t =>
    let bytes := (vs.zip ws).flatMap (fun p =>
      ((upFrom 0 size).zip (leBytes p.2 size)).map (fun b => (p.1.phys + b.1, p.1.va + b.1, b.2)))
    let p : Posted :=
      { task := x.th.task, slot := x.sl, agent := x.th.agent, epoch := lookD x.th.vc x.th.agent 0, bytes := bytes
        entries := vs.map (·.ent) }
    let t := own x id (t.modCore x.c (fun k => { k with posted := k.posted ++ [p] }))
    t.sendTo (dieOf x.c) (t.1.homeDie (dieOf x.c) ((vs.map (·.phys)).headD 0)) .postedStorePerform [x.c]

/-- Stores: `stx` (form 0), `stxv` (1), `stg` (2). -/
def taskStore (i : Instr) (form d a sz off : Nat) (s : State) : Host.Outcome State Fault Refusal :=
  issue i s (fun x => do
    let size := 2 ^ sz
    let lanes ← x.addresses d a size off form
    let dd ← x.check d .any
    let vd ← x.read d
    alignLanes size lanes
    let ws := (upFrom 0 lanes.length).map (fun l => storeLane dd size (vd.getD l 0))
    match x.hintScope with
    | some (sc, ord) =>
      let v ← x.atomicLane size ((lanes.headD (0, 0)).2)
      x.watchCheck true true true [(v.va, size)]
      let go := sendAtomic x (atomicArgs 13 size ord sc v.va v.phys (word64 dd vd) 0)
      .ok (if ord = 2 || x.th.relFence.isSome then afterStores x go else go)
    | none =>
      let vs ← eachOf (x.writeLane size) lanes
      x.watchCheck true false true (vs.map (fun v => ((v.va : Int), size)))
      .ok (if 32 ≤ x.k.posted.length then holds x else post x size vs ws))

/-- stx (R335). -/
def execStx (d a sz off : Nat) (s : State) : Host.Outcome State Fault Refusal := taskStore (.stx d a sz off) 0 d a sz off s

/-- stxv (R335). -/
def execStxv (d a sz off : Nat) (s : State) : Host.Outcome State Fault Refusal :=
  taskStore (.stxv d a sz off) 1 d a sz off s

/-- stg (R335). -/
def execStg (d a sz off : Nat) (s : State) : Host.Outcome State Fault Refusal := taskStore (.stg d a sz off) 2 d a sz off s

/-- The lanes of a posted store: lane number and bytes. -/
def Posted.lanes (p : Posted) : List (Nat × List (Nat × Nat × Byte)) :=
  let size := p.bytes.length / (max 1 p.entries.length)
  (upFrom 0 p.entries.length).map (fun l => (l, (p.bytes.drop (l * size)).take size))

/-- A lane of a posted store is performed: its bytes are written, and a write of a share enters the share's history. (DESIGN CHOICE, log 71) -/
def Trail.performLane {s : State} (t : Trail s) (c : Nat) (p : Posted) (l : Nat × List (Nat × Nat × Byte)) : Trail s :=
  match l.2 with
  | [] => t
  | (ph, va, _) :: _ =>
    let t := (t.memStore ph (l.2.map (·.2.2))).countAccess (dieOf c) ph
    match t.1.task? p.task with
    | none =>
      -- a steward's store to a control word is the step that it is
      (match t.1.storeStep (sysMaster t.1.pkg.num) (ph / 8 * 8) (leNat (l.2.map (·.2.2))) with
       | some d => t.pend d.step d.args
       | none => t)
    | some n =>
      match look n.ext (p.entries.getD l.1 0) with
      | none => t
      | some e =>
        let t := t.flagRacy (some n.part) (e.mode == 4)
        match n.shareKey e va with
        | none => t
        | some k =>
          let w : Access := { agent := p.agent, epoch := p.epoch, slot := p.slot, write := true, atomic := false }
          t.modTask p.task (fun n => { n with hShare := put n.hShare k [w] })

/-- A target lets a posted store write (R49); a store of a steward to a control word asks for leave in its own step. -/
def State.mayStore (s : State) (p : Posted) (a : Nat) : Bool :=
  match s.task? p.task with
  | some n => s.mayAccess (partMaster s.pkg.num n.part) a permWr
  | none => s.mayAccess (sysMaster s.pkg.num) a permWr || decide (s.control a ≠ .unbacked)

/-- POSTED_STORE_PERFORM: the oldest posted store of a core is performed; a denied lane writes nothing and ends the task
(R336, R49). -/
def execPostedStorePerform (s : State) : Host.Outcome State Fault Refusal :=
  event s (fun t =>
    let c := s.arg 0
    match (t.1.core c).posted with
    | [] => t
    | p :: r =>
      if p.bytes.any (fun b => !t.1.reaches b.1) then t.linkError else
      let ok := fun (l : Nat × List (Nat × Nat × Byte)) => match l.2 with | (ph, _, _) :: _ => t.1.mayStore p ph | [] => true
      let t1 := t.modCore c (fun k => { k with posted := r })
      let t2 := forEach t1 (p.lanes.filter ok) (fun t l => t.performLane c p l)
      let t3 := match p.lanes.find? (fun l => !ok l) with
        | some (l, (_, va, _) :: _) =>
          let tid := match t.1.thread? c p.slot with | some th => th.tid.toNat | none => 0
          t2.endTask p.task { thread := tid, lane := l, reason := 8, adr := va }
        | _ => t2
      (t3.retry c).pokeTask p.task)

end Sys2Proof.Machine
end

