-- ==== Sys2Proof/Machine/Atomic.lean ====
section
/-!
DEFINITION. Atomics (R338, R339) with the edges they make (R170, R173, R181-R183), `waitw` (R341), and fences (R340). A
`.core` atomic is performed as it issues; any other goes to its unit, where ATOMIC_PERFORM performs it.
-/

namespace Sys2Proof.Machine

/-- Codes of aop. -/
def aopCas : Nat := 9
def aopIncw : Nat := 10
def aopBfa : Nat := 11
def aopLd : Nat := 12
def aopSt : Nat := 13
def aopWait : Nat := 15

/-- A bit string of n bits as a two's-complement number. -/
def sg (n v : Nat) : Int := signed n v

/-- What an atomic writes, from the old value, the operand and the compared value or bound; nothing where it writes
nothing (R339, R188). (DEDUCED, log 27) -/
def amoNew (aop n old x e : Nat) : Option Nat :=
  match aop with
  | 0 => some ((old + x) % 2 ^ n)
  | 1 => some (Nat.land old x)
  | 2 => some (Nat.lor old x)
  | 3 => some (Nat.xor old x)
  | 4 => some (if sg n old ≤ sg n x then old else x)
  | 5 => some (if sg n x ≤ sg n old then old else x)
  | 6 => some (min old x)
  | 7 => some (max old x)
  | 8 => some x
  | 9 => if old = e then some x else none
  | 10 => some (if x ≤ old then 0 else old + 1)
  | 11 => if old + x ≤ e then some (old + x) else none
  | 13 => some x
  | _ => none

/-- The hash input of an ATOMIC record of an atomic (R393). -/
def amoInput (aop size ord scope va b e : Nat) : List Byte :=
  leBytes va 8 ++ leBytes size 1 ++ leBytes (ord * 4 + scope) 1 ++
    (if aop = aopLd then [] else if aop = aopCas || aop = aopBfa then leBytes e 8 ++ leBytes b 8 else leBytes b 8)

/-- The order includes an acquire, or a release. -/
def ordAcq (ord : Nat) : Bool := ord % 2 = 1
def ordRel (ord : Nat) : Bool := 2 ≤ ord

/-- The scope at which an atomic's write releases, if it does: its own, a pending fence's, or the wider (R183). -/
def Thread.releaseScope (th : Thread) (ord scope : Nat) : Option Nat :=
  match th.relFence with
  | some f => some (if ordRel ord then max scope f else f)
  | none => if ordRel ord then some scope else none

/-- The thread after an atomic's read of a value with its releases (R173, R182, R183). -/
def Thread.amoRead (th : Thread) (hs : List Head) (ord scope place : Nat) : Thread :=
  let th := if ordAcq ord then th.acquireHeads hs scope place else th
  { th with lastRead := { heads := hs, scope := if ordAcq ord then some scope else none } }

/-- The releases that an atomic's write carries (R182): a read-modify-write continues the sequences of the old value. -/
def Thread.amoHeads (th : Thread) (aop ord scope place : Nat) (hs : List Head) : List Head :=
  (if aop = aopSt then [] else hs) ++
    (match th.releaseScope ord scope with
     | some sc => [{ vc := th.vc, place := place, scope := sc }]
     | none => [])

/-- The thread after an atomic write or read-modify-write, one that wrote nothing included: its pending fence is consumed
(R340), and a release counts. -/
def Thread.amoWrote (th : Thread) (aop ord scope : Nat) (wrote : Bool) : Thread :=
  if aop = aopLd then th
  else
    let th' := if wrote && (th.releaseScope ord scope).isSome then th.released else th
    { th' with relFence := none }

/-- The thread's part of an atomic: orders, the old value to d, and sat (R339). -/
def Thread.amoDone (th : Thread) (vt : Word64) (aop : Nat) (d : Option Nat) (n old : Nat) (wrote : Bool) : Thread :=
  let th := match d with
    | some d =>
      (match th.desc? d with
       | some e => th.setLane0 vt d (if e.kind = .sgn then bitsOf e.width (sg n old) else old)
       | none => th)
    | none => th
  if aop = aopBfa then th.satBit (!wrote) else th

/-- The operands of an atomic that has passed its checks. -/
structure Amo where
  aop : Nat
  size : Nat
  ord : Nat
  scope : Nat
  va : Nat
  phys : Nat
  b : Nat
  e : Nat
  deriving DecidableEq, Repr

def Amo.ofArgs (a : List Nat) : Amo :=
  { aop := a.getD 0 0, size := a.getD 1 0, ord := a.getD 2 0, scope := a.getD 3 0, va := a.getD 4 0, phys := a.getD 5 0
    b := a.getD 6 0, e := a.getD 7 0 }

/-- What the atomic finds and does at its location: whether it writes, and what. (DEDUCED, log 27) -/
def Amo.result (m : Amo) (old : Nat) : Option Nat :=
  amoNew m.aop (8 * m.size) old (m.b % 2 ^ (8 * m.size)) (m.e % 2 ^ (8 * m.size))

/-- The thread after the atomic, and the releases that what it wrote carries. -/
def Amo.thread (m : Amo) (th : Thread) (place : Nat) (hs : List Head) (wrote : Bool) : Thread × List Head :=
  let th := if m.aop = aopSt then th else th.amoRead hs m.ord m.scope place
  (th.amoWrote m.aop m.ord m.scope wrote, th.amoHeads m.aop m.ord m.scope place hs)

/-- A `.core` atomic at its bank (R339). (DEDUCED, log 27) -/
def localAtomic {s : State} (x : Ctx) (m : Amo) (d : Option Nat) : Except Stop (Effect s) := do
  let off := x.runBase + m.va
  let old := x.s.loc.read (locKey x.c off) m.size
  let new := m.result old
  let g := Loc.gran (off / 32)
  let w := new.isSome
  if !x.steward then
    x.raceCheck w true [(0, g)]
    x.watchCheck false true true [(m.va, m.size)]
  match x.localBad off m.size with
  | some v => trap ECCU v
  | none =>
    let r := x.threadRec 1 (coreSource x.c) m.aop (amoInput m.aop m.size m.ord m.scope m.va m.b m.e)
    let (th, hs) := m.thread x.th x.c (x.k.headsOf off m.size) w
    let go : Effect s := fun t =>
      let t := t.enterAll x w true [g]
      let t := match new with
        | some v => t.localWrite x.c off (leBytes v m.size) hs
        | none => t
      t.setThread x.c x.sl ((th.amoDone x.k.vt m.aop d (8 * m.size) old w).retire (x.th.pc + 4))
    let go := x.logged r go
    .ok (if m.aop ≠ aopLd && (m.ord ≥ 2 || x.th.relFence.isSome) then afterStores x go else go)

/-- The course of an atomic at issue (R339): `b` is the operand name of every aop but `ld`, `d` the destination of every
aop but `st`. -/
def atomic (i : Instr) (aop ord scope : Nat) (d : Option Nat) (a : Nat) (b : Option Nat) (s : State) :
    Host.Outcome State Fault Refusal :=
  issue i s (fun x => do
    let size := x.amoSize
    let _ ← x.check a .int
    match b with
    | some b => let _ ← x.check b .int
    | none => pure ()
    match d with
    | some d =>
      let dd ← x.check d .int
      if dd.width < 8 * size then trap KIND d
      if aop = aopBfa && d == 63 then trap KIND 63
    | none => pure ()
    let addr ← x.read0 a
    let bv ← match b with
      | some b => do
        let db ← x.check b .int
        let v ← x.read b
        .ok (word64 db v)
      | none => .ok 0
    let ev ← match d with
      | some d =>
        if aop = aopCas || aop = aopBfa then do
          let dd ← x.check d .int
          let v ← x.read d
          .ok (word64 dd v)
        else .ok 0
      | none => .ok 0
    if addr % size ≠ 0 then trap ALIGN addr
    else if scope = 0 then
      if !x.inRun addr size then extent 3 0 addr
      else localAtomic x { aop := aop, size := size, ord := ord, scope := 0, va := addr, phys := 0, b := bv, e := ev } d
    else
      let v ← x.atomicLane size addr
      x.watchCheck true true true [(v.va, size)]
      let go := sendAtomic x (atomicArgs aop size ord scope v.va v.phys bv ev)
      .ok (if aop ≠ aopLd && (ord ≥ 2 || x.th.relFence.isSome) then afterStores x go else go))

/-- amo.add (R339). -/
def execAmoAdd (d a b ord scope : Nat) (s : State) : Host.Outcome State Fault Refusal :=
  atomic (.amoAdd d a b ord scope) 0 ord scope (some d) a (some b) s

/-- amo.and (R339). -/
def execAmoAnd (d a b ord scope : Nat) (s : State) : Host.Outcome State Fault Refusal :=
  atomic (.amoAnd d a b ord scope) 1 ord scope (some d) a (some b) s

/-- amo.or (R339). -/
def execAmoOr (d a b ord scope : Nat) (s : State) : Host.Outcome State Fault Refusal :=
  atomic (.amoOr d a b ord scope) 2 ord scope (some d) a (some b) s

/-- amo.xor (R339). -/
def execAmoXor (d a b ord scope : Nat) (s : State) : Host.Outcome State Fault Refusal :=
  atomic (.amoXor d a b ord scope) 3 ord scope (some d) a (some b) s

/-- amo.min (R339). -/
def execAmoMin (d a b ord scope : Nat) (s : State) : Host.Outcome State Fault Refusal :=
  atomic (.amoMin d a b ord scope) 4 ord scope (some d) a (some b) s

/-- amo.max (R339). -/
def execAmoMax (d a b ord scope : Nat) (s : State) : Host.Outcome State Fault Refusal :=
  atomic (.amoMax d a b ord scope) 5 ord scope (some d) a (some b) s

/-- amo.minu (R339). -/
def execAmoMinu (d a b ord scope : Nat) (s : State) : Host.Outcome State Fault Refusal :=
  atomic (.amoMinu d a b ord scope) 6 ord scope (some d) a (some b) s

/-- amo.maxu (R339). -/
def execAmoMaxu (d a b ord scope : Nat) (s : State) : Host.Outcome State Fault Refusal :=
  atomic (.amoMaxu d a b ord scope) 7 ord scope (some d) a (some b) s

/-- amo.xchg (R339). -/
def execAmoXchg (d a b ord scope : Nat) (s : State) : Host.Outcome State Fault Refusal :=
  atomic (.amoXchg d a b ord scope) 8 ord scope (some d) a (some b) s

/-- amo.cas (R339). -/
def execAmoCas (d a b ord scope : Nat) (s : State) : Host.Outcome State Fault Refusal :=
  atomic (.amoCas d a b ord scope) 9 ord scope (some d) a (some b) s

/-- amo.incw (R339, R188). -/
def execAmoIncw (d a b ord scope : Nat) (s : State) : Host.Outcome State Fault Refusal :=
  atomic (.amoIncw d a b ord scope) 10 ord scope (some d) a (some b) s

/-- amo.bfa (R339, R188). -/
def execAmoBfa (d a b ord scope : Nat) (s : State) : Host.Outcome State Fault Refusal :=
  atomic (.amoBfa d a b ord scope) 11 ord scope (some d) a (some b) s

/-- amo.ld (R339). -/
def execAmoLd (d a ord scope : Nat) (s : State) : Host.Outcome State Fault Refusal :=
  atomic (.amoLd d a ord scope) 12 ord scope (some d) a none s

/-- amo.st (R339). -/
def execAmoSt (a b ord scope : Nat) (s : State) : Host.Outcome State Fault Refusal :=
  atomic (.amoSt a b ord scope) 13 ord scope none a (some b) s

/-- The unit of R179 that performs an atomic, as a source of the order log (R214). A location of another package is
reached through the port that leads to its package (R21). -/
def Ctx.amoSource (x : Ctx) (m : Amo) : Nat :=
  if m.scope = 1 then clusterSource (clusterOf x.c)
  else if pkgOf m.phys = x.s.pkg.num then sliceSource m.phys
  else portSourceId ((x.s.portTo (pkgOf m.phys)).getD 0)

/-- The destination of an atomic in flight; a scalar load is assigned as R332 says. -/
def amoDest : Instr → Option Nat
  | .amoAdd d _ _ _ _ | .amoAnd d _ _ _ _ | .amoOr d _ _ _ _ | .amoXor d _ _ _ _ | .amoMin d _ _ _ _ | .amoMax d _ _ _ _
  | .amoMinu d _ _ _ _ | .amoMaxu d _ _ _ _ | .amoXchg d _ _ _ _ | .amoCas d _ _ _ _ | .amoIncw d _ _ _ _
  | .amoBfa d _ _ _ _ => some d
  | .amoLd d _ _ _ => some d
  | _ => none

/-- What an atomic writes stands in memory, with the releases that it carries. -/
def Trail.amoWrite {s : State} (t : Trail s) (m : Amo) (new : Option Nat) (hs : List Head) : Trail s :=
  match new with
  | some v => t.memPut m.phys (leBytes v m.size) hs
  | none => t

/-- The rest of an atomic once its old value is known: the access counts, the thread's name and its retirement; or the trap of a
plain load that does not fit, which counts nothing (R332, R8). -/
def amoRetire {s : State} (x : Ctx) (m : Amo) (th : Thread) (old : Nat) (wrote : Bool) : Effect s :=
  fun t =>
    match x.i with
    | .ldx d _ _ _ =>
      (match (x.check d .any).bind (fun dd => loadLane dd m.size 0 old) with
       | .ok v => (t.countAccess (dieOf x.c) m.phys).setThread x.c x.sl ((th.setLane0 x.k.vt d v).retire (x.th.pc + 4))
       | .error e => t.stop x.c x.sl x.th x.th.pc (x.word / 67108864) x.hint.isSome e)
    | i => (t.countAccess (dieOf x.c) m.phys).setThread x.c x.sl
      ((th.amoDone x.k.vt m.aop (amoDest i) (8 * m.size) old wrote).retire (x.th.pc + 4))

/-- ATOMIC_PERFORM: the atomic is performed at its unit and its old value returns (R339). -/
def execAtomicPerform (s : State) : Host.Outcome State Fault Refusal :=
  event s (fun t => t.resume (s.arg 0) (s.arg 1) (fun x a =>
    if x.th.status ≠ .inFlight ∨ a.length ≠ 8 then .ok id
    else
      let m := Amo.ofArgs a
      if !x.s.reaches m.phys then .ok Trail.linkError
      else if !x.s.mayAccess x.master m.phys permAtom then extent 8 0 m.va
      else
        match x.s.memBad m.phys m.size with
        | some b => trap ECCU (Config.eccuMemory m.va b)
        | none =>
          let old := x.s.mem.read m.phys m.size
          let new := m.result old
          let r := x.threadRec 1 (x.amoSource m) m.aop (amoInput m.aop m.size m.ord m.scope m.va m.b m.e)
          let (th, hs) := m.thread x.th x.c (x.s.headsOf m.phys m.size) new.isSome
          .ok (x.loggedAt r ⟨.atomicPerform, [x.c, x.sl]⟩ (fun t => amoRetire x m th old new.isSome (t.amoWrite m new hs)))))

/-- The atomic of a thread that a reset discards reaches its home slice all the same: no flit on the way is dropped (R25). -/
def Trail.atomicLands {s : State} (t : Trail s) (c sl : Nat) : Trail s :=
  match t.1.opCtx? c sl with
  | none => t
  | some (x, a) =>
    let m := Amo.ofArgs a
    if a.length ≠ 8 || !x.s.reaches m.phys || !x.s.mayAccess x.master m.phys permAtom || (x.s.memBad m.phys m.size).isSome then t
    else
      let new := m.result (x.s.mem.read m.phys m.size)
      let hs := (m.thread x.th x.c (x.s.headsOf m.phys m.size) new.isSome).2
      (t.amoWrite m new hs).countAccess (dieOf c) m.phys

/-! ### waitw (R341) -/

/-- The ATOMIC record of a `waitw` that returns a value (R215). -/
def Ctx.waitRec (x : Ctx) (src addr v : Nat) : Rec := x.threadRec 1 src aopWait (leBytes addr 8 ++ leBytes v 8)

/-- Under replay, a value that does not match the record of a `waitw` whose turn it is is passed over (R341). -/
def Ctx.passesOver (x : Ctx) (r : Rec) : Bool :=
  match x.part with
  | none => false
  | some n =>
    match x.s.gate n r (.thread x.c x.sl), x.s.part? n with
    | .diverge _, some p =>
      (match x.s.nextRecord p r.source with
       | some (_, w0, w1) => bits w0 63 60 == 1 && bits w1 19 16 == aopWait
       | none => false)
    | _, _ => false

/-- A `waitw` is shown values of its word in turn: it retires at the first that differs from the compared value, or, under replay,
the first of those that its record names, and else it blocks (R341). `place` is the word's key for its wake. -/
def waitOn {s : State} (x : Ctx) (d src scope addr place cmp : Nat) (seen : List (Nat × List Head)) : Except Stop (Effect s) := do
  let dd ← x.check d .any
  let block : Effect s := fun t => (waits x .blocked [place, cmp] t).modThread x.c x.sl (fun th => { th with saw := [] })
  let differ := seen.filter (fun p => decide (p.1 ≠ cmp))
  match differ.find? (fun p => !x.passesOver (x.waitRec src addr p.1)), x.part with
  | none, some n => .ok (if differ.isEmpty then block else fun t => (block t).turnFor n src (.thread x.c x.sl))
  | none, none => .ok block
  | some (v, hs), _ =>
    let w ← loadLane dd 8 0 v
    let th := (x.th.acquireHeads hs scope x.c).setLane0 x.k.vt d w
    let th := { th with lastRead := { heads := hs, scope := some scope } }
    .ok (fun t => t.logged x.part (x.waitRec src addr v) (.thread x.c x.sl)
      (fun t => (block t).modThread x.c x.sl (fun th => { th.waitLog with saw := differ })) x.diverges
      (fun t => (t.setThread x.c x.sl (th.retire (x.th.pc + 4))).wakeReleases x.c))

/-- The operands of `waitw`: the address and the compared value. -/
def Ctx.waitArgs (x : Ctx) (d a b : Nat) : Except Stop (Nat × Nat) := do
  let _ ← x.check a .int
  let db ← x.check b .int
  let _ ← x.checkData d 8
  let addr ← x.read0 a
  let v ← x.read b
  if addr % 8 ≠ 0 then trap ALIGN addr else .ok (addr, word64 db v)

/-- waitw.l (R341); once it has been shown a value that differs, it checks nothing more. -/
def execWaitwL (d a b : Nat) (s : State) : Host.Outcome State Fault Refusal :=
  issue (.waitwL d a b) s (fun x => do
    let (addr, cmp) ← x.waitArgs d a b
    let off := x.runBase + addr
    if !x.th.saw.isEmpty then waitOn x d (coreSource x.c) 0 addr off cmp x.th.saw
    else if !x.inRun addr 8 then extent 3 0 addr
    else
      let g := Loc.gran (off / 32)
      if !x.steward then
        x.raceCheck false true [(0, g)]
        x.watchCheck false true false [(addr, 8)]
      match x.localBad off 8 with
      | some v => trap ECCU v
      | none =>
        let f ← waitOn x d (coreSource x.c) 0 addr off cmp [(x.s.loc.read (locKey x.c off) 8, x.k.headsOf off 8)]
        .ok (fun t => f (t.enterAll x false true [g])))

/-- The lowest valid entry of mode ATOMIC that holds a run of bytes (R72, R341). -/
def Ctx.atomicEntry (x : Ctx) (a : Int) (len : Nat) : Option (Nat × Extent) :=
  if x.steward then x.findExtent a len extAtom
  else (x.task.bind (fun n => n.ext.find? (fun e => e.2.mode == 3 && decide ((e.2.vbase : Int) ≤ a) &&
    decide (a + len ≤ (e.2.vbase : Int) + e.2.len) && decide (a + len ≤ 2 ^ 56))))

/-- The word of a `waitw.x`: in an ATOMIC entry, or the task ends (R331, R341). -/
def Ctx.waitLane (x : Ctx) (a : Int) : Except Stop VLane :=
  if 2 ^ 56 ≤ a then extent 1 0 (showAddr a)
  else match x.atomicEntry a 8 with
  | some e => do
    x.entryEcc e.1
    .ok (x.vlane 0 a e)
  | none => extent 9 0 (showAddr a)

/-- waitw.x (R341, R187); once it has been shown a value that differs, it checks nothing more. The home slice answers nothing while
its die relocks (R26). -/
def execWaitwX (d a b : Nat) (s : State) : Host.Outcome State Fault Refusal :=
  issue (.waitwX d a b) s (fun x => do
    let (addr, cmp) ← x.waitArgs d a b
    let source := fun phys => x.amoSource { aop := aopWait, size := 8, ord := 1, scope := 3, va := addr, phys := phys, b := 0, e := 0 }
    match x.th.saw, x.th.op with
    | p :: r, some o => waitOn x d (source (o.args.headD 0)) 3 addr (o.args.headD 0) cmp (p :: r)
    | _, _ =>
      let v ← x.waitLane addr
      x.watchCheck true true false [(addr, 8)]
      if !x.s.reaches v.phys then .ok (fun t => (waits x .blocked [v.phys, cmp] t).linkError)
      else if (x.s.die (x.s.homeDie (dieOf x.c) v.phys)).relocking then .ok (waits x .ready [v.phys, cmp])
      else if !x.s.mayAccess x.master v.phys permAtom then extent 8 0 addr
      else
        match x.s.memBad v.phys 8 with
        | some e => trap ECCU (Config.eccuMemory addr e)
        | none =>
          let f ← waitOn x d (source v.phys) 3 addr v.phys cmp [(x.s.mem.read v.phys 8, x.s.headsOf v.phys 8)]
          .ok (fun t => f (t.countAccess (dieOf x.c) v.phys)))

/-! ### Fences (R183, R340) -/

/-- A fence of an order and scope. -/
def Thread.fenced (th : Thread) (ord scope place : Nat) : Thread :=
  let th :=
    if ordAcq ord then
      let sc := match th.lastRead.scope with | some o => max o scope | none => scope
      { th.acquireHeads th.lastRead.heads sc place with lastRead := { th.lastRead with scope := some sc } }
    else th
  if ordRel ord then { th with relFence := some (match th.relFence with | some f => max f scope | none => scope) } else th

/-- fence (R340, R183). -/
def execFence (ord scope : Nat) (s : State) : Host.Outcome State Fault Refusal :=
  issue (.fence ord scope) s (fun x => .ok (own x (fun th => th.fenced ord scope x.c)))

/-- aliasf: it waits for the thread's earlier stores; every device read of the model reaches the home slice (R340). (DESIGN CHOICE, log 71) -/
def execAliasf (s : State) : Host.Outcome State Fault Refusal :=
  issue .aliasf s (fun x => .ok (afterStores x (own x id)))

/-- Jobs that a thread has issued. -/
def State.jobsOf (s : State) (c sl task : Nat) : List Job :=
  (s.jobs.filter (fun j => decide (j.2.core = c) && decide (j.2.slot = sl) && decide (j.2.task = task))).map (·.2)

/-- fencec: it waits for the completion word of each of the thread's jobs and acquires it (R340, R183). -/
def execFencec (s : State) : Host.Outcome State Fault Refusal :=
  issue .fencec s (fun x =>
    let js := x.s.jobsOf x.c x.sl x.th.task
    if js.any (fun j => decide (j.state ≠ 3)) then .ok (holds x)
    else .ok (own x (fun th => js.foldl (fun th j => th.acquired j.vc) th)))

end Sys2Proof.Machine
end

