-- ==== Sys2Proof/Machine/Clocks.lean ====
section
/-!
DEFINITION. The frequency steps of a die (R27-R29): the target, a change with its ramps and its relock, and `cw.freq`.
-/

namespace Sys2Proof.Machine

/-- The core supply of a step in mV (R27). -/
def stepMv : Nat → Nat
  | 0 => 600
  | 1 => 630
  | 2 => 675
  | 3 => 710
  | _ => 760

/-- How long a supply ramp takes, at 5 mV/µs, in units of `cw.etime` (R28). -/
def rampTime (a b : Nat) : Nat := (stepMv a - stepMv b + (stepMv b - stepMv a)) * etimePerUs / 5

/-- A change is under way (R29). -/
def Die.changing (d : Die) : Bool := decide (d.change ≠ .none)

/-- `cw.freq` (R29). -/
def Die.freqWord (d : Die) : Nat := bitAt d.relocking 23 + d.step * 65536 + stepMhz d.step

/-- The die's clock stops, and its PLL relocks toward a step (R28 step 2). -/
def Trail.relock {s : State} (t : Trail s) (d v : Nat) : Trail s :=
  (t.modDie d (fun x => { x with change := .relock v })).timer d false relockTime .relockDone [d]

/-- A change toward a step begins: a rising step ramps its supply first (R28). -/
def Trail.beginChange {s : State} (t : Trail s) (d v : Nat) : Trail s :=
  let x := t.1.die d
  if x.step < v then
    (t.modDie d (fun x => { x with change := .rampUp v })).timer d false (rampTime x.step v) .supplyRampUpDone [d]
  else t.relock d v

/-- The power controller holds the die below its target (R29, R30). -/
def Die.held (d : Die) : Bool := d.powerHold || d.thermalHold

/-- A change has ended: a new one begins if the target then differs from the current step, unless the power controller holds
the die below it (R29). -/
def Trail.changeEnded {s : State} (t : Trail s) (d : Nat) : Trail s :=
  let t := t.modDie d (fun x => { x with change := .none })
  let x := t.1.die d
  if x.target = x.step ∨ (x.held ∧ x.step < x.target) then t else t.beginChange d x.target

/-- A steward's write to the step field of `cw.freq` (R29). -/
def Trail.writeStep {s : State} (t : Trail s) (d v : Nat) : Trail s :=
  let x := t.1.die d
  if 4 < v then t
  else if x.changing then t.modDie d (fun x => { x with target := v })
  else if v = x.step then t
  else
    let t := t.modDie d (fun x => { x with target := v })
    if x.held && decide (x.step < v) then t else t.beginChange d v

/-- SUPPLY_RAMP_UP_DONE: the supply has reached the new value, and the relock begins (R28). -/
def execSupplyRampUpDone (s : State) : Host.Outcome State Fault Refusal :=
  event s (fun t =>
    match (t.1.die (s.arg 0)).change with
    | .rampUp v => t.relock (s.arg 0) v
    | _ => t)

/-- RELOCK_DONE: the clock restarts at the new step; a falling step then ramps its supply down (R28). -/
def execRelockDone (s : State) : Host.Outcome State Fault Refusal :=
  event s (fun t =>
    let d := s.arg 0
    let x := t.1.die d
    match x.change with
    | .relock v =>
      if v < x.step then
        (t.modDie d (fun x => { x with step := v, change := .rampDown })).timer d false (rampTime x.step v) .supplyRampDownDone [d]
      else (t.modDie d (fun x => { x with step := v })).changeEnded d
    | _ => t)

/-- SUPPLY_RAMP_DOWN_DONE (R28). -/
def execSupplyRampDownDone (s : State) : Host.Outcome State Fault Refusal :=
  event s (fun t =>
    match (t.1.die (s.arg 0)).change with
    | .rampDown => t.changeEnded (s.arg 0)
    | _ => t)

end Sys2Proof.Machine
end

