-- ==== Sys2Proof/Machine/Control.lean ====
section
/-!
DEFINITION. Control transfers (R299-R306) and the frames they enter and leave, with the spill engine (R106-R109). A spill
holds its thread to FRAME_SPILL_DONE; a fill runs beside its thread to FRAME_FILL_DONE, and holds a `ret` to its frame.
-/

namespace Sys2Proof.Machine

/-- The target of a transfer that will be taken (R299). (DEDUCED, log 25) -/
def Ctx.target (x : Ctx) (a : Int) : Except Stop Nat :=
  if a % 4 ≠ 0 then trap ALIGN (showAddr a)
  else if x.steward then .ok (showAddr a)
  else
    match x.task.bind (fun n => look n.ext 0) with
    | some e => if (e.vbase : Int) ≤ a ∧ a + 4 ≤ (e.vbase : Int) + e.len then .ok a.toNat else extent 1 0 (showAddr a)
    | none => extent 1 0 (showAddr a)

/-- The target of a displacement in words. (DEDUCED, log 25) -/
def Ctx.relative (x : Ctx) (n disp : Nat) : Int := x.th.pc + 4 * signed n disp

/-- A taken `bt`, `bf` or `dbnz` leaves a record of its own address (R244). -/
def Trail.branchTrace {s : State} (t : Trail s) (x : Ctx) : Trail s := t.trace x.c x.sl 2 (x.th.pc % 2 ^ 56)

/-- A conditional branch (R300). -/
def branch (i : Instr) (sense c disp : Nat) (s : State) : Host.Outcome State Fault Refusal :=
  issue i s (fun x => do
    let _ ← x.check c .pred
    let v ← x.read0 c
    if v = sense then
      let pc ← x.target (x.relative 19 disp)
      .ok (fun t => (retireAt x pc t).branchTrace x)
    else .ok (retireNext x))

/-- bt (R300). -/
def execBt (c disp : Nat) (s : State) : Host.Outcome State Fault Refusal := branch (.bt c disp) 1 c disp s

/-- bf (R300). -/
def execBf (c disp : Nat) (s : State) : Host.Outcome State Fault Refusal := branch (.bf c disp) 0 c disp s

/-- jmp (R301). -/
def execJmp (disp : Nat) (s : State) : Host.Outcome State Fault Refusal :=
  issue (.jmp disp) s (fun x => do
    let pc ← x.target (x.relative 26 disp)
    .ok (retireAt x pc))

/-- A `jr`, `callr` or `ret` leaves a record of its target (R244). -/
def Trail.jumpTrace {s : State} (t : Trail s) (x : Ctx) (pc : Nat) : Trail s := t.trace x.c x.sl 3 (pc % 2 ^ 56)

/-- jr (R302). -/
def execJr (c : Nat) (s : State) : Host.Outcome State Fault Refusal :=
  issue (.jr c) s (fun x => do
    let _ ← x.check c .int
    let v ← x.read0 c
    let pc ← x.target v
    .ok (fun t => (retireAt x pc t).jumpTrace x pc))

/-- dbnz: the target is checked before the counter is written (R303). -/
def execDbnz (c disp : Nat) (s : State) : Host.Outcome State Fault Refusal :=
  issue (.dbnz c disp) s (fun x => do
    let d ← x.check c .int
    let v ← x.read0 c
    let n ← orTrap OVF 0 (fitInt d (extInt d.kind d.width v - 1))
    let pc ← if n = 0 then .ok (x.th.pc + 4) else x.target (x.relative 18 disp)
    .ok (fun t =>
      let t := t.setThread x.c x.sl ((x.th.setLane0 x.k.vt c n).retire pc)
      if n = 0 then t else t.branchTrace x))

/-! ### Frames -/

/-- The windowed names (R106). -/
def Thread.windowed (th : Thread) : List (Nat × NameSt) := th.names.filter (fun n => n.2.desc.win)

/-- Windowed lane count F. -/
def Thread.frameLanes (th : Thread) : Nat := (th.windowed.map (fun n => n.2.desc.lanes)).sum

/-- The words of the frame in a slot: ascending name, then lane (R107). -/
def Thread.frameWords (th : Thread) (j : Nat) : List Nat :=
  th.windowed.flatMap (fun n => (match n.2.fields[j]? with | some f => f.lanes | none => []).map (wordOf n.2.desc))

/-- Set the lanes of the frame in a slot from words, in the same order (R108). -/
def setFrame (j : Nat) : Tab NameSt → List Nat → Tab NameSt
  | [], _ => []
  | (n, x) :: r, ws =>
    if x.desc.win then
      match x.fields[j]? with
      | some f =>
        let v := (upFrom 0 x.desc.lanes).map (fun l => ws.getD l 0 % 2 ^ x.desc.width)
        (n, { x with fields := setAt x.fields j { f with lanes := v } }) :: setFrame j r (ws.drop x.desc.lanes)
      | none => (n, x) :: setFrame j r (ws.drop x.desc.lanes)
    else (n, x) :: setFrame j r ws

/-- The thread in a new frame of depth D + 1, every windowed lane zero: the fill of the frame whose slot it takes is abandoned
(R108, R304). (DEDUCED, log 89) -/
def Thread.enterFrame (th : Thread) (ra : Nat) : Thread :=
  { th with
    depth := th.depth + 1, names := setFrame ((th.depth + 1) % 4) th.names [], lk := BitVec.ofNat 64 ra
    fill := th.fill.filter (fun f => decide (f.1 + 3 ≠ th.depth)) }

/-- A frame of a thread is filled back: its words go to their slot and ws rises (R108). -/
def Thread.filled (th : Thread) (f : Nat) (ws : List Nat) : Thread :=
  { th with
    names := setFrame (f % 4) th.names ws, spilled := th.spilled.filter (fun g => decide (g ≠ f))
    fill := th.fill.filter (fun g => decide (g.1 ≠ f)), ws := th.ws + BitVec.ofNat 64 (8 * th.frameLanes) }

/-- An uncorrectable error in the row-store words of the frame in a slot, which a spill reads (R99, R198). (DESIGN CHOICE, log 18) -/
def Ctx.frameEcc (x : Ctx) (j : Nat) : Except Stop Unit :=
  match x.th.windowed.findSome? (fun n => (n.2.fields[j]?).bind (fun f => x.fieldBad n.2.desc f 0 n.2.desc.lanes)) with
  | some row => trap ECCU (2 ^ 56 + row)
  | none => .ok ()

/-- n words of a core's local store. -/
def State.locWords (s : State) (c off n : Nat) : List Nat := (upFrom 0 n).map (fun i => s.loc.read (locKey c (off + 8 * i)) 8)

/-- `call` and `callr` (R304): a transfer to a target that is read before lk is written. -/
def callTo (i : Instr) (tgt : Ctx → Except Stop Int) (traced : Bool) (s : State) : Host.Outcome State Fault Refusal :=
  issue i s (fun x => do
    let a ← tgt x
    let pc ← x.target a
    let f := x.th.frameLanes
    let d := x.th.depth
    let ws := x.th.ws.toNat
    if d = 65535 then trap MAPFULL 3
    else if 4 ≤ d + 1 ∧ 0 < f ∧ !x.th.spilled.contains (d - 3) then
      if ws % 8 ≠ 0 then trap ALIGN ws
      else if ws < 8 * f || !x.inRun (ws - 8 * f : Nat) (8 * f) then extent 6 0 (showAddr ((ws : Int) - 8 * f))
      else
        x.runRace (ws - 8 * f) (8 * f) true false
        x.frameEcc ((d - 3) % 4)
        .ok (fun t => (waits x .held [pc] (t.enterRun x (ws - 8 * f) (8 * f) true false)).pend .frameSpillDone [x.c, x.sl])
    else
      .ok (fun t =>
        let t := t.setThread x.c x.sl ((x.th.enterFrame (x.th.pc + 4)).retire pc)
        if traced then t.jumpTrace x pc else t))

/-- call (R301, R304). -/
def execCall (disp : Nat) (s : State) : Host.Outcome State Fault Refusal :=
  callTo (.call disp) (fun x => .ok (x.relative 26 disp)) false s

/-- callr (R302, R304). -/
def execCallr (c : Nat) (s : State) : Host.Outcome State Fault Refusal :=
  callTo (.callr c) (fun x => do
    let _ ← x.check c .int
    let v ← x.read0 c
    .ok v) true s

/-- FRAME_SPILL_DONE: the frame's words are in memory, ws has fallen, and the held `call` goes on (R107, R304). -/
def execFrameSpillDone (s : State) : Host.Outcome State Fault Refusal :=
  event s (fun t => t.resume (s.arg 0) (s.arg 1) (fun x a => do
    if x.th.status = .held then
      x.frameEcc ((x.th.depth - 3) % 4)
      let n := 8 * x.th.frameLanes
      let off := x.th.ws.toNat - n
      let pc := a.headD 0
      .ok (fun t =>
        let t := t.localStore x.c (x.runBase + off) (packWords 8 (x.th.frameWords ((x.th.depth - 3) % 4)))
        let th := { x.th with spilled := x.th.spilled ++ [x.th.depth - 3], ws := BitVec.ofNat 64 off }
        let t := t.setThread x.c x.sl ((th.enterFrame (x.th.pc + 4)).retire pc)
        match x.i with
        | .callr _ => t.jumpTrace x pc
        | _ => t)
    else .ok id))

/-- `ret` from a depth above 0 leaves its frame, and a frame in memory that belongs in the freed slot begins its fill. That fill
is a local access of the thread, with the checks of one, from where ws stands when the fills before it have ended (R108,
R109, R195). (DEDUCED, log 89) -/
def Ctx.leaveFrame {s : State} (x : Ctx) (pc : Nat) : Except Stop (Effect s) :=
  let e := x.th.depth - 1
  let n := 8 * x.th.frameLanes
  let a := x.th.ws.toNat + n * x.th.fill.length
  if 3 ≤ e ∧ x.th.spilled.contains (e - 3) then
    if a % 8 ≠ 0 then trap ALIGN a
    else if !x.inRun a n then extent 3 0 a
    else do
      x.runRace a n false false
      x.runEcc a n
      .ok (fun t =>
        let t := (t.enterRun x a n false false).setThread x.c x.sl
          ({ x.th with depth := e, fill := x.th.fill ++ [(e - 3, a)] }.retire pc)
        (t.jumpTrace x pc).pendOnce .frameFillDone [x.c, x.sl])
  else
    .ok (fun t => (t.setThread x.c x.sl ({ x.th with depth := e }.retire pc)).jumpTrace x pc)

/-- The frame that a `ret` reaches is not yet filled back (R108, R305). -/
def Thread.awaitsFill (th : Thread) : Bool := th.spilled.contains (th.depth - 1)

/-- ret (R305): it is Held while the frame that it reaches is being filled. -/
def execRet (s : State) : Host.Outcome State Fault Refusal :=
  issue .ret s (fun x => do
    let pc ← x.target x.th.lk.toNat
    if x.th.depth = 0 then .ok (fun t => (retireAt x pc t).jumpTrace x pc)
    else if x.th.awaitsFill then .ok (waits x .held [pc])
    else x.leaveFrame pc)

/-- A `ret` that was Held for its frame goes on (R108, R305). -/
def Trail.resumeRet {s : State} (t : Trail s) (c sl : Nat) : Trail s :=
  t.resume c sl (fun x a =>
    if x.i = .ret ∧ x.th.status = .held ∧ x.th.awaitsFill = false then x.leaveFrame (a.headD 0) else .ok id)

/-- FRAME_FILL_DONE: the oldest fill of a thread ends, and the next begins to move (R108). -/
def execFrameFillDone (s : State) : Host.Outcome State Fault Refusal :=
  event s (fun t =>
    let c := s.arg 0
    let sl := s.arg 1
    match t.1.ctx? c sl .ret with
    | none => t
    | some x =>
      match x.th.fill with
      | [] => t
      | (f, a) :: r =>
        let t := t.setThread c sl (x.th.filled f (s.locWords c (x.runBase + a) x.th.frameLanes))
        let t := if r.isEmpty then t else t.pendOnce .frameFillDone [c, sl]
        (t.resumeRet c sl).settle c sl)

end Sys2Proof.Machine
end

