-- ==== Sys2Proof/Machine/Convert.lean ====
section
/-!
DEFINITION. Conversion between kinds (R296, R155) and bit planes of nested integers (R297, R298).
-/

namespace Sys2Proof.Machine

/-- One lane of `cvt` (R296). A NaN gives the canonical NaN of a float destination under every policy. (DEDUCED, log 24) -/
def convertLane (x : Ctx) (da dd : Desc) (l v : Nat) : Except Stop Nat :=
  if da.kind.isInt then x.assignInt dd (extInt da.kind da.width v) l
  else
    match dd.kind.fmt?, laneValue da.kind da.width v with
    | some f, .nan => .ok f.nanBits
    | some _, w => orTrap FPX l (fitFloat x.th x.mode dd l w)
    | none, w => orTrap OVF l (fitFloatToInt x.th x.mode dd l w)

/-- cvt (R296). -/
def execCvt (d a : Nat) (s : State) : Host.Outcome State Fault Refusal :=
  issue (.cvt d a) s (fun x => do
    let da ← x.checkSrc a .any d
    let dd ← x.check d .any
    let va ← x.read a
    let r ← eachLane (fun l => convertLane x da dd l (lane va l)) 0 dd.lanes
    .ok (own x (fun th =>
      (th.setLanes d r).drawn (if da.kind.isFloat || dd.kind.isFloat then x.mode else .rne) dd.lanes)))

/-- Bit (7 − j) of each of some bytes, as a string with bit l from byte l (R297). -/
def planeOf (q : List Nat) (j : Nat) : Nat :=
  (q.zip (upFrom 0 q.length)).foldl (fun acc p => acc + bitAt (bit p.1 (7 - j)) p.2) 0

/-- pack (R297). -/
def execPack (d a : Nat) (s : State) : Host.Outcome State Fault Refusal :=
  issue (.pack d a) s (fun x => do
    let da ← x.check a .int
    x.relates a d (fun dd => da.lanes == dd.width)
    let dd ← x.check d .int
    if 8 < dd.lanes then trap KIND d
    else
      let va ← x.read a
      let q ← eachLane (fun l =>
        orTrap OVF l (fitInt { dd with kind := .sgn, width := 8 } (extInt da.kind da.width (lane va l)))) 0 da.lanes
      .ok (own x (fun th => th.setLanes d ((upFrom 0 dd.lanes).map (planeOf q)))))

/-- The p-bit string of column l of some planes, plane 0 its highest bit (R298). -/
def columnOf (planes : List Nat) (p l : Nat) : Nat :=
  (upFrom 0 p).foldl (fun acc j => acc * 2 + bitAt (bit (planes.getD j 0) l) 0) 0

/-- unpk (R298). -/
def execUnpk (d a pl : Nat) (s : State) : Host.Outcome State Fault Refusal :=
  issue (.unpk d a pl) s (fun x => do
    let da ← x.check a .int
    let dd ← x.check d .int
    if da.width ≠ dd.lanes then trap KIND d
    else if da.lanes < pl then trap KIND a
    else
      let va ← x.read a
      let r ← eachLane (fun l => orTrap OVF l (fitInt dd (signed pl (columnOf va pl l)))) 0 dd.lanes
      .ok (own x (fun th => th.setLanes d r)))

end Sys2Proof.Machine
end

