-- ==== Sys2Proof/Machine/Translate.lean ====
section
/-!
DEFINITION. Translation tables and the translation cache of a die (R70, R71), physical runs and extents (R72), frames and
residency (R73), and the leases of pages (R74).
-/

namespace Sys2Proof.Machine

/-- A leaf that a walk ends at (R70): where it stands, its two words, its page size, and the addresses read on the way. -/
structure Leaf where
  at_ : Nat
  word0 : Nat
  word1 : Nat
  size : Nat
  path : List Nat
  deriving DecidableEq, Repr

/-- Bits 51:16 of an entry's address. -/
def entryAddr (w0 : Nat) : Nat := bits w0 51 16 * 65536

def Leaf.res (l : Leaf) : Bool := bit l.word0 2
def Leaf.wr (l : Leaf) : Bool := bit l.word0 3
def Leaf.atom (l : Leaf) : Bool := bit l.word0 4
/-- DESIGN CHOICE, log 13. -/
def Leaf.exec (l : Leaf) : Bool := bit l.word0 5
def Leaf.zfill (l : Leaf) : Bool := bit l.word0 6
def Leaf.comp (l : Leaf) : Bool := bit l.word0 7
def Leaf.frame (l : Leaf) : Nat := entryAddr l.word0
def Leaf.back (l : Leaf) : Nat := l.word1 % 2 ^ 52

/-- A run of bytes lies wholly in the device memory of one die of a package of the domain. -/
def State.onDie (s : State) (a len : Nat) : Bool :=
  s.inDomain (pkgOf a) && (memDie a).isSome && memDie a == memDie (a + len - 1) && pkgOf a == pkgOf (a + len - 1)

/-- A run of bytes lies wholly in the second-tier window of a package of the domain. -/
def State.onSecond (s : State) (a len : Nat) : Bool :=
  s.inDomain (pkgOf a) && secondTier a && secondTier (a + len - 1) && pkgOf a == pkgOf (a + len - 1)

/-- A leaf that counts as valid, at a level whose leaves have a size (R70). -/
def State.leafOk (s : State) (w0 w1 size : Nat) : Bool :=
  decide (entryAddr w0 % size = 0) && (!bit w0 2 || s.onDie (entryAddr w0) size) &&
    (bit w0 6 || (decide (w1 % 2 ^ 52 % size = 0) && s.onSecond (w1 % 2 ^ 52) size))

/-- The levels below a table: the lowest address bit of each, its entries, and the size of a leaf where one is allowed. -/
def levels : List (Nat × Nat × Option Nat) :=
  [(48, 256, none), (39, 512, none), (30, 512, some (2 ^ 30)), (21, 512, some (2 ^ 21)), (16, 32, some 65536)]

/-- Walk the tables from an address (R70). -/
def State.walkFrom (s : State) (va : Nat) : List (Nat × Nat × Option Nat) → Nat → List Nat → Option Leaf
  | [], _, _ => none
  | (lo, n, leaf) :: r, table, path =>
    let a := table + 16 * (va / 2 ^ lo % n)
    let w0 := s.mem.read a 8
    let w1 := s.mem.read (a + 8) 8
    if !bit w0 0 || decide (bits w0 63 52 ≠ 0) || decide (bits w0 15 8 ≠ 0) || decide (bits w1 63 52 ≠ 0) then none
    else if bit w0 1 then
      match leaf with
      | some size =>
        if s.leafOk w0 w1 size then some { at_ := a, word0 := w0, word1 := w1, size := size, path := path ++ [a] } else none
      | none => none
    else if s.onDie (entryAddr w0) 1 then s.walkFrom va r (entryAddr w0) (path ++ [a]) else none

/-- An address of 2^56 or more is not mapped: a task virtual address has 56 bits (R70, R331). -/
def State.walk (s : State) (space va : Nat) : Option Leaf := if 2 ^ 56 ≤ va then none else s.walkFrom va levels space []

/-- The cached translation of an address on a die (R71). -/
def State.cached (s : State) (die space va : Nat) : Option Tlb :=
  (s.die die).tlb.find? (fun e => decide (e.space = space) && decide (e.va ≤ va) && decide (va < e.va + e.size))

/-- The leaf of an address as a die sees it: cached, or else walked. (DESIGN CHOICE, log 38) -/
def State.translate (s : State) (die space va : Nat) : Option Leaf :=
  match s.cached die space va with
  | some e => some { at_ := e.leaf, word0 := e.word0, word1 := e.word1, size := e.size, path := [] }
  | none => s.walk space va

/-- The entries that a translation cache has for leaves of a size (R71). -/
def tlbPlaces (size : Nat) : Nat := if size = 2 ^ 30 then 1024 else if size = 2 ^ 21 then 4096 else 8192

/-- A list without its first element of a kind. -/
def dropFirst {α : Type} (p : α → Bool) : List α → List α
  | [] => []
  | x :: r => if p x then r else x :: dropFirst p r

/-- The cached translations of a die with one more: where its size has no place left, the oldest of that size goes (R71). (DESIGN CHOICE, log 38) -/
def tlbWith (l : List Tlb) (e : Tlb) : List Tlb :=
  let same := fun (x : Tlb) => decide (x.size = e.size)
  (if (l.filter same).length < tlbPlaces e.size then l else dropFirst same l) ++ [e]

/-- A die caches a leaf. (DESIGN CHOICE, log 38) -/
def Trail.cache {s : State} (t : Trail s) (die space va : Nat) (l : Leaf) : Trail s :=
  if (t.1.cached die space va).isSome then t
  else
    let e : Tlb :=
      { space := space, va := va / l.size * l.size, size := l.size, leaf := l.at_, word0 := l.word0, word1 := l.word1 }
    t.modDie die (fun d => { d with tlb := tlbWith d.tlb e })

/-- Every die drops the cached translations that a test picks. (DESIGN CHOICE, log 38) -/
def Trail.dropCached {s : State} (t : Trail s) (p : Tlb → Bool) : Trail s :=
  forEach t [0, 1, 2, 3] (fun t d => t.modDie d (fun d => { d with tlb := d.tlb.filter (fun e => !p e) }))

/-- The pages of a run of task virtual addresses, each by one address in it; `fuel` bounds their number. (DESIGN CHOICE, log 84) -/
def State.leaves (s : State) (die space : Nat) : Nat → Nat → Nat → Option (List (Nat × Leaf))
  | 0, _, _ => some []
  | fuel + 1, va, len =>
    if len = 0 then some []
    else
      match s.translate die space va with
      | none => none
      | some l =>
        let k := l.size - va % l.size
        if len ≤ k then some [(va, l)]
        else (s.leaves die space fuel (va + k) (len - k)).map (fun r => (va, l) :: r)

/-- The leaves of a run of task virtual addresses. -/
def State.leavesOf (s : State) (die space va len : Nat) : Option (List (Nat × Leaf)) :=
  s.leaves die space (len / 65536 + 2) va len

/-- One physical run of a range. -/
structure PRun where
  va : Nat
  pa : Nat
  len : Nat
  wr : Bool
  atom : Bool
  exec : Bool
  comp : List (Nat × Nat)
  deriving DecidableEq, Repr

/-- Join the pieces of a range that are one physical run. -/
def joinRuns : List PRun → List PRun
  | [] => []
  | x :: r =>
    match joinRuns r with
    | [] => [x]
    | y :: q =>
      if x.pa + x.len = y.pa then
        { x with len := x.len + y.len, wr := x.wr && y.wr, atom := x.atom && y.atom, exec := x.exec && y.exec
                 comp := x.comp ++ y.comp } :: q
      else x :: y :: q

/-- The physical runs of a range whose leaves are resident. -/
def physRuns (va len : Nat) (ls : List (Nat × Leaf)) : List PRun :=
  joinRuns (ls.map (fun p =>
    let k := min (p.2.size - p.1 % p.2.size) (va + len - p.1)
    { va := p.1, pa := p.2.frame + p.1 % p.2.size, len := k, wr := p.2.wr, atom := p.2.atom, exec := p.2.exec
      comp := if p.2.comp then [(p.1, k)] else [] }))

/-- The 64 KiB pages of leaves, each once (R74). -/
def leafPages (ls : List (Nat × Leaf)) : List Nat :=
  ls.foldl (fun acc p => (upFrom (pageOf p.2.frame) (p.2.size / 65536)).foldl addOnce acc) []

/-- The permissions that a mode gives (R72). -/
def modePerm : Nat → Nat
  | 0 => 1
  | 1 => 2
  | 2 => 3
  | 3 => 5
  | 4 => 3
  | _ => 9

/-- An extent of a physical run of a range (R72). -/
def extentOf (mode share rbase rlen : Nat) (leased : Bool) (r : PRun) : Extent :=
  let p := modePerm mode
  let p := p - (if bit p 1 && !r.wr then 2 else 0) - (if bit p 2 && !r.atom then 4 else 0) - (if bit p 3 && !r.exec then 8 else 0)
  { mode := mode, perm := p, vbase := r.va, pbase := r.pa, share := share, len := r.len, rbase := rbase, rlen := rlen
    comp := r.comp, leased := leased }

/-- A frame or a dump area of a partition shares a byte with a run (R73, R200). -/
def State.frameTaken (s : State) (a size : Nat) : Bool :=
  s.parts.any (fun p => overlaps p.2.dumpBase (2 ^ 23) a size || p.2.frames.any (fun f => overlaps f.1 f.2.size a size))

/-- Device memory that a partition has taken from its budget: its frames, its dump area, and the shadow copies of a save (R73, R200, R206). -/
def Part.spent (p : Part) : Nat := (p.frames.map (fun f => f.2.size)).sum + 2 ^ 23 + p.shadow.sum

/-- A frame may lie at an address of a die of this package. (DESIGN CHOICE, log 10) -/
def State.frameFits (s : State) (die size a : Nat) : Bool :=
  decide (a % size = 0) && decide (pkgOf a = s.pkg.num) && s.onDie a size && memDie a == some die && !s.frameTaken a size

/-- The highest free frame of a size on a die. (DESIGN CHOICE, log 10) -/
def State.pickFrame (s : State) (die size : Nat) : Option Nat :=
  let base := s.pkg.num * 2 ^ 46 + die * 2 ^ 40
  let taken := (s.parts.map (fun p => p.2.frames.length + 1)).sum
  ((upFrom 1 (min (768 * 2 ^ 30 / size) (taken * (2 ^ 30 / size + 2) + 1))).map (fun i => base + 768 * 2 ^ 30 - i * size)).find?
      (s.frameFits die size)

/-- The frame that a porter chooses on a die: the environment's choice where it fits, else the highest free one. (DESIGN CHOICE, log 10) -/
def State.chooseFrame (s : State) (die size : Nat) : Option Nat :=
  match s.frameChoice.head? with
  | some a => if s.frameFits die size a then some a else s.pickFrame die size
  | none => s.pickFrame die size

/-- Rewrite a leaf, and what dies have cached of it. -/
def Trail.putLeaf {s : State} (t : Trail s) (at_ w0 w1 : Nat) : Trail s :=
  let t := t.memStore at_ (leBytes w0 8 ++ leBytes w1 8)
  forEach t [0, 1, 2, 3] (fun t d => t.modDie d (fun d =>
    { d with tlb := d.tlb.map (fun e => if e.leaf = at_ then { e with word0 := w0, word1 := w1 } else e) }))

/-- A leaf's first word with a frame, resident. -/
def residentWord (w0 frame : Nat) : Nat := w0 - entryAddr w0 + frame % 2 ^ 52 / 65536 * 65536 + (if bit w0 2 then 0 else 4)

/-- A leaf's first word no longer resident. -/
def absentWord (w0 : Nat) : Nat := w0 - (if bit w0 2 then 4 else 0)

/-- Some page of a frame is leased. -/
def State.frameLeased (s : State) (base size : Nat) : Bool :=
  (upFrom (pageOf base) (size / 65536)).any (fun n => decide ((s.page n).leases ≠ 0) || (s.page n).moving)

/-- The frame of a partition that a porter writes back first: unleased, with a backing copy, released longest ago
(R73). -/
def State.victim (s : State) (p : Part) : Option (Nat × Frame) :=
  let l := p.frames.filter (fun f => !s.frameLeased f.1 f.2.size && !(f.2.zfill && decide (f.2.back = 0)))
  l.find? (fun f => l.all (fun g => decide (f.2.released ≤ g.2.released)))

/-- How serving one page for residency ends. -/
inductive Served where
  | done
  /-- No frame is free and every frame is leased. -/
  | waits
  /-- The page is not mapped, or a table denies the porter. -/
  | fails (reason : Nat)
  deriving DecidableEq, Repr

/-- The tables let a porter write a page back: read its frame, write its backing copy and its leaf (R49, R68). -/
def State.mayWriteBack (s : State) (f : Nat × Frame) : Bool :=
  let sys := sysMaster s.pkg.num
  s.mayAccessRun sys f.1 f.2.size permRd && s.mayReachRun sys f.2.back f.2.size permWr && s.mayAccess sys f.2.leaf permWr

/-- A page is written back: its bytes to its backing copy, its leaf no longer resident, its frame free (R73). -/
def Trail.writeBack {s : State} (t : Trail s) (n : Nat) (f : Nat × Frame) : Trail s :=
  let t := t.porterCopy f.1 f.2.back f.2.size
  let t := t.putLeaf f.2.leaf (absentWord (t.1.mem.read f.2.leaf 8)) (t.1.mem.read (f.2.leaf + 8) 8)
  (t.dropCached (fun e => decide (e.leaf = f.2.leaf))).modPart n (fun p => { p with frames := del p.frames f.1 })

/-- Write pages back until the budget has room for a frame; it waits where every page left is leased, and fails where a table
denies the porter (R73, R68). -/
def Trail.makeRoom {s : State} (n size : Nat) : Nat → Trail s → Trail s × Served
  | 0, t => (t, .waits)
  | fuel + 1, t =>
    match t.1.part? n with
    | none => (t, .waits)
    | some p =>
      if p.spent + size ≤ p.mem then (t, .done)
      else
        match t.1.victim p with
        | some f => if t.1.mayWriteBack f then Trail.makeRoom n size fuel (t.writeBack n f) else (t, .fails 2)
        | none => (t, .waits)

/-- A frame receives a page: zeroes, or its backing copy with what is poisoned in it (R73, R17). -/
def Trail.fillFrame {s : State} (t : Trail s) (f : Nat) (l : Leaf) : Trail s :=
  if l.zfill then t.memStore f (List.replicate l.size 0) else t.porterCopy l.back f l.size

/-- Make one page resident in a frame on a die, drawn from a partition's budget (R73). The tables must let the porter write the
leaf, read the whole backing copy and write the whole frame (R68). -/
def Trail.makeResident {s : State} (t : Trail s) (n die space va : Nat) : Trail s × Served :=
  let sys := sysMaster t.1.pkg.num
  match t.1.translate die space va with
  | none => (t, .fails 1)
  | some l =>
    if l.res then (t, .done)
    else if !t.1.mayAccess sys l.at_ permWr || (!l.zfill && !t.1.mayReachRun sys l.back l.size permRd) then (t, .fails 2)
    else
      match Trail.makeRoom n l.size (match t.1.part? n with | some p => p.frames.length + 1 | none => 0) t with
      | (t, .done) =>
        (match t.1.chooseFrame die l.size with
         | none => (t, .waits)
         | some f =>
           if !t.1.mayAccessRun sys f l.size permWr then (t, .fails 2)
           else
             let t := (t.act (.frameChoice (t.1.frameChoice.drop 1))).fillFrame f l
             let t := t.putLeaf l.at_ (residentWord l.word0 f) l.word1
             let fr : Frame :=
               { size := l.size, leaf := l.at_, space := space, va := va / l.size * l.size, back := l.back, zfill := l.zfill
                 released := t.1.releases }
             (t.modPart n (fun p => { p with frames := put p.frames f fr }), .done))
      | (t, end_) => (t, end_)

/-! ### Leases (R74) -/

/-- A lease on some page must wait: the page moves, or its count is full. -/
def State.leaseWaits (s : State) (pages : List Nat) : Bool :=
  pages.any (fun n => (s.page n).moving || decide (255 ≤ (s.page n).leases))

/-- Take a lease on each of some pages. -/
def Trail.takeLeases {s : State} (t : Trail s) (pages : List Nat) : Trail s :=
  forEach t pages (fun t n => t.modPage n (fun p => { p with leases := p.leases + 1 }))

/-- A thread blocked in `lease`. -/
def Thread.inLease (th : Thread) : Bool :=
  decide (th.status = .blocked) && (match th.op with | some o => (match o.instr with | .lease _ _ => true | _ => false) | none => false)

/-- A repeat node whose counts are zero: it waits for its predicate (R82). -/
def Node.awaitsPredicate (m : Node) : Bool := m.desc.kind == 1 && decide (m.st = .waiting) && m.preds.isEmpty && m.derived.isEmpty

/-- A step waits for a place or its turn at the log. -/
def Log.awaits (l : Log) (d : Due) : Bool := (l.held ++ l.granted ++ l.turns.map (·.2)).contains (.step d)

/-- What waits for a lease to be released or for a page may go on: dispatchers prepare again, repeat nodes look at their
predicate again, porters serve again (R73, R74, R82). -/
def Trail.pokeLeases {s : State} (t : Trail s) : Trail s :=
  forEach t t.1.parts (fun t p =>
    let t := forEach t p.2.clusters (fun t cl =>
      let t := if p.2.live.any (fun n => decide (n.2.st = .preparing cl)) then t.pendOnce .nodeTake [cl] else t
      if p.2.residency.isEmpty then t else t.pendOnce .porterResidency [cl])
    let t := forEach t (p.2.live.filter (fun m => m.2.awaitsPredicate && !p.2.log.awaits ⟨.repeatDecide, [p.1, m.1]⟩)) (fun t m =>
      t.pendOnce .repeatDecide [p.1, m.1])
    forEach t p.2.cores (fun t c => forEach t ((t.1.core c).threads.filter (fun q => q.2.inLease))
      (fun t q => t.pendOnce .leaseServe [c, q.1])))

/-- Release a lease on each of some pages; a frame that no lease covers any more is released now. -/
def Trail.dropLeases {s : State} (t : Trail s) (pages : List Nat) : Trail s :=
  if pages.isEmpty then t
  else
    let t := forEach t pages (fun t n => t.modPage n (fun p => { p with leases := p.leases - 1 }))
    let r := t.1.releases + 1
    let t := t.act (.counts t.1.agents t.1.taskCount t.1.jobCount t.1.graphCount r)
    let t := forEach t t.1.parts (fun t p => t.modPart p.1 (fun q => { q with
      frames := q.frames.map (fun f => if pages.any (fun n => overlaps (n * 65536) 65536 f.1 f.2.size) then
        (f.1, { f.2 with released := r }) else f) }))
    t.pokeLeases

end Sys2Proof.Machine
end

