-- ==== Sys2Proof/Machine/Fault.lean ====
section
/-!
DEFINITION. Fatal faults as they begin (R38, R194, R200, R204, R222), and what a slot leaves behind when its thread goes
(R113, R117). The dump and the reset that follow are in Dump.lean and Rung.lean.
-/

namespace Sys2Proof.Machine

/-- Partitions of a fault domain (R38). -/
def State.domainOf (s : State) (fd : Nat) : List Nat := (s.parts.filter (fun p => decide (p.2.fdom = fd))).map (·.1)

/-- The indices of the queues of a partition that are not in state error (R39). -/
def Part.goodQueues (p : Part) : List Nat := (p.queues.filter (fun q => decide (q.2.state ≠ 4))).map (·.1)

/-- A partition's queues become pre-empting; at a fault, with the fault bit (R38, R47). -/
def Trail.preemptQueues {s : State} (t : Trail s) (n : Nat) (fault : Bool) : Trail s :=
  match t.1.part? n with
  | some p => forEach t p.goodQueues (fun t i => t.modQueue n i (fun q => { q with state := 2, fault := q.fault || fault }))
  | none => t

/-- The code of the state in which a stop finds a thread (R399); one that is in flight retires first. -/
def Thread.foundCode (th : Thread) : Option Nat :=
  if th.trapped || th.stopped then some 5
  else match th.status with
    | .ready => some 0
    | .out => some 2
    | .blocked => some 3
    | .held => some 4
    | .yielding => some 6
    | .finished => some 7
    | .inFlight => none

/-- The states in which a stop finds the threads of a partition. -/
def State.foundIn (s : State) (p : Part) : List (Nat × Nat × Nat) :=
  p.cores.flatMap (fun c => (s.core c).threads.filterMap (fun q => q.2.foundCode.map (fun n => (c, q.1, n))))

/-- The code with which a stop found a thread. -/
def Part.foundCode (p : Part) (c sl : Nat) : Option Nat :=
  (p.found.find? (fun f => decide (f.1 = c) && decide (f.2.1 = sl))).map (·.2.2)

/-- The partitions of a fault domain stop: the threads of each halt, and each that has no fault of its own is reset at
once, one step on (R38). (DEDUCED, log 41) -/
def Trail.stopDomain {s : State} (t : Trail s) (fd : Nat) : Trail s :=
  forEach t (t.1.domainOf fd) (fun t n =>
    match t.1.part? n with
    | some p =>
      let t := t.preemptQueues n true
      let t := t.modPart n (fun p => { p with halted := true, ladder := .dump, reason := 3, found := t.1.foundIn p })
      if p.dumps.isEmpty then t.pendOnce .dumpComplete [n] else t
    | none => t)

/-- A context's fault adds to its dump, once, or queues a dump of its own (R204). -/
def addDump (l : List Dump) (d : Dump) : List Dump :=
  if l.any (fun x => decide (x.task = d.task) && decide (x.core = d.core)) then
    l.map (fun x => if x.task = d.task ∧ x.core = d.core ∧ x.second.isNone ∧ !x.done then
      { x with second := some (d.cause, d.slot, d.epc) } else x)
  else l ++ [d]

/-- A FATAL FAULT of a partition: its cores halt, its dump is due, and its fault domain stops (R200, R38). (DEDUCED, log 41) -/
def Trail.fatal {s : State} (t : Trail s) (n : Nat) (d : Dump) : Trail s :=
  match t.1.part? n with
  | none => t
  | some p =>
    let t := t.modPart n (fun p => { p with dumps := addDump p.dumps d })
    let t := if p.ladder = .dump then t else t.stopDomain p.fdom
    t.pendOnce .dumpBegin [n]

/-- A divergence of an agent that is no thread: a fatal fault of the partition, shown on core 0 of its lead cluster
(R222). (DEDUCED, log 41) -/
def Trail.unitDiverge {s : State} (t : Trail s) (n src seq : Nat) : Trail s :=
  t.fatal n
    { core := n * 8, slot := 0xFF, task := 0, cause := DIVERGE, epc := src, eval := seq, second := none, dslot := none, seq := 0
      done := false }

/-- A logged operation of an agent that is no thread. (DEDUCED, log 66) -/
def Trail.unitLogged {s : State} (t : Trail s) (n : Nat) (r : Rec) (d : Due) (go : Effect s) : Trail s :=
  t.logged (some n) r (.step d) id (fun seq t => t.unitDiverge n r.source seq) go

/-- A thread leaves the queues, stages and trap queue of its core, and messages that wait for it are dropped. -/
def Core.forget (k : Core) (sl : Nat) : Core :=
  { k with
    queues := k.queues.map (fun q => (q.1, { q.2 with
      readers := q.2.readers.filter (fun x => decide (x ≠ sl)), writers := q.2.writers.filter (fun x => decide (x ≠ sl)) }))
    stages := k.stages.map (fun q => (q.1, { q.2 with wait := q.2.wait.filter (fun x => decide (x.1 ≠ sl)) }))
    trapQ := k.trapQ.filter (fun x => decide (x ≠ sl)), vtWait := k.vtWait.filter (fun x => decide (x ≠ sl))
    locks := k.locks.filter (fun x => decide (x.1 ≠ sl)), claims := k.claims.filter (fun x => decide (x.1 ≠ sl)) }

/-- The core's synchronisation state and the in-use flags of its weight buffer are cleared (R113, R127). -/
def Core.clearSync (k : Core) : Core :=
  { k with queues := [], stages := [], barriers := [], wbuf := k.wbuf.map (fun w => (w.1, { w.2 with inUse := false })) }

/-- A slot is freed: its thread is gone, with all that waits for it. (DEDUCED, log 79) -/
def Trail.freeSlot {s : State} (t : Trail s) (c sl : Nat) : Trail s :=
  let t := t.dropWaits c sl
  t.modCore c (fun k => { k.forget sl with
    threads := del k.threads sl, arrivals := k.arrivals.filter (fun m => decide (m.1 ≠ sl)), pigeons := del k.pigeons sl })

/-- A task's state on its core goes: its slots, its jobs, its extents and local run; a core without a task is cleared
(R75, R113, R117, R127). -/
def Trail.freeTask {s : State} (t : Trail s) (n : Nat) : Trail s :=
  match t.1.task? n with
  | none => t
  | some x =>
    let slots := ((t.1.core x.core).threads.filter (fun p => decide (p.2.task = n) && decide (p.1 ≠ 15))).map (·.1)
    let t := forEach t slots (fun t sl => t.freeSlot x.core sl)
    let js := (t.1.jobs.filter (fun j => decide (j.2.task = n))).map (·.1)
    let t := forEach t js (fun t j => t.act (.job j none))
    let t := t.modCore x.core (fun k => { k with
      tags := k.tags.filter (fun g => !js.contains g.job), portQ := k.portQ.filter (fun j => !js.contains j) })
    let t := t.act (.task n none)
    let t := if (t.1.core x.core).threads.any (fun p => decide (p.1 ≠ 15)) then t else t.modCore x.core Core.clearSync
    (t.contextFree x.core).dropLeases (x.leases.map (·.1))

end Sys2Proof.Machine
end

