-- ==== Sys2Proof/Machine/Lz4.lean ====
section
/-!
DEFINITION. The LZ4 block format of compressed buffers (R140, R142): what an encoding denotes, and an encoding of a chunk.
-/

namespace Sys2Proof.Machine

/-- The extension bytes of a length: 255s and a last byte. -/
def lz4Ext : List Byte → Option (Nat × List Byte)
  | [] => none
  | b :: r => if b = 255 then (lz4Ext r).map (fun p => (p.1 + 255, p.2)) else some (b.toNat, r)

/-- A length of a token's four bits. -/
def lz4Len (n : Nat) (r : List Byte) : Option (Nat × List Byte) :=
  if n = 15 then (lz4Ext r).map (fun p => (p.1 + 15, p.2)) else some (n, r)

/-- Copy bytes from an offset before the end of what has been made. -/
def lz4Copy (out : List Byte) (off : Nat) : Nat → List Byte
  | 0 => out
  | n + 1 => lz4Copy (out ++ [out.getD (out.length - off) 0]) off n

/-- Decode sequences: literals, then a match, until literals end the block. (DESIGN CHOICE, log 84) -/
def lz4Go : Nat → List Byte → List Byte → Option (List Byte)
  | 0, _, _ => none
  | _, [], _ => none
  | fuel + 1, tok :: r, out =>
    match lz4Len (tok.toNat / 16) r with
    | none => none
    | some (n, r) =>
      if r.length < n then none
      else
        match r.drop n with
        | [] => some (out ++ r.take n)
        | [_] => none
        | a :: b :: r' =>
          let made := out ++ r.take n
          let off := a.toNat + 256 * b.toNat
          match lz4Len (tok.toNat % 16) r' with
          | none => none
          | some (m, r'') => if off = 0 ∨ made.length < off then none else lz4Go fuel r'' (lz4Copy made off (m + 4))

/-- The data that an encoding denotes; nothing where it is not valid LZ4 block format or a match refers before the chunk's
start (R142). (DESIGN CHOICE, log 16) -/
def lz4Decode (src : List Byte) : Option (List Byte) := lz4Go (src.length + 1) src []

/-- The bytes that extend a length of 15 or more. -/
def lz4Extend : Nat → Nat → List Byte
  | 0, _ => []
  | fuel + 1, n => if n < 255 then [BitVec.ofNat 8 n] else 255 :: lz4Extend fuel (n - 255)

/-- An encoding of literals alone. -/
def lz4Literal (data : List Byte) : List Byte :=
  let n := data.length
  if n < 15 then BitVec.ofNat 8 (n * 16) :: data else 0xF0 :: lz4Extend n (n - 15) ++ data

/-- The encoding that the courier makes of a chunk: the free one where it denotes the chunk, else literals (R140). (DESIGN CHOICE, log 16) -/
def lz4Encode (data : List Byte) : List Byte :=
  let e := (Config.lz4 (data.map (·.toNat))).map (BitVec.ofNat 8)
  if lz4Decode e = some data then e else lz4Literal data

end Sys2Proof.Machine
end

