-- ==== Sys2Proof/Machine/Sync.lean ====
section
/-!
DEFINITION. Barriers (R116, R342-R345, R395), stages (R115, R346) and queues (R114, R346) of a core, and the barrier units
above the cores.
-/

namespace Sys2Proof.Machine

/-- Misuse of a barrier, stage or queue (R342). -/
def misuse {α : Type} (n : Nat) : Except Stop α := trap KIND n

/-! ### Barrier phases -/

def Trail.modBarrier {s : State} (t : Trail s) (c b : Nat) (f : Barrier → Barrier) : Trail s :=
  t.modCore c (fun k => { k with barriers := put k.barriers b (f (k.barrier b)) })

/-- Every registered thread has arrived and, for a phase barrier, the counts are met (R344). -/
def Barrier.full (x : Barrier) : Bool :=
  decide (x.mask ≠ 0) && x.arrived == x.mask && (!x.pb || (decide (x.nmsg ≤ x.gotMsg) && decide (x.ncomp ≤ x.gotComp)))

/-- A slot is blocked on a phase of a barrier. -/
def Thread.inPhase (th : Thread) (b phase : Nat) : Bool :=
  decide (th.status = .blocked) && !th.logWait &&
    (match th.op with
     | some o =>
       (match o.instr with
        | .barWait _ n => n == b && o.args.headD 0 == phase
        | .barSync n => n == b && o.args.headD 0 == phase
        | _ => false)
     | none => false)

/-- The core completes a phase: arrived clears, the phase advances, and its waiters are released, each as an acquire
(R116, R345). -/
def Trail.completePhase {s : State} (t : Trail s) (c b : Nat) : Trail s :=
  let x := (t.1.core c).barrier b
  let free := ((t.1.core c).threads.filter (fun p => p.2.inPhase b x.phase.toNat)).map (·.1)
  let t := t.modBarrier c b (fun x =>
    { x with
      arrived := 0, sent := false, phase := x.phase + 1, vc := [], past := put x.past x.phase.toNat x.vc
      gotMsg := if x.pb then x.gotMsg - x.nmsg else x.gotMsg, gotComp := if x.pb then x.gotComp - x.ncomp else x.gotComp })
  forEach t free (fun t sl => t.modThread c sl (fun th => (th.acquired x.vc).retire (th.pc + 4)))

/-- A unit's number, die and level: 0-63 cluster units, 64 + d die units, 68 the package unit, 69 the package unit as the
root of level 4 (R343). -/
def unitDie (u : Nat) : Nat := if u < 64 then u / 16 else if u < 68 then u - 64 else 0
/-- DEDUCED, log 33. -/
def unitLevel (u : Nat) : Nat := if u < 64 then 1 else if u < 68 then 2 else u - 65

/-- The unit above (R344). (DEDUCED, log 33) -/
def unitAbove (u : Nat) : Nat := if u < 64 then 64 + u / 16 else if u < 68 then 68 else 69

/-- The key of a unit's counter: for each partition below the package, for the whole domain at the package. -/
def unitKey (u part b : Nat) : Nat := (u * 64 + (if u < 68 then part else 0)) * 32 + b

/-- The BAR record of a completion: its agent is the thread whose arrival completed the count (R215). -/
def barRecord (s : State) (source c sl level b phase : Nat) : Rec :=
  s.recOf c sl 3 source level (leBytes b 1 ++ leBytes phase 2)

/-- A core sends its one arrival outward; a slot's arrival completed it (R116, R344). -/
def Trail.sendArrival {s : State} (t : Trail s) (c b sl : Nat) : Trail s :=
  let u := clusterOf c
  (t.modBarrier c b (fun x => { x with sent := true })).sendTo (dieOf c) (unitDie u) .barrierUnitArrival
    [u, (t.1.partOfCore c).getD 0, b, c, sl]

/-- A core whose barrier has all it waits for completes the phase, at level none, or sends its one arrival outward (R116,
R344); `w` is what waits for the log where the completion must. -/
def Trail.barrierTry {s : State} (t : Trail s) (c b : Nat) (w : Waiter) : Trail s :=
  let x := (t.1.core c).barrier b
  if !x.full then t
  else if x.level = 0 then
    t.logged (t.1.partOfCore c) (barRecord t.1 (coreSource c) c x.last 0 b x.phase.toNat) w id
      (fun seq t => t.stopSlot c x.last (.trap DIVERGE seq none)) (fun t => t.completePhase c b)
  else if x.sent then t
  else t.sendArrival c b x.last

/-- The step in which a core's barrier looks again at what it waits for. -/
def barrierAgain (s : State) (c b : Nat) : Waiter := .step ⟨.barrierLineRise, [(s.partOfCore c).getD 0, b, c]⟩

/-- A delivery counts once for every phase barrier of the core (R344). -/
def Trail.countDelivery {s : State} (t : Trail s) (c : Nat) (message : Bool) : Trail s :=
  forEach t (((t.1.core c).barriers.filter (fun p => p.2.pb)).map (·.1)) (fun t b =>
    (t.modBarrier c b (fun x =>
      if message then { x with gotMsg := x.gotMsg + 1 } else { x with gotComp := x.gotComp + 1 })).barrierTry c b (barrierAgain t.1 c b))

/-- A thread may arrive at a barrier (R344). -/
def Ctx.mayArrive (x : Ctx) (b : Nat) : Except Stop Barrier :=
  let k := x.k.barrier b
  if !bit k.mask x.sl || bit k.arrived x.sl then misuse (0x40 + b) else .ok k

/-- The thread's arrival, as a release (R170). -/
def Trail.arrive {s : State} (t : Trail s) (x : Ctx) (b : Nat) : Trail s :=
  (t.modBarrier x.c b (fun k => { k with arrived := k.arrived + 2 ^ x.sl, last := x.sl, vc := k.vc.join x.th.vc })).modThread
    x.c x.sl Thread.released

/-- A partition records or replays. -/
def State.ordered (s : State) (n : Nat) : Bool := match s.part? n with | some p => p.mode == 1 || p.mode == 2 | none => false

/-- An arrival of a thread, `go` where nothing is recorded. One that completes its core's count needs a record first: at level
none it asks for it before it changes anything, and at a level above it is counted at the core when the unit has answered;
so its instruction waits, and diverges, with nothing changed (R218, R221, R222). (DEDUCED, log 91) -/
def Ctx.arrival {s : State} (x : Ctx) (b : Nat) (k : Barrier) (go : Effect s) : Effect s := fun t =>
  match x.part with
  | some n =>
    if x.s.ordered n && ({ k with arrived := k.arrived + 2 ^ x.sl } : Barrier).full then
      if k.level = 0 then
        let r := barRecord t.1 (coreSource x.c) x.c x.sl 0 b k.phase.toNat
        let wait := fun (t : Trail s) => (waits x .blocked [] t).modThread x.c x.sl Thread.waitLog
        (match t.1.gate n r (.thread x.c x.sl) with
         | .run => go t
         | .hold => (wait t).holdFor n (.thread x.c x.sl)
         | .turn => (wait t).turnFor n r.source (.thread x.c x.sl)
         | .diverge seq => x.diverges seq (t.diverged n r.source seq))
      else if k.sent then go t
      else (waits x .blocked [k.phase.toNat] t).sendArrival x.c b x.sl
    else go t
  | none => go t

/-- The instruction is an arrival at a barrier. -/
def arrivesAt (b : Nat) : Instr → Bool
  | .barArr _ n | .barSync n => n == b
  | _ => false

/-- A slot waits for the units' answer to its arrival at a barrier. -/
def State.awaitsUnit (s : State) (c sl b : Nat) : Bool :=
  match s.opCtx? c sl with
  | some (x, _) => decide (x.th.status = .blocked) && !x.th.logWait && arrivesAt b x.i && !bit (x.k.barrier b).arrived sl
  | none => false

/-- The unit has answered an arrival that waited for it: it counts at its core (R218). A `bar.arr` retires then. (DEDUCED, log 91) -/
def Trail.arrived {s : State} (t : Trail s) (c sl b : Nat) : Trail s :=
  if t.1.awaitsUnit c sl b then
    t.resume c sl (fun x a => do
      match x.i with
      | .barArr d _ =>
        let dd ← x.check d .any
        let v ← x.assignInt dd (a.headD 0) 0
        .ok (fun t => (t.setThread x.c x.sl (((x.th.setLane0 x.k.vt d v).drawn (if dd.kind.isFloat then x.mode else .rne) dd.lanes).retire
          (x.th.pc + 4))).arrive x b)
      | _ => .ok (fun t => t.arrive x b))
  else t

/-- bar.arr (R344). -/
def execBarArr (d b : Nat) (s : State) : Host.Outcome State Fault Refusal :=
  issue (.barArr d b) s (fun x => do
    let dd ← x.check d .any
    x.syncBad (0x580 + 8 * b)
    let k ← x.mayArrive b
    let v ← x.assignInt dd k.phase.toNat 0
    .ok (afterStores x (x.arrival b k (fun t =>
      let t := t.setThread x.c x.sl
        (((x.th.setLane0 x.k.vt d v).drawn (if dd.kind.isFloat then x.mode else .rne) dd.lanes).retire (x.th.pc + 4))
      (t.arrive x b).barrierTry x.c b (.thread x.c x.sl)))))

/-- bar.wait: it acquires the completion of the phase it names (R345, R170). -/
def execBarWait (a b : Nat) (s : State) : Host.Outcome State Fault Refusal :=
  issue (.barWait a b) s (fun x => do
    let _ ← x.check a .int
    let v ← x.read0 a
    x.syncBad (0x580 + 8 * b)
    let k := x.k.barrier b
    if k.phase.toNat ≠ v % 65536 then .ok (own x (fun th => th.acquired (lookD k.past (v % 65536) [])))
    else .ok (waits x .blocked [v % 65536]))

/-- bar.sync: an arrival and the wait for its phase, as one (R345). -/
def execBarSync (b : Nat) (s : State) : Host.Outcome State Fault Refusal :=
  issue (.barSync b) s (fun x => do
    x.syncBad (0x580 + 8 * b)
    let k ← x.mayArrive b
    .ok (afterStores x (x.arrival b k (fun t => ((waits x .blocked [k.phase.toNat] t).arrive x b).barrierTry x.c b (.thread x.c x.sl)))))

/-- The slots of a mask that hold no thread of a task. -/
def Ctx.foreignSlots (x : Ctx) (mask : Nat) : Bool :=
  (ones mask 15).any (fun sl => match look x.k.threads sl with | some th => decide (th.task ≠ x.th.task) | none => true)

/-- A configured count goes to its unit (R343). -/
def Trail.sendCount {s : State} (t : Trail s) (c u b n : Nat) : Trail s :=
  t.sendTo (dieOf c) (unitDie u) .barrierCountArrive [u, (t.1.partOfCore c).getD 0, b, n]

/-- bar.cfg (R343). -/
def execBarCfg (a b : Nat) (s : State) : Host.Outcome State Fault Refusal :=
  issue (.barCfg a b) s (fun x => do
    let _ ← x.check a .int
    let w ← x.read0 a
    x.syncBad (0x580 + 8 * b)
    let k := x.k.barrier b
    let mask := bits w 14 0
    let level := bits w 42 40
    if k.arrived ≠ 0 ∨ k.sent ∨ 4 < level ∨ bits w 38 32 ≠ 0 ∨ bit w 15 ∨ mask = 0 ∨ x.foreignSlots mask then misuse (0x40 + b)
    else
      .ok (fun t =>
        let t := (own x id t).modBarrier x.c b (fun k =>
          { k with
            mask := mask, level := level, arrived := 0, sent := false, pb := bit w 39, ncomp := bits w 31 24
            nmsg := bits w 23 16, root := bits w 63 58, vc := [] })
        let t := if 1 ≤ level then t.sendCount x.c (clusterOf x.c) b (bits w 45 43 + 1) else t
        let t := if 2 ≤ level then t.sendCount x.c (64 + dieOf x.c) b (bits w 49 46 + 1) else t
        let t := if 3 ≤ level then t.sendCount x.c 68 b (bits w 51 50 + 1) else t
        if level = 4 && bits w 63 58 == t.1.pkg.num then t.sendCount x.c 69 b (bits w 57 52 + 1) else t))

/-- BARRIER_COUNT_ARRIVE: a count takes effect at the first arrival of a phase (R343). -/
def execBarrierCountArrive (s : State) : Host.Outcome State Fault Refusal :=
  event s (fun t =>
    let key := unitKey (s.arg 0) (s.arg 1) (s.arg 2)
    t.act (.barUnit key { t.1.barUnit key with expect := s.arg 3 }))

/-- The cores whose barrier a unit's line reaches: those of its area that have sent their arrival at its level. -/
def State.lineCores (s : State) (u part b : Nat) : List Nat :=
  (s.cores.filter (fun k =>
    let x := k.2.barrier b
    x.sent && x.level == unitLevel u &&
      (if u < 64 then clusterOf k.1 == u && s.partOfCore k.1 == some part
       else if u < 68 then dieOf k.1 == u - 64 && s.partOfCore k.1 == some part
       else true))).map (·.1)

/-- The line of a unit rises: each core of the barrier is told, and every one acquires what all released (R116, R170). -/
def Trail.raiseLine {s : State} (t : Trail s) (u part b : Nat) : Trail s :=
  let cs := t.1.lineCores u part b
  let vc := cs.foldl (fun (v : Clock) c => v.join ((t.1.core c).barrier b).vc) []
  forEach t cs (fun t c =>
    (t.modBarrier c b (fun x => { x with vc := vc })).sendTo (unitDie u) (dieOf c) .barrierLineRise
      [(t.1.partOfCore c).getD 0, b, c])

/-- BARRIER_UNIT_ARRIVAL: a unit counts an arrival; at its last it passes one upward, or raises its line (R344). (DEDUCED, log 62) -/
def execBarrierUnitArrival (s : State) : Host.Outcome State Fault Refusal :=
  event s (fun t =>
    let u := s.arg 0
    let part := s.arg 1
    let b := s.arg 2
    let c := s.arg 3
    let key := unitKey u part b
    let x := t.1.barUnit key
    let k := (t.1.core c).barrier b
    -- a completion that waited for the log has its count at zero already
    let left := (x.left.getD x.expect) - 1
    let t := t.act (.barUnit key { x with left := some left })
    if left ≠ 0 then t.arrived c (s.arg 4) b
    else if unitLevel u < k.level then
      if u = 68 && k.root ≠ t.1.pkg.num then (t.act (.barUnit key { x with left := none })).arrived c (s.arg 4) b
      else
        (t.act (.barUnit key { x with left := none })).sendTo (unitDie u) (unitDie (unitAbove u)) .barrierUnitArrival
          [unitAbove u, part, b, c, s.arg 4]
    else
      t.logged (some part) (barRecord t.1 (barrierSource (min u 68)) c (s.arg 4) k.level b k.phase.toNat)
        (.step ⟨.barrierUnitArrival, s.args⟩) id (fun seq t => t.stopSlot c (s.arg 4) (.trap DIVERGE seq none))
        (fun t => ((t.arrived c (s.arg 4) b).act (.barUnit key { x with left := none })).raiseLine u part b))

/-- BARRIER_LINE_RISE: a core completes its phase; at level none, one that waited for the log (R116, R218). -/
def execBarrierLineRise (s : State) : Host.Outcome State Fault Refusal :=
  event s (fun t =>
    let b := s.arg 1
    let c := s.arg 2
    let x := (t.1.core c).barrier b
    if x.level = 0 then t.barrierTry c b (barrierAgain t.1 c b) else if x.sent then t.completePhase c b else t)

/-! ### Stages -/

def Trail.modStage {s : State} (t : Trail s) (c n : Nat) (f : Stage → Stage) : Trail s :=
  t.modCore c (fun k => { k with stages := put k.stages n (f (k.stage n)) })

/-- The STAGE record of a slot (R215). -/
def stageRecord (s : State) (c sl op n : Nat) (full : Bool) : Rec :=
  s.recOf c sl 4 (coreSource c) op (leBytes n 1 ++ leBytes (bitAt full 0) 1)

/-- A slot takes a stage, as an acquire of its last `rels`, and its `acqs` retires (R115, R170). -/
def Trail.takeStage {s : State} (t : Trail s) (c sl n : Nat) : Trail s :=
  let vc := ((t.1.core c).stage n).vc
  (t.modStage c n (fun x => { x with owner := some sl, wait := x.wait.filter (fun p => decide (p.1 ≠ sl)) })).modThread c sl
    (fun th => (th.acquired vc).retire (th.pc + 4))

/-- An unowned stage goes to the earliest waiter that wants its state (R115). -/
def Trail.giveStage {s : State} (t : Trail s) (c n : Nat) : Trail s :=
  let x := (t.1.core c).stage n
  if x.owner.isSome then t
  else
    match x.wait.find? (fun p => p.2 == x.full) with
    | none => t
    | some (sl, _) =>
      let drop := fun (t : Trail s) => t.modStage c n (fun x => { x with wait := x.wait.filter (fun p => decide (p.1 ≠ sl)) })
      t.logged (t.1.partOfCore c) (stageRecord t.1 c sl 0 n x.full) (.thread c sl)
        (fun t => (drop t).modThread c sl Thread.waitLog)
        (fun seq t => (drop t).stopSlot c sl (.trap DIVERGE seq none)) (fun t => t.takeStage c sl n)

/-- acqs (R115, R346). -/
def execAcqs (b : Nat) (s : State) : Host.Outcome State Fault Refusal :=
  issue (.acqs b) s (fun x => do
    let n := b % 8
    let want := decide (8 ≤ b)
    x.syncBad (0x540 + 8 * n)
    let k := x.k.stage n
    if k.owner = some x.sl then misuse (0x60 + n)
    else if k.owner = none ∧ k.full = want then
      .ok (x.logged (stageRecord x.s x.c x.sl 0 n k.full) (fun t => t.takeStage x.c x.sl n))
    else
      .ok (fun t => waits x .blocked [] (t.modStage x.c n (fun k =>
        { k with wait := k.wait.filter (fun p => decide (p.1 ≠ x.sl)) ++ [(x.sl, want)] }))))

/-- rels: the full bit inverts, the owner clears, and a waiter may take the stage (R115, R346). -/
def execRels (b : Nat) (s : State) : Host.Outcome State Fault Refusal :=
  issue (.rels b) s (fun x => do
    x.syncBad (0x540 + 8 * b)
    let k := x.k.stage b
    if k.owner ≠ some x.sl then misuse (0x60 + b)
    else
      .ok (afterStores x (fun t =>
        (x.logged (stageRecord x.s x.c x.sl 1 b k.full) (fun t =>
          (own x Thread.released t).modStage x.c b (fun k => { k with full := !k.full, owner := none, vc := x.th.vc })) t).giveStage
          x.c b)))

/-! ### Queues -/

def Trail.modQueueReg {s : State} (t : Trail s) (c q : Nat) (f : QueueReg → QueueReg) : Trail s :=
  t.modCore c (fun k => { k with queues := put k.queues q (f (k.queue q)) })

/-- The QUEUE record of a slot (R215). -/
def queueRecord (s : State) (c sl op q v : Nat) : Rec := s.recOf c sl 5 (coreSource c) op (leBytes q 1 ++ leBytes v 8)

/-- The word a queue takes from a name: an integer in 64-bit two's complement, float bits zero-extended (R346). -/
def queueWordOf (d : Desc) (v : Nat) : Nat := if d.kind.isFloat then v else bitsOf 64 (extInt d.kind d.width v)

/-- A name receives the low bits of a queue's word in lane 0 (R346). -/
def Thread.putWord (th : Thread) (vt : Word64) (d v : Nat) : Thread :=
  match th.desc? d with
  | some e => th.setLane0 vt d (v % 2 ^ e.width)
  | none => th

/-- The destination of a `qget` or `qtry`. -/
def queueDest : Instr → Nat
  | .qget d _ => d
  | .qtry d _ => d
  | _ => 56

/-- A slot takes the oldest value of a queue and its instruction retires (R114, R170). -/
def Trail.takeValue {s : State} (t : Trail s) (c sl q : Nat) (i : Instr) : Trail s :=
  let k := t.1.core c
  match (k.queue q).vals with
  | [] => t
  | (v, vc) :: r =>
    (t.modQueueReg c q (fun x => { x with vals := r, readers := x.readers.filter (fun n => decide (n ≠ sl)) })).modThread c sl
      (fun th =>
        let th := (th.acquired vc).putWord k.vt (queueDest i) v
        (match i with | .qtry _ _ => th.replied 0 0 | _ => th).retire (th.pc + 4))

/-- The instruction that a slot is blocked in. -/
def State.blockedOp (s : State) (c sl : Nat) : Option Op := (s.thread? c sl).bind (·.op)

/-- While a queue holds a value, its earliest blocked reader takes it; while it has a free place, its earliest blocked
writer puts (R114). `fuel` bounds the turns. -/
def Trail.serveQueue {s : State} (c q : Nat) : Nat → Trail s → Trail s
  | 0, t => t
  | fuel + 1, t =>
    let x := (t.1.core c).queue q
    let n := t.1.partOfCore c
    match x.vals, x.readers, x.writers with
    | (v, _) :: _, r :: _, _ =>
      let i := match t.1.blockedOp c r with | some o => o.instr | none => .qget 56 q
      let drop := fun (t : Trail s) => t.modQueueReg c q (fun x => { x with readers := x.readers.filter (fun m => decide (m ≠ r)) })
      Trail.serveQueue c q fuel
        (t.logged n (queueRecord t.1 c r 1 q v) (.thread c r) (fun t => (drop t).modThread c r Thread.waitLog)
          (fun seq t => (drop t).stopSlot c r (.trap DIVERGE seq none)) (fun t => t.takeValue c r q i))
    | vals, _, w :: _ =>
      if 4 ≤ vals.length then t
      else
        let v := match t.1.blockedOp c w with | some o => o.args.headD 0 | none => 0
        let drop := fun (t : Trail s) => t.modQueueReg c q (fun x => { x with writers := x.writers.filter (fun m => decide (m ≠ w)) })
        Trail.serveQueue c q fuel
          (t.logged n (queueRecord t.1 c w 0 q v) (.thread c w) (fun t => (drop t).modThread c w Thread.waitLog)
            (fun seq t => (drop t).stopSlot c w (.trap DIVERGE seq none))
            (fun t =>
              let vc := match t.1.thread? c w with | some th => th.vc | none => []
              ((drop t).modQueueReg c q (fun x => { x with vals := x.vals ++ [(v, vc)] })).modThread c w
                (fun th => th.released.retire (th.pc + 4))))
    | _, _, [] => t

/-- qput (R114, R346). -/
def execQput (a b : Nat) (s : State) : Host.Outcome State Fault Refusal :=
  issue (.qput a b) s (fun x => do
    let da ← x.check a .any
    let va ← x.read0 a
    x.syncBad (0x500 + 8 * b)
    let v := queueWordOf da va
    if 4 ≤ (x.k.queue b).vals.length then
      .ok (afterStores x (fun t => waits x .blocked [v] (t.modQueueReg x.c b (fun k =>
        { k with writers := k.writers.filter (fun m => decide (m ≠ x.sl)) ++ [x.sl] }))))
    else
      .ok (afterStores x (fun t => Trail.serveQueue x.c b 32
        (x.logged (queueRecord x.s x.c x.sl 0 b v) (fun t =>
          (own x Thread.released t).modQueueReg x.c b (fun k => { k with vals := k.vals ++ [(v, x.th.vc)] })) t))))

/-- `qget` and `qtry` with a value to take. -/
def takeFrom {s : State} (x : Ctx) (b v : Nat) : Effect s :=
  fun t => Trail.serveQueue x.c b 32
    (x.logged (queueRecord x.s x.c x.sl 1 b v) (fun t => t.takeValue x.c x.sl b x.i) t)

/-- qget (R114, R346). -/
def execQget (d b : Nat) (s : State) : Host.Outcome State Fault Refusal :=
  issue (.qget d b) s (fun x => do
    let _ ← x.check d .any
    x.syncBad (0x500 + 8 * b)
    match (x.k.queue b).vals with
    | (v, _) :: _ => .ok (takeFrom x b v)
    | [] =>
      .ok (fun t => waits x .blocked [] (t.modQueueReg x.c b (fun k =>
        { k with readers := k.readers.filter (fun m => decide (m ≠ x.sl)) ++ [x.sl] }))))

/-- qtry (R346). -/
def execQtry (d b : Nat) (s : State) : Host.Outcome State Fault Refusal :=
  issue (.qtry d b) s (fun x => do
    let _ ← x.check d .any
    x.syncBad (0x500 + 8 * b)
    match (x.k.queue b).vals with
    | (v, _) :: _ => .ok (takeFrom x b v)
    | [] => .ok (x.logged (queueRecord x.s x.c x.sl 2 b 0) (own x (fun th => th.replied 1 0))))

end Sys2Proof.Machine
end

