-- ==== Sys2Proof/Machine/Courier.lean ====
section
/-!
DEFINITION. The courier (R133-R145) and its instructions (R362-R368): cards and their checks, acceptance at the port, jobs that
take channels, the quantising and compressing copies, expansion rings, completion words, status and cancelling. A job other
than an expansion moves its bytes in the step that completes it; an expansion goes chunk by chunk.
-/

namespace Sys2Proof.Machine

/-! ### Cards (R363, R364) -/

/-- A card from its 64 bytes as one number. -/
structure Card where
  kind : Nat
  src : Nat
  dst : Nat
  len : Nat
  cw : Nat
  cval : Nat
  ver : Nat
  flags : Nat
  p0 : Nat
  p1 : Nat
  p2 : Nat
  deriving DecidableEq, Repr

/-- Bytes of a card. -/
def cardField (w off len : Nat) : Nat := w / 256 ^ off % 256 ^ len

def Card.ofNat (kind w : Nat) : Card :=
  let f := cardField w
  { kind := kind, src := f 0 8, dst := f 8 8, len := f 16 4, cw := f 20 4, cval := f 24 8, ver := f 32 2, flags := f 34 1
    p0 := f 36 4, p1 := f 40 8, p2 := f 48 8 }

def Card.srcVirt (c : Card) : Bool := bit c.flags 0
def Card.dstVirt (c : Card) : Bool := bit c.flags 1
def Card.scaleVirt (c : Card) : Bool := bit c.flags 2

/-- A quantising card's element size in bytes, planes, layout, row length and rows (R364). -/
def Card.elem (c : Card) : Nat := if c.p0 % 4 = 2 then 4 else 2
def Card.planes (c : Card) : Nat := bits c.p0 7 4
def Card.planar (c : Card) : Bool := bit c.p0 8
def Card.row (c : Card) : Nat := c.p1 % 2 ^ 32
def Card.rows (c : Card) : Nat := c.p1 / 2 ^ 32

/-- An address in its space, aligned. -/
def addrOk (virt : Bool) (align a : Nat) : Bool := decide (a % align = 0) && decide (a < (if virt then 2 ^ 56 else 2 ^ 32))

/-- A range of a card: whether it is written, whether it is task virtual, its base and its length. -/
structure CardRange where
  write : Bool
  virt : Bool
  adr : Nat
  len : Nat
  deriving DecidableEq, Repr

/-- The bytes of a compressed buffer's write range (R364). -/
def codedRange (len : Nat) : Nat :=
  let n := (len + 8191) / 8192
  roundUp (64 + 8 * n) 64 + 8192 * n

/-- The ranges of a card (R364); `ring` is base and slot count of an expansion's ring. -/
def Card.ranges (c : Card) (ring : Nat × Nat) : List CardRange :=
  let src : CardRange := ⟨false, c.srcVirt, c.src, c.len⟩
  match c.kind with
  | 0 => [src, ⟨true, c.dstVirt, c.dst, c.len⟩]
  | 1 => [src, ⟨true, c.dstVirt, c.dst, if c.planar then c.rows * 512 else c.rows * c.row⟩,
      ⟨true, c.scaleVirt, c.p2, 4 * (c.rows * c.row / 64)⟩]
  | 2 => [src, ⟨true, c.dstVirt, c.dst, codedRange c.len⟩]
  | _ => [src, ⟨true, false, ring.1, ring.2 * 8192⟩]

/-- Fields that fail alone, by offset (R365 step 4). -/
def Card.fieldFails (c : Card) (w : Nat) : List Nat :=
  let q := decide (c.kind = 1)
  let z := decide (c.kind = 2)
  let e := decide (c.kind = 3)
  let checks : List (Nat × Bool) :=
    [(0, addrOk c.srcVirt (if e then 64 else 32) c.src), (8, addrOk c.dstVirt (if z || e then 64 else 32) c.dst),
     (16, if q then decide (c.len ≤ 65536) else e || (decide (c.len ≠ 0) && decide (c.len % 32 = 0))),
     (20, decide (c.cw % 8 = 0)), (24, decide (c.cval < 2 ^ 63)),
     (34, decide (c.flags < 8) && (q || !bit c.flags 2) && (!z || c.dstVirt) && (!e || (c.srcVirt && !c.dstVirt))),
     (35, decide (cardField w 35 1 = 0)),
     (36, if q then decide (c.p0 % 4 ≠ 3) && decide (2 ≤ c.planes) && decide (c.planes ≤ 8) && decide (c.p0 / 512 = 0) &&
         decide (bits c.p0 3 2 = 0) else decide (c.p0 = 0)),
     (40, if q then decide (c.row ≠ 0) && decide (c.row % 64 = 0) && decide (c.rows ≠ 0) else e || decide (c.p1 = 0)),
     (48, if q then addrOk c.scaleVirt 32 c.p2 else decide (c.p2 = 0)), (56, decide (cardField w 56 8 = 0))]
  (checks.filter (fun p => !p.2)).map (·.1)

/-- Relations between fields that fail, in their order (R365 step 4). -/
def Card.relationFails (c : Card) (ring : Nat × Nat) : List Nat :=
  let q := decide (c.kind = 1)
  let hit := (c.ranges ring).any (fun r => r.write && !r.virt && overlaps r.adr r.len (c.cw / 32 * 32) 32)
  (if q && decide (c.len ≠ c.rows * c.row * c.elem) then [16] else []) ++
    (if q && c.planar && decide (512 < c.row) then [40] else []) ++ (if hit then [20] else [])

/-- The words of an expansion's ring block that a card's checks read have no uncorrectable error (R198). -/
def Ctx.ringEcc (x : Ctx) (c : Card) : Except Stop Unit :=
  if c.kind = 3 ∧ x.inRun c.dst 64 then x.runEcc c.dst 8 else .ok ()

/-- The ring of an expansion as its ring block gives it; a block that will be refused gives no slots. -/
def Ctx.ringOf (x : Ctx) (c : Card) : Nat × Nat :=
  if c.kind = 3 ∧ x.inRun c.dst 64 then
    let n := x.locNum (c.dst + 4) 1
    if 1 ≤ n ∧ n ≤ 64 then (x.locNum c.dst 4, n) else (0, 0)
  else (0, 0)

/-- A card's run of the local store, or of physical memory, once its range has passed (R365 step 5, R177). (DEDUCED, log 26) -/
def Ctx.cardRun (x : Ctx) (r : CardRange) : Except Stop Run :=
  if r.virt then
    match x.findExtent r.adr r.len (if r.write then extWr else extRd) with
    | none => extent 1 0 r.adr
    | some e => do
      x.entryEcc e.1
      if r.write && !x.steward && decide (e.2.mode ≠ 4) &&
          (decide (e.2.owner r.adr ≠ some x.th.tid.toNat) || decide (e.2.owner (r.adr + r.len - 1) ≠ some x.th.tid.toNat)) then
        extent 2 0 r.adr
      else .ok { virt := true, adr := r.adr, phys := e.2.pbase + (r.adr - e.2.vbase), len := r.len }
  else if x.inRun r.adr r.len then .ok { virt := false, adr := r.adr, phys := x.runBase + r.adr, len := r.len }
  else extent 3 0 r.adr

/-- A thread's access to granules that a card will have: as `runRace`. (DEDUCED, log 73) -/
def Ctx.cardRace (x : Ctx) (r : CardRange) : Except Stop Unit :=
  if r.virt || decide (r.len = 0) then .ok () else x.runRace r.adr r.len r.write false

/-- A card-issuing instruction (R365): the checks in order, and the card is offered to the port. The completion granule is checked
as the atomic write that the courier will make (R136, R178). -/
def issueCard (i : Instr) (kind a : Nat) (s : State) : Host.Outcome State Fault Refusal :=
  issue i s (fun x => do
    let _ ← x.check a .int
    let p ← x.read0 a
    if p % 64 ≠ 0 then trap ALIGN p
    else if !x.inRun p 64 then extent 7 0 p
    else
      x.runRace p 64 false false
      x.runEcc p 64
      let w := x.locNum p 64
      let c := Card.ofNat kind w
      match c.fieldFails w with
      | off :: _ => trap KIND (0x200 + off)
      | [] =>
        x.ringEcc c
        let ring := x.ringOf c
        match c.relationFails ring with
        | off :: _ => trap KIND (0x200 + off)
        | [] =>
          let rs := c.ranges ring
          let _ ← eachOf x.cardRun (rs.filter (·.virt))
          let _ ← eachOf x.cardRun (rs.filter (fun r => !r.virt))
          if kind = 3 ∧ !x.inRun c.dst 64 then extent 3 0 c.dst
          else if !x.inRun c.cw 8 then extent 3 0 c.cw
          else
            let _ ← eachOf x.cardRace rs
            x.runRace c.cw 8 true true
            .ok (afterStores x (fun t => (waits x .inFlight [w] (t.enterRun x p 64 false false)).pend .cardAccept [x.c, x.sl])))

/-- cpy (R362). -/
def execCpy (a : Nat) (s : State) : Host.Outcome State Fault Refusal := issueCard (.cpy a) 0 a s

/-- qcpy (R362). -/
def execQcpy (a : Nat) (s : State) : Host.Outcome State Fault Refusal := issueCard (.qcpy a) 1 a s

/-- zcpy (R362). -/
def execZcpy (a : Nat) (s : State) : Host.Outcome State Fault Refusal := issueCard (.zcpy a) 2 a s

/-- xcpy (R362). -/
def execXcpy (a : Nat) (s : State) : Host.Outcome State Fault Refusal := issueCard (.xcpy a) 3 a s

/-! ### Acceptance (R133, R135, R178, R365) -/

/-- The kind of card that an instruction issues. -/
def cardKind : Instr → Option Nat
  | .cpy _ => some 0
  | .qcpy _ => some 1
  | .zcpy _ => some 2
  | .xcpy _ => some 3
  | _ => none

/-- The tags of a run: an expansion's slot by slot. -/
def tagsOf (job kind : Nat) (write : Bool) (r : Run) : List Tag :=
  if r.virt || decide (r.len = 0) then []
  else if kind = 3 then
    (upFrom 0 (r.len / 8192)).map (fun k => { job := job, first := r.phys / 32 + 256 * k, count := 256, write := write })
  else [{ job := job, first := r.phys / 32, count := (r.phys + r.len + 31) / 32 - r.phys / 32, write := write }]

/-- The tag after one (R365). -/
def tagAfter (n : Nat) : Nat := if n = 0xFFFF then 1 else n + 1

/-- The port accepts a card: a job with its tag, its ranges tagged, and the thread's instruction retires (R365). -/
def Trail.accept {s : State} (t : Trail s) (x : Ctx) (c : Card) (reads writes : List Run) : Trail s :=
  let n := t.1.jobCount + 1
  let t := t.act (.counts t.1.agents t.1.taskCount n t.1.graphCount t.1.releases)
  let (t, agent) := t.newAgent
  let tag := (t.1.core x.c).nextTag
  let job : Job :=
    { core := x.c, slot := x.sl, task := x.th.task, agent := agent, tag := tag, kind := c.kind, src := c.src, dst := c.dst
      len := c.len, cw := c.cw, cval := c.cval, ver := c.ver, flags := c.flags, p0 := c.p0, p1 := c.p1, p2 := c.p2
      reads := reads, writes := writes, state := 1, code := 0, zblk := false, tiny := false, rawc := false, cancel := false
      taken := 0, given := 0, delivered := 0, firstSlot := 0, failed := none, written := [], after := x.th.lastRec
      vc := put x.th.vc agent 1 }
  let t := t.act (.job n (some job))
  let tags := reads.flatMap (tagsOf n c.kind false) ++ writes.flatMap (tagsOf n c.kind true)
  let t := t.modCore x.c (fun k => { k with
    nextTag := tagAfter tag, recent := (n :: k.recent).take 16, portQ := k.portQ ++ [n], tags := k.tags ++ tags })
  (own x (fun th => th.released.replied 0 tag) t).pendOnce .courierJobStart [clusterOf x.c]

/-- CARD_ACCEPT: a port with room accepts the card that a thread offers; without, the thread waits (R133). -/
def execCardAccept (s : State) : Host.Outcome State Fault Refusal :=
  event s (fun t => t.resume (s.arg 0) (s.arg 1) (fun x a =>
    match cardKind x.i, a with
    | some kind, [w] =>
      let c := Card.ofNat kind w
      let rs := c.ranges (x.ringOf c)
      if 8 ≤ x.k.portQ.length ∨ (x.part.bind x.s.part?).any (·.halted) then .ok id
      else do
        let reads ← eachOf x.cardRun (rs.filter (fun r => !r.write))
        let writes ← eachOf x.cardRun (rs.filter (fun r => r.write && decide (r.len ≠ 0)))
        .ok (fun t => t.accept x c reads writes)
    | _, _ => .ok id))

/-- A place of a core's port has freed: cards that wait are offered again (R133). -/
def Trail.pokePort {s : State} (t : Trail s) (c : Nat) : Trail s :=
  forEach t (t.1.core c).threads (fun t th =>
    match th.2.status, th.2.op with
    | .inFlight, some o => if (cardKind o.instr).isSome && !o.args.isEmpty then t.pendOnce .cardAccept [c, th.1] else t
    | _, _ => t)

/-! ### Jobs -/

/-- The partition of a job, and the master of its accesses. -/
def State.jobPart (s : State) (j : Job) : Option Nat := (s.task? j.task).map (·.part)
def State.jobMaster (s : State) (j : Job) : Nat :=
  match s.jobPart j with
  | some n => partMaster s.pkg.num n
  | none => sysMaster s.pkg.num

/-- The job's partition is halted, and its channel with it (R145). -/
def State.jobHalted (s : State) (j : Job) : Bool := ((s.jobPart j).bind s.part?).any (·.halted)

/-- Two runs share a byte. -/
def Run.meets (a b : Run) : Bool := decide (a.virt = b.virt) && overlaps a.adr a.len b.adr b.len

/-- Two jobs overlap (R134). -/
def Job.overlapsWith (a b : Job) : Bool :=
  a.writes.any (fun r => (b.reads ++ b.writes).any r.meets) || b.writes.any (fun r => (a.reads ++ a.writes).any r.meets)

/-- A queued job may take a channel (R134). -/
def State.eligible (s : State) (n : Nat) (j : Job) : Bool :=
  decide (j.state = 1) && !j.cancel && !s.jobHalted j &&
    !s.jobs.any (fun o => decide (o.1 < n) && decide (o.2.task = j.task) && decide (o.2.state ≠ 3) && o.2.overlapsWith j)

/-- The step that a running job's work is in. -/
def jobStep (j : Job) : Instr := if j.kind = 3 then .xcpyChunkDeliver else .courierJobComplete

/-- A job takes a channel: its port place frees, and it follows the completed jobs that it overlaps (R133, R170). -/
def Trail.startJob {s : State} (t : Trail s) (n : Nat) (j : Job) : Trail s :=
  let vc := t.1.jobs.foldl (fun (v : Clock) o =>
    if o.1 < n ∧ o.2.task = j.task ∧ o.2.state = 3 ∧ o.2.overlapsWith j then v.join o.2.vc else v) j.vc
  let t := t.act (.job n (some { j with state := 2, vc := vc }))
  let t := t.modCore j.core (fun k => { k with portQ := k.portQ.filter (fun q => decide (q ≠ n)) })
  (t.pokePort j.core).pend (jobStep j) [n]

/-- Jobs running on a cluster's channels. -/
def State.running (s : State) (cl : Nat) : Nat := (s.jobs.filter (fun j => decide (clusterOf j.2.core = cl) && decide (j.2.state = 2))).length

/-- Free channels take eligible cards, in the order they reached the ports (R133). -/
def Trail.fillChannels {s : State} (cl : Nat) : Nat → Trail s → Trail s
  | 0, t => t
  | fuel + 1, t =>
    if 4 ≤ t.1.running cl then t
    else
      match t.1.jobs.find? (fun j => decide (clusterOf j.2.core = cl) && t.1.eligible j.1 j.2) with
      | some (n, j) => Trail.fillChannels cl fuel (t.startJob n j)
      | none => t

/-- COURIER_JOB_START (R133). -/
def execCourierJobStart (s : State) : Host.Outcome State Fault Refusal := event s (fun t => Trail.fillChannels (s.arg 0) 4 t)

/-! ### Reading and writing a job's runs (R136) -/

/-- The master may use a core's courier port (R48, R50). -/
def State.portGrants (s : State) (j : Job) (perm : Nat) : Bool :=
  s.grants (tableAt s.pkg.num (dieOf j.core) 3 (j.core % 128)) (s.jobMaster j) none perm

/-- Some byte of a run's part lies in a page marked comp. -/
def State.compAt (s : State) (j : Job) (r : Run) (off len : Nat) : Bool :=
  r.virt && (match s.task? j.task with
    | some x => x.ext.any (fun e => overlaps e.2.vbase e.2.len (r.adr + off) len && e.2.inComp (r.adr + off) len)
    | none => false)

/-- Every byte of a run's part lies in pages marked comp: no leaf size is below 64 KiB. -/
def State.compAll (s : State) (j : Job) (r : Run) (off len : Nat) : Bool :=
  r.virt && (upFrom ((r.adr + off) / 65536) ((r.adr + off + len + 65535) / 65536 - (r.adr + off) / 65536)).all (fun p =>
    let lo := max (p * 65536) (r.adr + off)
    s.compAt j r (lo - r.adr) 1)

/-- Why a part of a run cannot be read or written: address error, denial, or a data error (R16, R49, R17, R198). -/
def State.readFail (s : State) (j : Job) (r : Run) (off len : Nat) : Option Nat :=
  let a := r.phys + off
  if r.virt then
    if !(backed a && backed (a + len - 1)) then some 1
    else if !s.mayReachRun (s.jobMaster j) a len permRd then some 3
    else if (s.memBad a len).isSome then some 2 else none
  else if !s.portGrants j permRd then some 3
  else if s.bad.any (fun b => decide (b.1 = 2) && decide (b.2.1 = j.core) && decide (a / 8 ≤ b.2.2) && decide (b.2.2 < (a + len + 7) / 8)) then
    some 2
  else none

def State.writeFail (s : State) (j : Job) (r : Run) (off len : Nat) : Option Nat :=
  let a := r.phys + off
  if r.virt then
    if !(backed a && backed (a + len - 1)) then some 1
    else if !s.mayReachRun (s.jobMaster j) a len permWr then some 3 else none
  else if !s.portGrants j permWr then some 3 else none

/-- Bytes of a run. -/
def State.runBytes (s : State) (j : Job) (r : Run) (off len : Nat) : List Byte :=
  if r.virt then s.mem.bytes (r.phys + off) len else s.loc.bytes (locKey j.core (r.phys + off)) len

/-- Some byte of a run's part lies in a RACY range. -/
def State.racyAt (s : State) (j : Job) (r : Run) (off len : Nat) : Bool :=
  r.virt && (match s.task? j.task with
    | some x => x.ext.any (fun e => decide (e.2.mode = 4) && overlaps e.2.vbase e.2.len (r.adr + off) len)
    | none => false)

/-- A part of a run in device memory is accessed: it counts, 256 bytes at a time, and an access to a RACY range is flagged (R77, R217). -/
def Trail.runTouch {s : State} (t : Trail s) (j : Job) (r : Run) (off len : Nat) : Trail s :=
  if r.virt then (t.countAll (dieOf j.core) (unitsOf (r.phys + off) len)).flagRacy (t.1.jobPart j) (t.1.racyAt j r off len) else t

/-- Write bytes into a run. -/
def Trail.runPut {s : State} (t : Trail s) (j : Job) (r : Run) (off : Nat) (bs : List Byte) : Trail s :=
  if r.virt then (t.memStore (r.phys + off) bs).runTouch j r off bs.length else t.localStore j.core (r.phys + off) bs

/-- A run of no bytes. -/
def noRun : Run := { virt := false, adr := 0, phys := 0, len := 0 }

def Job.src! (j : Job) : Run := j.reads.headD noRun
def Job.dst! (j : Job) : Run := j.writes.headD noRun

/-- How a job has ended: code and index (R136). -/
abbrev Ended := Nat × Nat

/-- The units of a job that moves its bytes block by block: 256-byte blocks, scale blocks or chunks, one after the other until one
fails. It answers the work done, and the unit that failed with the job's end. -/
def inUnits {β : Type} (work : Nat → β → Except Ended β) : List Nat → β → β × Option (Nat × Ended)
  | [], b => (b, none)
  | i :: l, b =>
    match work i b with
    | .ok b => inUnits work l b
    | .error e => (b, some (i, e))

/-! ### cpy -/

/-- Why a block of a copy fails: a page marked comp, then address, denial and data errors. -/
def State.blockFail (s : State) (j : Job) (src dst : Run) (off len : Nat) : Option Nat :=
  if s.compAt j src off len || s.compAt j dst off len then some 8
  else (s.readFail j src off len).or (s.writeFail j dst off len)

/-- Copy one block of 256 bytes. -/
def Trail.copyBlock {s : State} (j : Job) (i : Nat) (t : Trail s) : Except Ended (Trail s) :=
  let off := 256 * i
  let n := min 256 (j.len - off)
  match t.1.blockFail j j.src! j.dst! off n with
  | some code => .error (code, i)
  | none => .ok ((t.runTouch j j.src! off n).runPut j j.dst! off (t.1.runBytes j j.src! off n))

/-! ### qcpy (R138, R139) -/

/-- The format of a quantising card. -/
def srcFormat (p0 : Nat) : Fmt := match p0 % 4 with | 0 => fmtF16 | 1 => fmtBF16 | _ => fmtF32

/-- Elements of a list of bytes. -/
def elements (size : Nat) : Nat → List Byte → List Nat
  | 0, _ => []
  | n + 1, l => leNat (l.take size) :: elements size n (l.drop size)

/-- The magnitude of a finite value. -/
def FVal.mag : FVal → FVal
  | .num _ n d => .num false n d
  | v => v

/-- The scale of a block of finite values, and whether it is all zero, and whether its scale was forced up (R138, R139). -/
def blockScale (p : Nat) (vs : List FVal) : Nat × Bool × Bool :=
  let mx := vs.foldl (fun m v => if m.lt v.mag then v.mag else m) (.num false 0 1)
  match mx with
  | .num _ 0 _ => (0x3F800000, true, false)
  | mx =>
    let b := (fmtF32.fit .rup 0 .wrap (mx.div (.num false (2 ^ (p - 1) - 1) 1))).getD 0
    if b < 0x00800000 then (0x00800000, false, true) else (b, false, false)

/-- The quantised elements of a block: w as an 8-bit string (R138). -/
def blockValues (p scale : Nat) (vs : List FVal) : List Nat :=
  vs.map (fun v => bitsOf 8 ((v.div (fmtF32.value scale)).toInt .rne 0 * 2 ^ (8 - p)))

/-- Where a block's values go in the plane layout: plane and its 8 bytes (R125). -/
def planeBytes (ws : List Nat) (plane : Nat) : List Byte :=
  leBytes (((upFrom 0 64).zip ws).foldl (fun m p => m + bitAt (bit p.2 (7 - plane)) p.1) 0) 8

/-- Where block i of a quantising copy goes in its destination: one piece of 64 bytes, or one of 8 in each plane (R138, R364). -/
def Card.pieces (c : Card) (i : Nat) : List Nat :=
  let nb := c.row / 64
  let r := i / nb
  let b := i % nb
  if c.planar then (upFrom 0 8).map (fun pl => r * 512 + pl * 64 + b * 8) else [r * c.row + b * 64]

/-- The bytes of the pieces. -/
def Card.pieceBytes (c : Card) (ws : List Nat) : List (List Byte) :=
  if c.planar then (upFrom 0 8).map (planeBytes ws) else [ws.map (BitVec.ofNat 8)]

/-- Where the bits of elements beyond the row length stand in the plane layout, written as zero with the row's last block
(R364): places and length. -/
def Card.padding (c : Card) (i : Nat) : List Nat × Nat :=
  let nb := c.row / 64
  if c.planar && decide (nb < 8) && decide ((i + 1) % nb = 0) then
    ((upFrom 0 8).map (fun pl => i / nb * 512 + pl * 64 + nb * 8), 64 - nb * 8)
  else ([], 0)

/-- The run of a quantising card's scale vector. -/
def Job.scales (j : Job) : Run := j.writes.getD 1 noRun

/-- A block of a quantising copy is written. -/
def Trail.putBlock {s : State} (t : Trail s) (j : Job) (c : Card) (i scale : Nat) (ws : List Nat) : Trail s :=
  (forEach t ((c.pieces i).zip (c.pieceBytes ws)) (fun t p => t.runPut j j.dst! p.1 p.2)).runPut j j.scales (4 * i) (leBytes scale 4)

/-- The bits beyond a row are written. -/
def Trail.padRow {s : State} (t : Trail s) (j : Job) (c : Card) (i : Nat) : Trail s :=
  let p := c.padding i
  forEach t p.1 (fun t off => t.runPut j j.dst! off (List.replicate p.2 0))

/-- Why a block of a quantising copy fails: what it reads and every piece that it writes. (DEDUCED, log 43) -/
def State.quantFail (s : State) (j : Job) (c : Card) (i : Nat) : Option Nat :=
  let size := 64 * c.elem
  let pad := c.padding i
  let outs := (c.pieces i).map (fun off => (j.dst!, off, if c.planar then 8 else 64)) ++ pad.1.map (fun off => (j.dst!, off, pad.2)) ++
    [(j.scales, 4 * i, 4)]
  if s.compAt j j.src! (i * size) size || outs.any (fun o => s.compAt j o.1 o.2.1 o.2.2) then some 8
  else (s.readFail j j.src! (i * size) size).or (outs.filterMap (fun o => s.writeFail j o.1 o.2.1 o.2.2)).head?

/-- The values of the tile as the staging buffer holds it, block by block (R138). -/
def State.tile (s : State) (j : Job) (c : Card) (i : Nat) : List FVal :=
  (elements c.elem 64 (s.runBytes j j.src! (i * 64 * c.elem) (64 * c.elem))).map (srcFormat c.p0).value

/-- What a quantising job has found: the first block with an infinity or a NaN, zblk and tiny (R139). -/
structure Quantised where
  bad : Option Nat
  zblk : Bool
  tiny : Bool
  deriving DecidableEq, Repr

/-- Quantise one block of a tile that was read before any block is written; a block with an infinity or a NaN is left out
(R138, R139). -/
def Trail.quantBlock {s : State} (j : Job) (c : Card) (tile : Nat → List FVal) (i : Nat) (a : Trail s × Quantised) :
    Except Ended (Trail s × Quantised) :=
  let (t, q) := a
  match t.1.quantFail j c i with
  | some code => .error (code, i * 64 * c.elem / 256)
  | none =>
    let vs := tile i
    let (scale, z, tiny) := blockScale c.planes vs
    let t := t.runTouch j j.src! (i * 64 * c.elem) (64 * c.elem)
    if vs.all (fun v => match v with | .num _ _ _ => true | _ => false) then
      .ok ((t.putBlock j c i scale (if z then List.replicate 64 0 else blockValues c.planes scale vs)).padRow j c i,
        { q with zblk := q.zblk || z, tiny := q.tiny || tiny })
    else .ok (t.padRow j c i, { q with bad := some (q.bad.getD i) })

/-! ### zcpy (R140) -/

/-- What a compressing job has written: directory entries so far, the next free offset, and whether a chunk went raw. -/
structure Packed where
  dir : List Nat
  next : Nat
  rawc : Bool
  deriving DecidableEq, Repr

/-- The first failing 256-byte block of a chunk of the source. -/
def State.chunkFail (s : State) (j : Job) (i n : Nat) : Option Ended :=
  ((upFrom 0 ((n + 255) / 256)).filterMap (fun b =>
    let off := 8192 * i + 256 * b
    let k := min 256 (j.len - off)
    (if s.compAt j j.src! off k then some 8 else s.readFail j j.src! off k).map (fun code => (code, 32 * i + b)))).head?

/-- A part of a compressed buffer cannot be written: a page that is not marked comp, then address and denial errors. -/
def State.codedFail (s : State) (j : Job) (off len : Nat) : Option Nat :=
  if !s.compAll j j.dst! off len then some 8 else s.writeFail j j.dst! off len

/-- Compress one chunk (R140). -/
def Trail.packChunk {s : State} (j : Job) (i : Nat) (a : Trail s × Packed) : Except Ended (Trail s × Packed) :=
  let (t, p) := a
  let n := min 8192 (j.len - 8192 * i)
  match t.1.chunkFail j i n with
  | some e => .error e
  | none =>
    let data := t.1.runBytes j j.src! (8192 * i) n
    let enc := lz4Encode data
    let raw := decide (8192 < enc.length)
    let out := if raw then data else enc
    match t.1.codedFail j p.next out.length with
    | some code => .error (code, 32 * i)
    | none =>
      .ok ((t.runTouch j j.src! (8192 * i) n).runPut j j.dst! p.next out,
        { dir := p.dir ++ [p.next % 2 ^ 32 + out.length * 2 ^ 32 + bitAt raw 63], next := roundUp (p.next + out.length) 64
          rawc := p.rawc || raw })

/-- The header and directory of a compressed buffer of n chunks. -/
def Packed.head (p : Packed) (len n : Nat) : List Byte := leBytes len 8 ++ leBytes n 4 ++ List.replicate 52 0 ++ packWords 8 p.dir

/-- The chunks of a compressing job, and once they are all written its header and directory. (DEDUCED, log 43) -/
def Trail.pack {s : State} (t : Trail s) (j : Job) (units : List Nat) : (Trail s × Packed) × Option (Nat × Ended) :=
  let n := (j.len + 8191) / 8192
  let start : Packed := { dir := [], next := roundUp (64 + 8 * n) 64, rawc := false }
  match t.1.codedFail j 0 (64 + 8 * n) with
  | some code => ((t, start), some (0, (code, 0)))
  | none =>
    let r := inUnits (Trail.packChunk j) units (t, start)
    if r.2.isNone && decide (r.1.2.dir.length = n) then ((r.1.1.runPut j j.dst! 0 (r.1.2.head j.len n), r.1.2), none) else r

/-! ### Completion (R136, R170, R344) -/

/-- The word that a job's end writes (R136). -/
def Job.endWord (j : Job) (e : Ended) : Nat := if e.1 = 0 then j.cval else 2 ^ 63 + e.1 % 128 * 2 ^ 56 + e.2 % 2 ^ 48

/-- The COURIER record of a job's end (R215). -/
def Job.endRec (j : Job) (e : Ended) : Rec :=
  { kind := 7, source := courierSource (clusterOf j.core), cls := 1, core := j.core, slot := j.slot, after := j.after
    op := e.1, input := leBytes j.cw 4 ++ leBytes (j.endWord e) 8 }

/-- The job's accesses enter the histories, as those of slot 15 (R174, R176, R177); an expansion's chunks have done so
already, and a job that is cancelled in its queue has accessed nothing but its completion word. -/
def Trail.enterJob {s : State} (t : Trail s) (j : Job) : Trail s :=
  let acc := fun (w a : Bool) => ({ agent := j.agent, epoch := lookD j.vc j.agent 0, slot := 15, write := w, atomic := a } : Access)
  let put1 := fun (k : Core) (w a : Bool) (off len : Nat) => (granules off len).foldl (fun k g =>
    k.setHistory (.gran g) (enter (k.history (.gran g)) (acc w a) j.vc)) k
  let base := match t.1.task? j.task with | some x => x.localBase | none => 0
  let reads := if j.state = 1 then [] else j.reads
  let writes := if j.state = 1 then [] else j.writes
  let t := t.modCore j.core (fun k =>
    let k := reads.foldl (fun k r => if r.virt then k else put1 k false false r.phys r.len) k
    let k := writes.foldl (fun k r => if r.virt || j.kind == 3 then k else put1 k true false r.phys r.len) k
    put1 k true true (base + j.cw) 8)
  t.modTask j.task (fun x =>
    let keys := writes.filterMap (fun r => if r.virt then
      (match x.ext.find? (fun e => decide (e.2.vbase ≤ r.adr) && decide (r.adr < e.2.vbase + e.2.len)) with
       | some e => x.shareKey e.2 r.adr
       | none => none) else none)
    { x with hShare := keys.foldl (fun h k => put h k [acc true false]) x.hShare })

/-- A job ends: its word is written with release, its tags clear, and who waits for it goes on (R135, R136). -/
def Trail.endJob {s : State} (t : Trail s) (n : Nat) (j : Job) (e : Ended) (zblk tiny rawc : Bool) : Trail s :=
  let base := match t.1.task? j.task with | some x => x.localBase | none => 0
  let t := t.enterJob j
  let t := t.act (.job n (some { j with state := 3, code := e.1, zblk := zblk, tiny := tiny, rawc := rawc }))
  let t := t.modCore j.core (fun k => { k with
    tags := k.tags.filter (fun g => decide (g.job ≠ n)), portQ := k.portQ.filter (fun q => decide (q ≠ n)) })
  let t := t.localWrite j.core (base + j.cw) (leBytes (j.endWord e) 8) [{ vc := j.vc, place := j.core, scope := 0 }]
  ((((t.countDelivery j.core false).retry j.core).pokePort j.core).pokeTask j.task).pendOnce .courierJobStart [clusterOf j.core]

/-- Some byte of a job's runs lies in a package that no port leads to (R22). -/
def State.jobCutOff (s : State) (j : Job) : Bool := (j.reads ++ j.writes).any (fun r => r.virt && !s.reaches r.phys)

/-- A logged act of a job. -/
def Trail.jobLogged {s : State} (t : Trail s) (j : Job) (r : Rec) (d : Due) (go : Effect s) : Trail s :=
  match t.1.jobPart j with
  | some n => t.unitLogged n r d go
  | none => go t

/-- The card of a job. -/
def Job.card (j : Job) : Card :=
  { kind := j.kind, src := j.src, dst := j.dst, len := j.len, cw := j.cw, cval := j.cval, ver := j.ver, flags := j.flags
    p0 := j.p0, p1 := j.p1, p2 := j.p2 }

/-- The 256-byte blocks of a job's stream that make one of the units it works in, and how many units it has (R144, R145): 256-byte
blocks of a `cpy`, scale blocks of a `qcpy`, chunks of a `zcpy`. -/
def Job.unitOfBlock (j : Job) (b : Nat) : Nat :=
  match j.kind with | 0 => b | 1 => 256 * b / (64 * j.card.elem) | _ => b / 32
def Job.unitCount (j : Job) : Nat :=
  match j.kind with | 0 => (j.len + 255) / 256 | 1 => j.card.rows * j.card.row / 64 | _ => (j.len + 8191) / 8192

/-- The result of moving a job's bytes: the work, what ended it, and its flags zblk, tiny and rawc. -/
structure Moved (s : State) where
  trail : Trail s
  fails : Option (Nat × Ended)
  zblk : Bool
  tiny : Bool
  rawc : Bool

/-- A job that is no expansion moves its first units (R137-R140). -/
def Trail.moveUnits {s : State} (t : Trail s) (j : Job) (units : List Nat) : Moved s :=
  match j.kind with
  | 0 => let r := inUnits (Trail.copyBlock j) units t
         ⟨r.1, r.2, false, false, false⟩
  | 1 => let r := inUnits (Trail.quantBlock j j.card (t.1.tile j j.card)) units (t, ⟨none, false, false⟩)
         ⟨r.1.1, r.2.or (r.1.2.bad.map (fun i => (i, 5, i))), r.1.2.zblk, r.1.2.tiny, false⟩
  | _ => let r := t.pack j units
         ⟨r.1.1, r.2, false, false, r.1.2.rawc⟩

/-- COURIER_JOB_COMPLETE: a job has done its work, or has been stopped, and its completion word is written (R136, R144, R145). The
environment may say after how many units a cancelled job stops, and which 256-byte block of its stream fails at its guard tag: that
block is not written. A job that is cancelled ends with code 7, at the first unit not written, whatever else ends it (R368).
(DESIGN CHOICE, log 42) -/
def execCourierJobComplete (s : State) : Host.Outcome State Fault Refusal :=
  event s (fun t =>
    let n := s.arg 0
    match look t.1.jobs n with
    | none => t
    | some j =>
      if t.1.jobHalted j || j.state == 3 || (j.state == 1 && !j.cancel) || j.kind == 3 && j.state == 2 then t
      else if j.state == 2 && t.1.jobCutOff j then t.linkError
      else
        let finish := fun (u : Trail s) (e : Ended) (z ti ra : Bool) =>
          t.jobLogged j (j.endRec e) ⟨.courierJobComplete, s.args⟩ (fun _ => u.endJob n j e z ti ra)
        if j.state = 1 then finish t (7, 0) false false false
        else
          let guard := (s.args[2]?).filter (fun b => decide (256 * b < j.len))
          let stop := min (if j.cancel then s.arg 1 else j.unitCount) (min j.unitCount ((guard.map j.unitOfBlock).getD j.unitCount))
          let m := t.moveUnits j (upFrom 0 stop)
          finish m.trail
            (if j.cancel then (7, (m.fails.map (·.1)).getD stop)
             else (m.fails.map (·.2)).getD ((guard.map (fun b => (4, b))).getD (0, 0)))
            m.zblk m.tiny m.rawc)

/-! ### xcpy (R141-R143, R366) -/

/-- The task's local base of a job, and its ring block's offset in the core's local store. -/
def State.ringBlock (s : State) (j : Job) : Nat := s.ringAt j

def State.ringNum (s : State) (j : Job) (off len : Nat) : Nat := s.loc.read (locKey j.core (s.ringBlock j + off)) len

/-- The chunk count of a buffer, and its raw length (R140). -/
def State.bufferChunks (s : State) (j : Job) : Nat := leNat (s.runBytes j j.src! 8 4)
def State.bufferLen (s : State) (j : Job) : Nat := leNat (s.runBytes j j.src! 0 8)

/-- First chunk, and how many the card asks for (R364). -/
def Job.firstChunk (j : Job) : Nat := j.p1 % 2 ^ 32
def State.wanted (s : State) (j : Job) : Nat :=
  if j.p1 / 2 ^ 32 = 0 then s.bufferChunks j - j.firstChunk else j.p1 / 2 ^ 32

/-- The raw length of chunk i. -/
def State.rawLen (s : State) (j : Job) (i : Nat) : Nat :=
  if i + 1 < s.bufferChunks j then 8192 else s.bufferLen j - 8192 * i

/-- The directory entry of chunk i of a buffer (R140). -/
def State.chunkEntry (s : State) (j : Job) (i : Nat) : Nat := leNat (s.runBytes j j.src! (64 + 8 * i) 8)

/-- The data of chunk i, or the code of its failure (R136, R142). -/
def State.expand (s : State) (j : Job) (i : Nat) : Except Nat (List Byte) :=
  let src := j.src!
  let fail := fun (off len : Nat) =>
    if src.len < off + len then some 6
    else if !s.compAll j src off len then some 8
    else s.readFail j src off len
  match fail 0 64 with
  | some c => .error c
  | none =>
    if s.bufferChunks j ≤ i then .error 6
    else
      match fail (64 + 8 * i) 8 with
      | some c => .error c
      | none =>
        let e := s.chunkEntry j i
        let off := e % 2 ^ 32
        let n := bits e 45 32
        if bits e 62 46 ≠ 0 ∨ off % 64 ≠ 0 ∨ n = 0 then .error 6
        else
          match fail off n with
          | some c => .error c
          | none =>
            let data := s.runBytes j src off n
            match (if bit e 63 then some data else lz4Decode data) with
            | none => .error 6
            | some d => if d.length = s.rawLen j i ∧ d.length ≤ 8192 then .ok d else .error 6

/-- An atomic of the courier on a word of a ring block, as its record has it (R142, R215). -/
def Job.ringRec (j : Job) (aop size ord off b : Nat) : Rec :=
  { kind := 1, source := coreSource j.core, cls := 1, core := j.core, slot := j.slot, after := j.after, op := aop
    input := leBytes (j.dst + off) 8 ++ leBytes size 1 ++ leBytes (ord * 4) 1 ++ leBytes b 8 }

/-- Write a word of the ring block as an atomic of the job: it continues the release sequences of the old value, and heads one
of its own when it releases (R182). The job acquires when it takes permits. -/
def Trail.ringPut {s : State} (t : Trail s) (n : Nat) (j : Job) (off size v : Nat) (acq rel : Bool) : Trail s :=
  let a := t.1.ringBlock j + off
  let hs := (t.1.core j.core).headsOf a size
  let vc := if acq then hs.foldl (fun (v : Clock) h => if meets h 0 j.core then v.join h.vc else v) j.vc else j.vc
  let w : Access := { agent := j.agent, epoch := lookD vc j.agent 0, slot := 15, write := true, atomic := true }
  let t := t.modCore j.core (fun k => k.setHistory (.gran (a / 32)) (enter (k.history (.gran (a / 32))) w vc))
  let t := t.localWrite j.core a (leBytes v size) (hs ++ (if rel then [{ vc := vc, place := j.core, scope := 0 }] else []))
  t.modJob n (fun j => { j with vc := if rel then vc.bump j.agent else vc })

/-- The slot of the k-th chunk of a job. -/
def Job.slotOf (j : Job) (nslots k : Nat) : Nat := (j.firstSlot + k) % nslots

/-- The granule tag of a slot of a job's ring. -/
def State.slotTag (s : State) (n : Nat) (j : Job) (slot : Nat) : Tag :=
  { job := n, first := ((match s.task? j.task with | some x => x.localBase | none => 0) + s.ringNum j 0 4) / 32 + 256 * slot, count := 256
    write := true }

/-- A chunk is read and written to its slot: its directory entry and its bytes count as accesses, the first chunk's with the buffer's header. -/
def Trail.putChunk {s : State} (t : Trail s) (j : Job) (k slot : Nat) (d : List Byte) : Trail s :=
  let w : Access := { agent := j.agent, epoch := lookD j.vc j.agent 0, slot := 15, write := true, atomic := false }
  let i := j.firstChunk + k
  let e := t.1.chunkEntry j i
  let t := if k = 0 then t.runTouch j j.src! 0 64 else t
  let t := (t.runTouch j j.src! (64 + 8 * i) 8).runTouch j j.src! (e % 2 ^ 32) (bits e 45 32)
  (t.runPut j j.dst! (8192 * slot) d).modCore j.core (fun c =>
    (granules (j.dst!.phys + 8192 * slot) 8192).foldl (fun c g => c.setHistory (.gran g) (enter (c.history (.gran g)) w j.vc)) c)

/-- Chunks with a slot whose lanes still run. -/
def Job.lanes (j : Job) : List Nat := (upFrom j.delivered (j.given - j.delivered)).filter (fun k => !j.written.contains k)

/-- How many chunks may be delivered now: the next ones in order that are written, none of them failed (R142, R143). -/
def Job.intact (j : Job) : Nat :=
  ((upFrom j.delivered (j.given - j.delivered)).takeWhile (fun k => j.written.contains k &&
    (match j.failed with | some (f, _) => decide (j.firstChunk + k < f) | none => true))).length

/-- The lane that finishes next: any of those that run (R142). (DESIGN CHOICE, log 42) -/
def State.nextLane (s : State) (n : Nat) (j : Job) : Option Nat :=
  match j.lanes with
  | [] => none
  | [k] => some k
  | l => l[Config.laneFirst s.tick n % l.length]?

/-- A chunk's lane stops with a failure: of several failures the lowest chunk's is named (R143). -/
def Job.fails (j : Job) (k code : Nat) : Job :=
  let i := j.firstChunk + k
  { j with written := j.written ++ [k], failed := match j.failed with | some f => if f.1 < i then some f else some (i, code) | none => some (i, code) }

/-- A lane finishes: the chunk is written to its slot, or has failed. -/
def Trail.laneEnds {s : State} (t : Trail s) (n : Nat) (j : Job) (nslots k : Nat) : Trail s :=
  match t.1.expand j (j.firstChunk + k) with
  | .error code => t.modJob n (fun j => j.fails k code)
  | .ok d => (t.putChunk j k (j.slotOf nslots k) d).modJob n (fun j => { j with written := j.written ++ [k] })

/-- An expansion that fails or is cancelled gives its permits back, sets next to the first slot not delivered, and completes;
each act one step (R143, R145). -/
def Trail.windDown {s : State} (t : Trail s) (n : Nat) (j : Job) (nslots : Nat) (e : Ended) (again : Due) : Trail s :=
  let back := j.taken - j.delivered
  if 0 < back then
    let v := (t.1.ringNum j 8 8 + back) % 2 ^ 64
    t.jobLogged j (j.ringRec 0 8 2 8 back) again (fun t =>
      ((t.ringPut n j 8 8 v false true).modJob n (fun j => { j with taken := j.delivered })).pend again.step again.args)
  else if j.delivered < j.given then
    let v := j.slotOf nslots j.delivered
    t.jobLogged j (j.ringRec 8 4 0 24 v) again (fun t =>
      ((t.ringPut n j 24 4 v false false).modJob n (fun j => { j with given := j.delivered })).pend again.step again.args)
  else t.jobLogged j (j.endRec e) again (fun t => t.endJob n j e false false false)

/-- How an expansion ends before it has taken a permit: a ring block with an uncorrectable error or a bad field, or a first chunk past the
buffer's (R141, R198, R364). -/
def State.ringFails (s : State) (j : Job) : Option Ended :=
  let nslots := s.ringNum j 4 1
  let at_ := s.ringBlock j
  if s.bad.any (fun b => decide (b.1 = 2) && decide (b.2.1 = j.core) && decide (at_ / 8 ≤ b.2.2) && decide (b.2.2 < at_ / 8 + 8)) then
    some (2, j.firstChunk + j.delivered)
  else if j.taken ≠ 0 ∨ j.given ≠ 0 ∨ j.failed.isSome then none
  else if nslots = 0 ∨ 64 < nslots ∨ s.ringNum j 5 3 ≠ 0 ∨ s.ringNum j 28 36 ≠ 0 ∨ s.ringNum j 0 4 % 64 ≠ 0 then some (6, 0)
  else if s.bufferChunks j < j.firstChunk then some (6, j.firstChunk)
  else none

/-- XCPY_CHUNK_DELIVER: one act of an expansion. The bits of chunks that are intact in order come first, then the slot of a chunk that
has its permit, then a further permit, then a lane that finishes; once nothing runs, the job comes to its end (R142, R143). The
environment may say that a guard tag of a running chunk fails (R144). (DESIGN CHOICE, log 42) -/
def execXcpyChunkDeliver (s : State) : Host.Outcome State Fault Refusal :=
  event s (fun t =>
    let n := s.arg 0
    match look t.1.jobs n with
    | none => t
    | some j =>
      if j.kind ≠ 3 ∨ j.state ≠ 2 ∨ t.1.jobHalted j then t
      else if t.1.jobCutOff j then t.linkError
      else
        let again : Due := ⟨.xcpyChunkDeliver, [n]⟩
        let goOn : Effect s := fun t => t.pend .xcpyChunkDeliver [n]
        match t.1.ringFails j with
        | some e => t.jobLogged j (j.endRec e) again (fun t => t.endJob n j e false false false)
        | none =>
          let nslots := t.1.ringNum j 4 1
          let total := t.1.wanted j
          let live := j.failed.isNone && !j.cancel
          let guard := (s.args[2]?).filter (fun i => decide (j.firstChunk ≤ i) && j.lanes.contains (i - j.firstChunk))
          if 0 < j.intact then
            let slots := (upFrom j.delivered j.intact).map (j.slotOf nslots)
            let v := (slots.map (2 ^ ·)).foldl Nat.lor 0
            t.jobLogged j (j.ringRec 2 8 2 16 v) again (fun t =>
              let gone := slots.map (t.1.slotTag n j)
              let t := t.modCore j.core (fun c => { c with tags := c.tags.filter (fun g => !gone.contains g) })
              goOn ((t.ringPut n j 16 8 (Nat.lor (t.1.ringNum j 16 8) v) false true).modJob n (fun q => { q with
                delivered := j.delivered + j.intact, written := q.written.filter (fun k => decide (j.delivered + j.intact ≤ k)) })))
          else
            match guard with
            | some i => goOn (t.modJob n (fun q => q.fails (i - j.firstChunk) 4))
            | none =>
              if live && decide (j.given < j.taken) then
                let k := j.given
                let slot := t.1.ringNum j 24 4 % nslots
                t.jobLogged j (j.ringRec 10 4 0 24 (nslots - 1)) again (fun t =>
                  let t := (t.ringPut n j 24 4 (if nslots ≤ slot + 1 then 0 else slot + 1) false false).modJob n (fun j =>
                    { j with given := j.given + 1, firstSlot := if k = 0 then slot else j.firstSlot })
                  let g := t.1.slotTag n j slot
                  goOn (t.modCore j.core (fun c => if c.tags.contains g then c else { c with tags := c.tags ++ [g] })))
              else if live && decide (j.taken < total) && decide (j.taken - j.delivered < nslots) && decide (j.lanes.length < 4) &&
                  decide (0 < t.1.ringNum j 8 8) then
                t.jobLogged j (j.ringRec 0 8 1 8 (2 ^ 64 - 1)) again (fun t =>
                  goOn ((t.ringPut n j 8 8 (t.1.ringNum j 8 8 - 1) true false).modJob n (fun j => { j with taken := j.taken + 1 })))
              else
                match t.1.nextLane n j with
                | some k => goOn (t.laneEnds n j nslots k)
                | none =>
                  match j.failed with
                  | some f => t.windDown n j nslots (if j.cancel then (7, f.1) else (f.2, f.1)) again
                  | none =>
                    if j.cancel then t.windDown n j nslots (7, j.firstChunk + j.delivered) again
                    else if j.delivered = total then t.windDown n j nslots (0, 0) again
                    else t)

/-! ### jstat and jcancel (R367, R368) -/

/-- The job that a tag names among the recent ones of the port, if it belongs to the thread's task. -/
def Ctx.jobOf (x : Ctx) (tag : Nat) : Option (Nat × Job) :=
  (x.k.recent.filterMap (fun n => (look x.s.jobs n).map (fun j => (n, j)))).find? (fun p => decide (p.2.tag = tag % 65536) &&
    decide (p.2.task = x.th.task))

/-- The status word of `jstat` (R367). -/
def statWord (tag : Nat) (j : Option Job) : Nat :=
  tag % 65536 * 2 ^ 48 + (match j with
    | some j => j.state * 2 ^ 40 + (if j.state = 3 then j.code * 2 ^ 32 else 0) + bitAt j.rawc 2 + bitAt j.tiny 1 + bitAt j.zblk 0
    | none => 0)

/-- jstat (R367). -/
def execJstat (d a : Nat) (s : State) : Host.Outcome State Fault Refusal :=
  issue (.jstat d a) s (fun x => do
    let _ ← x.check a .int
    let dd ← x.check d .int
    let v ← x.read0 a
    let r ← x.assignInt dd (statWord v ((x.jobOf v).map (·.2))) 0
    .ok (own x (fun th => th.setLane0 x.k.vt d r)))

/-- jcancel: a job that is queued or running will stop (R145, R368). -/
def execJcancel (a : Nat) (s : State) : Host.Outcome State Fault Refusal :=
  issue (.jcancel a) s (fun x => do
    let _ ← x.check a .int
    let v ← x.read0 a
    match x.jobOf v with
    | some (n, j) =>
      if j.state = 3 then .ok (own x (fun th => th.replied 1 0))
      else
        .ok (fun t => (own x (fun th => th.replied 0 0) (t.modJob n (fun j => { j with cancel := true }))).pendOnce
          (if j.state = 1 then .courierJobComplete else jobStep j) [n])
    | none => .ok (own x (fun th => th.replied 1 0)))

end Sys2Proof.Machine
end

