-- ==== Sys2Proof/Machine/Sha256.lean ====
section
/-!
DEFINITION. SHA-256, by which the measurement registers are extended (R57), over bytes as numbers. The rule names the
function alone. Its constants are computed here from what they are, fractions of roots of primes, and its working words are
held as the two sequences that a round extends. (PRESUMED, log 87)
-/

namespace Sys2Proof.Machine

/-- The largest r, of n bits, with r ^ k ≤ v. -/
def rootOf (k v : Nat) : Nat → Nat
  | 0 => 0
  | n + 1 =>
    let high := rootOf k (v / 2 ^ k) n
    if (2 * high + 1) ^ k ≤ v then 2 * high + 1 else 2 * high

/-- The 64 primes below 312. -/
def primes : List Nat := (upFrom 2 310).filter (fun p => (upFrom 2 (min 16 (p - 2))).all (fun d => decide (p = d) || decide (p % d ≠ 0)))

/-- The first 32 bits of the fraction of a k-th root. -/
def rootFraction (k p : Nat) : Nat := rootOf k (p * 2 ^ (32 * k)) 37 % 2 ^ 32

/-- The constant of each round, and the two sequences that a message begins with. -/
def shaConstants : List Nat := primes.map (rootFraction 3)
def shaStart : List Nat := (primes.take 8).map (rootFraction 2)

/-- A word moved round by n places. -/
def turn (n w : Nat) : Nat := w * (2 ^ 32 + 1) / 2 ^ n % 2 ^ 32

/-- Exclusive or over several words. -/
def mix (l : List Nat) : Nat := l.foldl Nat.xor 0

/-- The two sequences, four words of each, latest first: what a round adds to is the earliest of each. -/
structure ShaState where
  a : List Nat
  e : List Nat
  deriving DecidableEq, Repr

/-- Where the first word has a one, the second; elsewhere the third. -/
def choose (p x y : Nat) : Nat := mix [y, Nat.land p (mix [x, y])]

/-- The i-th latest word of a sequence. -/
def back (l : List Nat) (i : Nat) : Nat := l.getD i 0

/-- One round, with its constant and schedule word. -/
def ShaState.round (s : ShaState) (constant word : Nat) : ShaState :=
  let lead := back s.e 0
  let low := back s.e 3 + mix ([6, 11, 25].map (turn · lead)) + choose lead (back s.e 1) (back s.e 2) + constant + word
  let top := back s.a 0
  let agree := choose (mix [back s.a 1, back s.a 2]) top (back s.a 1)
  let high := mix ([2, 13, 22].map (turn · top)) + agree
  { a := (low + high) % 2 ^ 32 :: s.a.take 3, e := (back s.a 3 + low) % 2 ^ 32 :: s.e.take 3 }

/-- The rounds of a block, with the last sixteen schedule words, latest first. -/
def ShaState.rounds : List Nat → List Nat → ShaState → ShaState
  | [], _, s => s
  | k :: r, w, s =>
    let near := mix [turn 17 (back w 1), turn 19 (back w 1), back w 1 / 1024]
    let far := mix [turn 7 (back w 14), turn 18 (back w 14), back w 14 / 8]
    ShaState.rounds r ((near + back w 6 + far + back w 15) % 2 ^ 32 :: w.take 15) (s.round k (back w 15))

/-- The number of bytes, the first most significant. -/
def beNat (l : List Nat) : Nat := l.foldl (fun v b => v * 256 + b % 256) 0

/-- The n low bytes of a number, the most significant first. -/
def beBytes (v n : Nat) : List Nat := ((leBytes v n).map (·.toNat)).reverse

/-- Two lists of words added place by place. -/
def addWords (x y : List Nat) : List Nat := (x.zip y).map (fun p => (p.1 + p.2) % 2 ^ 32)

/-- The state after one block of 64 bytes. -/
def ShaState.block (s : ShaState) (bytes : List Nat) : ShaState :=
  let words := (upFrom 0 16).map (fun i => beNat ((bytes.drop (4 * i)).take 4))
  let r := ShaState.rounds shaConstants words.reverse s
  { a := addWords s.a r.a, e := addWords s.e r.e }

/-- The state after n blocks. -/
def ShaState.blocks : Nat → List Nat → ShaState → ShaState
  | 0, _, s => s
  | n + 1, m, s => ShaState.blocks n (m.drop 64) (s.block (m.take 64))

/-- The digest of bytes as a number, its first byte most significant: a one follows the bytes, and their length in bits
ends the last block. -/
def sha256 (m : List Nat) : Nat :=
  let blocks := (m.length + 9 + 63) / 64
  let padded := m ++ 0x80 :: beBytes (8 * m.length) (64 * blocks - m.length - 1)
  let s := ShaState.blocks blocks padded { a := shaStart.take 4, e := shaStart.drop 4 }
  (s.a ++ s.e).foldl (fun v w => v * 2 ^ 32 + w) 0

end Sys2Proof.Machine
end

