-- ==== Sys2Proof/Machine/Trigger.lean ====
section
/-!
DEFINITION. The trigger network (R55): its firings, `snap` (R385), and a freeze of the package with its freeze record (R242,
R243).
-/

namespace Sys2Proof.Machine

/-- The number of the firing under way, or of the next one (R55). -/
def Pkg.firingNumber (p : Pkg) : Nat := p.snapshot + 1

/-- Fire the trigger network; a firing that arrives while another spreads is merged into it (R55). The blocks of each die
latch in a step of their own, the dies at different times. (DESIGN CHOICE, log 86) -/
def Trail.fire {s : State} (t : Trail s) : Trail s :=
  if t.1.pkg.firing then t
  else forEach (t.modPkg (fun p => { p with firing := true })) [0, 1, 2, 3] (fun t d => t.pend .snapshotFiringComplete [d])

/-- snap: the thread waits for the firing that its request joins (R385). -/
def execSnap (d : Nat) (s : State) : Host.Outcome State Fault Refusal :=
  issue (.snap d) s (fun x => do
    let _ ← x.check d .any
    .ok (fun t =>
      let t := waits x .inFlight [t.1.pkg.firingNumber] t
      (t.modPkg (fun p => { p with snapWait := p.snapWait ++ [(x.c, x.sl)] })).fire))

/-- A `snap` whose firing has completed writes its number and retires. -/
def Trail.snapped {s : State} (t : Trail s) (c sl : Nat) : Trail s :=
  t.resume c sl (fun x a =>
    match x.i, a with
    | .snap d, [n] => if x.s.pkg.snapshot < n then .ok id else do
      let dd ← x.check d .any
      let r ← x.assignAll dd n
      .ok (own x (x.assigned dd d r))
    | _, _ => .ok id)

/-- The snapshot registers of a die's blocks latch the firing under way, once (R55). (DESIGN CHOICE, log 86) -/
def Trail.latch {s : State} (t : Trail s) (d : Nat) : Trail s :=
  if t.1.pkg.firing && decide (d < 4) then t.modDie d (fun x => { x with latched := t.1.pkg.firingNumber }) else t

/-- Every block of the package has latched the firing under way (R55). -/
def State.latchedAll (s : State) : Bool := [0, 1, 2, 3].all (fun d => decide ((s.die d).latched = s.pkg.firingNumber))

/-- The firing completes: its number is the last that did, and the threads that wait for it are told (R55, R385). -/
def Trail.fired {s : State} (t : Trail s) : Trail s :=
  let waiting := t.1.pkg.snapWait
  let t := t.modPkg (fun p => { p with firing := false, snapshot := p.snapshot + 1, snapWait := [] })
  forEach t waiting (fun t w => t.pend .snapshotFiringComplete [w.1, w.2])

/-- SNAPSHOT_FIRING_COMPLETE: the blocks of a die latch the firing, which completes when every block has; for a core and
slot, the `snap` that waited there has its number (R55, R385). (DESIGN CHOICE, log 86) -/
def execSnapshotFiringComplete (s : State) : Host.Outcome State Fault Refusal :=
  event s (fun t =>
    match s.args with
    | [c, sl] => t.snapped c sl
    | _ =>
      let t := t.latch (s.arg 0)
      if t.1.pkg.firing && t.1.latchedAll then t.fired else t)

/-- A freeze record (R243). -/
def freezeWord (firing source die number core slot : Nat) : Nat :=
  firing % 2 ^ 32 * 2 ^ 32 + source * 2 ^ 30 + die * 2 ^ 28 + number * 2 ^ 24 + core * 16 + slot

/-- The package freezes: the trigger network fires, and the freeze record of every die names the hit or command of the
lowest die of the firing (R242, R243). -/
def Trail.freeze {s : State} (t : Trail s) (source die number core slot : Nat) : Trail s :=
  let w := freezeWord t.1.pkg.firingNumber source die number core slot
  let old := (t.1.die 0).dbg.freezeRec
  let keeps := t.1.pkg.firing && decide (old / 2 ^ 32 = w / 2 ^ 32) && decide (bits old 31 30 ≠ 0) && decide (bits old 29 28 ≤ die)
  let t := (t.modPkg (fun p => { p with frozen := true })).fire
  if keeps then t
  else forEach t [0, 1, 2, 3] (fun t d => t.modDie d (fun x => { x with dbg := { x.dbg with freezeRec := w } }))

end Sys2Proof.Machine
end

