-- ==== Sys2Proof/Machine/Registers.lean ====
section
/-!
DEFINITION. What the host and other masters reach: the register page (R32, R33), access tables and their edits (R48-R50, R57),
the debug block's registers (R235, R236, R244), device memory from the host (R14, R16, R49), attestation (R57), the trigger
register (R55) and the host link (R20). A field that a register table calls zero stays zero (R4).
-/

namespace Sys2Proof.Machine

/-! ### Denials and counts (R32, R49) -/

/-- A 32-bit count that saturates. -/
def countUp (n : BitVec 32) : BitVec 32 := if n = 0xFFFFFFFF then n else n + 1

/-- A request is rejected: a die's reject count rises. -/
def Trail.reject {s : State} (t : Trail s) (d : Nat) : Trail s := t.modDie d (fun x => { x with rejects := countUp x.rejects })

/-- A write of a host function to the register page: nothing while the link is down, discarded and counted where the page's
table denies it (R20, R49). It is a request that reaches die 0, whose stewards it wakes (R382). (DEDUCED, log 32) -/
def hostWrite (s : State) (go : Trail s → Trail s) : Host.Outcome State Fault Refusal :=
  event s (fun t =>
    if !s.host.linkUp then t
    else if !s.grants (hostTable s.pkg.num) (fnMaster s.pkg.num (s.arg 0)) none permWr then t.reject 0
    else go (t.wakeDie 0))

/-- A write that PF0 alone may make (R32, R33). -/
def pfWrite (s : State) (go : Trail s → Trail s) : Host.Outcome State Fault Refusal :=
  hostWrite s (fun t => if s.arg 0 ≠ 0 then t.reject 0 else go t)

/-! ### Requests that stewards carry out (R45) -/

/-- The stewards run: boot has reached stage 3 (R56), and no device-fatal fault has stopped them (R205). -/
def Pkg.runs (p : Pkg) : Bool := decide (3 ≤ p.stage) && !p.bootFailed && !p.fatal

/-- A request that the stewards of a die carry out: it waits while they restart or the package is frozen (R45, R242). (DESIGN CHOICE, log 12; DESIGN CHOICE, log 70) -/
def Trail.bySteward {s : State} (t : Trail s) (d : Nat) (step : Due) (go : Effect s) : Trail s :=
  if !t.1.pkg.runs then t
  else if (t.1.die d).restart || t.1.pkg.frozen then t.modPkg (fun p => { p with parked := p.parked ++ [(d, step)] })
  else go (t.wakeDie d)

/-- Requests that wait for stewards come again, in their order, where a test accepts their die. (DESIGN CHOICE, log 70) -/
def Trail.unpark {s : State} (t : Trail s) (ready : Nat → Bool) : Trail s :=
  let l := t.1.pkg.parked.filter (fun q => ready q.1)
  let t := t.modPkg (fun p => { p with parked := p.parked.filter (fun q => !ready q.1) })
  t.act (.agenda t.1.tick (l.map (·.2) ++ t.1.inputs) t.1.pending t.1.timers)

/-! ### Measurement (R57) -/

/-- Extend a measurement register by a 32-byte digest. (DESIGN CHOICE, log 15) -/
def Trail.extend {s : State} (t : Trail s) (i digest : Nat) : Trail s :=
  t.modPkg (fun p => { p with measure := setAt p.measure i (sha256 (beBytes (p.measure.getD i 0) 32 ++ beBytes digest 32)) })

/-- ATTESTATION_REQUEST: M0 to M3, the nonce and the security version, signed (R57). (DESIGN CHOICE, log 17) -/
def execAttestationRequest (s : State) : Host.Outcome State Fault Refusal :=
  hostWrite s (fun t =>
    if t.1.pkg.bootFailed then t
    else
      let body := t.1.pkg.measure ++ [s.arg 1, t.1.pkg.version]
      t.modHost (fun h => { h with reply := put h.reply (s.arg 0) (body ++ [Config.signature body]) }))

/-! ### Registers of the page (R32, R33) -/

/-- POWER_LIMIT_WRITE: the controller's next sample puts the value in use (R33). -/
def execPowerLimitWrite (s : State) : Host.Outcome State Fault Refusal :=
  pfWrite s (fun t =>
    let w := s.arg 1 % 65536
    if 300 ≤ w ∧ w ≤ 2200 then t.modHost (fun h => { h with powerNext := some w }) else t)

/-- MIGRATION_THRESHOLD_WRITE (R33). -/
def execMigrationThresholdWrite (s : State) : Host.Outcome State Fault Refusal :=
  pfWrite s (fun t => t.modHost (fun h => { h with migThreshold := s.arg 1 % 65536 }))

/-- SNAPSHOT_TRIGGER: a write of any value to the trigger register (R55). -/
def execSnapshotTrigger (s : State) : Host.Outcome State Fault Refusal := hostWrite s (fun t => t.fire)

/-! ### Access tables (R48-R50) -/

/-- A denied or unbacked write of a master: a host function's is counted (R16, R49). -/
def Trail.denied {s : State} (t : Trail s) (master : Nat) : Trail s := if master / 2 ^ 14 = 1 then t.reject 0 else t

/-- The fields of an access-table word that are not zero fields (R48). -/
def tableFields (a v : Nat) : Nat :=
  if a % 16 = 0 then bitAt (bit v 63) 63 + bits v 55 52 * 2 ^ 52 + v % 2 ^ 16 else v % 2 ^ 32

/-- A word of an access table is written, and M3 is extended (R50, R57). (DESIGN CHOICE, log 15) -/
def Trail.editTable {s : State} (t : Trail s) (a v : Nat) : Trail s :=
  let w := tableFields a v
  (t.act (.acl a w)).extend 3 (Config.editDigest a w)

/-- ACCESS_TABLE_EDIT: it needs ctrl at the target (R48, R50). -/
def execAccessTableEdit (s : State) : Host.Outcome State Fault Refusal :=
  event s (fun t =>
    let a := s.arg 1 / 8 * 8
    match s.control a with
    | .table _ _ => if s.mayControl (s.arg 0) a permCtrl then t.editTable a (s.arg 2) else t.denied (s.arg 0)
    | _ => t.denied (s.arg 0))

/-! ### The debug block (R235, R236, R244) -/

/-- A write to a register of the debug block that has no behaviour of its own. (DEDUCED, log 49) -/
def Debug.write (g : Debug) (off v : Nat) : Debug :=
  let w := (off / 8) % 2
  if off = 0 then { g with enable := bit v 63 }
  else if 0x100 ≤ off ∧ off < 0x200 then
    { g with bp := put g.bp ((off - 0x100) / 8) (if w = 0 then bits v 63 62 * 2 ^ 62 + v % 2 ^ 56 else v % 2 ^ 11) }
  else if 0x200 ≤ off ∧ off < 0x280 then
    { g with wp := put g.wp ((off - 0x200) / 8) (if w = 0 then bits v 63 59 * 2 ^ 59 + v % 2 ^ 56 else v % 2 ^ 43) }
  else if off = 0x300 then { g with traceBase := v / 4096 * 4096 }
  else if off = 0x308 then { g with traceSize := v / 4096 * 4096 }
  else if 0x320 ≤ off ∧ off < 0x340 then { g with sel := put g.sel ((off - 0x320) / 8) (bitAt (bit v 63) 63 + v % 2 ^ 11) }
  else g

/-- REGISTER_WRITE_OTHER: a register without behaviour of its own, of a debug block or of the mailbox, stores the value; a
write to any other offset is discarded (R4, R32, R235). -/
def execRegisterWriteOther (s : State) : Host.Outcome State Fault Refusal :=
  event s (fun t =>
    let m := s.arg 0
    let a := s.arg 1 / 8 * 8
    match s.control a with
    | .debug d off =>
      if s.mayControl m a permCtrl then t.modDie d (fun x => { x with dbg := x.dbg.write off (s.arg 2) }) else t.denied m
    | .page off =>
      if !s.mayControl m a permWr then t.denied m
      else if 0x500 ≤ off ∧ off < 0x600 then
        t.modHost (fun h => { h with mailbox := put h.mailbox (m % 256 * 256 + (off - 0x500)) (s.arg 2 % 2 ^ 64) })
      else t
    | _ => t.denied m)

/-! ### Device space from the host (R14, R16, R49) -/

/-- A host function may access a run of device memory; the second tier is not its to reach (R19). -/
def State.hostMay (s : State) (fn a len perm : Nat) : Bool := decide (0 < len) && s.mayAccessRun (fnMaster s.pkg.num fn) a len perm

/-- HOST_MEMORY_READ: data, poisoned where a unit of it has an uncorrectable error, or Unsupported Request (R16, R17, R49). (DEDUCED, log 82) -/
def execHostMemoryRead (s : State) : Host.Outcome State Fault Refusal :=
  event s (fun t =>
    let fn := s.arg 0
    let a := s.arg 1
    let len := s.arg 2
    let data := s.hostMay fn a len permRd
    let answer : Option (List Nat) :=
      if data then some ((s.mem.bytes a len).map (·.toNat))
      else if len = 8 ∧ a % 8 = 0 ∧ s.mayControl (fnMaster s.pkg.num fn) a permRd then some (natBytes (s.readControl fn a) 8)
      else none
    if s.host.linkUp then t.modHost (fun h => { h with lastRead := answer, lastPoison := data && (s.memBad a len).isSome }) else t)

/-- The step that a write of a control word is (R32, R50, R235, R240). (DEDUCED, log 82) -/
def State.controlStep (s : State) (fn a v : Nat) : Option Due :=
  let m := fnMaster s.pkg.num fn
  match s.control a with
  | .table _ _ => some ⟨.accessTableEdit, [m, a, v]⟩
  | .debug d 8 =>
    let slot := [m, d, d * 128 + bits v 10 4, v % 16]
    (match v / 2 ^ 56 with
     | 1 => some ⟨.debugFreeze, [m, d]⟩
     | 2 => some ⟨.debugThaw, [m, d]⟩
     | 3 => some ⟨.debugStop, slot⟩
     | 4 => some ⟨.debugGo, slot⟩
     | 5 => some ⟨.debugStep, slot⟩
     | _ => none)
  | .debug _ _ => some ⟨.registerWriteOther, [m, a, v]⟩
  | .page off =>
    (match off with
     | 0x000 => some ⟨.submissionWrite, [fn, 0, v]⟩
     | 0x040 => some ⟨.submissionWrite, [fn, 1, v]⟩
     | 0x080 => some ⟨.submissionWrite, [fn, 2, v]⟩
     | 0x0C0 => some ⟨.submissionWrite, [fn, 3, v]⟩
     | 0x200 =>
       (if bits v 55 16 ≠ 0 then some ⟨.queueCommandBadOp, [fn, v]⟩
        else match v / 2 ^ 56 with
          | 1 => some ⟨.queuePreempt, [fn, v % 65536]⟩
          | 2 => some ⟨.queueResume, [fn, v % 65536]⟩
          | 3 => some ⟨.queueAbort, [fn, v % 65536]⟩
          | _ => some ⟨.queueCommandBadOp, [fn, v]⟩)
     | 0x300 =>
       (match v / 2 ^ 56 with
        | 1 => some ⟨.regionActivate, [fn, v % 2 ^ 52]⟩
        | 2 => some ⟨.regionDeactivate, [fn, v % 2 ^ 52]⟩
        | _ => some ⟨.regionCommandBadOp, [fn, v]⟩)
     | 0x400 => some ⟨.snapshotTrigger, [fn, v]⟩
     | 0x600 => some ⟨.powerLimitWrite, [fn, v]⟩
     | 0x608 => some ⟨.migrationThresholdWrite, [fn, v]⟩
     | _ => some ⟨.registerWriteOther, [m, a, v]⟩)
  | .unbacked => none

/-- HOST_MEMORY_WRITE: bytes of device memory are written, a control word is written by the step that it is, and any other
write is discarded and counted (R16, R49). (DEDUCED, log 82) -/
def execHostMemoryWrite (s : State) : Host.Outcome State Fault Refusal :=
  event s (fun t =>
    let fn := s.arg 0
    let a := s.arg 1
    let bs := s.args.drop 2
    if !s.host.linkUp then t
    else if s.hostMay fn a bs.length permWr then t.memStore a (bs.map (BitVec.ofNat 8))
    else if bs.length = 8 ∧ a % 8 = 0 then
      (match s.controlStep fn a (leNat (bs.map (BitVec.ofNat 8))), s.control a with
       | some d, _ => t.act (.agenda t.1.tick (d :: t.1.inputs) t.1.pending t.1.timers)
       | none, .unbacked => t.reject 0
       | none, _ => t)
    else t.reject 0)

/-! ### The host link (R20) -/

/-- HOST_LINK_DOWN: work already on the device keeps running (R20). -/
def execHostLinkDown (s : State) : Host.Outcome State Fault Refusal := event s (fun t => t.modHost (fun h => { h with linkUp := false }))

/-- HOST_LINK_RETRAIN: submissions resume (R20). -/
def execHostLinkRetrain (s : State) : Host.Outcome State Fault Refusal := event s (fun t => t.modHost (fun h => { h with linkUp := true }))

end Sys2Proof.Machine
end

