-- ==== Sys2Proof/Machine/Graph.lean ====
section
/-!
DEFINITION. Graphs and nodes (R58-R65): their records and checks, append with derived edges, completion and removal, aborts,
and the completion of launch records (R40, R53, R63).
-/

namespace Sys2Proof.Machine

/-! ### Completing records (R40, R42, R53) -/

/-- A queue's state outside pre-emption (R42). -/
def Queue.settled (q : Queue) : Queue := if q.state ≤ 1 then { q with state := if q.done = q.count then 0 else 1 } else q

/-- The payload of a RECORD event. -/
def recordPayload (e : Option RecError) (seq : Nat) : List Nat :=
  match e with
  | none => List.replicate 16 0 ++ natBytes seq 4
  | some e =>
    natBytes e.kind 2 ++ natBytes e.node 2 ++ [e.thread % 256, e.lane % 256, e.reason % 256, 0] ++ natBytes e.adr 8 ++
      natBytes seq 4

/-- A write of a completion word by the device: backed, and permitted to the partition's master, or nothing (R40). (DESIGN CHOICE, log 94) -/
def Trail.putCword {s : State} (t : Trail s) (n cword cval : Nat) (vc : Clock) : Trail s :=
  if cword ≠ 0 ∧ backed cword ∧ backed (cword + 7) ∧ t.1.mayAccess (partMaster t.1.pkg.num n) cword permWr then
    t.memPut cword (leBytes cval 8) [{ vc := vc, place := n * 8, scope := 2 }]
  else t

/-- A launch record completes: its word, its count, its event (R40). -/
def Trail.recordDone {s : State} (t : Trail s) (n i seq cword cval : Nat) (e : Option RecError) (vc : Clock) : Trail s :=
  let t := t.putCword n cword cval vc
  let t := t.modQueue n i (fun q => ({ q with done := q.done + 1 } : Queue).settled)
  match (t.1.part? n).bind (fun p => look p.queues i) with
  | some q => t.postEvent q.owner (queueSource n i) 1 (recordPayload e seq)
  | none => t

/-! ### Node records (R59-R61) -/

/-- A footprint range (R60). -/
def rangeOf (w0 w1 : Nat) : Range :=
  { mode := bits w0 58 56, base := w0 % 2 ^ 56, share := bits w1 54 40, len := w1 % 2 ^ 40 }

/-- The bytes of a node record as a number. -/
def field (rec off len : Nat) : Nat := rec / 256 ^ off % 256 ^ len

/-- A node record from its bytes. -/
def nodeOf (rec : Nat) : NodeRec :=
  let f := field rec
  { code := f 0 8, codelen := f 8 4, entry := f 12 4, argoff := f 16 8, arglen := f 24 4, hw := f 28 2, threads := f 30 1
    prio := f 31 1, aff := f 32 1, kind := f 35 1, preds := (upFrom 0 (min (f 33 1) 8)).map (fun i => f (48 + 2 * i) 2)
    ranges := (upFrom 0 (min (f 34 1) 8)).map (fun i => rangeOf (f (64 + 16 * i) 8) (f (72 + 16 * i) 8)) }

/-- A range within its limits (R60). -/
def Range.ok (r : Range) (threads : Nat) : Bool :=
  decide (r.mode ≤ 4) && decide (r.base % 64 = 0) && decide (r.len ≠ 0) && decide (r.len % 64 = 0) &&
    (if r.mode = 1 ∨ r.mode = 2 then
      decide (r.share ≠ 0) && decide (r.share < 2 ^ threads) && decide (r.len % popcount r.share 15 = 0) &&
        decide (r.len / popcount r.share 15 % 32 = 0)
     else decide (r.share = 0))

/-- Two ranges of a list overlap. -/
def overlapIn : List Range → Bool
  | [] => false
  | r :: l => l.any (fun q => overlaps r.base r.len q.base q.len) || overlapIn l

/-- A node record that R61 lets pass, but for what concerns its graph: reserved fields zero, fields within their limits,
no two ranges overlapping. -/
def nodeOk (rec : Nat) : Bool :=
  let f := field rec
  let n := nodeOf rec
  decide (n.kind ≤ 1) && decide (f 36 12 = 0) && decide (f 33 1 ≤ 8) && decide (f 34 1 ≤ 8) &&
    decide (n.code < 2 ^ 56) && decide (n.arglen % 64 = 0) && decide (n.arglen ≤ 2 ^ 20) && decide (n.hw ≤ 512) &&
    (decide (n.prio ≤ 15) || n.prio == 0xFF) && (decide (n.aff ≤ 63) || n.aff == 0xFF) &&
    (if n.kind = 0 then
      decide (n.code % 64 = 0) && decide (n.codelen % 64 = 0) && decide (n.codelen ≤ 2 ^ 24) && decide (n.entry % 4 = 0) && decide (n.entry < n.codelen) &&
        decide (1 ≤ n.threads) && decide (n.threads ≤ 15)
     else decide (n.code % 8 = 0) && decide (n.entry = 0) && decide (n.threads = 0)) &&
    (upFrom 0 8).all (fun i => decide (i < f 33 1) || decide (f (48 + 2 * i) 2 = 0)) &&
    (upFrom 0 8).all (fun i =>
      if i < f 34 1 then decide (f (64 + 16 * i) 8 < 2 ^ 59) && decide (f (72 + 16 * i) 8 < 2 ^ 55)
      else decide (f (64 + 16 * i) 16 = 0)) &&
    n.ranges.all (fun r => r.ok n.threads) && !overlapIn n.ranges

/-- A graph's header fault (R58). -/
def headerOk (h : Nat) : Bool :=
  let f := field h
  decide (1 ≤ f 0 4) && decide (f 0 4 ≤ 1024) && decide (f 4 4 = 0) && decide (f 24 40 = 0) && decide (f 8 8 % 65536 = 0) &&
    decide (f 16 8 % 64 = 0)

/-- The first node of a graph that fails R61; `seen` says that a repeat node came before. -/
def badNode : Nat → Bool → List Nat → Option Nat
  | _, _, [] => none
  | i, seen, rec :: r =>
    let n := nodeOf rec
    if !nodeOk rec || (seen && n.kind == 1) || n.preds.any (fun p => decide (i ≤ p)) then some i
    else badNode (i + 1) (seen || n.kind == 1) r

/-! ### Order and edges (R62, R64) -/

/-- The lower of two append numbers lies less than 2^31 behind the other (R62). -/
def appendLt (a b : Nat) : Bool := decide (a ≠ b) && decide ((b + 2 ^ 32 - a) % 2 ^ 32 < 2 ^ 31)

/-- Two nodes conflict: ranges in R, W or RW overlap, one of them W or RW (R64). -/
def conflicts (a b : NodeRec) : Bool :=
  a.ranges.any (fun x => b.ranges.any (fun y => decide (x.mode ≤ 2) && decide (y.mode ≤ 2) &&
    (decide (x.mode ≠ 0) || decide (y.mode ≠ 0)) && overlaps x.base x.len y.base y.len))

/-- The space of a graph of a partition. -/
def Part.space (p : Part) (g : Nat) : Nat := match look p.graphs g with | some x => x.space | none => 0

/-- Live nodes in append order. -/
def Part.inOrder (p : Part) : Tab Node := sortBy (fun a b => appendLt a.1 b.1) p.live

/-- The effective priority of a node. -/
def Part.prioOf (p : Part) (n : Node) : Nat := if n.desc.prio = 0xFF then p.prio else n.desc.prio

/-- Append one node to a graph (R62, R64): `mates` are the append numbers of the nodes appended with it before. -/
def Part.appendNode (p : Part) (g index : Nat) (rec : NodeRec) (mates : List Nat) (spawned : Bool) (after : Option (Nat × Nat))
    (vc : Clock) : Part × Nat :=
  let app := p.append + 1
  let derived := (p.live.filter (fun m => decide (p.space m.2.graph = p.space g) && conflicts m.2.desc rec)).map (·.1)
  let node : Node :=
    { graph := g, index := index, desc := rec, preds := rec.preds.map (fun i => mates.getD i 0), derived := derived
      st := .waiting, spawned := spawned, wants := none, returned := false, after := after, leases := [], ext := [], vc := vc }
  ({ p with append := app, live := put p.live app.toNat node }, app.toNat)

/-- Append the nodes of a graph in index order. -/
def Part.appendAll (p : Part) (g : Nat) (recs : List NodeRec) (after : Option (Nat × Nat)) (vc : Clock) : Part × List Nat :=
  recs.foldl (fun (acc : Part × List Nat) rec =>
    let (q, a) := acc.1.appendNode g acc.2.length rec acc.2 false after vc
    (q, acc.2 ++ [a])) (p, [])

/-! ### Ready nodes (R65, R66, R82) -/

/-- The partition's dispatchers take and start nodes; in a drain they start none that is prepared either (R47). (DESIGN CHOICE, log 96) -/
def Part.dispatching (p : Part) : Bool := decide (p.ladder = .none) && !p.halted

/-- A node whose counts are zero; a repeat node also needs every other node of its graph to have gone (R82). -/
def Part.isReady (p : Part) (app : Nat) (n : Node) : Bool :=
  decide (n.st = .waiting) && n.preds.isEmpty && n.derived.isEmpty &&
    (n.desc.kind == 0 || !p.live.any (fun m => decide (m.1 ≠ app) && decide (m.2.graph = n.graph)))

/-- Nodes that have become ready go on: task nodes to a pool, repeat nodes to their decision. -/
def Trail.pokeReady {s : State} (t : Trail s) (n : Nat) : Trail s :=
  match t.1.part? n with
  | none => t
  | some p =>
    forEach t (p.inOrder.filter (fun m => p.isReady m.1 m.2)) (fun t m =>
      if m.2.desc.kind = 0 then
        (t.modPart n (fun p => { p with live := put p.live m.1 { m.2 with st := .ready } })).pend .poolPlace [n, m.1]
      else if p.dispatching then t.pendOnce .repeatDecide [n, m.1] else t)

/-- Ready nodes that wait for room in a pool are placed in append order when there is some (R66). -/
def Trail.pokePools {s : State} (t : Trail s) (n : Nat) : Trail s :=
  match t.1.part? n with
  | none => t
  | some p => forEach t (p.inOrder.filter (fun m => decide (m.2.st = .ready))) (fun t m => t.pendOnce .poolPlace [n, m.1])

/-- Some re-arm of the partition waits for room (R82). -/
def Part.rearming (p : Part) : Bool := p.live.any (fun m => match m.2.st with | .rearm _ => true | _ => false)

/-- What waits for room in the live table: re-arms first, then spawns and records (R62, R82, R370). -/
def Trail.pokeRoom {s : State} (t : Trail s) (n : Nat) : Trail s :=
  match t.1.part? n with
  | none => t
  | some p =>
    let t := forEach t p.inOrder (fun t m => match m.2.st with | .rearm _ => t.pendOnce .repeatRearm [n, m.1] | _ => t)
    let t := forEach t p.cores (fun t c => forEach t (t.1.core c).threads (fun t th =>
      match th.2.status, th.2.op with
      | .inFlight, some o => (match o.instr with | .spawn _ => t.pendOnce .spawnAppend [c, th.1] | _ => t)
      | _, _ => t))
    let t := forEach t p.queues (fun t q => if q.2.hold.isEmpty then t else t.pendOnce .recordAccept [n, q.1])
    forEach t [0, 1, 2, 3] (fun t d => if (t.1.die d).fifo.isEmpty then t else t.pendOnce .submissionHandle [d])

/-! ### Completion and removal (R63, R65) -/

/-- A graph without live nodes completes its record (R63). -/
def Trail.graphDone {s : State} (t : Trail s) (n g : Nat) : Trail s :=
  match t.1.part? n with
  | none => t
  | some p =>
    match look p.graphs g with
    | none => t
    | some x =>
      if p.live.any (fun m => decide (m.2.graph = g)) then t
      else
        let t := t.modPart n (fun p => { p with graphs := del p.graphs g })
        (t.recordDone n x.queue x.seq x.cword x.cval x.err x.vc).pendOnce .fenceRecordRelease [n, x.queue]

/-- The preparation place of a dispatcher that a node takes (R67). -/
def NodeState.place : NodeState → Option Nat
  | .preparing cl | .prepared cl => some cl
  | _ => none

/-- A live node goes: completed, with its end record, or removed. Its successors' counts drop, by all that name it, and a dispatcher
that prepared it may take another (R63, R65, R67). (DESIGN CHOICE, log 99) -/
def Trail.nodeGone {s : State} (t : Trail s) (n app : Nat) (endRec : Option (Nat × Nat)) (vc : Clock) : Trail s :=
  match t.1.part? n with
  | none => t
  | some p =>
    match look p.live app with
    | none => t
    | some x =>
      let t := t.dropLeases (x.leases.map (·.1))
      let t := match x.st.place with | some cl => t.pendOnce .nodeTake [cl] | none => t
      let free := fun (m : Node) =>
        if m.preds.contains app || m.derived.contains app then
          { m with
            preds := m.preds.filter (fun a => decide (a ≠ app)), derived := m.derived.filter (fun a => decide (a ≠ app))
            vc := m.vc.join vc, after := if endRec.isSome then endRec else m.after }
        else m
      t.modPart n (fun p => { p with
        live := (del p.live app).map (fun m => (m.1, free m.2)), residency := p.residency.filter (fun r => decide (r.app ≠ app))
        graphs := match look p.graphs x.graph with
          | some g => put p.graphs x.graph { g with
              vc := g.vc.join vc, lastDone := if endRec.isSome then endRec else g.lastDone }
          | none => p.graphs })

/-- What follows when nodes of a graph have gone. -/
def Trail.afterGone {s : State} (t : Trail s) (n g : Nat) : Trail s := (((t.pokeReady n).graphDone n g).pokePools n).pokeRoom n

/-- A node has not started. -/
def NodeState.unstarted : NodeState → Bool
  | .running _ => false
  | _ => true

/-- A graph is aborted: its nodes that have not started are removed, the others run to their end (R68). The first error
stands. -/
def Trail.abortGraph {s : State} (t : Trail s) (n g : Nat) (e : RecError) : Trail s :=
  match t.1.part? n with
  | none => t
  | some p =>
    match look p.graphs g with
    | none => t
    | some x =>
      let t := t.modPart n (fun p => { p with
        graphs := put p.graphs g { x with aborted := true, err := some (x.err.getD e) } })
      let gone := (p.live.filter (fun m => decide (m.2.graph = g) && m.2.st.unstarted)).map (·.1)
      (forEach t gone (fun t a => t.nodeGone n a none [])).afterGone n g

/-! ### Loads and pools (R66, R80) -/

def Part.pool (p : Part) (cl : Nat) : Tab Node := p.live.filter (fun m => decide (m.2.st = .pooled cl))

def Part.load (p : Part) (cl : Nat) : Nat := ((p.pool cl).map (fun m => p.prioOf m.2 + 1)).sum

/-- The cluster that a ready node is placed in (R66). -/
def Part.placeFor (p : Part) (n : Node) : Option Nat :=
  if p.clusters.contains n.desc.aff then some n.desc.aff
  else p.clusters.find? (fun c => p.clusters.all (fun d => decide (p.load c < p.load d) || (p.load c == p.load d && decide (c ≤ d))))

/-- Set where a node stands. -/
def Trail.nodeState {s : State} (t : Trail s) (n app : Nat) (st : NodeState) : Trail s :=
  t.modPart n (fun p => match look p.live app with
    | some m => { p with live := put p.live app { m with st := st, wants := none, returned := false } }
    | none => p)

/-- A ready node of lower append number waits for a pool (R66). -/
def Part.waitsBefore (p : Part) (app cl : Nat) : Bool :=
  p.live.any (fun m => decide (m.2.st = .ready) && m.2.wants == some cl && appendLt m.1 app)

/-- POOL_PLACE: a ready node enters its pool when it has room; one that finds it full waits for it, and those that wait for one pool
enter in append order (R66). -/
def execPoolPlace (s : State) : Host.Outcome State Fault Refusal :=
  event s (fun t =>
    let n := s.arg 0
    let app := s.arg 1
    match t.1.part? n with
    | none => t
    | some p =>
      match look p.live app with
      | none => t
      | some m =>
        match m.wants.or (p.placeFor m) with
        | some cl =>
          if m.st ≠ .ready then t
          else if 256 ≤ (p.pool cl).length || p.waitsBefore app cl then
            t.modPart n (fun p => { p with live := put p.live app { m with wants := some cl } })
          else
            let t := (t.nodeState n app (.pooled cl)).pendOnce .nodeTake [cl]
            if p.live.any (fun q => decide (q.1 ≠ app) && q.2.wants == some cl) then t.pokePools n else t
        | none => t)

end Sys2Proof.Machine
end

