-- ==== Sys2Proof/Machine/Dispatchers.lean ====
section
/-!
DEFINITION. Node dispatchers and porters at work: taking and preparing nodes (R67, R68), residency (R73), starting tasks
(R69, R85, R387), moving nodes between pools (R80), repeat nodes (R82), and spawned nodes (R83).
-/

namespace Sys2Proof.Machine

/-! ### Preparation (R68) -/

/-- What a node needs in memory: code, arguments, ranges, each as task virtual base and length (R68 step 1). -/
def NodeRec.spans (d : NodeRec) (arg : Nat) : List (Nat × Nat) :=
  (d.code, d.codelen) :: ((arg + d.argoff) % 2 ^ 64, d.arglen) :: d.ranges.map (fun r => (r.base, r.len))

/-- The leaves of every span, or nothing when a page is not mapped. -/
def State.spanLeaves (s : State) (die space : Nat) : List (Nat × Nat) → Option (List (List (Nat × Leaf)))
  | [] => some []
  | (va, len) :: r =>
    match s.leavesOf die space va len, s.spanLeaves die space r with
    | some l, some ls => some (l :: ls)
    | _, _ => none

/-- The leaves of a list of spans, each page once. -/
def eachLeaf (ls : List (List (Nat × Leaf))) : List (Nat × Leaf) :=
  ls.flatten.foldl (fun acc p => if acc.any (fun q => decide (q.2.at_ = p.2.at_)) then acc else acc ++ [p]) []

/-- The extent of a span that is one run or empty (R72). -/
def oneExtent (mode va len : Nat) (rs : List PRun) : Extent :=
  extentOf mode 0 va len false (rs.headD { va := va, pa := 0, len := 0, wr := true, atom := true, exec := true, comp := [] })

/-- The extent table that a dispatcher fills: code, argument, and the runs of each range in order (R72). -/
def fillTable (d : NodeRec) (spans : List (Nat × Nat)) (runs : List (List PRun)) : Tab Extent :=
  let e := fun (i mode : Nat) => let p := spans.getD i (0, 0); oneExtent mode p.1 p.2 (runs.getD i [])
  let rest := (d.ranges.zip (runs.drop 2)).flatMap (fun p => p.2.map (extentOf p.1.mode p.1.share p.1.base p.1.len false))
  (0, e 0 5) :: (1, e 1 0) :: (upFrom 2 rest.length).zip rest

/-- A preparation fails: the node is removed and its graph aborted (R68). -/
def Trail.prepareFails {s : State} (t : Trail s) (n app reason : Nat) : Trail s :=
  match (t.1.part? n).bind (fun p => look p.live app) with
  | none => t
  | some m =>
    (t.nodeGone n app none []).abortGraph n m.graph
      { kind := 3, node := m.index, thread := 0, lane := 0, reason := reason, adr := 0 }

/-- Ask the porter of a cluster for pages that are not resident (R68 step 2). -/
def Trail.askResidency {s : State} (t : Trail s) (n app space cl : Nat) (pages : List (Nat × Leaf)) : Trail s :=
  let asks := (pages.filter (fun p => !p.2.res)).map (fun p => ({ part := n, app := app, space := space, va := p.1 } : Residency))
  (t.modPart n (fun p => { p with residency := p.residency ++ asks })).pendOnce .porterResidency [cl]

/-- Steps 1 to 3 of R68 for a node that a dispatcher has taken. -/
def Trail.prepare {s : State} (t : Trail s) (n app cl : Nat) : Trail s :=
  match t.1.part? n with
  | none => t
  | some p =>
    match look p.live app with
    | none => t
    | some m =>
      match look p.graphs m.graph with
      | none => t
      | some g =>
        let die := dieOfCluster cl
        let spans := m.desc.spans g.arg
        match t.1.spanLeaves die g.space spans with
        | none => t.prepareFails n app 1
        | some ls =>
          let pages := eachLeaf ls
          let t := forEach t pages (fun t q => t.cache die g.space q.1 q.2)
          if pages.any (fun q => q.2.path.any (fun a => !t.1.mayAccess (sysMaster t.1.pkg.num) a permRd)) then
            t.prepareFails n app 2
          else if p.mem - 2 ^ 23 < (pages.map (fun q => q.2.size)).sum then t.prepareFails n app 4
          else if pages.any (fun q => !q.2.res) then t.askResidency n app g.space cl pages
          else
            let runs := (spans.zip ls).map (fun q => physRuns q.1.1 q.1.2 q.2)
            if 1 < (runs.getD 0 []).length ∨ 1 < (runs.getD 1 []).length ∨ 14 < ((runs.drop 2).map (·.length)).sum then
              t.prepareFails n app 3
            else
              let ps := leafPages pages
              if t.1.leaseWaits ps then t
              else
                ((t.takeLeases ps).modPart n (fun p => { p with live := put p.live app { m with
                  st := .prepared cl, leases := ps.map (fun a => (a, 0)), ext := fillTable m.desc spans runs } })).pend .nodeStart
                    [cl, app]

/-- Nodes that a dispatcher has taken and not started. -/
def Part.taken (p : Part) (cl : Nat) : Nat :=
  (p.live.filter (fun m => decide (m.2.st = .preparing cl) || decide (m.2.st = .prepared cl))).length

/-- The node a dispatcher takes next: one that has come back to the head of the pool, else any; the highest priority, then the lowest
append number (R67, R75). -/
def Part.nextIn (p : Part) (cl : Nat) : Option (Nat × Node) :=
  let l := if (p.pool cl).any (·.2.returned) then (p.pool cl).filter (·.2.returned) else p.pool cl
  l.find? (fun m => l.all (fun q => decide (q.1 = m.1) || decide (p.prioOf q.2 < p.prioOf m.2) ||
    (p.prioOf q.2 == p.prioOf m.2 && appendLt m.1 q.1)))

/-- A dispatcher takes one node, if it may. -/
def Trail.takeNode {s : State} (t : Trail s) (n cl : Nat) : Trail s :=
  match t.1.part? n with
  | none => t
  | some p =>
    if !p.dispatching || decide (4 ≤ p.taken cl) then t
    else
      match p.nextIn cl with
      | none => t
      | some (app, _) => ((t.nodeState n app (.preparing cl)).pokePools n).prepare n app cl

/-- NODE_TAKE: a dispatcher goes on with the nodes it prepares, and takes nodes from its pool (R67, R68). -/
def execNodeTake (s : State) : Host.Outcome State Fault Refusal :=
  event s (fun t =>
    let cl := s.arg 0
    match t.1.partOfCluster cl with
    | none => t
    | some n =>
      match t.1.part? n with
      | none => t
      | some p =>
        let going := if p.dispatching then p.live.filter (fun m => decide (m.2.st = .preparing cl) &&
          !p.residency.any (fun r => decide (r.app = m.1))) else []
        let t := forEach t going (fun t m => t.prepare n m.1 cl)
        forEach t [0, 1, 2, 3] (fun t _ => t.takeNode n cl))

/-! ### Residency (R73) -/

/-- The cluster whose porter serves a request: the node's, or the lead's for a repeat node. -/
def Part.porterOf (p : Part) (n : Nat) (r : Residency) : Nat :=
  match (look p.live r.app).map Node.st with
  | some (.preparing cl) => cl
  | _ => n

/-- Whoever asked for a page goes on when no request of its own is left. -/
def Trail.pokeAsker {s : State} (t : Trail s) (n app : Nat) : Trail s :=
  match t.1.part? n with
  | none => t
  | some p =>
    match look p.live app with
    | none => t
    | some m =>
      if p.residency.any (fun r => decide (r.app = app)) then t
      else
        match m.st with
        | .preparing cl => t.pendOnce .nodeTake [cl]
        | .waiting => t.pendOnce .repeatDecide [n, app]
        | _ => t

/-- PORTER_RESIDENCY: the porter of a cluster serves its first request (R73). -/
def execPorterResidency (s : State) : Host.Outcome State Fault Refusal :=
  event s (fun t =>
    let cl := s.arg 0
    match t.1.partOfCluster cl with
    | none => t
    | some n =>
      match t.1.part? n with
      | none => t
      | some p =>
        match p.residency.find? (fun r => decide (p.porterOf n r = cl)) with
        | none => t
        | some r =>
          let (t, served) := t.makeResident n (dieOfCluster cl) r.space r.va
          let drop : Effect s := fun t =>
            (t.modPart n (fun p => { p with residency := p.residency.filter (fun q => decide (q ≠ r)) })).pendOnce .porterResidency [cl]
          match served with
          | .waits => t
          | .done => (drop t).pokeAsker n r.app
          | .fails reason => (drop t).prepareFails n r.app reason)

/-! ### Starting a task (R69, R85, R387) -/

/-- The runs of local store that tasks hold on a core. -/
def State.localRuns (s : State) (c : Nat) : List (Nat × Nat) :=
  (s.tasks.filter (fun x => decide (x.2.core = c))).map (fun x => (x.2.localBase, x.2.hw * 4096))

/-- The lowest free run of local store of a size, 4 KiB aligned. -/
def State.freeRun (s : State) (c len : Nat) : Option Nat :=
  let rs := s.localRuns c
  let starts := sortBy (fun a b => decide (a < b)) (0 :: rs.map (fun r => r.1 + r.2))
  starts.find? (fun a => decide (a + len ≤ 2097152) && !rs.any (fun r => overlaps r.1 r.2 a len))

/-- The free user slots of a core. -/
def Core.freeSlots (k : Core) : List Nat := (upFrom 0 15).filter (fun sl => (look k.threads sl).isNone)

/-- A core holds a running task. -/
def Core.busy (k : Core) : Bool := k.threads.any (fun p => decide (p.1 ≠ 15))

/-- Cores of a die that hold a running task (R81). -/
def State.busyCores (s : State) (die : Nat) : Nat := (s.cores.filter (fun k => decide (dieOf k.1 = die) && k.2.busy)).length

/-- The core for a node, with its local base (R69). -/
def State.coreFor (s : State) (cl : Nat) (d : NodeRec) (want : Option Nat) : Option (Nat × Nat) :=
  if (s.die (dieOfCluster cl)).admission ≤ s.busyCores (dieOfCluster cl) then none
  else
    let cs := match want with | some c => [c] | none => upFrom (cl * 8) 8
    (cs.find? (fun c => decide (d.threads ≤ (s.core c).freeSlots.length) && (s.freeRun c (d.hw * 4096)).isSome)).bind
      (fun c => (s.freeRun c (d.hw * 4096)).map (fun b => (c, b)))

/-- A node's task starts on a core (R68 step 5). -/
def Trail.startTask {s : State} (t : Trail s) (n app cl c base : Nat) (m : Node) (g : Graph) : Trail s :=
  let k := t.1.taskCount + 1
  let slots := ((t.1.core c).freeSlots).take m.desc.threads
  let ta := (g.arg + m.desc.argoff) % 2 ^ 64
  let task : Task :=
    { part := n, core := c, app := app, hw := m.desc.hw, localBase := base, ta := ta, code := m.desc.code
      codelen := m.desc.codelen, threads := m.desc.threads, slots := slots, ext := m.ext, handler := none
      leases := m.leases, ending := none, hShare := [], vc := m.vc }
  let t := t.act (.counts t.1.agents k t.1.jobCount t.1.graphCount t.1.releases)
  let t := t.act (.task k (some task))
  let t := t.modPart n (fun p => { p with live := put p.live app { m with st := .running k, leases := [], ext := [] } })
  let t := t.modCore c (fun q => { q with
    hGran := q.hGran.filter (fun h => !(decide (base / 32 ≤ h.1) && decide (h.1 < (base + m.desc.hw * 4096) / 32))) })
  let t := forEach t ((upFrom 0 m.desc.threads).zip slots) (fun t p =>
    let (t, a) := t.newAgent
    t.startThread c p.2 (Thread.start k a (m.desc.code + m.desc.entry) m.desc.hw p.1 ta c t.1.pkg.num m.vc none))
  t.pendOnce .nodeTake [cl]

/-- The DISPATCH record of a node's start or of its task's end (R215). -/
def dispatchRec (cl core slot op app index chosen : Nat) (after : Option (Nat × Nat)) : Rec :=
  { kind := 0, source := dispatcherSource cl, cls := 2, core := core, slot := slot, after := after, op := op
    input := leBytes app 4 ++ leBytes index 2 ++ leBytes chosen 2 }

/-- NODE_START: a prepared node starts when a core fits it; under replay, on the core and slot that the next DISPATCH
record of its dispatcher names, when that record is its own (R67, R68, R221). (DEDUCED, log 66) -/
def execNodeStart (s : State) : Host.Outcome State Fault Refusal :=
  event s (fun t =>
    let cl := s.arg 0
    let app := s.arg 1
    match t.1.partOfCluster cl with
    | none => t
    | some n =>
      match t.1.part? n with
      | none => t
      | some p =>
        match look p.live app with
        | none => t
        | some m =>
          match look p.graphs m.graph with
          | none => t
          | some g =>
            let next := if p.mode = 2 then t.1.nextRecord p (dispatcherSource cl) else none
            match t.1.coreFor cl m.desc (next.map (fun e => bits e.2.1 12 4)) with
            | none =>
              if p.mode = 2 && decide (m.st = .prepared cl) && p.dispatching then t.turnFor n (dispatcherSource cl) (.step ⟨.nodeStart, [cl, app]⟩)
              else t
            | some (c, base) =>
              let slot := (t.1.core c).freeSlots.headD 0
              let r := dispatchRec cl c slot 0 app m.index c m.after
              let mine := match next with
                | some e => decide (bits e.2.1 63 60 = 0) && decide (bits e.2.2 19 16 = 0) && decide (bits e.2.2 15 0 = r.hash) &&
                    decide (bits e.2.1 3 0 = slot)
                | none => true
              let due : Due := ⟨.nodeStart, [cl, app]⟩
              if m.st ≠ .prepared cl || !p.dispatching then t
              else if !mine then t.turnFor n r.source (.step due)
              else t.logged (some n) r (.step due) id (fun seq t => t.unitDiverge n r.source seq) (fun t =>
                let q := t.1.taskCount + 1
                let name := t.1.recName n r.source
                let t := t.startTask n app cl c base m g
                -- the first record of each thread follows this record (R216)
                let k := t.1.core c
                if name.isNone then t
                else t.setCore c { k with threads := k.threads.map (fun th =>
                  if th.2.task = q then (th.1, { th.2 with lastRec := name }) else th) }))

/-- Prepared nodes of a die look for a core again. -/
def Trail.pokeStarts {s : State} (t : Trail s) (die : Nat) : Trail s :=
  forEach t t.1.parts (fun t p => forEach t p.2.inOrder (fun t m =>
    match m.2.st with
    | .prepared cl => if dieOfCluster cl = die then t.pendOnce .nodeStart [cl, m.1] else t
    | _ => t))

/-! ### Moving nodes (R80) -/

/-- Clusters next to a cluster in the 4 × 4 mesh of its die. -/
def meshNext (cl : Nat) : List Nat :=
  let x := cl % 4
  let y := cl % 16 / 4
  (if 0 < y then [cl - 4] else []) ++ (if 0 < x then [cl - 1] else []) ++ (if x < 3 then [cl + 1] else []) ++
    (if y < 3 then [cl + 4] else [])

/-- The node of a pool that moves first: lowest priority, then highest append number. -/
def Part.lastIn (p : Part) (cl : Nat) : Option (Nat × Node) :=
  let l := p.pool cl
  l.find? (fun m => l.all (fun q => decide (q.1 = m.1) || decide (p.prioOf m.2 < p.prioOf q.2) ||
    (p.prioOf q.2 == p.prioOf m.2 && appendLt q.1 m.1)))

/-- Move a number of nodes from a pool to another while it has room. -/
def Trail.moveNodes {s : State} (n src dst : Nat) : Nat → Trail s → Trail s
  | 0, t => t
  | k + 1, t =>
    match t.1.part? n with
    | none => t
    | some p =>
      if 256 ≤ (p.pool dst).length then t
      else
        match p.lastIn src with
        | some (app, _) => Trail.moveNodes n src dst k ((t.nodeState n app (.pooled dst)).pendOnce .nodeTake [dst])
        | none => t

/-- Arm the next exchange of loads of a cluster: 20 µs of its die's `cw.etime` (R80). -/
def Trail.armBalance {s : State} (t : Trail s) (cl : Nat) : Trail s :=
  t.timer (dieOfCluster cl) false (20 * etimePerUs) .loadBalance [cl]

/-- LOAD_BALANCE: a cluster whose load exceeds a neighbour's moves nodes to it (R80). -/
def execLoadBalance (s : State) : Host.Outcome State Fault Refusal :=
  event s (fun t =>
    let cl := s.arg 0
    match t.1.partOfCluster cl with
    | none => t
    | some n =>
      match t.1.part? n with
      | none => t
      | some p =>
        let l := if (t.1.die (dieOfCluster cl)).restart then 0 else p.load cl
        let lighter := ((meshNext cl).filter (fun c => p.clusters.contains c && decide (p.load c + 4 < l))).map (fun c => (c, (l - p.load c) / 4))
        let t := forEach t lighter (fun t q => Trail.moveNodes n cl q.1 q.2 t)
        (t.pokePools n).armBalance cl)

/-! ### Accepting a graph (R61, R62) -/

/-- A launch record from its bytes (R40). -/
def launchOf (rec : Nat) : Launch :=
  let f := field rec
  { seq := f 0 4, kind := f 4 1, graph := f 8 8, arg := f 16 8, cword := f 24 8, cval := f 32 8
    bad := decide (f 5 3 ≠ 0) || decide (f 40 24 ≠ 0) }

/-- The index of the first failing node of a graph, 0xFFFF for its header; nothing when the graph passes (R61). The header and the
nodes are read where they are said to stand. (DESIGN CHOICE, log 100) -/
def State.graphFault (s : State) (at_ : Nat) : Option Nat :=
  let h := s.mem.read at_ 64
  if !headerOk h then some 0xFFFF
  else badNode 0 false ((upFrom 0 (field h 0 4)).map (fun i => s.mem.read (field h 16 8 + 192 * i) 192))

/-- The live table has room for a graph, behind the re-arms that wait (R62, R82). -/
def State.graphRoom (s : State) (p : Part) (at_ : Nat) : Bool :=
  let h := s.mem.read at_ 64
  !headerOk h || (decide (p.live.length + field h 0 4 ≤ 4096) && !p.rearming)

/-- The live table has room for a graph behind those that are held after a fence (R40, R62). -/
def State.roomBehind (s : State) (p : Part) (at_ : Nat) : Bool :=
  let held := (p.queues.flatMap (fun q => q.2.hold.filter (fun l => !l.bad && l.kind == 1))).map (fun l => field (s.mem.read l.graph 64) 0 4)
  let h := s.mem.read at_ 64
  !headerOk h || (decide (p.live.length + held.sum + field h 0 4 ≤ 4096) && !p.rearming)

/-- A graph record is accepted: its nodes enter, or it fails as a whole (R61, R62). -/
def Trail.acceptGraph {s : State} (t : Trail s) (n i : Nat) (l : Launch) (rec : Option (Nat × Nat)) : Trail s :=
  match t.1.graphFault l.graph with
  | some f => t.recordDone n i l.seq l.cword l.cval (some { kind := 2, node := f, thread := 0, lane := 0, reason := 0, adr := 0 }) []
  | none =>
    let h := t.1.mem.read l.graph 64
    let recs := (upFrom 0 (field h 0 4)).map (fun j => nodeOf (t.1.mem.read (field h 16 8 + 192 * j) 192))
    let g := t.1.graphCount + 1
    let x : Graph :=
      { queue := i, seq := l.seq, space := field h 8 8, nnodes := field h 0 4, nodes := recs, arg := l.arg, cword := l.cword
        cval := l.cval, iter := 1, spawned := 0, aborted := false, err := none, lastDone := none, vc := [] }
    let t := t.act (.counts t.1.agents t.1.taskCount t.1.jobCount g t.1.releases)
    let t := t.dropCached (fun e => decide (e.space = x.space))
    let t := t.modPart n (fun p => (({ p with graphs := put p.graphs g x } : Part).appendAll g recs rec []).1)
    t.pokeReady n

/-- The record of a queue's acceptance of a graph (R215). -/
def acceptRec (lead q seq : Nat) : Rec :=
  { kind := 0, source := dispatcherSource lead, cls := 2, core := lead, slot := 0, after := none, op := 3
    input := leBytes q 2 ++ leBytes seq 4 }

/-- Act on a record that has been taken: markers and invalid records complete, a fence waits for earlier graphs, a graph is
accepted (R40). The flag says that the record has been dealt with. -/
def Trail.actRecord {s : State} (t : Trail s) (n i : Nat) (l : Launch) (rec : Option (Nat × Nat)) : Trail s :=
  match t.1.part? n with
  | none => t
  | some p =>
    if l.bad || l.kind == 0 || decide (3 < l.kind) then
      t.recordDone n i l.seq l.cword l.cval (some { kind := 1, node := 0, thread := 0, lane := 0, reason := 0, adr := 0 }) []
    else if l.kind = 2 then t.recordDone n i l.seq l.cword l.cval none []
    else if l.kind = 3 then
      if p.graphs.any (fun g => decide (g.2.queue = i)) then t.modPart n (fun p => { p with queues := match look p.queues i with
        | some q => put p.queues i { q with fence := some l }
        | none => p.queues })
      else t.recordDone n i l.seq l.cword l.cval none []
    else t.acceptGraph n i l rec

/-- A graph record that will enter the partition's work. -/
def Launch.isGraph (l : Launch) : Bool := !l.bad && l.kind == 1

/-- The record in the slot after the last one taken, where the queue's slot holds it (R44). -/
def State.nextLaunch (s : State) (q : Queue) : Launch :=
  launchOf (s.mem.read (q.ring + (q.taken + 1) % 2 ^ 32 % q.entries * 64) 64)

/-- The FIFO head of a queue's die rings for records of it that have not been taken. -/
def State.offered (s : State) (n i : Nat) (q : Queue) : Bool :=
  match (s.die (dieOfCluster n)).fifo with
  | (_, v) :: _ =>
    let k := (v / 2 ^ 32 + 2 ^ 32 - q.taken) % 2 ^ 32
    decide (v % 2 ^ 32 = n * 8 + i) && decide (k ≠ 0) && decide (k < 2 ^ 31) && decide (k ≤ q.entries) &&
      (s.nextLaunch q).seq == (q.taken + 1) % 2 ^ 32
  | [] => false

/-- A queue takes a record (R44 step 4, R42). -/
def Trail.takeRecord {s : State} (t : Trail s) (n i : Nat) : Trail s :=
  t.modQueue n i (fun q => { q with
    taken := (q.taken + 1) % 2 ^ 32, stale := false, overrun := false, count := q.count + 1
    state := if q.state ≤ 1 then 1 else q.state })

/-- RECORD_ACCEPT: the lead dispatcher takes an offered record, or acts on the first record held behind a fence, once the
live table has room (R40, R62); a record behind a fence, or behind one that is held, is taken and held. (DESIGN CHOICE, log 69) -/
def execRecordAccept (s : State) : Host.Outcome State Fault Refusal :=
  event s (fun t =>
    let n := s.arg 0
    let i := s.arg 1
    match t.1.part? n with
    | none => t
    | some p =>
      match look p.queues i with
      | none => t
      | some q =>
        let due : Due := ⟨.recordAccept, [n, i]⟩
        let log := fun (l : Launch) (go : Option (Nat × Nat) → Effect s) (t : Trail s) =>
          let r := acceptRec n (n * 8 + i) l.seq
          let name := t.1.recName n r.source
          if l.isGraph then t.unitLogged n r due (go name) else go none t
        let behind : Effect s := fun t =>
          if !t.1.offered n i q then t
          else
            let l := t.1.nextLaunch q
            if l.isGraph && !t.1.roomBehind p l.graph then t
            else
            let t := t.takeRecord n i
            (t.modPart n (fun p => { p with queues := match look p.queues i with
              | some q => put p.queues i { q with hold := q.hold ++ [l] }
              | none => p.queues })).pendOnce .submissionHandle [dieOfCluster n]
        match q.fence, q.hold with
        | some _, _ => behind t
        | none, l :: rest =>
          if l.isGraph && !t.1.graphRoom p l.graph then behind t
          else log l (fun rec t =>
            let t := t.modPart n (fun p => { p with queues := put p.queues i { q with hold := rest } })
            (t.actRecord n i l rec).pendOnce .recordAccept [n, i]) t
        | none, [] =>
          if !t.1.offered n i q then t
          else
            let l := t.1.nextLaunch q
            if l.isGraph && !t.1.graphRoom p l.graph then t
            else log l (fun rec t => ((t.takeRecord n i).actRecord n i l rec).pendOnce .submissionHandle [dieOfCluster n]) t)

/-- FENCE_RECORD_RELEASE: a fence completes once no earlier graph of its queue is left (R40). -/
def execFenceRecordRelease (s : State) : Host.Outcome State Fault Refusal :=
  event s (fun t =>
    let n := s.arg 0
    let i := s.arg 1
    match t.1.part? n with
    | none => t
    | some p =>
      match look p.queues i with
      | none => t
      | some q =>
        match q.fence with
        | none => t
        | some l =>
          if p.graphs.any (fun g => decide (g.2.queue = i)) then t
          else
            let t := t.modPart n (fun p => { p with queues := put p.queues i { q with fence := none } })
            (t.recordDone n i l.seq l.cword l.cval none []).pendOnce .recordAccept [n, i])

/-! ### Repeat nodes (R82) -/

/-- The REPEAT record (R215). -/
def repeatRec (lead op v iter : Nat) (after : Option (Nat × Nat)) : Rec :=
  { kind := 8, source := dispatcherSource lead, cls := 2, core := lead, slot := 0, after := after, op := op
    input := leBytes v 8 ++ leBytes iter 4 }

/-- The graph re-arms: the repeat node goes and every node is appended again, in one step. -/
def Trail.rearmGraph {s : State} (t : Trail s) (n app g : Nat) (rec : Option (Nat × Nat)) : Trail s :=
  let t := t.nodeGone n app none []
  match t.1.part? n with
  | none => t
  | some p =>
    match look p.graphs g with
    | none => t
    | some x =>
      let t := t.dropCached (fun e => decide (e.space = x.space))
      let t := t.modPart n (fun p => (({ p with graphs := put p.graphs g { x with iter := x.iter + 1, lastDone := none } } : Part).appendAll
        g x.nodes rec x.vc).1)
      (t.pokeReady n).pokeRoom n

/-- A repeat node decides on a predicate value that it has read. -/
def Trail.decideRepeat {s : State} (t : Trail s) (n app v : Nat) (step : Instr) : Trail s :=
  match t.1.part? n with
  | none => t
  | some p =>
    match look p.live app with
    | none => t
    | some m =>
      match look p.graphs m.graph with
      | none => t
      | some g =>
        let again := decide (v ≠ 0) && (decide (m.desc.codelen = 0) || decide (g.iter < m.desc.codelen))
        let r := repeatRec n (if again then 0 else 1) v g.iter g.lastDone
        let name := t.1.recName n r.source
        if !again then t.unitLogged n r ⟨step, [n, app]⟩ (fun t => (t.nodeGone n app none []).afterGone n m.graph)
        else if 4096 < p.live.length - 1 + g.nnodes then t.nodeState n app (.rearm v)
        else t.unitLogged n r ⟨step, [n, app]⟩ (fun t => t.rearmGraph n app m.graph name)

/-- REPEAT_DECIDE: a ready repeat node leases its predicate, reads it, and decides (R82). -/
def execRepeatDecide (s : State) : Host.Outcome State Fault Refusal :=
  event s (fun t =>
    let n := s.arg 0
    let app := s.arg 1
    match t.1.part? n with
    | none => t
    | some p =>
      match look p.live app with
      | none => t
      | some m =>
        match look p.graphs m.graph with
        | none => t
        | some g =>
          let die := dieOfCluster n
          if !p.dispatching || !p.isReady app m || m.desc.kind ≠ 1 then t
          else
            match t.1.translate die g.space m.desc.code with
            | none => t.prepareFails n app 1
            | some l =>
              if l.path.any (fun a => !t.1.mayAccess (sysMaster t.1.pkg.num) a permRd) then t.prepareFails n app 2
              else if !l.res then t.askResidency n app g.space n [(m.desc.code, l)]
              else
                let a := l.frame + m.desc.code % l.size
                if !t.1.mayAccess (partMaster t.1.pkg.num n) a permRd then t.prepareFails n app 2
                else if t.1.leaseWaits (leafPages [(m.desc.code, l)]) then t
                else
                  let hs := (t.1.headsOf a 8).filter (fun h => meets h 2 (n * 8))
                  let t := t.cache die g.space m.desc.code l
                  let t := t.modPart n (fun p => { p with graphs := put p.graphs m.graph { g with
                    vc := hs.foldl (fun v h => v.join h.vc) g.vc } })
                  let pages := leafPages [(m.desc.code, l)]
                  let t := (t.takeLeases pages).countAccess die a
                  (t.decideRepeat n app (t.1.mem.read a 8) .repeatDecide).dropLeases pages)

/-- REPEAT_REARM: a re-arm that waits for room; in a drain none re-arms (R82, R47). -/
def execRepeatRearm (s : State) : Host.Outcome State Fault Refusal :=
  event s (fun t =>
    let n := s.arg 0
    let app := s.arg 1
    match t.1.part? n with
    | none => t
    | some p =>
      match (look p.live app).map Node.st with
      | some (.rearm v) => if p.dispatching then t.decideRepeat n app v .repeatRearm else t
      | _ => t)

end Sys2Proof.Machine
end

