-- ==== Sys2Proof/Machine/Pattern.lean ====
section
/-!
DEFINITION. The pattern instructions (R292-R295): loading a pattern of declared names (R94-R98), resizing a name
(R100-R105), and asking for and setting what a pattern says.
-/

namespace Sys2Proof.Machine

/-- Charge of a name in bits (R95). -/
def Desc.charge (d : Desc) : Nat := d.width * d.lanes * (if d.win then 4 else 1)

/-- Total charge of a thread's names (R95). -/
def Thread.charge (th : Thread) : Nat := th.names.foldl (fun n x => n + x.2.desc.charge) 0

/-- A float kind has the width of its format (R95). -/
def kindFits (k : Kind) (w : Nat) : Bool :=
  match k.fmt? with
  | some f => decide (f.width = w)
  | none => true

/-- A 32-bit descriptor of a pattern, or nothing where it fails R95. -/
def parseDesc (w : Nat) : Option Desc :=
  match Kind.ofCode (bits w 15 12), Policy.ofCode (bits w 17 16) with
  | some k, some p =>
    let d : Desc := { width := bits w 5 0 + 1, lanes := bits w 11 6 + 1, kind := k, pol := p, win := bit w 18 }
    if bits w 31 19 = 0 ∧ kindFits k d.width then some d else none
  | _, _ => none

/-- The descriptors of a pattern from name n up, or the number of the first that fails (R96 check 4). -/
def parseDescs (word : Nat → Nat) : Nat → Nat → Except Stop (List (Nat × Desc))
  | _, 0 => .ok []
  | n, fuel + 1 =>
    match parseDesc (word n) with
    | none => trap KIND n
    | some d => do
      let r ← parseDescs word (n + 1) fuel
      .ok ((n, d) :: r)

/-- The rounding mode of a pattern header that passes R94. -/
def parseHeader (h : Nat) : Option RMode :=
  if h / 2048 = 0 ∧ bits h 7 6 = 0 ∧ bits h 5 0 ≤ 56 then RMode.ofCode (bits h 10 8) else none

/-- A thread with a new pattern (R96): every name zero, depth 0, no frame in memory, the header's rounding mode. -/
def Thread.loadPattern (th : Thread) (names : Tab NameSt) (m : RMode) : Thread :=
  { th with names := names, rmode := m, depth := 0, spilled := [], fill := [], mapGen := th.mapGen + 1 }

/-- The rows of a thread's names. -/
def Thread.rows (th : Thread) : List Nat :=
  th.names.foldl (fun l n => n.2.fields.foldl (fun l f => (f.rows (n.2.desc.width * n.2.desc.lanes)).foldl addOnce l) l) []

/-- The steps that end the lock of a slot's rows. -/
def endsLock : Instr → Bool
  | .resz _ _ _ | .mapld _ _ => true
  | _ => false

/-- A slot locks rows for some clocks, at whose end a step of its instruction unlocks them (R104, R105). -/
def Trail.lockRows {s : State} (t : Trail s) (c sl : Nat) (rows : List Nat) (n : Nat) (i : Instr) : Trail s :=
  let t := t.modCore c (fun k => { k with locks := k.locks.filter (fun l => decide (l.1 ≠ sl)) ++ [(sl, rows)] })
  let t := t.act (.agenda t.1.tick t.1.inputs t.1.pending (t.1.timers.filter (fun x => !(endsLock x.ev.step && x.ev.args == [c, sl]))))
  t.timer (dieOf c) true n i [c, sl]

/-- mapld (R292, R96): the pattern is loaded, and the rows that it writes are locked for two clocks each, in which its thread
issues nothing (R105); it discards a pending release fence (R340). As the step of an agent, the end of those clocks. (DEDUCED, log 90) -/
def execMapld (a imm : Nat) (s : State) : Host.Outcome State Fault Refusal :=
  match s.cur, s.args with
  | none, [c, sl] => event s (fun t => t.modCore c (fun k => k.unlock sl))
  | _, _ => issue (.mapld a imm) s (fun x => do
    let _ ← x.check a .int
    let v ← x.read0 a
    let adr : Int := v + x.immI imm
    if adr % 8 ≠ 0 then trap ALIGN (showAddr adr)
    else if !x.inRun adr 8 then extent 7 0 (showAddr adr)
    else
      let p := adr.toNat
      x.runEcc p 8
      let h := x.locNum p 8
      let n := 8 + 4 * (h % 64)
      if !x.inRun adr n then extent 7 0 (showAddr adr)
      else
        x.runRace p n false false
        x.runEcc p n
        match parseHeader h with
        | none => trap KIND 56
        | some m =>
          let ds ← parseDescs (fun i => x.locNum (p + 8 + 4 * i) 4) 0 (h % 64)
          if 16384 < (ds.map (fun d => d.2.charge)).sum then trap MAPFULL 0
          else
            match placePattern x.sl ds (x.k.occupied x.sl) with
            | none => trap MAPFULL 1
            | some names =>
              .ok (fun t =>
                let th := { x.th with relFence := none }.loadPattern names m
                let rows := th.rows
                let t := (t.enterRun x p n false false).setThread x.c x.sl
                  ({ th with busy := max th.busy (2 * rows.length) }.retire (x.th.pc + 4))
                let t := t.lockRows x.c x.sl rows (2 * rows.length) (.mapld a imm)
                if x.steward || x.th.names.isEmpty then t else t.contextFree x.c))

/-- The row-store bits of every field of the core but one field of the thread. -/
def Ctx.occupiedBut (x : Ctx) (n : Nat) : List (Nat × Nat) :=
  x.k.occupied x.sl ++ (x.th.names.filter (fun p => decide (p.1 ≠ n))).flatMap (fun p => p.2.runs)

/-- Rows end of the slot's pool (R97). -/
def poolEnd (sl : Nat) : Nat := if sl = 15 then 1024 else 992

/-- Where a resized field goes (R102): row and bit, and whether it has moved. -/
def Ctx.resizePlace (x : Ctx) (n old new : Nat) (f : Field) : Option (Nat × Nat × Bool) :=
  let occ := x.occupiedBut n
  let first := f.row * 512 + f.bit
  let inPlace :=
    if new ≤ old then true
    else if new ≤ 512 then decide (f.bit + new ≤ 512) && free occ first new
    else f.bit == 0 && decide (f.row * 512 + span new ≤ poolEnd x.sl * 512) && free occ first (span new)
  if inPlace then some (f.row, f.bit, false)
  else (firstFit x.sl ((first, span old) :: occ) new).map (fun p => (p.1, p.2, true))

/-- The value of one lane after a resize (R101, R293). -/
def resizeLane (d : Desc) (k : Kind) (w l v : Nat) : Except Stop Nat :=
  match k.fmt? with
  | none => orTrap LOST l (fitInt { d with kind := k, width := w } (extInt d.kind d.width v))
  | some f => orTrap FPX l (f.fit .rne 0 d.pol (laneValue d.kind d.width v))

/-- A resized name of the thread (R293). -/
def Thread.resized (th : Thread) (n : Nat) (d : Desc) (f : Field) (moved : Bool) : Thread :=
  { th with
    names := put th.names n { desc := d, fields := [f] }
    mapGen := th.mapGen + 1
    mapMoves := if moved && decide (th.mapMoves ≠ 0xFFFF) then th.mapMoves + 1 else th.mapMoves }

/-- What a `resz` does to its name: the descriptor and the lanes that it gets, and its field of now (R101, R293). -/
def Ctx.resize (x : Ctx) (d kind wd : Nat) : Except Stop (Desc × List Nat × Field) := do
  let dd ← x.check d .any
  match Kind.ofCode kind, x.th.field? d with
  | some k, some f =>
    if dd.win || (dd.kind.isInt && decide (k ≠ dd.kind)) || (dd.kind.isFloat && !k.isFloat) || !kindFits k (wd + 1)
    then trap KIND d
    else if 16384 < x.th.charge - dd.width * dd.lanes + (wd + 1) * dd.lanes then trap MAPFULL 2
    else
      let v ← x.read d
      let r ← eachLane (fun l => resizeLane dd k (wd + 1) l (lane v l)) 0 dd.lanes
      .ok ({ dd with kind := k, width := wd + 1 }, r, f)
  | _, _ => trap KIND d

/-- Bits of a name's lanes. -/
def Desc.size (d : Desc) : Nat := d.width * d.lanes

/-- The rows that a `resz` touches: those of its field and of the place it takes (R103, R104). -/
def reszRows (f : Field) (old : Nat) (row b new : Nat) : List Nat :=
  (({ f with row := row, bit := b } : Field).rows new).foldl addOnce (f.rows old)

/-- Clocks of a `resz`: 6, and two for each row that a move touches (R103). -/
def reszClocks (moved : Bool) (rows : List Nat) : Nat := if moved then 6 + 2 * rows.length else 6

/-- Another slot's move is under way on the core (R103). -/
def Core.moveRuns (k : Core) (sl : Nat) : Bool := k.claims.any (fun c => decide (c.1 ≠ sl))

/-- An instruction that issued before a slot's `resz` and touches a row that it has locked has not retired (R103). -/
def Core.rowsInUse (k : Core) (sl : Nat) : Bool :=
  let mine := (k.locks.filter (fun l => decide (l.1 = sl))).flatMap (·.2)
  let shares := fun (l : List Nat) => l.any (fun r => mine.contains r)
  (k.locks.takeWhile (fun l => decide (l.1 ≠ sl))).any (fun l => shares l.2) ||
    k.threads.any (fun p => decide (p.1 ≠ sl) && (match p.2.op with | some o => shares (p.2.touches o.instr) | none => false))

/-- A `resz` issues: it chooses its place, claims it and locks its rows, and is in flight for its clocks; one that needs a move
while another's runs is Held (R102-R104). (DEDUCED, log 90) -/
def Ctx.reszIssues {s : State} (x : Ctx) (d kind wd : Nat) : Except Stop (Effect s) := do
  let (e, _, f) ← x.resize d kind wd
  let old := match x.th.desc? d with | some dd => dd.size | none => 0
  match x.resizePlace d old e.size f with
  | none => trap MAPFULL 2
  | some (row, b, moved) =>
    let rows := reszRows f old row b e.size
    if moved && x.k.moveRuns x.sl then
      .ok (fun t => (waits x .held [] t).modCore x.c (fun k =>
        { k with locks := k.locks.filter (fun l => decide (l.1 ≠ x.sl)) ++ [(x.sl, f.rows old)] }))
    else
      .ok (fun t =>
        let n := reszClocks moved rows
        let t := (waits x .inFlight [row, b, bitAt moved 0] t).modThread x.c x.sl (fun th => { th with busy := n })
        let t := if moved then t.modCore x.c (fun k => { k with claims := k.claims ++ [(x.sl, row * 512 + b, span e.size)] }) else t
        t.lockRows x.c x.sl rows n x.i)

/-- A `resz` retires: its name switches to its place, and the old bits, the locks and the claim are freed. It waits a clock
more while an earlier instruction touches its rows (R103). -/
def Trail.reszRetires {s : State} (t : Trail s) (c sl d kind wd : Nat) : Trail s :=
  if (t.1.core c).rowsInUse sl then
    (t.modThread c sl (fun th => { th with busy := th.busy + 1 })).timer (dieOf c) true 1 (.resz d kind wd) [c, sl]
  else
    (t.resume c sl (fun x a => do
      if x.i ≠ .resz d kind wd ∨ x.th.status ≠ .inFlight then .ok id
      else
        let (e, r, f) ← x.resize d kind wd
        let old := match x.th.desc? d with | some dd => dd.size | none => 0
        let moved := decide (a.getD 2 0 = 1)
        .ok (fun t =>
          let t := own x (fun th => th.resized d e ⟨a.getD 0 f.row, a.getD 1 f.bit, r⟩ moved) t
          if !x.steward && (moved || decide (e.size < old)) then t.contextFree x.c else t))).modCore c (fun k => k.unlock sl)

/-- resz (R293). As the step of an agent, the end of its clocks. -/
def execResz (d kind wd : Nat) (s : State) : Host.Outcome State Fault Refusal :=
  match s.cur, s.args with
  | none, [c, sl] => event s (fun t => t.reszRetires c sl d kind wd)
  | _, _ => issue (.resz d kind wd) s (fun x => x.reszIssues d kind wd)

/-- The descriptor word of a name for `wqry` (R294). -/
def descWord (d : Desc) : Nat :=
  2 ^ 31 + bitAt d.win 18 + d.pol.code * 2 ^ 16 + d.kind.code * 2 ^ 12 + (d.lanes - 1) * 64 + (d.width - 1)

/-- wqry (R294). -/
def execWqry (d sel nm : Nat) (s : State) : Host.Outcome State Fault Refusal :=
  issue (.wqry d sel nm) s (fun x => do
    let dd ← x.check d .any
    let v := match sel with
      | 0 => (match x.th.desc? nm with | some e => descWord e | none => 0)
      | 1 => x.th.depth
      | 2 => x.th.charge
      | _ => x.th.rmode.code
    let r ← x.assignAll dd v
    .ok (own x (x.assigned dd d r)))

/-- pol (R295). -/
def execPol (d pcy : Nat) (s : State) : Host.Outcome State Fault Refusal :=
  issue (.pol d pcy) s (fun x => do
    let _ ← x.check d .any
    match Policy.ofCode pcy, look x.th.names d with
    | some p, some n =>
      .ok (own x (fun th => { th with names := put th.names d { n with desc := { n.desc with pol := p } } }))
    | _, _ => trap KIND d)

/-- `cw.map` (R105). -/
def Thread.mapWord (th : Thread) : Nat := th.mapMoves.toNat * 2 ^ 32 + th.mapGen.toNat

end Sys2Proof.Machine
end

