-- ==== Sys2Proof/Machine/VTime.lean ====
section
/-!
DEFINITION. Local-time mode (R225-R233, R374-R378): the time graph, events and their quota, clocks and milestones, horizons,
`vtrecv`, and null events. Events, milestones and null events of one core to another take one path, in order (R227).
-/

namespace Sys2Proof.Machine

/-- The largest clock value. -/
def timeTop : Nat := 2 ^ 64 - 1

/-- The horizon of a core (R229). -/
def Core.horizon (k : Core) : Nat := (k.inNbrs.getD []).foldl (fun h n => min h (n.pub + n.look)) timeTop

/-- An event ranks before another by stamp, sender core and sequence number (R230). -/
def VtEvent.before (a b : VtEvent) : Bool :=
  decide (a.stamp < b.stamp) || (a.stamp == b.stamp && (decide (a.sender < b.sender) || (a.sender == b.sender && decide (a.seq ≤ b.seq))))

/-- The least of some events. -/
def leastEvent : List VtEvent → Option VtEvent
  | [] => none
  | e :: r =>
    match leastEvent r with
    | none => some e
    | some f => some (if e.before f then e else f)

/-- The event that `vtrecv` would return (R230). -/
def Core.admissible (k : Core) : Option VtEvent := leastEvent (k.events.filter (fun e => decide (e.stamp < k.horizon)))

/-! ### Messages between cores (R227-R229) -/

/-- A clock as numbers, and back. -/
def packClock (v : Clock) : List Nat := v.flatMap (fun p => [p.1, p.2])
def unpackClock : List Nat → Clock
  | a :: n :: r => put (unpackClock r) a n
  | _ => []

/-- An event leaves its core for a receiver (R227): it takes the next sequence number and a place of the quota. -/
def Trail.sendEvent {s : State} (t : Trail s) (c dst stamp : Nat) (words : List Nat) (vc : Clock) : Trail s :=
  let k := t.1.core c
  let seq := lookD k.sendSeq dst 0 + 1
  let t := t.setCore c { k with sendSeq := put k.sendSeq dst seq, quota := put k.quota dst (lookD k.quota dst 0 + 1) }
  t.sendTo (dieOf c) (dieOf dst) .vtEventArrive ([c, dst, seq, stamp] ++ words ++ packClock vc)

/-- A slot waits in `vtsend` for a place at a receiver: when it began to. -/
def Thread.sendWait (th : Thread) (dst : Nat) : Option Nat :=
  match th.status, th.op with
  | .inFlight, some o =>
    (match o.instr, o.args with
     | .vtsend _ _, 0 :: d :: _ :: since :: _ => if d = dst then some since else none
     | _, _ => none)
  | _, _ => none

/-- The slot that has waited longest in `vtsend` for a place at a receiver. (DEDUCED, log 45) -/
def Core.firstSender (k : Core) (dst : Nat) : Option Nat :=
  let l := k.threads.filterMap (fun p => (p.2.sendWait dst).map (fun n => (n, p.1)))
  (l.find? (fun a => l.all (fun b => decide (a.1 ≤ b.1)))).map (·.2)

/-- The core's clock goes to an out-neighbour, as a milestone or a null event (R228, R231). It stays behind an event that waits for
its place there, so that what one core sends to another arrives in order, and a newer clock replaces it (R227). -/
def Trail.sendClock {s : State} (t : Trail s) (c dst : Nat) : Trail s :=
  if ((t.1.core c).firstSender dst).isSome then t.modCore c (fun k => { k with clockHeld := addOnce k.clockHeld dst })
  else t.sendTo (dieOf c) (dieOf dst) .vtMilestoneArrive [c, dst, (t.1.core c).vt.toNat]

/-- A clock that stood behind an event follows, once no event waits there (R227, R228). -/
def Trail.freeClock {s : State} (t : Trail s) (c dst : Nat) : Trail s :=
  let k := t.1.core c
  if k.clockHeld.contains dst && (k.firstSender dst).isNone then
    (t.setCore c { k with clockHeld := k.clockHeld.filter (fun n => decide (n ≠ dst)) }).sendClock c dst
  else t

/-- Clocks that stood behind events of threads that are gone follow. -/
def Trail.freeClocks {s : State} (t : Trail s) (c : Nat) : Trail s := forEach t (t.1.core c).clockHeld (fun t dst => t.freeClock c dst)

/-- The core's clock goes to every out-neighbour. -/
def Trail.sendClocks {s : State} (t : Trail s) (c : Nat) : Trail s :=
  forEach t (t.1.core c).outNbrs (fun t n => t.sendClock c n.1)

/-- vt rises to at least a value; a change sends milestones (R228). -/
def Trail.raiseClock {s : State} (t : Trail s) (c v : Nat) : Trail s :=
  if v ≤ (t.1.core c).vt.toNat then t
  else (t.modCore c (fun k => { k with vt := BitVec.ofNat 64 v })).sendClocks c

/-- The quota of events in flight or held, by sender and receiver (R229). -/
def eventQuota : Nat := 16

/-! ### vtsend (R375) -/

/-- A local buffer of 32 bytes (R374). -/
def Ctx.vtAddr (x : Ctx) (a : Nat) : Except Stop Nat := do
  let p ← x.read0 a
  if p % 32 ≠ 0 then trap ALIGN p else if !x.inRun p 32 then extent 3 0 p else .ok p

/-- An event that has passed its checks leaves the core, once its mesh port accepts it and it has a place at the receiver (R229,
R375, R396): what it waits for, receiver, stamp, since when, and the payload's words stand in the instruction. -/
def Ctx.launch {s : State} (x : Ctx) (dst stamp : Nat) (words : List Nat) : Effect s := fun t =>
  if !Config.portAccepts x.s.tick x.c then waits x .ready ([1, dst, stamp, x.s.tick] ++ words) t
  else if lookD x.k.quota dst 0 < eventQuota && (x.k.firstSender dst).isNone then
    (own x Thread.released t).sendEvent x.c dst stamp words x.th.vc
  else waits x .inFlight ([0, dst, stamp, x.s.tick] ++ words) t

/-- vtsend (R375, R227); one that waited for its port checks nothing anew. (DESIGN CHOICE, log 88) -/
def execVtsend (a b : Nat) (s : State) : Host.Outcome State Fault Refusal :=
  issue (.vtsend a b) s (fun x => do
    let _ ← x.check a .int
    let db ← x.check b .int
    match x.th.op.map (·.args) with
    | some (_ :: dst :: stamp :: _ :: words) => .ok (x.launch dst stamp words)
    | _ =>
    if db.lanes < 2 then trap KIND b
    else do
      let p ← x.vtAddr a
      let v ← x.read b
      let st := v.getD 0 0
      let dst := v.getD 1 0
      if st < x.k.vt.toNat then trap VTPAST st
      else
        match look x.k.outNbrs dst with
        | none => trap ZLA 0xFF
        | some l =>
          if timeTop - 1 < st + l then trap VTPAST st
          else do
            x.runRace p 32 false false
            x.runEcc p 32
            let words := (upFrom 0 4).map (fun j => x.locNum (p + 8 * j) 8)
            .ok (afterStores x (fun t => x.launch dst (st + l) words (t.enterRun x p 32 false false))))

/-- A place of the quota comes back: the event that has waited longest leaves its core, its `vtsend` retires (R229), and a clock that
stood behind it follows. (DEDUCED, log 45) -/
def Trail.placeBack {s : State} (t : Trail s) (c dst : Nat) : Trail s :=
  let t := t.modCore c (fun k => { k with quota := put k.quota dst (lookD k.quota dst 0 - 1) })
  match (t.1.core c).firstSender dst with
  | none => t
  | some sl =>
    (t.resume c sl (fun x a => .ok (fun t =>
      (own x Thread.released t).sendEvent c dst (a.getD 2 0) ((a.drop 4).take 4) x.th.vc))).freeClock c dst

/-! ### vtrecv (R376) -/

/-- The thread takes an event into its buffer: its traps come before anything is written. -/
def Ctx.takeEvent {s : State} (x : Ctx) (p : Nat) (e : VtEvent) : Except Stop (Effect s) :=
  match x.i with
  | .vtrecv d _ => do
    let dd ← x.check d .int
    x.runRace p 32 true false
    let v0 ← orTrap OVF 0 (fitInt dd e.stamp)
    let v1 ← orTrap OVF 1 (fitInt dd e.sender)
    let v2 ← orTrap OVF 2 (fitInt dd e.seq)
    .ok (fun t =>
      let t := (t.enterRun x p 32 true false).localStore x.c (x.runBase + p) e.payload
      let t := t.setThread x.c x.sl (((x.th.acquired e.vc).setLanes d ([v0, v1, v2] ++ (x.th.lanes x.k.vt d).drop 3)).retire (x.th.pc + 4))
      let t := t.modCore x.c (fun k => { k with
        events := k.events.filter (fun f => decide (f ≠ e)), vtWait := k.vtWait.filter (fun sl => decide (sl ≠ x.sl)) })
      (t.raiseClock x.c e.stamp).sendTo (dieOf x.c) (dieOf e.sender) .vtEventArrive [e.sender, x.c])
  | _ => .ok id

/-- The first blocked slot of a core takes an event, if one is admissible; one that traps leaves the event (R230). -/
def Trail.serveFirst {s : State} (t : Trail s) (c : Nat) : Trail s :=
  let k := t.1.core c
  let halted := match t.1.partOfCore c with
    | some n => (match t.1.part? n with | some p => p.halted | none => false)
    | none => false
  match k.vtWait, k.admissible with
  | sl :: r, some e =>
    if halted then t
    else
      let t := t.modCore c (fun k => { k with vtWait := r })
      t.resume c sl (fun x a => x.takeEvent (a.headD 0) e)
  | _, _ => t

/-- Blocked slots of a core are served in the order in which they blocked (R230). -/
def Trail.serveEvents {s : State} (t : Trail s) (c : Nat) : Trail s :=
  let t := forEach t (t.1.core c).vtWait (fun t _ => t.serveFirst c)
  if (t.1.core c).vtWait.isEmpty then t.noTimer .vtNullCountExpire [c] else t

/-- vtrecv (R376). -/
def execVtrecv (d a : Nat) (s : State) : Host.Outcome State Fault Refusal :=
  issue (.vtrecv d a) s (fun x => do
    let _ ← x.check a .int
    let dd ← x.check d .int
    if dd.lanes < 3 then trap KIND d
    else do
      let p ← x.vtAddr a
      match x.k.vtWait, x.k.admissible with
      | [], some e => x.takeEvent p e
      | _, _ => .ok (fun t =>
          ((waits x .blocked [p] t).modCore x.c (fun k => { k with vtWait := k.vtWait ++ [x.sl] })).quietAgain x.c))

/-- VT_EVENT_ARRIVE: an event reaches its receiver (R229, R230); or the place of one that was taken comes back to its
sender. -/
def execVtEventArrive (s : State) : Host.Outcome State Fault Refusal :=
  event s (fun t =>
    match s.args with
    | [c, dst] => t.placeBack c dst
    | c :: dst :: seq :: stamp :: r =>
      let e : VtEvent :=
        { stamp := stamp, sender := c, seq := seq, payload := packWords 8 (r.take 4), vc := unpackClock (r.drop 4) }
      (t.modCore dst (fun k => { k with events := k.events ++ [e] })).serveEvents dst
    | _ => t)

/-- VT_MILESTONE_ARRIVE: a clock that a core has published reaches a receiver (R228, R229, R231). -/
def execVtMilestoneArrive (s : State) : Host.Outcome State Fault Refusal :=
  event s (fun t =>
    let c := s.arg 0
    let dst := s.arg 1
    (t.modCore dst (fun k => { k with
      inNbrs := k.inNbrs.map (fun l => l.map (fun n => if n.core = c then { n with pub := max n.pub (s.arg 2) } else n)) })).serveEvents dst)

/-! ### The other instructions (R377, R378) -/

/-- vtadv (R377). -/
def execVtadv (a : Nat) (s : State) : Host.Outcome State Fault Refusal :=
  issue (.vtadv a) s (fun x => do
    let _ ← x.check a .int
    let v ← x.read0 a
    .ok (fun t => (own x id t).raiseClock x.c v))

/-- vtnull (R377, R231). -/
def execVtnull (s : State) : Host.Outcome State Fault Refusal :=
  issue .vtnull s (fun x => .ok (fun t => (own x id t).sendClocks x.c))

/-- vthor (R377). -/
def execVthor (d : Nat) (s : State) : Host.Outcome State Fault Refusal :=
  issue (.vthor d) s (fun x => do
    let dd ← x.check d .int
    let r ← x.assignAll dd x.k.horizon
    .ok (own x (x.assigned dd d r)))

/-- VT_NULL_COUNT_EXPIRE: a core has been quiet for 1,024 clocks with a thread blocked in `vtrecv`: its clock rises to what
cannot be passed, and null events go out (R231). (DEDUCED, log 45) -/
def execVtNullCountExpire (s : State) : Host.Outcome State Fault Refusal :=
  event s (fun t =>
    let c := s.arg 0
    let k := t.1.core c
    if k.vtWait.isEmpty then t
    else
      let b := k.events.foldl (fun b e => min b e.stamp) k.horizon
      let t := if k.vt.toNat < b then t.modCore c (fun k => { k with vt := BitVec.ofNat 64 b }) else t
      (t.sendClocks c).quietAgain c)

/-- Cores that have declared a core as an in-neighbour. -/
def State.outCount (s : State) (c : Nat) : Nat :=
  (s.cores.filter (fun k => (k.2.inNbrs.getD []).any (fun n => decide (n.core = c)))).length

/-- The first faulty entry of a declaration, with its first failing check (R378 step 3). (DEDUCED, log 45) -/
def Ctx.annFault (x : Ctx) : Nat → List Nat → Option Nat
  | _, [] => none
  | i, w :: r =>
    let core := w % 512
    if bits w 31 9 ≠ 0 then some (0x80 + i)
    else if w / 2 ^ 32 = 0 then some i
    else if x.s.partOfCore core ≠ x.s.partOfCore x.c || decide (32 ≤ x.s.outCount core) then some (0x80 + i)
    else x.annFault (i + 1) r

/-- An in-neighbour as an entry declares it. -/
def nbrOf (w : Nat) : InNbr := { core := w % 512, look := w / 2 ^ 32, pub := 0 }

/-- The same entries in the same order. -/
def sameGraph (l m : List InNbr) : Bool := l.map (fun n => (n.core, n.look)) == m.map (fun n => (n.core, n.look))

/-- vtann (R378, R226). (DEDUCED, log 73) -/
def execVtann (a b : Nat) (s : State) : Host.Outcome State Fault Refusal :=
  issue (.vtann a b) s (fun x => do
    let _ ← x.check a .int
    let _ ← x.check b .int
    let p ← x.read0 a
    let n ← x.read0 b
    if p % 8 ≠ 0 then trap ALIGN p
    else if n ≠ 0 && !x.inRun p (8 * n) then extent 3 0 p
    else if 8 < n then trap ZLA 0xFD
    else do
      x.runRace p (8 * n) false false
      x.runEcc p (8 * n)
      let ws := (upFrom 0 n).map (fun j => x.locNum (p + 8 * j) 8)
      let l := ws.map nbrOf
      let read : Effect s := fun t => t.enterRun x p (8 * n) false false
      match x.k.inNbrs with
      | some m => if sameGraph l m then .ok (fun t => own x id (read t)) else trap ZLA 0xFE
      | none =>
        match x.annFault 0 ws with
        | some v => trap ZLA v
        | none =>
          .ok (fun t =>
            let t := (read t).modCore x.c (fun k => { k with inNbrs := some l })
            if n = 0 then own x id t
            else forEach (waits x .inFlight [n] t) l (fun t q =>
              t.sendTo (dieOf x.c) (dieOf q.core) .vtNeighbourRegister [x.c, x.sl, q.core, q.look])))

/-- VT_NEIGHBOUR_REGISTER: an in-neighbour registers the declaring core as its out-neighbour (R226); its answer comes back,
and the last one lets the `vtann` retire (R378). -/
def execVtNeighbourRegister (s : State) : Host.Outcome State Fault Refusal :=
  event s (fun t =>
    match s.args with
    | [c, sl, nbr, l] =>
      (t.modCore nbr (fun k => { k with outNbrs := put k.outNbrs c l })).sendTo (dieOf nbr) (dieOf c) .vtNeighbourRegister [c, sl]
    | [c, sl] => t.resume c sl (fun x a =>
        match x.i, a with
        | .vtann _ _, [n] => .ok (if n ≤ 1 then own x id else waits x .inFlight [n - 1])
        | _, _ => .ok id)
    | _ => t)

end Sys2Proof.Machine
end

