-- ==== Sys2Proof/Machine/Rung.lean ====
section
/-!
DEFINITION. The pre-emption ladder's ends: the drain (R47 rung 1), the stop at an instruction boundary (rung 2, R207), and
the reset (rung 3), which discards the tasks of a partition.
-/

namespace Sys2Proof.Machine

/-- A step about one thread: its first numbers are the core and the slot. -/
def ofThread : Instr → Bool
  | .loadReturn | .atomicPerform | .frameSpillDone | .frameFillDone | .cardAccept | .sendReply | .messageArrive | .leaseServe
  | .spawnAppend | .vtNeighbourRegister | .recvtTimeout | .refusalSelfNotice | .contextFreeNotice
  | .yieldEnd | .resz _ _ _ | .mapld _ _ => true
  | _ => false

/-- A step about one core of the partition, or a barrier of it. -/
def Due.within (d : Due) (n : Nat) (p : Part) : Bool :=
  match d.step with
  | .barrierCountArrive | .barrierUnitArrival => decide (d.args.getD 1 0 = n) && decide (d.args.headD 0 < 68)
  | .barrierLineRise => decide (d.args.headD 0 = n)
  | .matrixStart | .matrixComplete | .matrixSoftErrorRetry | .streamStart | .streamComplete | .trapService
  | .vtNullCountExpire | .postedStorePerform => p.cores.contains (d.args.headD 0)
  | .replayTimeout => decide (d.args.headD 0 = n)
  | i => ofThread i && p.cores.contains (d.args.headD 0)

/-- Flits on the links, and those that wait for an allowance. -/
def State.flits (s : State) : List Due := (s.links ++ s.unsent).flatMap (fun l => l.2.map (·.2))

/-- A request of a thread in flight is still on its way to where it will be acted on, or its own steps go on. -/
def State.moving (s : State) (c sl : Nat) : Bool :=
  let mine := fun (d : Due) => (ofThread d.step && decide (d.args.take 2 = [c, sl])) || d.thread == some (c, sl)
  s.pending.any mine || s.flits.any mine || s.timers.any (fun x => endsLock x.ev.step && mine x.ev)

/-- A thread stands still: at an instruction boundary, or in a wait that only something else can end (R47, R200, R207). -/
def State.still (s : State) (c sl : Nat) (th : Thread) : Bool :=
  th.fill.isEmpty &&
    (match th.status with
     | .out => false
     | .held => false
     | .inFlight => !s.moving c sl
     | _ => true)

/-- Every user thread of a partition stands still. -/
def State.settled (s : State) (p : Part) : Bool :=
  p.cores.all (fun c => (s.core c).threads.all (fun q => decide (q.1 = 15) || s.still c q.1 q.2))

/-- The tasks of a partition. -/
def State.tasksOf (s : State) (n : Nat) : Tab Task := s.tasks.filter (fun x => decide (x.2.part = n))

/-- The timers of the ladder go. -/
def Trail.noLadderTimers {s : State} (t : Trail s) (n : Nat) : Trail s :=
  ((t.noTimer .preemptT1Expire [n]).noTimer .preemptT2Expire [n]).noTimer .saveComplete [n, 1]

/-- The ladder ends at a rung: every queue that is not in error is stopped and posts a STOP event (R47, R53). -/
def Trail.ladderEnd {s : State} (t : Trail s) (n rung : Nat) : Trail s :=
  match t.1.part? n with
  | none => t
  | some p =>
    let t := (t.modPart n (fun p => { p with ladder := .stopped, halted := true })).noLadderTimers n
    forEach t p.goodQueues (fun t i =>
      let t := t.modQueue n i (fun q => { q with state := 3, rung := rung })
      match (t.1.part? n).bind (fun p => look p.queues i) with
      | some q => t.postEvent q.owner (queueSource n i) 3 [rung, bitAt q.fault 0]
      | none => t)

/-- A partition whose nodes run no more has drained (R47 rung 1). -/
def Trail.drained {s : State} (t : Trail s) (n : Nat) : Trail s :=
  match t.1.part? n with
  | some p => if p.ladder = .drain ∧ p.live.all (fun m => m.2.st.unstarted) then t.ladderEnd n 1 else t
  | none => t

/-- Nodes that a dispatcher has taken and not started give back their leases and return to the head of their pool (R47, R75). -/
def Trail.unprepare {s : State} (t : Trail s) (n : Nat) : Trail s :=
  match t.1.part? n with
  | none => t
  | some p =>
    let back := fun (t : Trail s) (a : Nat) (m : Node) (cl : Nat) =>
      (t.modPart n (fun p => { p with live := put p.live a { m with st := .pooled cl, returned := true, leases := [], ext := [] }
                                      residency := p.residency.filter (fun r => decide (r.app ≠ a)) })).dropLeases (m.leases.map (·.1))
    forEach t p.live (fun t m =>
      match m.2.st with
      | .preparing cl => back t m.1 m.2 cl
      | .prepared cl => back t m.1 m.2 cl
      | _ => t)

/-- A record that is written when the log has room for it, and is otherwise dropped: nothing holds the reset (R219, R47). (DEDUCED, log 68) -/
def Trail.recordOrDrop {s : State} (t : Trail s) (n : Nat) (r : Rec) : Trail s :=
  match t.1.part? n with
  | none => t
  | some p =>
    if p.mode = 1 && p.log.held.isEmpty && decide (t.1.freePlaces p ≠ 0) then (t.recordAs n r (.step ⟨.dumpComplete, [n]⟩)).1
    else if p.mode = 2 then
      match t.1.nextRecord p r.source with
      | some (_, w0, w1) =>
        if bits w0 63 60 = r.kind ∧ bits w1 19 16 = r.op ∧ bits w1 15 0 = r.hash then (t.recordAs n r (.step ⟨.dumpComplete, [n]⟩)).1
        else t
      | none => t
    else t

/-- A MARK record that is not enforced (R215, R221): under replay it is passed with the record that follows it. (DEDUCED, log 68) -/
def Trail.mark {s : State} (t : Trail s) (n op : Nat) : Trail s :=
  match t.1.part? n with
  | some p => if p.mode = 1 then t.recordOrDrop n (markRecord n op) else t
  | none => t

/-- Posted stores of a core's tasks are performed, lane by lane (R336, R77, R217). -/
def Trail.flushStores {s : State} (t : Trail s) (c : Nat) : Trail s :=
  let ps := (t.1.core c).posted
  let t := t.modCore c (fun k => { k with posted := [] })
  forEach t ps (fun t p =>
    let ok := fun (l : Nat × List (Nat × Nat × Byte)) => match l.2 with
      | (ph, _, _) :: _ => t.1.reaches ph && t.1.mayStore p ph
      | [] => false
    forEach t (p.lanes.filter ok) (fun t l => t.performLane c p l))

/-- Atomics of a partition that are on their way reach memory (R25). -/
def Trail.landAtomics {s : State} (t : Trail s) (p : Part) : Trail s :=
  forEach t ((t.1.pending ++ t.1.flits).filter (fun d => decide (d.step = .atomicPerform) && p.cores.contains (d.args.headD 0)))
    (fun t d => t.atomicLands (d.args.getD 0 0) (d.args.getD 1 0))

/-- Steps under way that belong to what a reset discards: all that their flits could still reach is what the reset clears. -/
def Trail.purge {s : State} (t : Trail s) (n : Nat) : Trail s :=
  match t.1.part? n with
  | none => t
  | some p =>
    let t := t.act (.agenda t.1.tick t.1.inputs (t.1.pending.filter (fun d => !d.within n p))
      (t.1.timers.filter (fun x => !x.ev.within n p)))
    let t := forEach t t.1.links (fun t l => t.act (.link l.1 (l.2.filter (fun q => !q.2.within n p))))
    forEach t t.1.unsent (fun t l => t.act (.unsent l.1 (l.2.filter (fun q => !q.2.within n p))))

/-- The engines, accumulators and synchronisation state of a core after a rung-3 reset (R47, R113, R117). -/
def Core.resetEngines (k : Core) : Core :=
  { k.clearSync with
    acc := [], dirty := [], sat := [], matrixQ := [], streamQ := [], portQ := [], tags := [], pigeons := [], arrivals := []
    refusals := [], vtWait := [], locks := [], claims := [], trapQ := k.trapQ.filter (fun sl => decide (sl = 15)) }

/-- What waits at the log of a partition that has been reset: only records still to be taken. -/
def keepsWaiting (w : Waiter) : Bool :=
  match w with
  | .step d => (match d.step with | .recordAccept => true | _ => false)
  | .thread _ _ => false

/-- A graph that held a discarded task is aborted as a whole (R47 step 3). -/
def Trail.discardGraph {s : State} (t : Trail s) (n g reason : Nat) : Trail s :=
  match t.1.part? n with
  | none => t
  | some p =>
    match look p.graphs g with
    | none => t
    | some x =>
      let mine := p.live.filter (fun m => decide (m.2.graph = g))
      let run := (mine.filter (fun m => !m.2.st.unstarted)).map (fun m => m.2.index)
      let e : RecError := { kind := 5, node := run.foldl min (run.headD 0), thread := 0, lane := 0, reason := reason, adr := 0 }
      let t := t.modPart n (fun p => { p with graphs := put p.graphs g { x with aborted := true, err := some e } })
      (forEach t (mine.map (·.1)) (fun t a => t.nodeGone n a none [])).afterGone n g

/-- RUNG 3 (R47, R75): the partition's engines are reset, its tasks and saved contexts discarded, and the ladder ends. A
task that a fatal fault ended has its end recorded first (R75). -/
def Trail.rung3 {s : State} (t : Trail s) (n reason : Nat) : Trail s :=
  match t.1.part? n with
  | none => t
  | some p =>
    let t := (forEach t p.cores (fun t c => t.flushStores c)).landAtomics p
    let tasks := t.1.tasksOf n
    let ended := tasks.filter (fun x => p.dumps.any (fun d => decide (d.task = x.1)))
    let t := forEach t ended (fun t x =>
      match look p.live x.2.app with
      | some m => t.recordOrDrop n (dispatchRec (clusterOf x.2.core) (clusterOf x.2.core) 0 1 x.2.app m.index x.2.core none)
      | none => t)
    let t := t.mark n 2
    let t := forEach t tasks (fun t x => t.freeTask x.1)
    let t := t.unprepare n
    let graphs := (p.live.filter (fun m => !m.2.st.unstarted)).foldl (fun l m => addOnce l m.2.graph) []
    let t := t.modPart n (fun p => { p with
      saved := none, shadow := [], found := [], dumps := [], residency := [], ladder := .stopped, halted := true
      log := { p.log with held := p.log.held.filter keepsWaiting, granted := p.log.granted.filter keepsWaiting
                          turns := p.log.turns.filter (fun w => keepsWaiting w.2) } })
    let t := t.purge n
    let t := forEach t p.cores (fun t c => ((t.modCore c Core.resetEngines).mend 5 c (fun _ => true)).freeClocks c)
    let t := forEach t (t.1.barUnits.filter (fun b => decide (b.1 / 32 % 64 = n) && decide (b.1 / 2048 < 68)))
      (fun t b => t.act (.barUnit b.1 { b.2 with left := none }))
    let t := forEach t graphs (fun t g => t.discardGraph n g reason)
    let t := forEach t p.clusters (fun t cl => t.pendOnce .courierJobStart [cl])
    (((t.clearStall n).ladderEnd n 3).pokePools n).pokeRoom n

/-- A partition is stopped at rung 3 already. -/
def Part.atReset (p : Part) : Bool :=
  decide (p.ladder = .stopped) && p.queues.any (fun q => decide (q.2.state = 3) && decide (q.2.rung = 3))

end Sys2Proof.Machine
end

