-- ==== Sys2Proof/Machine/DebugCmd.lean ====
section
/-!
DEFINITION. Debug commands (R240-R242): a freeze and a thaw of the package, and stopping, releasing and stepping one thread.
-/

namespace Sys2Proof.Machine

/-- A write to the debug command register of a die by a master: it needs ctrl at the debug block (R235, R49). -/
def debugCommand (s : State) (go : Trail s → Trail s) : Host.Outcome State Fault Refusal :=
  event s (fun t =>
    if s.grants (debugTable s.pkg.num (s.arg 1)) (s.arg 0) none permCtrl then go (t.wakeDie (s.arg 1)) else t.denied (s.arg 0))

/-- DEBUG_FREEZE (R240 op 1, R242). -/
def execDebugFreeze (s : State) : Host.Outcome State Fault Refusal := debugCommand s (fun t => t.freeze 1 (s.arg 1) 0 0 0)

/-- DEBUG_THAW: every block resumes where it stopped, and stewards take up what came meanwhile (R240 op 2, R242). -/
def execDebugThaw (s : State) : Host.Outcome State Fault Refusal :=
  debugCommand s (fun t =>
    let t := t.modPkg (fun p => { p with frozen := false })
    t.unpark (fun d => !(t.1.die d).restart))

/-- A command on one user thread, which does nothing for slot 15, a free slot or a thread in the wrong state (R240). -/
def debugThread (s : State) (ok : Thread → Bool) (go : Nat → Nat → Thread → Trail s → Trail s) : Host.Outcome State Fault Refusal :=
  debugCommand s (fun t =>
    let c := s.arg 2
    let sl := s.arg 3
    match t.1.thread? c sl with
    | some th => if sl = 15 || !ok th then t else go c sl th t
    | none => t)

/-- A thread at an instruction boundary, or blocked in a wait, or held in an instruction that a hint binds: it can halt at once
(R240, R47, R277). (DEDUCED, log 64) -/
def State.canHaltNow (s : State) (c sl : Nat) (th : Thread) : Bool :=
  decide (th.status = .ready) || decide (th.status = .blocked) || decide (th.status = .yielding) ||
    (th.hint.isSome && decide (th.status = .inFlight) && !s.moving c sl)

/-- A stopped thread goes on; one that was Yielding is Ready, and the rest of its clocks is dropped (R372). -/
def Thread.goes (th : Thread) (stepping : Bool) : Thread :=
  { th with stopped := false, stepping := stepping, status := if th.status = .yielding then .ready else th.status }

/-- DEBUG_STOP: the thread halts at its next instruction boundary, never between a hint and the instruction that it binds (R240
op 3, R277). (DEDUCED, log 64) -/
def execDebugStop (s : State) : Host.Outcome State Fault Refusal :=
  debugThread s (fun th => !th.stopped && !th.trapped && decide (th.status ≠ .finished)) (fun c sl th t =>
    if t.1.canHaltNow c sl th then
      let t := (t.unissue c sl).modThread c sl (fun th => { th with stopped := true, stepping := false })
      t.trace c sl 5 ((if th.hint.isSome then th.pc - 4 else th.pc) % 2 ^ 56)
    else t.modThread c sl (fun th => { th with stepping := true }))

/-- DEBUG_GO: a stopped thread resumes; a hit that it stopped at is suppressed for its next issue (R240 op 4). -/
def execDebugGo (s : State) : Host.Outcome State Fault Refusal :=
  debugThread s (fun th => th.stopped) (fun c sl th t =>
    (t.modThread c sl (fun th => th.goes false)).trace c sl 7 (th.pc % 2 ^ 56))

/-- DEBUG_STEP: a stopped thread resumes until exactly one instruction retires (R240 op 5). -/
def execDebugStep (s : State) : Host.Outcome State Fault Refusal :=
  debugThread s (fun th => th.stopped) (fun c sl th t =>
    (t.modThread c sl (fun th => th.goes true)).trace c sl 7 (th.pc % 2 ^ 56))

end Sys2Proof.Machine
end

