-- ==== Sys2Proof/Machine/Matrix.lean ====
section
/-!
DEFINITION. The matrix engine (R120-R132, R352-R361): descriptors, weight slots and sparsity metadata, K-block sums
(R160-R163), the accumulator store, and scaling (R158). An instruction that passes its checks waits for the engine, which
runs one at a time in issue order; it acts whole when it completes.
-/

namespace Sys2Proof.Machine

/-! ### The accumulator store (R129) -/

/-- DESIGN CHOICE, log 3. -/
def Core.accAt (k : Core) (row col : Nat) : Nat := lookD k.acc (row * 64 + col) 0

/-- Write an element; zero is absent. -/
def setAcc (acc : Tab Nat) (row col v : Nat) : Tab Nat :=
  if v = 0 then del acc (row * 64 + col) else put acc (row * 64 + col) v

/-- The 64 elements of a tile, with the row and column of each. -/
def tileCells (tile : Nat) : List (Nat × Nat) :=
  (upFrom 0 64).map (fun l => (tile / 8 * 8 + l / 8, tile % 8 * 8 + l % 8))

def Core.tile (k : Core) (tile : Nat) : List Nat := (tileCells tile).map (fun p => k.accAt p.1 p.2)

def Core.setTile (k : Core) (tile : Nat) (vs : List Nat) : Core :=
  { k with acc := ((tileCells tile).zip vs).foldl (fun a p => setAcc a p.1.1 p.1.2 p.2) k.acc }

/-- Set or clear a tile's flag in a rising list of tiles. -/
def flagTile (l : List Nat) (tile : Nat) (on : Bool) : List Nat :=
  let r := l.filter (fun x => decide (x ≠ tile))
  if on then insertBy (fun a b => decide (a < b)) tile r else r

def Core.setDirty (k : Core) (tile : Nat) (on : Bool) : Core := { k with dirty := flagTile k.dirty tile on }
def Core.setSat (k : Core) (tile : Nat) (on : Bool) : Core := { k with sat := flagTile k.sat tile on }

/-! ### Descriptors (R352) and geometry (R122) -/

/-- A matrix instruction's operands. -/
structure Mma where
  base : Nat
  stride : Nat
  row0 : Nat
  col0 : Nat
  slot : Nat
  fusion : Nat
  pair : Nat
  planes : Nat
  /-- Bytes of each A row. -/
  kext : Nat
  sparse : Bool
  zi : Bool
  deriving DecidableEq, Repr

/-- A descriptor that R352 refuses. -/
def badDesc (desc : Nat) (sparse : Bool) : Bool :=
  let pair := bits desc 9 6
  let p := bits desc 13 10
  decide (desc / 2 ^ 33 ≠ 0) || decide (8 ≤ pair) || (if pair = 1 then decide (p < 2) || decide (8 < p) else decide (p ≠ 0)) ||
    (bit desc 32 != sparse)

def mmaOf (base desc stride tile : Nat) (sparse zi : Bool) : Mma :=
  { base := base, stride := stride, row0 := tile / 8 * 8, col0 := tile % 8 * 8, slot := bits desc 3 0
    fusion := bits desc 5 4, pair := bits desc 9 6, planes := bits desc 13 10, kext := (bits desc 16 14 + 1) * 64
    sparse := sparse, zi := zi }

/-- Output rows and columns. -/
def Mma.rows (m : Mma) : Nat := if m.fusion = 0 then 8 else if m.fusion = 1 then 16 else 32
def Mma.cols (m : Mma) : Nat := if m.fusion = 0 then 32 else if m.fusion = 1 then 16 else 8

/-- The A row of an output row: its local address (R122). -/
def Mma.rowAddr (m : Mma) (r : Nat) : Nat :=
  if m.fusion = 3 then m.base + r / 8 * m.stride + r % 8 * 512 else m.base + r * m.stride

/-- The slot that an output row multiplies by. -/
def Mma.slotOf (m : Mma) (r : Nat) : Nat := if m.fusion = 3 then m.slot + r / 8 else m.slot

/-- The slots in use, rising. -/
def Mma.slots (m : Mma) : List Nat := if m.fusion = 3 then upFrom m.slot 4 else [m.slot]

/-- The tiles written, rising. -/
def Mma.tiles (m : Mma) : List Nat :=
  (upFrom 0 (m.rows / 8)).flatMap (fun i => (upFrom 0 (m.cols / 8)).map (fun j => (m.row0 / 8 + i) * 8 + m.col0 / 8 + j))

/-- The checks of R123, in order, and the in-use flags (R354). -/
def Ctx.checkMma (x : Ctx) (m : Mma) : Except Stop Unit :=
  if m.base % 32 ≠ 0 then trap ALIGN m.base
  else if 128 < m.row0 + m.rows ∨ 64 < m.col0 + m.cols then trap ACCR (m.row0 * 64 + m.col0)
  else if m.fusion = 3 ∧ 15 < m.slot + 3 then trap WBUF m.slot
  else
    match (upFrom 0 m.rows).find? (fun r => !x.inRun (m.rowAddr r) m.kext) with
    | some r => extent 7 0 (m.rowAddr r)
    | none =>
      match m.slots.find? (fun n => !(x.k.wslot n).inUse) with
      | some n => trap WBUF n
      | none => .ok ()

/-- The granules of the A rows. -/
def Ctx.rowGranules (x : Ctx) (m : Mma) : List Loc :=
  (upFrom 0 m.rows).flatMap (fun r => (granules (x.runBase + m.rowAddr r) m.kext).map .gran)

/-- Races of an engine instruction: locations it reads and tiles it writes, then they enter the histories. -/
def Ctx.engineRace (x : Ctx) (reads writes : List Loc) : Except Stop Unit :=
  if x.steward then .ok ()
  else do
    x.raceCheck false false (reads.map (fun l => (0, l)))
    x.raceCheck true false (writes.map (fun l => (0, l)))

/-- A matrix instruction joins the queue of the core's engine (R120). -/
def Trail.engineEnter {s : State} (t : Trail s) (x : Ctx) (args : List Nat) (reads writes : List Loc) : Trail s :=
  let first := (t.1.core x.c).matrixQ.isEmpty
  let op : Op := { instr := x.i, pc := x.th.pc, hint := x.hint, args := args }
  let t := (t.enterAll x false false reads).enterAll x true false writes
  let t := waits x .out args (t.modCore x.c (fun k =>
    { k with matrixQ := k.matrixQ ++ [{ slot := x.sl, op := op, started := false, retried := false }] }))
  if first then t.pend .matrixStart [x.c] else t

/-- `mma` and `mmas` at issue (R354). -/
def mmaIssue (i : Instr) (a b tile zi : Nat) (sparse : Bool) (s : State) : Host.Outcome State Fault Refusal :=
  issue i s (fun x => do
    let _ ← x.check a .int
    let _ ← x.check b .int
    let desc ← x.read0 b
    let base ← x.read0 a
    if badDesc desc sparse then trap KIND desc
    else
      let stride := x.hintStride.getD (32 * bits desc 31 17)
      let m := mmaOf base desc stride tile sparse (zi == 1)
      x.checkMma m
      let rd := x.rowGranules m
      let wr := m.tiles.map Loc.tile
      x.engineRace rd wr
      .ok (fun t => t.engineEnter x [base, desc, stride] rd wr))

/-- mma (R353, R354). -/
def execMma (a b tile zi : Nat) (s : State) : Host.Outcome State Fault Refusal := mmaIssue (.mma a b tile zi) a b tile zi false s

/-- mmas (R353, R354). -/
def execMmas (a b tile zi : Nat) (s : State) : Host.Outcome State Fault Refusal := mmaIssue (.mmas a b tile zi) a b tile zi true s

/-- mzero (R357). -/
def execMzero (tile : Nat) (s : State) : Host.Outcome State Fault Refusal :=
  issue (.mzero tile) s (fun x => do
    x.engineRace [] [.tile tile]
    .ok (fun t => t.engineEnter x [] [] [.tile tile]))

/-- The data name of `maccrd` and `maccwr` (R357). -/
def tileName (d : Desc) : Bool :=
  decide (d.lanes = 64) && decide (d.width = 64) && (decide (d.kind = .uns) || decide (d.kind = .sgn) || decide (d.kind = .f64))

/-- maccrd (R357). -/
def execMaccrd (a tile : Nat) (s : State) : Host.Outcome State Fault Refusal :=
  issue (.maccrd a tile) s (fun x => do
    let d ← x.check a .any
    if !tileName d then trap KIND a
    else
      x.engineRace [.tile tile] []
      .ok (fun t => t.engineEnter x [] [.tile tile] []))

/-- maccwr (R357). -/
def execMaccwr (a tile : Nat) (s : State) : Host.Outcome State Fault Refusal :=
  issue (.maccwr a tile) s (fun x => do
    let d ← x.check a .any
    if !tileName d then trap KIND a
    else
      let v ← x.read a
      x.engineRace [] [.tile tile]
      .ok (fun t => t.engineEnter x v [] [.tile tile]))

/-- A scale that is not positive and finite (R157). -/
def badScale (f : Fmt) (v : Nat) : Bool :=
  match f.value v with
  | .num false n _ => decide (n = 0)
  | _ => true

/-- scacc (R358). -/
def execScacc (a tile src : Nat) (s : State) : Host.Outcome State Fault Refusal :=
  issue (.scacc a tile src) s (fun x => do
    let d ← x.check a .any
    if d.lanes ≠ 16 ∨ (d.kind ≠ .f32 ∧ d.kind ≠ .f64) then trap KIND a
    else
      let v ← x.read a
      let f := if d.kind = .f32 then fmtF32 else fmtF64
      match (upFrom 0 16).find? (fun j => badScale f (v.getD j 0)) with
      | some j => trap SCALE j
      | none =>
        let rd := if src = tile then [] else [Loc.tile src]
        x.engineRace rd [.tile tile]
        .ok (fun t => t.engineEnter x (bitAt (decide (d.kind = .f32)) 0 :: v) rd [.tile tile]))

/-- `mldb` and `mldm` at issue (R360). -/
def loadIssue (i : Instr) (a b slot limit : Nat) (s : State) : Host.Outcome State Fault Refusal :=
  issue i s (fun x => do
    let _ ← x.check a .int
    let _ ← x.check b .int
    let p ← x.read0 a
    let n ← x.read0 b
    if p % 64 ≠ 0 then trap ALIGN p
    else if n = 0 ∨ n % 64 ≠ 0 ∨ limit < n then trap WBUF slot
    else if !x.inRun p n then extent 7 0 p
    else
      let rd := (granules (x.runBase + p) n).map Loc.gran
      x.engineRace rd []
      .ok (fun t => t.engineEnter x [p, n] rd []))

/-- mldb (R360). -/
def execMldb (a b slot : Nat) (s : State) : Host.Outcome State Fault Refusal := loadIssue (.mldb a b slot) a b slot 32768 s

/-- mldm (R360). -/
def execMldm (a b slot : Nat) (s : State) : Host.Outcome State Fault Refusal := loadIssue (.mldm a b slot) a b slot 4096 s

/-! ### The weight buffer (R125-R128) -/

/-- A raw byte of a slot; bytes beyond the image are zero. -/
def WSlot.byte (w : WSlot) (i : Nat) : Nat := (w.image.getD i 0).toNat

/-- The 8-byte words of a run of bytes that are not zero. -/
def wordsUsed : Nat → List Byte → Nat
  | 0, _ => 0
  | n + 1, bs => (if (bs.take 8).all (· == 0) then 0 else 1) + wordsUsed n (bs.drop 8)

/-- Bytes of an image in the zero-group code (R126): a mask byte and the words that are not zero, for each 64 bytes. -/
def codedSize : Nat → List Byte → Nat
  | 0, _ => 0
  | n + 1, bs => 1 + 8 * wordsUsed 8 (bs.take 64) + codedSize n (bs.drop 64)

/-- An image does not fit a slot. -/
def tooLong (bs : List Byte) : Bool := decide (32768 < codedSize ((bs.length + 63) / 64) bs)

/-- A byte of metadata with an invalid code (R128). -/
def badCode (b : Byte) : Bool := decide (5 < b.toNat % 16) || decide (5 < b.toNat / 16)

/-- The kept positions of a 2:4 code. -/
def kept : Nat → List Nat
  | 0 => [0, 1]
  | 1 => [0, 2]
  | 2 => [0, 3]
  | 3 => [1, 2]
  | 4 => [1, 3]
  | _ => [2, 3]

/-- The K elements that a sparse column keeps, of n. -/
def Core.keptOf (k : Core) (record n : Nat) : List Nat :=
  (upFrom 0 (n / 4)).flatMap (fun g =>
    (kept ((k.side.get (record * 64 + g / 2)).toNat / 16 ^ (g % 2) % 16)).map (fun p => 4 * g + p))

/-! ### K-block sums (R121, R160-R163) -/

/-- Bytes of an element, and the float formats of A and B. -/
def Mma.elem (m : Mma) : Nat := if 6 ≤ m.pair then 2 else 1

def pairFmts : Nat → Option (Fmt × Fmt)
  | 2 => some (fmtE4M3, fmtE4M3)
  | 3 => some (fmtE4M3, fmtE5M2)
  | 4 => some (fmtE5M2, fmtE4M3)
  | 5 => some (fmtE5M2, fmtE5M2)
  | 6 => some (fmtBF16, fmtBF16)
  | 7 => some (fmtF16, fmtF16)
  | _ => none

/-- K elements of a row. -/
def Mma.count (m : Mma) : Nat := m.kext / m.elem

/-- K elements that a column holds, and the place of each among those of A. -/
def Mma.places (m : Mma) (k : Core) (slot n : Nat) : List Nat :=
  if m.sparse then k.keptOf (slot % 4 * 64 + n) m.count else upFrom 0 m.count

/-- The bit string of element i of a column. -/
def Mma.colBits (m : Mma) (w : WSlot) (n i : Nat) : Nat :=
  if m.elem = 2 then w.byte (n * 512 + 2 * i) + 256 * w.byte (n * 512 + 2 * i + 1) else w.byte (n * 512 + i)

/-- The value w_p of element i of a column of planes (R156). -/
def planeValue (w : WSlot) (n i p : Nat) : Int :=
  extInt .sgn p ((upFrom 0 p).foldl (fun v j => 2 * v + w.byte (n * 512 + j * 64 + i / 8) / 2 ^ (i % 8) % 2) 0)

/-- The bit string of element i of an A row. -/
def Mma.rowBits (m : Mma) (x : Ctx) (r i : Nat) : Nat := x.locNum (m.rowAddr r + m.elem * i) m.elem

/-- The exact integer sum of the Integer and Plane pairs. -/
def Mma.intSum (m : Mma) (x : Ctx) (k : Core) (r n : Nat) : Int :=
  let w := k.wslot (m.slotOf r)
  let ps := m.places k (m.slotOf r) n
  ((upFrom 0 ps.length).zip ps).foldl (fun acc p =>
    acc + extInt .sgn 8 (m.rowBits x r p.2) *
      (if m.pair = 1 then planeValue w n p.1 m.planes else extInt .sgn 8 (m.colBits w n p.1))) 0

/-- The products of a float pair. -/
def Mma.products (m : Mma) (x : Ctx) (k : Core) (r n : Nat) : List FVal :=
  match pairFmts m.pair with
  | none => []
  | some (fa, fb) =>
    let w := k.wslot (m.slotOf r)
    let ps := m.places k (m.slotOf r) n
    ((upFrom 0 ps.length).zip ps).map (fun p => (fa.value (m.rowBits x r p.2)).mul (fb.value (m.colBits w n p.1)))

def FVal.isInf (neg : Bool) : FVal → Bool
  | .inf s => s == neg
  | _ => false

def FVal.isZero : FVal → Bool
  | .num _ n _ => n == 0
  | _ => false

/-- The sign of a value: −1, 0 or 1. -/
def FVal.sign : FVal → Int
  | .num s n _ => if n = 0 then 0 else if s then -1 else 1
  | _ => 0

/-- ⌊log2⌋ of a value that is not zero. -/
def FVal.exponent : FVal → Int
  | .num _ n d => log2Rat n d
  | _ => 0

/-- A product truncated to a whole number of units 2^q, and the remainder (R161). -/
def FVal.cut (q : Int) : FVal → Int × FVal
  | .num s n d =>
    let num := n * pow2Den q
    let den := d * pow2Num q
    let h : Int := (num / den : Nat)
    (if s then -h else h, .num s (num % den) den)
  | _ => (0, .num false 0 1)

/-- A whole number of units 2^q. -/
def scaled (v q : Int) : FVal := .num (decide (v < 0)) (v.natAbs * pow2Num q) (pow2Den q)

/-- The window value W (R161): the sum of the truncated products, one bit below the window set by the rest. -/
def windowSum (ps : List FVal) : FVal :=
  let e := ps.foldl (fun m p => max m p.exponent) ((ps.headD .nan).exponent)
  let q := e - 149
  let cuts := ps.map (FVal.cut q)
  let h := cuts.foldl (fun acc c => acc + c.1) 0
  let l := cuts.foldl (fun acc c => FVal.add false acc c.2) (.num false 0 1)
  scaled (2 * h + l.sign) (q - 1)

/-- The K-block sum of a float pair (R160, R163). -/
def blockSum (window : Bool) (ps : List FVal) : FVal :=
  if ps.any FVal.isNan || (ps.any (FVal.isInf true) && ps.any (FVal.isInf false)) then .nan
  else if ps.any (FVal.isInf true) then .inf true
  else if ps.any (FVal.isInf false) then .inf false
  else
    let nz := ps.filter (fun p => !p.isZero)
    if nz.isEmpty then .num false 0 1
    else if window then windowSum nz
    else nz.foldl (FVal.add false) (.num false 0 1)

/-- A value as binary64 bits, rounded rne under ieee. -/
def bits64 (v : FVal) : Nat := (fmtF64.fit .rne 0 .wrap v).getD 0

/-- An output element's new bits, and whether it saturated (R129, R160). -/
def Mma.element (m : Mma) (x : Ctx) (k : Core) (r n : Nat) : Nat × Bool :=
  let old := k.accAt (m.row0 + r) (m.col0 + n)
  if m.pair ≤ 1 then
    let v := m.intSum x k r n + (if m.zi then 0 else extInt .sgn 64 old)
    if v < rangeLo .sgn 64 then (bitsOf 64 (rangeLo .sgn 64), true)
    else if rangeHi .sgn 64 < v then (bitsOf 64 (rangeHi .sgn 64), true)
    else (bitsOf 64 v, false)
  else
    let sum := rne64 (blockSum (decide (6 ≤ m.pair)) (m.products x k r n))
    (bits64 (if m.zi then sum else FVal.add false (fmtF64.value old) sum), false)

/-- All output elements: row, column, bits, saturated. -/
def Mma.outputs (m : Mma) (x : Ctx) (k : Core) : List (Nat × Nat × Nat × Bool) :=
  (upFrom 0 m.rows).flatMap (fun r => (upFrom 0 m.cols).map (fun n =>
    let e := m.element x k r n
    (m.row0 + r, m.col0 + n, e.1, e.2)))

/-- The tiles of an instruction are written together (R130). -/
def Core.writeMma (k : Core) (m : Mma) (outs : List (Nat × Nat × Nat × Bool)) : Core :=
  let k := { k with acc := outs.foldl (fun a e => setAcc a e.1 e.2.1 e.2.2.1) k.acc }
  let k := m.tiles.foldl (fun k n => k.setDirty n true) k
  outs.foldl (fun k e => if e.2.2.2 then k.setSat (e.1 / 8 * 8 + e.2.1 / 8) true else k) k

/-- An element of `scacc` (R158). -/
def scaccElement (src old sa sb : FVal) : Nat :=
  let t1 := rne64 src
  let t2 := rne64 (t1.mul sa)
  let t3 := rne64 (t2.mul sb)
  bits64 (FVal.add false old t3)

/-- The new elements of `scacc`'s destination tile. -/
def scaccTile (k : Core) (dst src : Nat) (single : Bool) (scales : List Nat) : List Nat :=
  let scale := fun j => (if single then fmtF32 else fmtF64).value (scales.getD j 0)
  (upFrom 0 64).map (fun l =>
    let v := (k.tile src).getD l 0
    let sv := if single then FVal.ofInt (extInt .sgn 64 v) else fmtF64.value v
    scaccElement sv (fmtF64.value ((k.tile dst).getD l 0)) (scale (l / 8)) (scale (8 + l % 8)))

/-! ### Soft errors in operands (R131) -/

/-- An instruction's operands as it reads them: local runs, groups of weight slots, side records, tiles. -/
structure Operands where
  runs : List (Nat × Nat)
  groups : List (Nat × Nat)
  records : List Nat
  tiles : List Nat
  deriving DecidableEq, Repr

/-- The 64-byte groups of a slot that an instruction reads. -/
def Mma.groups (m : Mma) : List (Nat × Nat) :=
  let n := if m.pair = 1 then m.planes else ((if m.sparse then m.kext / 2 else m.kext) + 63) / 64
  m.slots.flatMap (fun sl => (upFrom 0 m.cols).flatMap (fun c => (upFrom (c * 8) n).map (fun g => (sl, g))))

/-- The matrix instruction that a slot waits for. -/
def Ctx.mma? (x : Ctx) (args : List Nat) : Option Mma :=
  let f := fun tile zi sparse => some (mmaOf (args.getD 0 0) (args.getD 1 0) (args.getD 2 0) tile sparse zi)
  match x.i with
  | .mma _ _ tile zi => f tile (zi == 1) false
  | .mmas _ _ tile zi => f tile (zi == 1) true
  | _ => none

def Ctx.operands (x : Ctx) (args : List Nat) : Operands :=
  match x.i with
  | .maccrd _ tile => { runs := [], groups := [], records := [], tiles := [tile] }
  | .scacc _ dst src => { runs := [], groups := [], records := [], tiles := [src, dst] }
  | .mldb _ _ _ | .mldm _ _ _ =>
    { runs := [(args.getD 0 0, args.getD 1 0)], groups := [], records := [], tiles := [] }
  | _ =>
    match x.mma? args with
    | some m =>
      { runs := (upFrom 0 m.rows).map (fun r => (m.rowAddr r, m.kext)), groups := m.groups
        records := if m.sparse then m.slots.flatMap (fun sl => upFrom (sl % 4 * 64) m.cols) else []
        tiles := if m.zi then [] else m.tiles }
    | none => { runs := [], groups := [], records := [], tiles := [] }

/-- The tile of an accumulator element. -/
def tileOf (place : Nat) : Nat := place / 64 / 8 * 8 + place % 64 / 8

/-- An error in an old accumulator element: unit 5 and its row (R131, R198). (DESIGN CHOICE, log 18) -/
def Ctx.accBad (x : Ctx) (o : Operands) : Option Nat :=
  (x.s.bad.find? (fun b => decide (b.1 = 5) && decide (b.2.1 = x.c) && o.tiles.contains (tileOf b.2.2))).map (fun b => 5 * 2 ^ 56 + b.2.2 / 64)

/-- An error in what an operand fetch reads: unit 3 or 4 and a place, or unit 2 and the address. (DESIGN CHOICE, log 18) -/
def Ctx.fetchBad (x : Ctx) (o : Operands) : Option Nat :=
  match x.s.bad.find? (fun b => decide (b.1 = 3) && decide (b.2.1 = x.c) && o.groups.contains (b.2.2 / 512, b.2.2 % 512)) with
  | some b => some (3 * 2 ^ 56 + Config.eccuPlace 3 b.2.2 % 2 ^ 56)
  | none =>
    match x.s.bad.find? (fun b => decide (b.1 = 4) && decide (b.2.1 = x.c) && o.records.contains b.2.2) with
    | some b => some (4 * 2 ^ 56 + Config.eccuPlace 4 b.2.2 % 2 ^ 56)
    | none => (o.runs.find? (fun r => (x.localBad (x.runBase + r.1) r.2).isSome)).bind
        (fun r => x.localBad (x.runBase + r.1) r.2)

/-- The core's local store holds an uncorrectable word in a run. -/
def State.localRunBad (s : State) (c off len : Nat) : Bool :=
  s.bad.any (fun b => decide (b.1 = 2) && decide (b.2.1 = c) && decide (off / 8 ≤ b.2.2) && decide (b.2.2 < (off + len + 7) / 8))

/-- The steward reloads a weight slot from its recorded source (R127, R131). -/
def Trail.reloadSlot {s : State} (t : Trail s) (c n : Nat) : Trail s :=
  let w := (t.1.core c).wslot n
  let bs := t.1.loc.bytes (locKey c w.adr) w.len
  if !w.inUse || tooLong bs || t.1.localRunBad c w.adr w.len then t
  else (t.modCore c (fun k => { k with wbuf := put k.wbuf n { w with image := bs } })).mend 3 c (fun p => decide (p / 512 = n))

/-- The steward reloads side-memory records from their `mldm` source. -/
def Trail.reloadSide {s : State} (t : Trail s) (c : Nat) (src : Nat × Nat × Nat) : Trail s :=
  let bs := t.1.loc.bytes (locKey c src.2.1) src.2.2
  if bs.any badCode || t.1.localRunBad c src.2.1 src.2.2 then t
  else (t.modCore c (fun k => { k with side := ((upFrom 0 src.2.2).zip bs).foldl (fun m p => Mem.set m (src.1 * 64 + p.1) p.2) k.side })).mend
    4 c (fun p => decide (src.1 ≤ p) && decide (p < src.1 + src.2.2 / 64))

/-! ### The engine's steps -/

/-- A load that the engine refuses: an image that does not fit, or an invalid code (R360, check 5). -/
def Ctx.loadBad (x : Ctx) (args : List Nat) : Option Nat :=
  match x.i with
  | .mldb _ _ slot => if tooLong (x.locBytes (args.getD 0 0) (args.getD 1 0)) then some slot else none
  | .mldm _ _ slot => if (x.locBytes (args.getD 0 0) (args.getD 1 0)).any badCode then some slot else none
  | _ => none

/-- Tiles that an instruction writes whole have no error any more (R131). -/
def Trail.mendTiles {s : State} (t : Trail s) (c : Nat) (tiles : List Nat) : Trail s := t.mend 5 c (fun p => tiles.contains (tileOf p))

/-- The effect of a matrix instruction at its completion. -/
def engineEffect {s : State} (x : Ctx) (args : List Nat) : Effect s :=
  match x.i with
  | .mzero tile => fun t =>
    own x id ((t.modCore x.c (fun k => ((k.setTile tile (List.replicate 64 0)).setDirty tile false).setSat tile false)).mendTiles x.c [tile])
  | .maccrd a tile =>
    own x (fun th => (th.setLanes a (x.k.tile tile)).replied (if x.k.sat.contains tile then 1 else 0) 0)
  | .maccwr _ tile => fun t =>
    own x id ((t.modCore x.c (fun k => ((k.setTile tile args).setDirty tile true).setSat tile false)).mendTiles x.c [tile])
  | .scacc _ dst src => fun t =>
    own x id (t.modCore x.c (fun k => (k.setTile dst (scaccTile k dst src (args.headD 0 == 1) (args.drop 1))).setDirty dst true))
  | .mldb _ _ slot => fun t =>
    let w : WSlot :=
      { image := x.locBytes (args.getD 0 0) (args.getD 1 0), inUse := true, adr := x.runBase + args.getD 0 0, len := args.getD 1 0 }
    own x id ((t.modCore x.c (fun k => { k with wbuf := put k.wbuf slot w })).mend 3 x.c (fun p => decide (p / 512 = slot)))
  | .mldm _ _ slot => fun t =>
    let first := slot % 4 * 64
    let bs := x.locBytes (args.getD 0 0) (args.getD 1 0)
    let side := fun (k : Core) => ((upFrom 0 bs.length).zip bs).foldl (fun m p => Mem.set m (first * 64 + p.1) p.2) k.side
    let src := (first, x.runBase + args.getD 0 0, args.getD 1 0)
    own x id ((t.modCore x.c (fun k => { k with
      side := side k, sideSrc := k.sideSrc.filter (fun r => decide (r.1 ≠ first)) ++ [src] })).mend 4 x.c
        (fun p => decide (first ≤ p) && decide (p < first + bs.length / 64)))
  | _ =>
    match x.mma? args with
    | some m => fun t => own x id ((t.modCore x.c (fun k => k.writeMma m (m.outputs x k))).mendTiles x.c m.tiles)
    | none => own x id

/-- The engine's instruction leaves it, and the next one may start. -/
def Trail.engineNext {s : State} (t : Trail s) (c : Nat) : Trail s :=
  let r := (t.1.core c).matrixQ.drop 1
  let t := t.modCore c (fun k => { k with matrixQ := r })
  if r.isEmpty then t else t.pend .matrixStart [c]

/-- The engine's instruction stops its thread. -/
def Trail.engineStop {s : State} (t : Trail s) (c sl cause eval : Nat) : Trail s :=
  (t.resume c sl (fun _ _ => trap cause eval)).engineNext c

/-- MATRIX_START: the head of the queue enters the engine (R120); a load that does not fit stops there (R360). -/
def execMatrixStart (s : State) : Host.Outcome State Fault Refusal :=
  event s (fun t =>
    let c := s.arg 0
    match (t.1.core c).matrixQ with
    | [] => t
    | e :: r =>
      if e.started then t
      else
        match t.1.opCtx? c e.slot with
        | none => t.engineNext c
        | some (x, args) =>
          match (if (x.fetchBad (x.operands args)).isSome then none else x.loadBad args) with
          | some n => t.engineStop c e.slot WBUF n
          | none => (t.modCore c (fun k => { k with matrixQ := { e with started := true } :: r })).pend .matrixComplete [c])

/-- MATRIX_COMPLETE: the instruction in the engine writes what it writes (R124, R130), or meets a soft error (R131). -/
def execMatrixComplete (s : State) : Host.Outcome State Fault Refusal :=
  event s (fun t =>
    let c := s.arg 0
    match (t.1.core c).matrixQ with
    | [] => t
    | e :: _ =>
      if !e.started then t
      else
        match t.1.opCtx? c e.slot with
        | none => t.engineNext c
        | some (x, args) =>
          let o := x.operands args
          let stop := fun (cause v : Nat) => (t.engineStop c e.slot cause v).settle c e.slot
          match x.accBad o with
          | some v => stop ECCU v
          | none =>
            match x.fetchBad o with
            | some v => if e.retried then stop ECCU v else t.pend .matrixSoftErrorRetry [c]
            | none =>
              match x.loadBad args with
              | some n => stop WBUF n
              | none => ((engineEffect x args t).engineNext c).settle c e.slot)

/-- MATRIX_SOFT_ERROR_RETRY: the steward reloads the slots or records from their sources, and the instruction goes again
from its operand fetch (R131). -/
def execMatrixSoftErrorRetry (s : State) : Host.Outcome State Fault Refusal :=
  event s (fun t =>
    let c := s.arg 0
    match (t.1.core c).matrixQ with
    | [] => t
    | e :: r =>
      if !e.started || e.retried then t
      else
        match t.1.opCtx? c e.slot with
        | none => t
        | some (x, args) =>
          let o := x.operands args
          let slots := (x.s.bad.filter (fun b => decide (b.1 = 3) && decide (b.2.1 = c) && o.groups.contains (b.2.2 / 512, b.2.2 % 512))).foldl
            (fun l b => addOnce l (b.2.2 / 512)) []
          let t := forEach t slots (fun t n => t.reloadSlot c n)
          let records := (x.s.bad.filter (fun b => decide (b.1 = 4) && decide (b.2.1 = c) && o.records.contains b.2.2)).map (·.2.2)
          let side := x.k.sideSrc.filter (fun src => records.any (fun p => decide (src.1 ≤ p) && decide (p < src.1 + src.2.2 / 64)))
          let t := forEach t side (fun t src => t.reloadSide c src)
          (t.modCore c (fun k => { k with matrixQ := { e with retried := true } :: r })).pend .matrixComplete [c])

end Sys2Proof.Machine
end

