-- ==== Sys2Proof/Machine/Dump.lean ====
section
/-!
DEFINITION. Core dumps (R200-R204, R398, R399): a dump begins once the partition stands still, is written whole, and leads
to the rung-3 reset and the FAULT event; and the fault of a steward while it dumps (R205).
-/

namespace Sys2Proof.Machine

/-! ### The dump area (R201-R203) -/

def dumpSlotAt (base k : Nat) : Nat := base + 0x80000 + k * 0x280000

/-- The lowest free slot of a dump area (R398). -/
def State.freeDumpSlot (s : State) (base : Nat) : Option Nat :=
  (upFrom 0 3).find? (fun k => s.mem.get (dumpSlotAt base k + 26) = 0)

/-- The state code of a thread in its dump: as the stop found it, or as it came to stand when its instruction had retired (R399). A
thread still in flight waits for a log place or a unit, and shows as Blocked. (DEDUCED, log 41) -/
def stateCode (p : Part) (c sl : Nat) (th : Thread) : Nat := ((p.foundCode c sl).or th.foundCode).getD 3

/-- The record of a slot: eight words (R202, R399). A dump of no task shows every thread of the core (R222). -/
def slotRecord (p : Part) (d : Dump) (k : Core) (sl : Nat) : List Nat :=
  match look k.threads sl with
  | some th =>
    if d.task = 0 || th.task = d.task then
      [th.cause.toNat, th.epc.toNat, th.eval.toNat, th.race.toNat, th.mapWord, th.rsn.toNat, th.depth, stateCode p d.core sl th]
    else [0, 0, 0, 0, 0, 0, 0, 0xFF]
  | none => [0, 0, 0, 0, 0, 0, 0, 0xFF]

/-- The lanes of a field as one number, lane 0 lowest (R97). -/
def packLanes (width : Nat) : List Nat → Nat
  | [] => 0
  | v :: r => v % 2 ^ width + 2 ^ width * packLanes width r

/-- The fields of the user rows of a core as one number. -/
def Core.rowBits (k : Core) : Nat :=
  ((k.threads.filter (fun t => decide (t.1 ≠ 15))).flatMap (fun t => t.2.names.flatMap (fun n =>
    n.2.fields.map (fun f => packLanes n.2.desc.width f.lanes * 2 ^ (f.row * 512 + f.bit))))).foldl (· + ·) 0

/-- The bits that the fields of the user rows take. -/
def Core.rowMask (k : Core) : Nat :=
  ((k.threads.filter (fun t => decide (t.1 ≠ 15))).flatMap (fun t => t.2.names.flatMap (fun n =>
    n.2.fields.map (fun f => (2 ^ (n.2.desc.width * f.lanes.length) - 1) * 2 ^ (f.row * 512 + f.bit))))).foldl (· + ·) 0

/-- 8-byte words with those at bad places written as zero. -/
def zeroBad (bad : Nat → Bool) (ws : List Nat) : List Nat := ((upFrom 0 ws.length).zip ws).map (fun p => if bad p.1 then 0 else p.2)

/-- A word of a unit of a core has an uncorrectable error. -/
def State.unitBad (s : State) (unit c place : Nat) : Bool := s.bad.contains (unit, c, place)

/-- The 8-byte words of rows 0-991. The spec does not say what bits that no field holds show. (DESIGN CHOICE, log 22) -/
def State.rowWords (s : State) (c : Nat) : List Nat :=
  let b := (s.core c).rowBits
  let m := (s.core c).rowMask
  zeroBad (s.unitBad 1 c) ((upFrom 0 7936).map (fun i =>
    Nat.lor (bits b (64 * i + 63) (64 * i)) (Nat.land (Config.rowRest s.tick c i) (2 ^ 64 - 1 - bits m (64 * i + 63) (64 * i)))))

/-- The accumulator elements, row-major. -/
def State.accWords (s : State) (c : Nat) : List Nat := zeroBad (s.unitBad 5 c) ((upFrom 0 8192).map (fun i => lookD (s.core c).acc i 0))

/-- An extent entry as its three words (R72). -/
def extentWords (t : Tab Extent) (i : Nat) : List Nat :=
  match look t i with
  | some e => [2 ^ 63 + e.mode * 2 ^ 60 + e.perm * 2 ^ 56 + e.vbase, e.pbase, e.share * 2 ^ 40 + e.len]
  | none => [0, 0, 0]

/-- The sender word of a message (R349). -/
def Msg.sender (m : Msg) : Nat := m.core + m.slot * 65536

/-- The region at slot offset 0x3_0000 (R399). -/
def Core.dumpRegion (k : Core) (ext : Tab Extent) : List Byte :=
  let pad := fun (l : List Byte) (n : Nat) => l ++ List.replicate (n - l.length) 0
  let queue := fun q => let v := (k.queue q).vals.map (·.1); (upFrom 0 4).map (fun i => v.getD i 0)
  let tag := fun j => match k.arrivals[j]? with | some (sl, m) => 2 ^ 63 + sl * 2 ^ 32 + m.sender | none => 0
  let msg := fun j => match k.arrivals[j]? with | some (_, m) => (upFrom 0 8).map (fun i => m.words.getD i 0) | none => List.replicate 8 0
  pad (packWords 8 ((upFrom 0 16).flatMap (extentWords ext))) 0x200 ++
    pad (packWords 8 ((upFrom 0 208).map (fun i => k.statusWord (fun _ => true) (8 * i)))) 0x700 ++
    packWords 8 ((upFrom 0 8).flatMap queue) ++ pad (packWords 8 ((upFrom 0 16).map tag)) 0x100 ++
    pad (pad (packWords 8 ((upFrom 0 16).flatMap msg)) 0x400) 0x500

/-- The task a dump is of; for a divergence of no thread, the core's first, if any. -/
def State.dumpTask (s : State) (d : Dump) : Option Task :=
  if d.task ≠ 0 then s.task? d.task else (s.tasks.find? (fun x => decide (x.2.core = d.core))).map (·.2)

/-- The slot header (R203). -/
def State.dumpHeader (s : State) (d : Dump) : List Byte :=
  let k := s.core d.core
  let task := if d.task = 0 then none else s.task? d.task
  let node := match task with
    | some x => (match (s.part? x.part).bind (fun p => look p.live x.app) with | some m => m.index | none => 0xFFFF)
    | none => 0xFFFF
  let zeroed := (upFrom 0 7936).any (s.unitBad 1 d.core) || (upFrom 0 8192).any (s.unitBad 5 d.core)
  let (sc, ssl, sepc) := d.second.getD (0, 0, 0)
  leBytes d.seq 4 ++ leBytes d.core 2 ++ leBytes d.slot 1 ++ leBytes d.cause 1 ++ leBytes d.epc 8 ++ leBytes d.eval 8 ++
    leBytes node 2 ++ leBytes (1 + bitAt d.second.isSome 2 + bitAt zeroed 3 + 16) 1 ++ leBytes sc 1 ++ leBytes ssl 1 ++
    leBytes 0 3 ++ leBytes sepc 8 ++ leBytes (match task with | some x => x.hw * 4096 | none => 0) 4 ++ leBytes 0 4 ++
    leBytes (maskOf k.dirty) 16

/-- Write a dump's slot, its header last (R202, R203). -/
def Trail.writeDump {s : State} (t : Trail s) (p : Part) (slot : Nat) (d : Dump) : Trail s :=
  let at_ := dumpSlotAt p.dumpBase slot
  let u := t.1
  let k := u.core d.core
  let ext := match u.dumpTask d with | some x => x.ext | none => []
  let loc := match (if d.task = 0 then none else u.task? d.task) with
    | some x => u.loc.bytes (locKey d.core x.localBase) (x.hw * 4096)
    | none => []
  let t := t.memStore (at_ + 0x100) (packWords 8 ((upFrom 0 15).flatMap (slotRecord p d k)))
  let t := t.memStore (at_ + 0x10000) (packWords 8 (u.rowWords d.core))
  let t := t.memStore (at_ + 0x20000) (packWords 8 (u.accWords d.core))
  let t := t.memStore (at_ + 0x30000) (k.dumpRegion ext)
  let t := t.memStore (at_ + 0x80000) (loc ++ List.replicate (0x200000 - loc.length) 0)
  t.memStore at_ (u.dumpHeader d)

/-! ### The course of a dump (R200, R204) -/

/-- Change the dump that a test picks first. -/
def modDump (p : Dump → Bool) (f : Dump → Dump) : List Dump → List Dump
  | [] => []
  | d :: r => if p d then f d :: r else d :: modDump p f r

/-- A dump under way. -/
def Dump.active (d : Dump) : Bool := d.dslot.isSome && !d.done

/-- The FAULT event of a fatal fault (R53). -/
def Trail.postFault {s : State} (t : Trail s) (p : Part) (slot : Nat) (d : Dump) : Trail s :=
  t.postDomain p.fdom 4 (natBytes p.dumpBase 8 ++ [slot, d.cause % 256] ++ natBytes d.core 2 ++ [1, 0])

/-- After a dump: the next one, or the end of them all and the reset (R204, R38). -/
def Trail.afterDump {s : State} (t : Trail s) (n : Nat) : Trail s :=
  match t.1.part? n with
  | none => t
  | some p =>
    if p.dumps.any (fun d => !d.done) then t.pendOnce .dumpBegin [n]
    else
      let t := if t.1.mem.get (p.dumpBase + 8) = 1 then t.memStore (p.dumpBase + 8) [2] else t
      t.rung3 n 3

/-- DUMP_BEGIN: the partition stands still, and the dump takes the lowest free slot; with none, it is lost (R200, R398). (DEDUCED, log 41) -/
def execDumpBegin (s : State) : Host.Outcome State Fault Refusal :=
  event s (fun t =>
    let n := s.arg 0
    match t.1.part? n with
    | none => t
    | some p =>
      match p.dumps.find? (fun d => !d.done) with
      | none => t
      | some d =>
        if p.ladder ≠ .dump || p.dumps.any Dump.active || !t.1.settled p || (t.1.die (dieOf d.core)).restart then t
        else
          match t.1.freeDumpSlot p.dumpBase with
          | none =>
            let t := t.memStore (p.dumpBase + 4) (leBytes (t.1.mem.read (p.dumpBase + 4) 4 + 1) 4)
            let t := t.modPart n (fun p => { p with dumps := modDump (fun x => !x.done) (fun x => { x with done := true }) p.dumps })
            (t.postFault p 0xFF d).afterDump n
          | some k =>
            let count := t.1.mem.read p.dumpBase 4 + 1
            let t := t.memStore (dumpSlotAt p.dumpBase k + 26) [16]
            let t := (t.memStore p.dumpBase (leBytes count 4)).memStore (p.dumpBase + 8) [1]
            let t := t.modPart n (fun p => { p with dumps := modDump (fun x => !x.done) (fun x => { x with dslot := some k, seq := count }) p.dumps })
            t.pend .dumpComplete [n])

/-- DUMP_COMPLETE: the dump is written, the event posted, and the next dump or the reset follows; a partition that stops
without a fault of its own is reset at once (R38, R200, R204). (DEDUCED, log 41) -/
def execDumpComplete (s : State) : Host.Outcome State Fault Refusal :=
  event s (fun t =>
    let n := s.arg 0
    match t.1.part? n with
    | none => t
    | some p =>
      if p.ladder ≠ .dump then t
      else if p.dumps.isEmpty then t.rung3 n 3
      else
        match p.dumps.find? Dump.active with
        | none => t
        | some d =>
          let k := d.dslot.getD 0
          let t := t.writeDump p k d
          let t := t.modPart n (fun p => { p with dumps := modDump Dump.active (fun x => { x with done := true }) p.dumps })
          (t.postFault p k d).afterDump n)

/-- DEVICE_FATAL_FAULT: a steward's fault while it writes a dump truncates the dump, stops every partition as at rung 3,
and is reported to PF0; only a package reset restarts work (R205). (DEDUCED, log 41) -/
def execDeviceFatalFault (s : State) : Host.Outcome State Fault Refusal :=
  event s (fun t =>
    let c := s.arg 0
    match t.1.parts.find? (fun p => p.2.dumps.any (fun d => d.active && decide (d.core = c))) with
    | none => t
    | some (_, p) =>
      match p.dumps.find? Dump.active with
      | none => t
      | some d =>
        let k := d.dslot.getD 0
        let t := (t.memStore (dumpSlotAt p.dumpBase k + 26) [18]).memStore (p.dumpBase + 8) [3]
        let t := t.postFault p k d
        let t := forEach t (t.1.parts.map (·.1)) (fun t n => (t.preemptQueues n false).rung3 n 4)
        (t.postEvent 0 packageSource 7 (natBytes c 2 ++ [s.arg 1 % 256, k])).modPkg (fun q => { q with fatal := true }))

end Sys2Proof.Machine
end

