-- ==== Sys2Proof/Machine/Preempt.lean ====
section
/-!
DEFINITION. Queue commands (R46) and the pre-emption ladder (R47): drain, save, reset, and the resume that restores what a
save kept (R206-R209).
-/

namespace Sys2Proof.Machine

/-- The queue of a queue number: its partition and index (R39). -/
def State.queue? (s : State) (q : Nat) : Option (Nat × Part × Nat × Queue) :=
  match s.part? (q / 8) with
  | some p => (look p.queues (q % 8)).map (fun x => (q / 8, p, q % 8, x))
  | none => none

/-- The result of a function's queue command (R46). -/
def Trail.queueResult {s : State} (t : Trail s) (fn code : Nat) : Trail s :=
  t.modHost (fun h => { h with queueResult := put h.queueResult fn (2 ^ 63 + code) })

/-- The stop of a partition is under way. -/
def Ladder.climbing (l : Ladder) : Bool := decide (l ≠ .none) && decide (l ≠ .stopped)

/-- The code of a queue command on a partition, for operation op (R46). -/
def commandCode (fn op : Nat) (p : Part) : Nat :=
  if fn ≠ 0 ∧ p.queues.any (fun q => decide (q.2.owner ≠ fn)) then 5
  else if p.ladder.climbing then 3
  else if op = 2 ∧ p.ladder ≠ .stopped then 4
  else 0

/-- A queue command: its checks, its result, and its effect when it is accepted. -/
def queueCommand (s : State) (op : Nat) (go : (t : Trail s) → Nat → Part → Queue → Trail s) : Host.Outcome State Fault Refusal :=
  hostWrite s (fun t =>
    let step : Due := ⟨if op = 1 then .queuePreempt else if op = 2 then .queueResume else .queueAbort, s.args⟩
    match t.1.queue? (s.arg 1) with
    | none => t.bySteward 0 step (fun t => t.queueResult (s.arg 0) 2)
    | some (n, p, _, x) =>
      t.bySteward (dieOfCluster n) step (fun t =>
        let code := commandCode (s.arg 0) op p
        let t := t.queueResult (s.arg 0) code
        if code = 0 then go t n p x else t))

/-- QUEUE_COMMAND_BAD_OP: an undefined operation or a reserved bit (R46). -/
def execQueueCommandBadOp (s : State) : Host.Outcome State Fault Refusal :=
  hostWrite s (fun t => t.bySteward 0 ⟨.queueCommandBadOp, s.args⟩ (fun t => t.queueResult (s.arg 0) 1))

/-! ### Drain and save -/

/-- Bytes of local store that the tasks of a partition hold on a cluster. -/
def State.clusterLocal (s : State) (n cl : Nat) : Nat :=
  ((s.tasksOf n).map (fun x => if clusterOf x.2.core = cl then x.2.hw * 4096 else 0)).sum

/-- How long a save takes, in units of `cw.etime`: 18 µs for the shadow moves, and the copies of local store at 128 GB/s per
cluster (R207). (DEDUCED, log 78) -/
def State.saveTime (s : State) (n : Nat) (p : Part) : Nat :=
  p.clusters.foldl (fun m cl => max m (s.clusterLocal n cl * 9 / 80)) (18 * etimePerUs)

/-- Bytes of the save area for a core: its pigeonholes and arrival buffer, each message with its status or tag word, and its
refusal list (R117, R206). (DEDUCED, log 78) -/
def coreSave : Nat := 15 * 72 + 16 * 72 + 32 * 8

/-- Bytes of the save area that a partition needs on a die: the local stores of its tasks there, what is kept of their cores, and
the cards of their jobs (R206). (DEDUCED, log 78) -/
def State.saveOn (s : State) (n : Nat) (d : Nat) : Nat :=
  let tasks := (s.tasksOf n).filter (fun x => decide (dieOf x.2.core = d))
  (tasks.map (fun x => x.2.hw * 4096)).sum + ((tasks.map (fun x => x.2.core)).foldl addOnce []).length * coreSave +
    64 * (s.jobs.filter (fun j => tasks.any (fun x => decide (x.1 = j.2.task)) && decide (j.2.state ≠ 3))).length

/-- Bytes of a die's device memory that no partition has taken. (DEDUCED, log 78) -/
def State.freeOn (s : State) (d : Nat) : Nat :=
  let on := fun (a : Nat) => decide (pkgOf a = s.pkg.num) && memDie a == some d
  768 * 2 ^ 30 - (s.parts.map (fun p => (if on p.2.dumpBase then 2 ^ 23 else 0) + p.2.shadow.getD d 0 +
    ((p.2.frames.filter (fun f => on f.1)).map (fun f => f.2.size)).sum)).sum

/-- The save area of a partition, by die (R206). -/
def State.saveArea (s : State) (n : Nat) : List Nat := (upFrom 0 4).map (s.saveOn n)

/-- The budget holds the save area, and each die has room for its part (R206). (DEDUCED, log 78) -/
def State.saveFits (s : State) (n : Nat) (p : Part) : Bool :=
  decide (p.spent + (s.saveArea n).sum ≤ p.mem) && (upFrom 0 4).all (fun d => decide (s.saveOn n d ≤ s.freeOn d))

/-- The threads of a partition halt; a hint and the instruction that it binds halt as one (R277). -/
def Trail.haltHints {s : State} (t : Trail s) (p : Part) : Trail s :=
  forEach t p.cores (fun t c => forEach t ((t.1.core c).threads.filter (fun q => decide (q.1 ≠ 15))) (fun t q => t.unissue c q.1))

/-- At T1 the partition's threads halt, and prepared nodes return to their pools; a T2 of zero skips the save (R47, R75). -/
def Trail.haltAtT1 {s : State} (t : Trail s) (n : Nat) : Trail s :=
  match t.1.part? n with
  | none => t
  | some p =>
    if p.ladder ≠ .drain then t
    else if p.t2 = 0 then t.rung3 n 1
    else ((t.modPart n (fun p => { p with ladder := .save, halted := true })).unprepare n).pend .saveComplete [n]

/-- QUEUE_PREEMPT: the partition's queues are pre-empting and its dispatchers take no further nodes (R46, R47). -/
def execQueuePreempt (s : State) : Host.Outcome State Fault Refusal :=
  queueCommand s 1 (fun t n p x =>
    if p.ladder = .stopped then t
    else
      let t := (t.preemptQueues n false).modPart n (fun p => { p with ladder := .drain, t2 := x.t2 })
      if x.t1 = 0 then t.haltAtT1 n
      else (t.timer (dieOfCluster n) false (x.t1 * etimePerUs) .preemptT1Expire [n]).drained n)

/-- PREEMPT_T1_EXPIRE (R47). -/
def execPreemptT1Expire (s : State) : Host.Outcome State Fault Refusal := event s (fun t => t.haltAtT1 (s.arg 0))

/-- The save has begun: its T2 runs. -/
def State.saving (s : State) (n : Nat) : Bool := s.timers.any (fun x => decide (x.ev = ⟨.preemptT2Expire, [n]⟩))

/-- The shadow copy of a partition (R206). (DEDUCED, log 35) -/
def State.shadow (s : State) (n : Nat) (p : Part) : Saved :=
  { cores := s.cores.filter (fun k => p.cores.contains k.1)
    loc := (s.tasksOf n).foldl (fun m x =>
      ((upFrom 0 (x.2.hw * 4096)).map (fun i => locKey x.2.core (x.2.localBase + i))).foldl (fun m a => Mem.set m a (s.loc.get a)) m) [] }

/-- SAVE_COMPLETE: once every core stands still the save begins, T2 with it, and takes its area from the budget where that has room;
when its moves and copies have ended, rung 2 is reached (R47, R206, R207). (DEDUCED, log 78) -/
def execSaveComplete (s : State) : Host.Outcome State Fault Refusal :=
  event s (fun t =>
    let n := s.arg 0
    match t.1.part? n with
    | none => t
    | some p =>
      if p.ladder ≠ .save then t
      else if s.arg 1 = 1 then (t.modPart n (fun p => { p with saved := some (t.1.shadow n p) })).ladderEnd n 2
      else if t.1.saving n || !t.1.settled p then t
      else
        let t := (t.haltHints p).timer (dieOfCluster n) false (p.t2 * etimePerUs) .preemptT2Expire [n]
        if t.1.saveFits n p then
          (t.modPart n (fun p => { p with shadow := t.1.saveArea n })).timer (dieOfCluster n) false (t.1.saveTime n p) .saveComplete [n, 1]
        else t)

/-- PREEMPT_T2_EXPIRE: the save has not ended in time, and the partition is reset (R47). -/
def execPreemptT2Expire (s : State) : Host.Outcome State Fault Refusal :=
  event s (fun t =>
    let n := s.arg 0
    match t.1.part? n with
    | some p => if p.ladder = .save then t.rung3 n 1 else t
    | none => t)

/-- QUEUE_ABORT: straight to rung 3; at rung 3 already, nothing (R46). -/
def execQueueAbort (s : State) : Host.Outcome State Fault Refusal :=
  queueCommand s 3 (fun t n p _ => if p.atReset then t else (t.preemptQueues n false).rung3 n 2)

/-! ### Resume (R208, R209) -/

/-- A restored core: names from shadow storage, saved tiles, every other tile zero, Yielding threads Ready, and slots that
are to be reloaded (R132, R208, R372). (DEDUCED, log 35) -/
def Core.restored (k old : Core) : Core :=
  { k with
    acc := old.acc.filter (fun a => k.dirty.contains (a.1 / 64 / 8 * 8 + a.1 % 64 / 8))
    side := []
    wbuf := k.wbuf.map (fun w => (w.1, { w.2 with image := [] }))
    threads := k.threads.map (fun p =>
      if p.1 = 15 then p
      else (p.1, { p.2 with
        names := (match look old.threads p.1 with | some th => th.names | none => p.2.names)
        status := if p.2.status = .yielding then .ready else p.2.status })) }

/-- Restore the contexts of a partition (R132, R208); an uncorrectable word of shadow storage is a fatal fault of the context
being restored (R198). (DEDUCED, log 35) -/
def Trail.restore {s : State} (t : Trail s) (n : Nat) (p : Part) (x : Saved) : Trail s :=
  let t := forEach t x.loc (fun t b => t.act (.loc b.1 b.2))
  let t := forEach t x.cores (fun t q =>
    let t := t.modCore q.1 (fun k => k.restored q.2)
    let t := forEach t (t.1.core q.1).wbuf (fun t w => t.reloadSlot q.1 w.1)
    let t := forEach t (t.1.core q.1).sideSrc (fun t r => t.reloadSide q.1 r)
    forEach t (t.1.core q.1).threads (fun t th =>
      if th.1 = 15 || th.2.trapped || th.2.stopped || th.2.status = .finished then t else t.trace q.1 th.1 7 (th.2.pc % 2 ^ 56)))
  let t := (t.modPart n (fun p => { p with saved := none, shadow := [] })).mark n 1
  forEach t (t.1.bad.filter (fun b => decide (b.1 = 7) && p.cores.contains b.2.1)) (fun t b =>
    match (t.1.tasksOf n).find? (fun y => decide (y.2.core = b.2.1)) with
    | none => t
    | some (k, y) =>
      let sl := y.slots.headD 0
      let pc := match t.1.thread? y.core sl with | some th => th.pc | none => 0
      t.fatal n { core := y.core, slot := sl, task := k, cause := ECCU, epc := pc, eval := 7 * 2 ^ 56 + Config.eccuPlace 7 b.2.2 % 2 ^ 56, second := none
                  dslot := none, seq := 0, done := false })

/-- What a resumed partition takes up again. -/
def Trail.takeUp {s : State} (t : Trail s) (n : Nat) : Trail s :=
  match t.1.part? n with
  | none => t
  | some p =>
    let t := forEach t p.clusters (fun t cl => (t.pendOnce .nodeTake [cl]).pendOnce .courierJobStart [cl])
    let t := forEach t p.clusters (fun t cl => if (t.1.part? n).any (fun p => !p.residency.isEmpty) then t.pendOnce .porterResidency [cl] else t)
    let t := forEach t p.live (fun t m => match m.2.st with | .prepared cl => t.pendOnce .nodeStart [cl, m.1] | _ => t)
    let t := forEach t (t.1.jobs.filter (fun j => (decide (j.2.state = 2) || (decide (j.2.state = 1) && j.2.cancel)) &&
      p.cores.contains j.2.core)) (fun t j => t.pendOnce (if j.2.kind = 3 ∧ j.2.state = 2 then .xcpyChunkDeliver else .courierJobComplete) [j.1])
    let t := forEach t p.cores (fun t c =>
      let t := if (t.1.core c).trapQ.isEmpty then t else t.pendOnce .trapService [c]
      let t := t.serveEvents c
      forEach t (t.1.core c).threads (fun t th =>
        match th.2.op with
        | some o =>
          (match o.instr with
           | .cpy _ | .qcpy _ | .zcpy _ | .xcpy _ => t.pendOnce .cardAccept [c, th.1]
           | .lease _ _ => t.pendOnce .leaseServe [c, th.1]
           | _ => t)
        | none => t))
    ((t.pokeReady n).pokePools n).pokeRoom n

/-- QUEUE_RESUME: dispatch goes on, and saved contexts are restored (R46, R47, R42). -/
def execQueueResume (s : State) : Host.Outcome State Fault Refusal :=
  queueCommand s 2 (fun t n p _ =>
    let t := t.modPart n (fun p => { p with ladder := .none, halted := false })
    let t := forEach t p.goodQueues (fun t i => t.modQueue n i (fun q => { q with
      state := if q.done = q.count then 0 else 1, fault := false }))
    let t := match p.saved with
      | some x => t.restore n p x
      | none => t
    t.takeUp n)

end Sys2Proof.Machine
end

