-- ==== Sys2Proof/Machine/Region.lean ====
section
/-!
DEFINITION. Regions and partitions (R34-R39, R50, R220, R225): region commands, their checks in the order of R37, what an
activation sets up and what a deactivation gives back.
-/

namespace Sys2Proof.Machine

/-- A region control block as it stands in memory (R34). -/
structure Rcb where
  parent : Nat
  ctl : Nat
  grant : Nat
  mem : Nat
  logbase : Nat
  logbytes : Nat
  courier : Nat
  queues : Nat
  /-- Bytes 64-127. -/
  rest : Nat
  deriving DecidableEq, Repr

def State.rcbAt (s : State) (a : Nat) : Rcb :=
  let w := fun i => s.mem.read (a + 8 * i) 8
  { parent := w 0, ctl := w 1, grant := w 2, mem := w 3, logbase := w 4, logbytes := w 5, courier := w 6, queues := w 7
    rest := s.mem.read (a + 64) 64 }

def Rcb.isPart (r : Rcb) : Bool := bit r.ctl 30
def Rcb.mode (r : Rcb) : Nat := bits r.ctl 29 27
def Rcb.level (r : Rcb) : Nat := bits r.ctl 10 8

/-- A reserved field is not zero (R34, R35). -/
def Rcb.reserved (r : Rcb) : Bool :=
  decide (bits r.ctl 63 32 ≠ 0) || decide (bits r.ctl 25 24 ≠ 0) || decide (bits r.ctl 15 12 ≠ 0) || decide (bits r.ctl 7 4 ≠ 0) ||
    decide (r.courier / 256 ≠ 0) || decide (r.rest ≠ 0)

/-- What the zero fields of a root take (R36). -/
def rootRegion : Region :=
  { parent := 0, part := false, level := 0, grant := upFrom 0 64, mem := 3 * 2 ^ 40, logbytes := 0, courier := 1, fdom := 1
    prio := 0 }

/-- A field, or its parent's when it is zero (R36). -/
def inherit (v p : Nat) : Nat := if v = 0 then p else v

/-- The effective values of a node under its parent's (R36). -/
def Rcb.effective (r : Rcb) (p : Region) : Region :=
  { parent := r.parent, part := r.isPart, level := r.level
    grant := if r.grant = 0 then p.grant else ones r.grant 64
    mem := inherit r.mem p.mem, logbytes := inherit r.logbytes p.logbytes, courier := inherit r.courier p.courier
    fdom := inherit (bits r.ctl 23 16) p.fdom, prio := if bit r.ctl 11 then p.prio else bits r.ctl 3 0 }

/-- The level of a parent: as validated while it is active, else as its RCB has it. -/
def State.parentLevel (s : State) (a : Nat) : Nat :=
  match look s.regions a with
  | some p => p.level
  | none => (s.rcbAt a).level

/-- level equals the parent's level + 1, 0 for a root, and is at most 5 (R37 code 1). -/
def State.levelOk (s : State) (r : Rcb) : Bool :=
  decide (r.level ≤ 5) && decide (r.level = if r.parent = 0 then 0 else s.parentLevel r.parent + 1)

/-- Children of an active node; a parent of 0 is no node (R35, R36). -/
def State.children (s : State) (a : Nat) : Tab Region := s.regions.filter (fun q => decide (a ≠ 0) && decide (q.2.parent = a))

/-- The active parent of a node, or the root's values for a root; nothing for a parent that is not active (R36). -/
def State.parentOf (s : State) (r : Rcb) : Option Region := if r.parent = 0 then some rootRegion else look s.regions r.parent

/-- Budgets exceed the parent's, alone or together with those of its active children (R37 code 4). -/
def State.overBudget (s : State) (r : Rcb) (e : Region) : Bool :=
  match s.parentOf r with
  | none => false
  | some p =>
    let kids := s.children r.parent
    decide (r.parent ≠ 0) && (decide (p.mem < e.mem) || decide (p.logbytes < e.logbytes) || decide (p.courier < e.courier) ||
      decide (p.mem < e.mem + (kids.map (fun q => q.2.mem)).sum) ||
      decide (p.logbytes < e.logbytes + (kids.map (fun q => q.2.logbytes)).sum))

/-- The directory entries of an input log are well laid out (R220). -/
def State.directoryOk (s : State) (base wr : Nat) : Nat → Nat → Option Nat → Nat → Bool
  | 0, _, _, total => decide (total = wr)
  | n + 1, i, last, total =>
    let src := s.mem.read (base + 64 + 16 * i) 2
    let count := s.mem.read (base + 68 + 16 * i) 4
    let first := s.mem.read (base + 72 + 16 * i) 8
    (match last with | some l => decide (l < src) | none => true) && decide (first = total) &&
      s.directoryOk base wr n (i + 1) (some src) (total + count)

/-- Check 10: the input log of a replay (R220). -/
def State.replayLogOk (s : State) (base bytes : Nat) : Bool :=
  let ndir := s.mem.read (base + 40) 4
  let wr := s.mem.read base 8
  bit (s.mem.read (base + 20) 4) 5 && decide (64 + 16 * ndir + 16 * wr ≤ bytes) && s.directoryOk base wr ndir 0 none 0

/-- The code of an activation (R37): the first check that fails, or 0. An RCB address that is not backed has code 5; the alignment of
the RCB's address, of mem and of the log's fields is not checked. (DEDUCED, log 47; DESIGN CHOICE, log 92) -/
def State.activateCode (s : State) (a : Nat) : Nat :=
  let r := s.rcbAt a
  let p := (s.parentOf r).getD rootRegion
  let e := r.effective p
  if r.reserved || !backed a then 5
  else if (look s.regions a).isSome then 13
  else if !s.levelOk r then 1
  else if decide (r.parent ≠ 0) && ((s.parentOf r).isNone || p.part) then 6
  else if 3 < r.mode then 7
  else if (e.grant.any (fun c => !p.grant.contains c)) ||
      (r.isPart && r.grant == 0) then 2
  else if r.isPart && e.grant.any (fun c => (s.partOfCluster c).isSome) then 3
  else if s.overBudget r e then 4
  else if r.isPart && decide (e.mem < 2 ^ 23) then 12
  else if r.isPart && (r.mode == 1 || r.mode == 2) && (e.logbytes == 0 || r.logbase == 0) then 11
  else if r.isPart && r.mode == 2 && !s.replayLogOk r.logbase e.logbytes then 10
  else 0

/-! ### What an activation sets up -/

/-- A queue as its header gives it (R39, R42). -/
def State.queueAt (s : State) (h : Nat) : Queue :=
  let ring := s.mem.read h 8
  let q := s.mem.read (h + 8) 8
  let log2 := bits q 4 0
  let owner := bits q 15 8
  let bad := decide (h % 64 ≠ 0) || decide (ring % 64 ≠ 0) || decide (bits q 7 5 ≠ 0) || decide (bits q 63 48 ≠ 0) ||
    decide (s.mem.read (h + 24) 40 ≠ 0) || decide (log2 < 4) || decide (16 < log2) || decide (32 < owner)
  let timer := fun (v dflt : Nat) => if v = 0xFFFF then dflt else v
  { header := h, ring := ring, entries := 2 ^ log2, owner := owner, t1 := timer (bits q 31 16) 200, t2 := timer (bits q 47 32) 100
    taken := 0, rung := 0, state := if bad then 4 else 0, fault := false, stale := false, overrun := false, done := 0, count := 0
    fence := none, hold := [] }

/-- The queues of a partition: the non-zero entries of its queue table (R39). (DEDUCED, log 48) -/
def State.queuesAt (s : State) (table : Nat) : Tab Queue :=
  (upFrom 0 8).filterMap (fun i =>
    let h := s.mem.read (table + 8 * i) 8
    if h = 0 then none else some (i, s.queueAt h))

/-- The access tables in which a partition has an entry (R50): every home slice and fabric port, and the courier port of each
of its cores. -/
def partTables (pkg : Nat) (cores : List Nat) : List Nat :=
  (upFrom 0 4).flatMap (fun d => (upFrom 0 24).map (fun i => tableAt pkg d 0 i) ++ (upFrom 0 3).map (fun i => tableAt pkg d 1 i)) ++
    cores.map (fun c => tableAt pkg (dieOf c) 3 (c % 128))

/-- A steward writes an entry for a partition's master into the lowest free place of a table, and keeps where it is (R50). (DEDUCED, log 47) -/
def Trail.addEntry {s : State} (t : Trail s) (base n : Nat) : Trail s :=
  match (upFrom 0 128).find? (fun i => !bit (t.1.tableWord base i 0) 63) with
  | none => t
  | some i =>
    let t := (t.editTable (base + 16 * i + 8) 0x0FFF0000).editTable (base + 16 * i) (2 ^ 63 + 7 * 2 ^ 52 + partMaster t.1.pkg.num n)
    t.modPart n (fun p => { p with entries := p.entries ++ [base + 16 * i] })

/-- A steward invalidates the entry that it wrote for a partition's master, where that entry still is one (R50). (DEDUCED, log 47) -/
def Trail.dropEntry {s : State} (t : Trail s) (adr n : Nat) : Trail s :=
  let w := lookD t.1.acl adr 0
  if bit w 63 && decide (bits w 15 0 = partMaster t.1.pkg.num n) then t.editTable adr (w - 2 ^ 63) else t

/-- A core without a time graph, at vt 0 (R225). -/
def Core.timeReset (k : Core) : Core :=
  { k with vt := 0, events := [], inNbrs := none, outNbrs := [], sendSeq := [], quota := [], clockHeld := [], vtWait := [] }

/-- A log as activation leaves it. -/
def emptyLog : Log :=
  { wr := 0, rd := 0, flags := 0, stalls := 0, seqs := [], held := [], granted := [], turns := [], diverged := false }

/-- The dump area on the lead cluster's die: the environment's choice where it fits, else the highest free one (R200). (DESIGN CHOICE, log 10) -/
def State.dumpArea (s : State) (die want : Nat) : Nat :=
  if decide (want % 65536 = 0) && decide (pkgOf want = s.pkg.num) && s.onDie want (2 ^ 23) && memDie want == some die &&
      !s.frameTaken want (2 ^ 23) then want
  else (s.pickFrame die (2 ^ 23)).getD 0

/-- A partition begins (R37, R39, R50, R62, R80, R200, R210, R225, R398). (DEDUCED, log 48; DEDUCED, log 50) -/
def Trail.openPart {s : State} (t : Trail s) (a want : Nat) (r : Rcb) (e : Region) : Trail s :=
  let n := e.grant.headD 0
  let base := t.1.dumpArea (dieOfCluster n) want
  let queues := t.1.queuesAt r.queues
  let p : Part :=
    { rcb := a, mode := r.mode, logpol := bitAt (bit r.ctl 26) 0, fdom := e.fdom, prio := e.prio, clusters := e.grant, mem := e.mem
      logbase := r.logbase, logbytes := e.logbytes, courier := e.courier, queues := queues, append := 0, live := [], graphs := []
      dumpBase := base, dumps := [], ladder := .none, halted := false, t2 := 0, reason := 0, saved := none, log := emptyLog
      frames := [], residency := [], entries := [], shadow := [], found := [] }
  let t := t.act (.part n (some p))
  let t := forEach t (partTables t.1.pkg.num p.cores) (fun t b => t.addEntry b n)
  let t := t.memStore base (List.replicate 0x80000 0)
  let t := forEach t [0, 1, 2] (fun t k => t.memStore (dumpSlotAt base k + 26) [0])
  let t := if p.mode = 1 then
      t.memStore p.logbase (List.replicate 16 0 ++ leBytes (Log.cap p) 4 ++ List.replicate 44 0)
    else t
  let t := forEach t queues (fun t q => t.modQueue n q.1 id)
  let t := forEach t p.cores (fun t c => if look t.1.cores c = none then t else t.modCore c Core.timeReset)
  forEach t p.clusters (fun t cl => t.armBalance cl)

/-! ### What a deactivation gives back -/

/-- Steps of local time of a partition's cores (R225). -/
def Due.ofTime (d : Due) (p : Part) : Bool :=
  match d.step with
  | .vtEventArrive | .vtMilestoneArrive => p.cores.contains (d.args.headD 0)
  | _ => false

/-- A partition ends: whatever of its work a stop had left is discarded, and its clusters, entries and counters are free. (DEDUCED, log 47) -/
def Trail.closePart {s : State} (t : Trail s) (n : Nat) (p : Part) : Trail s :=
  let tasks := t.1.tasksOf n
  let t := forEach t tasks (fun t x => t.freeTask x.1)
  let t := t.unprepare n
  let t := (t.purge n).noLadderTimers n
  let drop := fun (d : Due) => d.ofTime p
  let t := t.act (.agenda t.1.tick t.1.inputs (t.1.pending.filter (fun d => !drop d))
    (t.1.timers.filter (fun x => !drop x.ev && !(match x.ev.step with
      | .loadBalance => p.clusters.contains (x.ev.args.headD 0)
      | .logRdPoll => decide (x.ev.args = [n])
      | _ => false))))
  let t := forEach t t.1.links (fun t l => t.act (.link l.1 (l.2.filter (fun q => !drop q.2))))
  let t := forEach t t.1.unsent (fun t l => t.act (.unsent l.1 (l.2.filter (fun q => !drop q.2))))
  let t := if tasks.isEmpty then t else forEach t p.cores (fun t c => t.modCore c Core.resetEngines)
  let t := forEach t p.cores (fun t c => if look t.1.cores c = none then t else t.modCore c Core.timeReset)
  let t := forEach t (t.1.barUnits.filter (fun b => decide (b.1 / 32 % 64 = n) && decide (b.1 / 2048 < 68)))
    (fun t b => t.act (.barUnit b.1 { expect := 1, left := none }))
  let t := forEach (t.act (.part n none)) p.entries (fun t a => t.dropEntry a n)
  if (t.1.die (dieOfCluster n)).fifo.isEmpty then t else t.pendOnce .submissionHandle [dieOfCluster n]

/-! ### Region commands (R37) -/

/-- A region command's result, and what a command that passes its checks does; its RCB extends M2 (R37, R57). Until then the register
keeps the result of the command before. (DEDUCED, log 47; DESIGN CHOICE, log 92) -/
def Trail.regionDone {s : State} (t : Trail s) (a code : Nat) (go : Effect s) : Trail s :=
  let t := t.modHost (fun h => { h with regionResult := 2 ^ 63 + code })
  if code = 0 then go (t.extend 2 (sha256 ((t.1.mem.bytes a 128).map (·.toNat)))) else t

/-- The active bit of an RCB, written by the device (R35). -/
def Trail.setActive {s : State} (t : Trail s) (a : Nat) (on : Bool) : Trail s :=
  let w := t.1.mem.read (a + 8) 8
  t.memStore (a + 8) (leBytes (w - bitAt (bit w 31) 31 + bitAt on 31) 8)

/-- REGION_ACTIVATE (R37): the third number, if any, is where the environment puts the dump area. -/
def execRegionActivate (s : State) : Host.Outcome State Fault Refusal :=
  pfWrite s (fun t => t.bySteward 0 ⟨.regionActivate, s.args⟩ (fun t =>
    let a := s.arg 1
    let r := t.1.rcbAt a
    let e := r.effective ((t.1.parentOf r).getD rootRegion)
    t.regionDone a (t.1.activateCode a) (fun t =>
      let t := (t.act (.region a (some e))).setActive a true
      if e.part then t.openPart a (s.arg 2) r e else t)))

/-- The code of a deactivation: checks 13, 6 and 8 (R37). -/
def State.deactivateCode (s : State) (a : Nat) : Nat :=
  match look s.regions a with
  | none => 13
  | some _ =>
    if !(s.children a).isEmpty then 6
    else
      match s.parts.find? (fun p => decide (p.2.rcb = a)) with
      | some (_, p) => if p.queues.any (fun q => !(q.2.state == 0 || q.2.state == 3 || q.2.state == 4)) then 8 else 0
      | none => 0

/-- REGION_DEACTIVATE (R37). -/
def execRegionDeactivate (s : State) : Host.Outcome State Fault Refusal :=
  pfWrite s (fun t => t.bySteward 0 ⟨.regionDeactivate, s.args⟩ (fun t =>
    let a := s.arg 1
    t.regionDone a (t.1.deactivateCode a) (fun t =>
      let t := (t.act (.region a none)).setActive a false
      match t.1.parts.find? (fun p => decide (p.2.rcb = a)) with
      | some (n, p) => t.closePart n p
      | none => t)))

/-- REGION_COMMAND_BAD_OP: an operation that is neither 1 nor 2 fails with code 9 (R37). -/
def execRegionCommandBadOp (s : State) : Host.Outcome State Fault Refusal :=
  pfWrite s (fun t => t.bySteward 0 ⟨.regionCommandBadOp, s.args⟩ (fun t => t.modHost (fun h => { h with regionResult := 2 ^ 63 + 9 })))

end Sys2Proof.Machine
end

