-- ==== Sys2Proof/Machine/Firmware.lean ====
section
/-!
DEFINITION. Package reset (R4), the boot stages (R56, R57), and steward restarts (R45, R199).
-/

namespace Sys2Proof.Machine

/-- PACKAGE_RESET: every register takes its reset value, and boot begins at stage 1 (R4, R56). -/
def execPackageReset (s : State) : Host.Outcome State Fault Refusal := event s (fun t => t.act .reset)

/-! ### Boot (R56, R57) -/

/-- The images of stages 1 and 2 by number: 0 the first-stage loader, 1 steward, 2 porter, 3 power controller. (DEDUCED, log 61) -/
def stageOf (image : Nat) : Nat := if image = 0 then 1 else 2

/-- A failed boot writes its stage and a reason to PF0's mailbox and starts nothing (R56): for a signature that does
not verify, or for a security version below the fused counter. The stage stands in the mailbox's first word, the reason in
its second. (DESIGN CHOICE, log 19) -/
def Trail.bootFails {s : State} (t : Trail s) (stage : Nat) (version : Bool) : Trail s :=
  (t.modPkg (fun p => { p with bootFailed := true })).modHost (fun h =>
    { h with mailbox := put (put h.mailbox 0 stage) 8 (Config.bootReason stage version % 2 ^ 64) })

/-- The stewards start: submissions that have entered are handled, and what falls due again and again begins (R43, R45,
R77). -/
def Trail.bootEnds {s : State} (t : Trail s) : Trail s :=
  forEach (t.modPkg (fun p => { p with stage := 3 })) [0, 1, 2, 3] (fun t d =>
    let t := t.timer d false (1000 * etimePerUs) .counterHalve [d]
    let t := t.timer d false (10000 * etimePerUs) .stewardHeartbeatDue [d]
    if (t.1.die d).fifo.isEmpty then t else t.pendOnce .submissionHandle [d])

/-- FIRMWARE_IMAGE_VERIFY: an image, its security version, whether its signature verifies, a power limit that the
power-controller image may bring, and its bytes (R33, R56, R57). An attestation reply gives the version of the image verified last.
(DEDUCED, log 61; DESIGN CHOICE, log 98) -/
def execFirmwareImageVerify (s : State) : Host.Outcome State Fault Refusal :=
  event s (fun t =>
    let image := s.arg 0
    let version := s.arg 1
    let limit := s.arg 3
    let p := t.1.pkg
    if p.bootFailed || decide (3 < image) || decide (p.stage ≠ stageOf image) || p.verified.contains image then t
    else if s.arg 2 ≠ 1 then t.bootFails p.stage false
    else if version < p.fused then t.bootFails p.stage true
    else
      let t := t.extend (if image = 0 then 0 else 1) (sha256 (s.args.drop 4))
      let t := t.modPkg (fun p => { p with version := version, stage := if image = 0 then 2 else p.stage
                                           verified := p.verified ++ [image] })
      let t := if image = 3 ∧ 300 ≤ limit ∧ limit < t.1.host.powerLimit then t.modHost (fun h => { h with powerLimit := limit }) else t
      if [1, 2, 3].all (fun i => t.1.pkg.verified.contains i) then t.bootEnds else t)

/-! ### Steward restarts (R45, R199) -/

/-- STEWARD_HEARTBEAT_MISS: a die's stewards have missed their heartbeat (R45). -/
def execStewardHeartbeatMiss (s : State) : Host.Outcome State Fault Refusal :=
  event s (fun t => if t.1.pkg.runs then t.beginRestart (s.arg 0) else t)

/-- STEWARD_RESTART_COMMAND: PF0 restarts the stewards of a die, by a write of the register page for which the spec names no
register (R45). (DESIGN CHOICE, log 95) -/
def execStewardRestartCommand (s : State) : Host.Outcome State Fault Refusal :=
  pfWrite s (fun t => if t.1.pkg.runs then t.beginRestart (s.arg 1) else t)

/-- STEWARD_RESTART_DONE: user threads resume where they were held, and the new stewards take up what waits for them; their
own rows have been written anew (R45, R199). (DEDUCED, log 34) -/
def execStewardRestartDone (s : State) : Host.Outcome State Fault Refusal :=
  event s (fun t =>
    let d := s.arg 0
    if !(t.1.die d).restart then t
    else
      let t := t.modDie d (fun x => { x with restart := false })
      let t := t.act (.errors (t.1.bad.filter (fun b => !(decide (b.1 = 1) && decide (dieOf b.2.1 = d) && decide (992 * 8 ≤ b.2.2))))
        t.1.corrected)
      let t := if (t.1.die d).fifo.isEmpty then t else t.pendOnce .submissionHandle [d]
      let t := forEach t (t.1.cores.filter (fun k => decide (dieOf k.1 = d) && !k.2.trapQ.isEmpty)) (fun t k => t.pendOnce .trapService [k.1])
      let t := forEach t (t.1.parts.filter (fun p => decide (p.2.ladder = .dump))) (fun t p => t.pendOnce .dumpBegin [p.1])
      if t.1.pkg.frozen then t else t.unpark (fun k => decide (k = d)))

end Sys2Proof.Machine
end

