-- ==== Sys2Proof/Machine/FloatOps.lean ====
section
/-!
DEFINITION. Float arithmetic, compares, classification and functions (R308-R316): each forms the exact value per lane
and assigns it by fit(), under the mode in force.
-/

namespace Sys2Proof.Machine

/-- The value of a float lane. -/
def flt (d : Desc) (v : Nat) : FVal := laneValue d.kind d.width v

/-- d := f of the lanes of a, b and, where it is asked for, the old d, assigned by fit(); the counter advances under rsn (R309). -/
def floatBinary (i : Instr) (old : Bool) (d a b : Nat) (f : RMode → FVal → FVal → FVal → FVal) (s : State) :
    Host.Outcome State Fault Refusal :=
  issue i s (fun x => do
    let da ← x.checkSrc a .flt d
    let db ← x.checkSrc b .flt d
    let dd ← x.check d .flt
    let va ← x.read a
    let vb ← x.read b
    let vd ← if old then x.read d else .ok []
    let r ← eachLane (fun l =>
      orTrap FPX l (fitFloat x.th x.mode dd l (f x.mode (flt da (lane va l)) (flt db (lane vb l)) (flt dd (lane vd l)))))
      0 dd.lanes
    .ok (own x (fun th => (th.setLanes d r).drawn x.mode dd.lanes)))

/-- d := f of the lanes of a, assigned by fit() (R316). -/
def floatFunction (i : Instr) (d a : Nat) (f : FVal → FVal) (s : State) : Host.Outcome State Fault Refusal :=
  issue i s (fun x => do
    let da ← x.checkSrc a .flt d
    let dd ← x.check d .flt
    let va ← x.read a
    let r ← eachLane (fun l => orTrap FPX l (fitFloat x.th x.mode dd l (f (flt da (lane va l))))) 0 dd.lanes
    .ok (own x (fun th => (th.setLanes d r).drawn x.mode dd.lanes)))

/-- d := bits of a changed; d and a have one kind (R313). -/
def floatBits (i : Instr) (d a : Nat) (f : Nat → Nat → Nat) (s : State) : Host.Outcome State Fault Refusal :=
  issue i s (fun x => do
    let da ← x.checkSrc a .flt d
    let dd ← x.check d .flt
    if da.kind ≠ dd.kind then trap KIND a
    else
      let va ← x.read a
      .ok (own x (fun th => th.setLanes d ((upFrom 0 dd.lanes).map (fun l => f dd.width (lane va l))))))

/-- An integer d := truth of a relation of the values of a and b (R314). -/
def floatCompare (i : Instr) (d a b : Nat) (f : FVal → FVal → Bool) (s : State) : Host.Outcome State Fault Refusal :=
  issue i s (fun x => do
    let da ← x.checkSrc a .flt d
    let db ← x.checkSrc b .flt d
    let dd ← x.check d .int
    let va ← x.read a
    let vb ← x.read b
    .ok (own x (fun th => th.setLanes d
      ((upFrom 0 dd.lanes).map (fun l => truth dd (f (flt da (lane va l)) (flt db (lane vb l))))))))

/-- The lower and the higher of two values under R150: NaN counts as missing, +0 ranks above −0. -/
def FVal.least (x y : FVal) : FVal := if x.isNan then y else if y.isNan then x else if y.below x then y else x
def FVal.most (x y : FVal) : FVal := if x.isNan then y else if y.isNan then x else if x.below y then y else x

/-- The class of a float's bit string (R315). -/
def classOf (f : Fmt) (v : Nat) : Nat :=
  match f.value v with
  | .nan => if bit v (f.man - 1) then 8 else 9
  | .inf neg => if neg then 0 else 7
  | .num neg n _ =>
    if n = 0 then (if neg then 3 else 4)
    else if v / 2 ^ f.man % 2 ^ f.exp = 0 then (if neg then 2 else 5)
    else if neg then 1 else 6

/-! ### The float functions of R316 -/

/-- DEDUCED, log 75. -/
def FVal.exp2 : FVal → FVal
  | .nan => .nan
  | .inf neg => if neg then .num false 0 1 else .inf false
  | .num neg n d => exp2Val neg n d

/-- DEDUCED, log 75. -/
def FVal.log2 : FVal → FVal
  | .nan => .nan
  | .inf neg => if neg then .nan else .inf false
  | .num neg n d => if n = 0 then .inf true else if neg then .nan else log2Val n d

def FVal.rcp (x : FVal) : FVal := FVal.div (.num false 1 1) x

def FVal.rsq : FVal → FVal
  | .nan => .nan
  | .inf neg => if neg then .nan else .num false 0 1
  | .num neg n d => if n = 0 then .inf neg else if neg then .nan else sqrtRat d n

def FVal.sqrt : FVal → FVal
  | .nan => .nan
  | .inf neg => if neg then .nan else .inf false
  | .num neg n d => if n = 0 then .num neg 0 1 else if neg then .nan else sqrtRat n d

/-- The sum under a mode: rdn gives an exact zero the sign − (R149). -/
def FVal.plus (m : RMode) (x y : FVal) : FVal := FVal.add (decide (m = .rdn)) x y

/-- fadd (R311). -/
def execFadd (d a b : Nat) (s : State) : Host.Outcome State Fault Refusal :=
  floatBinary (.fadd d a b) false d a b (fun m x y _ => x.plus m y) s

/-- fsub (R311). -/
def execFsub (d a b : Nat) (s : State) : Host.Outcome State Fault Refusal :=
  floatBinary (.fsub d a b) false d a b (fun m x y _ => x.plus m y.neg) s

/-- fmul (R311). -/
def execFmul (d a b : Nat) (s : State) : Host.Outcome State Fault Refusal :=
  floatBinary (.fmul d a b) false d a b (fun _ x y _ => x.mul y) s

/-- fmin (R312). -/
def execFmin (d a b : Nat) (s : State) : Host.Outcome State Fault Refusal :=
  floatBinary (.fmin d a b) false d a b (fun _ x y _ => x.least y) s

/-- fmax (R312). -/
def execFmax (d a b : Nat) (s : State) : Host.Outcome State Fault Refusal :=
  floatBinary (.fmax d a b) false d a b (fun _ x y _ => x.most y) s

/-- fma (R311). -/
def execFma (d a b : Nat) (s : State) : Host.Outcome State Fault Refusal :=
  floatBinary (.fma d a b) true d a b (fun m x y z => (x.mul y).plus m z) s

/-- fnma (R311). -/
def execFnma (d a b : Nat) (s : State) : Host.Outcome State Fault Refusal :=
  floatBinary (.fnma d a b) true d a b (fun m x y z => (x.neg.mul y).plus m z) s

/-- fabs (R313). -/
def execFabs (d a : Nat) (s : State) : Host.Outcome State Fault Refusal :=
  floatBits (.fabs d a) d a (fun w v => v % 2 ^ (w - 1)) s

/-- fneg (R313). -/
def execFneg (d a : Nat) (s : State) : Host.Outcome State Fault Refusal :=
  floatBits (.fneg d a) d a (fun w v => Nat.xor v (2 ^ (w - 1))) s

/-- fceq (R314). -/
def execFceq (d a b : Nat) (s : State) : Host.Outcome State Fault Refusal :=
  floatCompare (.fceq d a b) d a b FVal.eq s

/-- fclt (R314). -/
def execFclt (d a b : Nat) (s : State) : Host.Outcome State Fault Refusal :=
  floatCompare (.fclt d a b) d a b FVal.lt s

/-- fcle (R314). -/
def execFcle (d a b : Nat) (s : State) : Host.Outcome State Fault Refusal :=
  floatCompare (.fcle d a b) d a b (fun x y => x.lt y || x.eq y) s

/-- fclass (R315). -/
def execFclass (d a : Nat) (s : State) : Host.Outcome State Fault Refusal :=
  issue (.fclass d a) s (fun x => do
    let da ← x.checkSrc a .flt d
    let dd ← x.check d .int
    let va ← x.read a
    let r ← eachLane (fun l =>
      orTrap OVF l (fitInt dd ((2 ^ (match da.kind.fmt? with | some f => classOf f (lane va l) | none => 0) : Nat) : Int)))
      0 dd.lanes
    .ok (own x (fun th => th.setLanes d r)))

/-- fexp2 (R316). -/
def execFexp2 (d a : Nat) (s : State) : Host.Outcome State Fault Refusal := floatFunction (.fexp2 d a) d a FVal.exp2 s

/-- flog2 (R316). -/
def execFlog2 (d a : Nat) (s : State) : Host.Outcome State Fault Refusal := floatFunction (.flog2 d a) d a FVal.log2 s

/-- frcp (R316). -/
def execFrcp (d a : Nat) (s : State) : Host.Outcome State Fault Refusal := floatFunction (.frcp d a) d a FVal.rcp s

/-- frsq (R316). -/
def execFrsq (d a : Nat) (s : State) : Host.Outcome State Fault Refusal := floatFunction (.frsq d a) d a FVal.rsq s

/-- fsqrt (R316). -/
def execFsqrt (d a : Nat) (s : State) : Host.Outcome State Fault Refusal := floatFunction (.fsqrt d a) d a FVal.sqrt s

end Sys2Proof.Machine
end

