-- ==== Sys2Proof/Machine/Hints.lean ====
section
/-!
DEFINITION. The hint words (R275-R277): a hint retires in its own issue and is held, for the next word, in the thread.
-/

namespace Sys2Proof.Machine

/-- A hint that passes its checks is pending for the thread's next word (R276, R277). -/
def pendHint {s : State} (x : Ctx) : Effect s :=
  fun t => t.setThread x.c x.sl { x.th with pc := x.th.pc + 4, hint := some x.word }

/-- hint.imm (R276). -/
def execHintImm (hi : Nat) (s : State) : Host.Outcome State Fault Refusal :=
  issue (.hintImm hi) s (fun x => .ok (pendHint x))

/-- hint.mod (R276). -/
def execHintMod (rm wsize : Nat) (s : State) : Host.Outcome State Fault Refusal :=
  issue (.hintMod rm wsize) s (fun x => .ok (pendHint x))

/-- hint.mma (R276). -/
def execHintMma (stride : Nat) (s : State) : Host.Outcome State Fault Refusal :=
  issue (.hintMma stride) s (fun x => .ok (pendHint x))

/-- hint.scope (R276). -/
def execHintScope (scope ord keep : Nat) (s : State) : Host.Outcome State Fault Refusal :=
  issue (.hintScope scope ord keep) s (fun x => .ok (pendHint x))

end Sys2Proof.Machine
end

