-- ==== Sys2Proof/Machine/IntOps.lean ====
section
/-!
DEFINITION. Integer register operations (R285-R291). Each computes an exact value per lane and assigns it by fit() (R7);
an operand of one lane supplies every lane (R279), and the lowest lane that overflows traps (R9).
-/

namespace Sys2Proof.Machine

/-! ### Exact values -/

/-- An operation on the infinite two's-complement strings of two integers of at most 67 bits (R281). -/
def stringOp (f : Nat → Nat → Nat) (a b : Int) : Int := signed 128 (f (bitsOf 128 a) (bitsOf 128 b))

/-- NOT of an infinite string. -/
def notInt (a : Int) : Int := -a - 1

/-- Shift counts are unbounded; beyond 200 places no operand of 64 bits leaves a different result. -/
def shiftCount (n : Nat) : Nat := min n 200

/-- A × 2^n. -/
def shlInt (a : Int) (n : Nat) : Int := a * 2 ^ shiftCount n

/-- ⌊A / 2^n⌋. -/
def shrInt (a : Int) (n : Nat) : Int := a / 2 ^ shiftCount n

/-- The w-bit string rotated toward its high end by n mod w places. -/
def rolBits (w x n : Nat) : Nat := x * 2 ^ (n % w) % 2 ^ w + x / 2 ^ (w - n % w)

/-- Zero bits above the highest one bit of a w-bit string, or below the lowest; w for zero (R291). -/
def clzBits (w x : Nat) : Nat := if x = 0 then w else w - 1 - Nat.log2 x
def ctzBits (w x : Nat) : Nat := ((upFrom 0 w).find? (fun i => bit x i)).getD w

/-- The w-bit string reversed. -/
def revBits (w x : Nat) : Nat := (upFrom 0 w).foldl (fun a i => a + bitAt (bit x i) (w - 1 - i)) 0

/-- Position and length of a bit field (R291). -/
def fieldLo (v : Nat) : Nat := bits v 5 0
def fieldLen (v : Nat) : Nat := bits v 12 6

/-- `bext`: the field of an infinite string, signed when d is sgn. -/
def extractField (dk : Kind) (a : Int) (v : Nat) : Int :=
  let f := bitsOf (fieldLen v) (a / 2 ^ fieldLo v)
  if fieldLen v = 0 then 0 else if dk = .sgn then signed (fieldLen v) f else f

/-- `bins`: a w-bit string with a field replaced. -/
def insertField (w old : Nat) (a : Int) (v : Nat) : Nat :=
  let lo := fieldLo v
  let hi := lo + fieldLen v
  (old % 2 ^ lo + bitsOf (fieldLen v) a * 2 ^ lo + old / 2 ^ hi * 2 ^ hi) % 2 ^ w

/-! ### The shared courses -/

/-- d := a op b, lane by lane; f is given the descriptors and the bit strings of the two lanes. -/
def intBinary (i : Instr) (d a b : Nat) (f : Desc → Desc → Nat → Nat → Int) (s : State) :
    Host.Outcome State Fault Refusal :=
  issue i s (fun x => do
    let da ← x.checkSrc a .int d
    let db ← x.checkSrc b .int d
    let dd ← x.check d .int
    let va ← x.read a
    let vb ← x.read b
    let r ← eachLane (fun l => orTrap OVF l (fitInt dd (f da db (lane va l) (lane vb l)))) 0 dd.lanes
    .ok (own x (fun th => th.setLanes d r)))

/-- d := op a, lane by lane; an immediate supplies every lane. -/
def intUnary (i : Instr) (d a : Nat) (f : Ctx → Desc → Nat → Int) (s : State) : Host.Outcome State Fault Refusal :=
  issue i s (fun x => do
    let da ← x.checkSrc a .int d
    let dd ← x.check d .int
    let va ← x.read a
    let r ← eachLane (fun l => orTrap OVF l (fitInt dd (f x da (lane va l)))) 0 dd.lanes
    .ok (own x (fun th => th.setLanes d r)))

/-- d := truth of a relation of a and b (R288). -/
def intCompare (i : Instr) (d a b : Nat) (f : Desc → Desc → Nat → Nat → Bool) (s : State) :
    Host.Outcome State Fault Refusal :=
  issue i s (fun x => do
    let da ← x.checkSrc a .int d
    let db ← x.checkSrc b .int d
    let dd ← x.check d .int
    let va ← x.read a
    let vb ← x.read b
    .ok (own x (fun th => th.setLanes d ((upFrom 0 dd.lanes).map (fun l => truth dd (f da db (lane va l) (lane vb l)))))))

/-- d := truth of a relation of a and an immediate (R288). -/
def intCompareImm (i : Instr) (d a : Nat) (f : Ctx → Desc → Nat → Bool) (s : State) : Host.Outcome State Fault Refusal :=
  issue i s (fun x => do
    let da ← x.checkSrc a .int d
    let dd ← x.check d .int
    let va ← x.read a
    .ok (own x (fun th => th.setLanes d ((upFrom 0 dd.lanes).map (fun l => truth dd (f x da (lane va l)))))))

/-- d := a op b for the multiplier and divider; f may raise DIVZ (R289). -/
def intDivide (i : Instr) (d a b : Nat) (f : Desc → Desc → Desc → Nat → Nat → Option Int) (s : State) :
    Host.Outcome State Fault Refusal :=
  issue i s (fun x => do
    let da ← x.checkSrc a .int d
    let db ← x.checkSrc b .int d
    let dd ← x.check d .int
    let va ← x.read a
    let vb ← x.read b
    let r ← eachLane (fun l =>
      match f dd da db (lane va l) (lane vb l) with
      | none => trap DIVZ l
      | some v => orTrap OVF l (fitInt dd v)) 0 dd.lanes
    .ok (own x (fun th => th.setLanes d r)))

/-- The signed and the unsigned reading of a lane (R281). -/
def rdS (d : Desc) (v : Nat) : Int := extInt d.kind d.width v
def rdU (_d : Desc) (v : Nat) : Int := v

/-- add (R285). -/
def execAdd (d a b : Nat) (s : State) : Host.Outcome State Fault Refusal :=
  intBinary (.add d a b) d a b (fun da db u v => rdS da u + rdS db v) s

/-- sub (R285). -/
def execSub (d a b : Nat) (s : State) : Host.Outcome State Fault Refusal :=
  intBinary (.sub d a b) d a b (fun da db u v => rdS da u - rdS db v) s

/-- and (R285). -/
def execAnd (d a b : Nat) (s : State) : Host.Outcome State Fault Refusal :=
  intBinary (.and d a b) d a b (fun da db u v => stringOp Nat.land (rdS da u) (rdS db v)) s

/-- or (R285). -/
def execOr (d a b : Nat) (s : State) : Host.Outcome State Fault Refusal :=
  intBinary (.or d a b) d a b (fun da db u v => stringOp Nat.lor (rdS da u) (rdS db v)) s

/-- xor (R285). -/
def execXor (d a b : Nat) (s : State) : Host.Outcome State Fault Refusal :=
  intBinary (.xor d a b) d a b (fun da db u v => stringOp Nat.xor (rdS da u) (rdS db v)) s

/-- andn (R285). -/
def execAndn (d a b : Nat) (s : State) : Host.Outcome State Fault Refusal :=
  intBinary (.andn d a b) d a b (fun da db u v => stringOp Nat.land (rdS da u) (notInt (rdS db v))) s

/-- orn (R285). -/
def execOrn (d a b : Nat) (s : State) : Host.Outcome State Fault Refusal :=
  intBinary (.orn d a b) d a b (fun da db u v => stringOp Nat.lor (rdS da u) (notInt (rdS db v))) s

/-- shl (R285). -/
def execShl (d a b : Nat) (s : State) : Host.Outcome State Fault Refusal :=
  intBinary (.shl d a b) d a b (fun da _ u v => shlInt (rdS da u) v) s

/-- shr (R285). -/
def execShr (d a b : Nat) (s : State) : Host.Outcome State Fault Refusal :=
  intBinary (.shr d a b) d a b (fun _ _ u v => shrInt (u : Nat) v) s

/-- sra (R285). -/
def execSra (d a b : Nat) (s : State) : Host.Outcome State Fault Refusal :=
  intBinary (.sra d a b) d a b (fun da _ u v => shrInt (rdS da u) v) s

/-- rol (R285). -/
def execRol (d a b : Nat) (s : State) : Host.Outcome State Fault Refusal :=
  intBinary (.rol d a b) d a b (fun da _ u v => (rolBits da.width u v : Nat)) s

/-- min (R285). -/
def execMin (d a b : Nat) (s : State) : Host.Outcome State Fault Refusal :=
  intBinary (.min d a b) d a b (fun da db u v => min (rdS da u) (rdS db v)) s

/-- max (R285). -/
def execMax (d a b : Nat) (s : State) : Host.Outcome State Fault Refusal :=
  intBinary (.max d a b) d a b (fun da db u v => max (rdS da u) (rdS db v)) s

/-- minu (R285). -/
def execMinu (d a b : Nat) (s : State) : Host.Outcome State Fault Refusal :=
  intBinary (.minu d a b) d a b (fun _ _ u v => (min u v : Nat)) s

/-- maxu (R285). -/
def execMaxu (d a b : Nat) (s : State) : Host.Outcome State Fault Refusal :=
  intBinary (.maxu d a b) d a b (fun _ _ u v => (max u v : Nat)) s

/-- abs (R285). -/
def execAbs (d a : Nat) (s : State) : Host.Outcome State Fault Refusal :=
  intUnary (.abs d a) d a (fun _ da u => ((rdS da u).natAbs : Int)) s

/-- neg (R285). -/
def execNeg (d a : Nat) (s : State) : Host.Outcome State Fault Refusal :=
  intUnary (.neg d a) d a (fun _ da u => -(rdS da u)) s

/-- addi (R287). -/
def execAddi (d a imm : Nat) (s : State) : Host.Outcome State Fault Refusal :=
  intUnary (.addi d a imm) d a (fun x da u => rdS da u + x.immI imm) s

/-- andi (R287). -/
def execAndi (d a imm : Nat) (s : State) : Host.Outcome State Fault Refusal :=
  intUnary (.andi d a imm) d a (fun x da u => stringOp Nat.land (rdS da u) (x.immI imm)) s

/-- ori (R287). -/
def execOri (d a imm : Nat) (s : State) : Host.Outcome State Fault Refusal :=
  intUnary (.ori d a imm) d a (fun x da u => stringOp Nat.lor (rdS da u) (x.immI imm)) s

/-- xori (R287). -/
def execXori (d a imm : Nat) (s : State) : Host.Outcome State Fault Refusal :=
  intUnary (.xori d a imm) d a (fun x da u => stringOp Nat.xor (rdS da u) (x.immI imm)) s

/-- shli (R287). -/
def execShli (d a sh : Nat) (s : State) : Host.Outcome State Fault Refusal :=
  intUnary (.shli d a sh) d a (fun _ da u => shlInt (rdS da u) sh) s

/-- shri (R287). -/
def execShri (d a sh : Nat) (s : State) : Host.Outcome State Fault Refusal :=
  intUnary (.shri d a sh) d a (fun _ _ u => shrInt (u : Nat) sh) s

/-- srai (R287). -/
def execSrai (d a sh : Nat) (s : State) : Host.Outcome State Fault Refusal :=
  intUnary (.srai d a sh) d a (fun _ da u => shrInt (rdS da u) sh) s

/-- roli (R287). -/
def execRoli (d a sh : Nat) (s : State) : Host.Outcome State Fault Refusal :=
  intUnary (.roli d a sh) d a (fun _ da u => (rolBits da.width u sh : Nat)) s

/-- ceq (R288). -/
def execCeq (d a b : Nat) (s : State) : Host.Outcome State Fault Refusal :=
  intCompare (.ceq d a b) d a b (fun da db u v => decide (rdS da u = rdS db v)) s

/-- cne (R288). -/
def execCne (d a b : Nat) (s : State) : Host.Outcome State Fault Refusal :=
  intCompare (.cne d a b) d a b (fun da db u v => decide (rdS da u ≠ rdS db v)) s

/-- clt (R288). -/
def execClt (d a b : Nat) (s : State) : Host.Outcome State Fault Refusal :=
  intCompare (.clt d a b) d a b (fun da db u v => decide (rdS da u < rdS db v)) s

/-- cle (R288). -/
def execCle (d a b : Nat) (s : State) : Host.Outcome State Fault Refusal :=
  intCompare (.cle d a b) d a b (fun da db u v => decide (rdS da u ≤ rdS db v)) s

/-- cltu (R288). -/
def execCltu (d a b : Nat) (s : State) : Host.Outcome State Fault Refusal :=
  intCompare (.cltu d a b) d a b (fun _ _ u v => decide (u < v)) s

/-- cleu (R288). -/
def execCleu (d a b : Nat) (s : State) : Host.Outcome State Fault Refusal :=
  intCompare (.cleu d a b) d a b (fun _ _ u v => decide (u ≤ v)) s

/-- ceqi (R288). -/
def execCeqi (d a imm : Nat) (s : State) : Host.Outcome State Fault Refusal :=
  intCompareImm (.ceqi d a imm) d a (fun x da u => decide (rdS da u = x.immI imm)) s

/-- cnei (R288). -/
def execCnei (d a imm : Nat) (s : State) : Host.Outcome State Fault Refusal :=
  intCompareImm (.cnei d a imm) d a (fun x da u => decide (rdS da u ≠ x.immI imm)) s

/-- clti (R288). -/
def execClti (d a imm : Nat) (s : State) : Host.Outcome State Fault Refusal :=
  intCompareImm (.clti d a imm) d a (fun x da u => decide (rdS da u < x.immI imm)) s

/-- cltui (R288). -/
def execCltui (d a imm : Nat) (s : State) : Host.Outcome State Fault Refusal :=
  intCompareImm (.cltui d a imm) d a (fun x _ u => decide (u < bitsOf 64 (x.immI imm))) s

/-- mul (R289). -/
def execMul (d a b : Nat) (s : State) : Host.Outcome State Fault Refusal :=
  intDivide (.mul d a b) d a b (fun _ da db u v => some (rdS da u * rdS db v)) s

/-- mulh (R289). -/
def execMulh (d a b : Nat) (s : State) : Host.Outcome State Fault Refusal :=
  intDivide (.mulh d a b) d a b (fun dd da db u v => some (rdS da u * rdS db v / 2 ^ dd.width)) s

/-- mulhu (R289). -/
def execMulhu (d a b : Nat) (s : State) : Host.Outcome State Fault Refusal :=
  intDivide (.mulhu d a b) d a b (fun dd _ _ u v => some ((u * v / 2 ^ dd.width : Nat) : Int)) s

/-- div (R289). -/
def execDiv (d a b : Nat) (s : State) : Host.Outcome State Fault Refusal :=
  intDivide (.div d a b) d a b (fun _ da db u v => if v = 0 then none else some (Int.tdiv (rdS da u) (rdS db v))) s

/-- divu (R289). -/
def execDivu (d a b : Nat) (s : State) : Host.Outcome State Fault Refusal :=
  intDivide (.divu d a b) d a b (fun _ _ _ u v => if v = 0 then none else some ((u / v : Nat) : Int)) s

/-- rem (R289). -/
def execRem (d a b : Nat) (s : State) : Host.Outcome State Fault Refusal :=
  intDivide (.rem d a b) d a b (fun _ da db u v => if v = 0 then none else some (Int.tmod (rdS da u) (rdS db v))) s

/-- remu (R289). -/
def execRemu (d a b : Nat) (s : State) : Host.Outcome State Fault Refusal :=
  intDivide (.remu d a b) d a b (fun _ _ _ u v => if v = 0 then none else some ((u % v : Nat) : Int)) s

/-- clz (R291). -/
def execClz (d a : Nat) (s : State) : Host.Outcome State Fault Refusal :=
  intUnary (.clz d a) d a (fun _ da u => (clzBits da.width u : Nat)) s

/-- ctz (R291). -/
def execCtz (d a : Nat) (s : State) : Host.Outcome State Fault Refusal :=
  intUnary (.ctz d a) d a (fun _ da u => (ctzBits da.width u : Nat)) s

/-- popc (R291). -/
def execPopc (d a : Nat) (s : State) : Host.Outcome State Fault Refusal :=
  intUnary (.popc d a) d a (fun _ da u => (popcount u da.width : Nat)) s

/-- brev (R291). -/
def execBrev (d a : Nat) (s : State) : Host.Outcome State Fault Refusal :=
  intUnary (.brev d a) d a (fun _ da u => (revBits da.width u : Nat)) s

/-- bext (R291). -/
def execBext (d a b : Nat) (s : State) : Host.Outcome State Fault Refusal :=
  issue (.bext d a b) s (fun x => do
    let da ← x.checkSrc a .int d
    let _ ← x.checkSrc b .int d
    let dd ← x.check d .int
    let va ← x.read a
    let vb ← x.read b
    let r ← eachLane (fun l => orTrap OVF l (fitInt dd (extractField dd.kind (rdS da (lane va l)) (lane vb l)))) 0 dd.lanes
    .ok (own x (fun th => th.setLanes d r)))

/-- bins: bits are written directly, and the other bits of the old d stay (R291). -/
def execBins (d a b : Nat) (s : State) : Host.Outcome State Fault Refusal :=
  issue (.bins d a b) s (fun x => do
    let da ← x.checkSrc a .int d
    let _ ← x.checkSrc b .int d
    let dd ← x.check d .int
    let va ← x.read a
    let vb ← x.read b
    let vd ← x.read d
    .ok (own x (fun th => th.setLanes d
      ((upFrom 0 dd.lanes).map (fun l => insertField dd.width (lane vd l) (rdS da (lane va l)) (lane vb l))))))

/-- The lanes that a move gives: fit() between integer kinds, the bits between equal float kinds, KIND otherwise (R286). -/
def moveLanes (a : Nat) (da dd : Desc) (va : List Nat) : Except Stop (List Nat) :=
  if da.kind.isInt && dd.kind.isInt then
    eachLane (fun l => orTrap OVF l (fitInt dd (rdS da (lane va l)))) 0 dd.lanes
  else if da.kind.isFloat && decide (da.kind = dd.kind) then .ok ((upFrom 0 dd.lanes).map (lane va))
  else trap KIND a

/-- The kinds of a move agree (R286). -/
def moveKinds (da dd : Desc) : Bool := (da.kind.isInt && dd.kind.isInt) || (da.kind.isFloat && decide (da.kind = dd.kind))

/-- mov (R286). -/
def execMov (d a : Nat) (s : State) : Host.Outcome State Fault Refusal :=
  issue (.mov d a) s (fun x => do
    let da ← x.checkSrc a .any d
    x.relates a d (moveKinds da)
    let dd ← x.check d .any
    let va ← x.read a
    let r ← moveLanes a da dd va
    .ok (own x (fun th => th.setLanes d r)))

/-- cmov: the kinds are checked whatever the predicate holds; at 0 nothing is written (R286). -/
def execCmov (d a b : Nat) (s : State) : Host.Outcome State Fault Refusal :=
  issue (.cmov d a b) s (fun x => do
    let da ← x.checkSrc a .any d
    x.relates a d (moveKinds da)
    let _ ← x.check b .pred
    let dd ← x.check d .any
    let p ← x.read0 b
    let va ← x.read a
    if p = 0 then .ok (own x id)
    else
      let r ← moveLanes a da dd va
      .ok (own x (fun th => th.setLanes d r)))

/-- An upper immediate: the value goes to every lane of d (R290). -/
def upperImm (i : Instr) (d : Nat) (f : Ctx → Int) (s : State) : Host.Outcome State Fault Refusal :=
  issue i s (fun x => do
    let dd ← x.check d .any
    let r ← x.assignAll dd (f x)
    .ok (own x (x.assigned dd d r)))

/-- sethi (R290). -/
def execSethi (d imm : Nat) (s : State) : Host.Outcome State Fault Refusal :=
  upperImm (.sethi d imm) d (fun x => x.immU imm) s

/-- addpc: relative to the instruction's own word (R290). -/
def execAddpc (d imm : Nat) (s : State) : Host.Outcome State Fault Refusal :=
  upperImm (.addpc d imm) d (fun x => x.th.pc + x.immU imm) s

end Sys2Proof.Machine
end

