-- ==== Sys2Proof/Machine/Lanes.lean ====
section
/-!
DEFINITION. Reductions (R317, R318), lane operations (R319) and the generator instruction (R329).
-/

namespace Sys2Proof.Machine

/-- The signed readings of the lanes of a. -/
def exts (d : Desc) (v : List Nat) : List Int := v.map (extInt d.kind d.width)

/-- Index of the first entry that is the best of a list: `better y x` says that y is better than x. -/
def bestIndex {α : Type} (better : α → α → Bool) : List α → Nat → Nat → α → Nat
  | [], _, k, _ => k
  | y :: r, j, k, x => if better y x then bestIndex better r (j + 1) j y else bestIndex better r (j + 1) k x

/-- The smallest index of the best entry. -/
def argBest {α : Type} (better : α → α → Bool) : List α → Nat
  | [] => 0
  | x :: r => bestIndex better r 1 0 x

/-- A reduction to an integer, assigned by fit() to every lane of d (R317). -/
def intReduce (i : Instr) (d a : Nat) (cls : Cls) (f : Desc → List Nat → Int) (s : State) :
    Host.Outcome State Fault Refusal :=
  issue i s (fun x => do
    let da ← x.check a cls
    let dd ← x.check d .int
    let va ← x.read a
    let r ← eachLane (fun l => orTrap OVF l (fitInt dd (f da va))) 0 dd.lanes
    .ok (own x (fun th => th.setLanes d r)))

/-- A reduction to a truth value (R317). -/
def truthReduce (i : Instr) (d a : Nat) (f : List Nat → Bool) (s : State) : Host.Outcome State Fault Refusal :=
  issue i s (fun x => do
    let _ ← x.check a .int
    let dd ← x.check d .int
    let va ← x.read a
    .ok (own x (fun th => th.setLanes d (List.replicate dd.lanes (truth dd (f va))))))

/-- rsum (R317). -/
def execRsum (d a : Nat) (s : State) : Host.Outcome State Fault Refusal :=
  intReduce (.rsum d a) d a .int (fun da v => (exts da v).sum) s

/-- rmax (R317). -/
def execRmax (d a : Nat) (s : State) : Host.Outcome State Fault Refusal :=
  intReduce (.rmax d a) d a .int (fun da v => (exts da v).foldl max ((exts da v).headD 0)) s

/-- rmin (R317). -/
def execRmin (d a : Nat) (s : State) : Host.Outcome State Fault Refusal :=
  intReduce (.rmin d a) d a .int (fun da v => (exts da v).foldl min ((exts da v).headD 0)) s

/-- rmaxi (R317). -/
def execRmaxi (d a : Nat) (s : State) : Host.Outcome State Fault Refusal :=
  intReduce (.rmaxi d a) d a .int (fun da v => (argBest (fun y x => decide (x < y)) (exts da v) : Nat)) s

/-- rmini (R317). -/
def execRmini (d a : Nat) (s : State) : Host.Outcome State Fault Refusal :=
  intReduce (.rmini d a) d a .int (fun da v => (argBest (fun y x => decide (y < x)) (exts da v) : Nat)) s

/-- rall (R317). -/
def execRall (d a : Nat) (s : State) : Host.Outcome State Fault Refusal :=
  truthReduce (.rall d a) d a (fun v => v.all (fun n => decide (n ≠ 0))) s

/-- rany (R317). -/
def execRany (d a : Nat) (s : State) : Host.Outcome State Fault Refusal :=
  truthReduce (.rany d a) d a (fun v => v.any (fun n => decide (n ≠ 0))) s

/-- The mode of `rfsum`: rne in place of rsn (R318). -/
def RMode.noDraw (m : RMode) : RMode := if m = .rsn then .rne else m

/-- The ascending-lane binary64 sum of float lanes (R318). -/
def binarySum (da : Desc) : List Nat → FVal
  | [] => .num false 0 1
  | v :: r => r.foldl (fun acc u => rne64 (FVal.add false acc (flt da u))) (flt da v)

/-- rfsum (R318). -/
def execRfsum (d a : Nat) (s : State) : Host.Outcome State Fault Refusal :=
  issue (.rfsum d a) s (fun x => do
    let da ← x.check a .flt
    let dd ← x.check d .flt
    let va ← x.read a
    let r ← eachLane (fun l => orTrap FPX l (fitFloat x.th x.mode.noDraw dd l (binarySum da va))) 0 dd.lanes
    .ok (own x (fun th => th.setLanes d r)))

/-- rfmax: the largest lane under R150; d has a's kind (R317). -/
def execRfmax (d a : Nat) (s : State) : Host.Outcome State Fault Refusal :=
  issue (.rfmax d a) s (fun x => do
    let da ← x.check a .flt
    let dd ← x.check d .flt
    if da.kind ≠ dd.kind then trap KIND d
    else
      let va ← x.read a
      let m := (va.map (flt da)).foldl FVal.most .nan
      let r ← eachLane (fun l => orTrap FPX l (fitFloat x.th .rne dd l m)) 0 dd.lanes
      .ok (own x (fun th => th.setLanes d r)))

/-- rfmaxi (R317): a NaN lane is worse than any other. -/
def execRfmaxi (d a : Nat) (s : State) : Host.Outcome State Fault Refusal :=
  intReduce (.rfmaxi d a) d a .flt
    (fun da v => (argBest (fun y x => !y.isNan && (x.isNan || x.below y)) (v.map (flt da)) : Nat)) s

/-! ### Lane operations (R319) -/

/-- Lane i of a, or the zero string. -/
def laneOrZero (v : List Nat) (i : Nat) : Nat := v.getD i 0

/-- A lane operation with an index name: a and d agree in kind and width; `okB` and `okD` are what the lane counts of a, b and d
must meet, named by b and by d; f gives the lanes of d from those of a and b. -/
def laneOp (i : Instr) (d a b : Nat) (okB : Desc → Desc → Option Desc → Bool)
    (okD : Desc → Desc → Bool)
    (f : Nat → List Nat → List Nat → List Nat) (s : State) : Host.Outcome State Fault Refusal :=
  issue i s (fun x => do
    let da ← x.check a .any
    let db ← x.check b .int
    if !okB da db (x.th.desc? d) then trap KIND b
    let dd ← x.check d .any
    if da.kind ≠ dd.kind ∨ da.width ≠ dd.width ∨ !okD da dd then trap KIND d
    else
      let va ← x.read a
      let vb ← x.read b
      .ok (own x (fun th => th.setLanes d (f dd.lanes va vb))))

/-- vperm (R319). -/
def execVperm (d a b : Nat) (s : State) : Host.Outcome State Fault Refusal :=
  laneOp (.vperm d a b) d a b (fun _ db dd => db.lanes == 1 || dd.all (fun e => db.lanes == e.lanes))
    (fun _ _ => true)
    (fun n va vb => (upFrom 0 n).map (fun l => laneOrZero va (lane vb l))) s

/-- vshuf (R319). -/
def execVshuf (d a b : Nat) (s : State) : Host.Outcome State Fault Refusal :=
  laneOp (.vshuf d a b) d a b (fun _ _ _ => true) (fun da dd => da.lanes == dd.lanes)
    (fun n va vb => (upFrom 0 n).map (fun l => laneOrZero va (Nat.xor l (vb.headD 0)))) s

/-- vlane (R319). -/
def execVlane (d a b : Nat) (s : State) : Host.Outcome State Fault Refusal :=
  laneOp (.vlane d a b) d a b (fun _ _ _ => true) (fun _ _ => true)
    (fun n va vb => List.replicate n (laneOrZero va (vb.headD 0))) s

/-- vins: one lane is written and the others of the old d stay (R319). -/
def execVins (d a b : Nat) (s : State) : Host.Outcome State Fault Refusal :=
  issue (.vins d a b) s (fun x => do
    let da ← x.check a .any
    let _ ← x.check b .int
    let dd ← x.check d .any
    if da.kind ≠ dd.kind ∨ da.width ≠ dd.width then trap KIND d
    else
      let va ← x.read a
      let vb ← x.read b
      let vd ← x.read d
      .ok (own x (fun th => th.setLanes d (setAt vd (vb.headD 0) (va.headD 0)))))

/-- vidx (R319). -/
def execVidx (d a : Nat) (s : State) : Host.Outcome State Fault Refusal :=
  issue (.vidx d a) s (fun x => do
    let da ← x.check a .int
    let dd ← x.check d .int
    let va ← x.read a
    let r ← eachLane (fun l => orTrap OVF l (fitInt dd (extInt da.kind da.width (va.headD 0) + l))) 0 dd.lanes
    .ok (own x (fun th => th.setLanes d r)))

/-- vcomp (R319). -/
def execVcomp (d a b : Nat) (s : State) : Host.Outcome State Fault Refusal :=
  laneOp (.vcomp d a b) d a b (fun da db _ => db.lanes == da.lanes) (fun _ _ => true)
    (fun n va vb =>
      let kept := ((va.zip vb).filter (fun p => decide (p.2 ≠ 0))).map (·.1)
      (upFrom 0 n).map (laneOrZero kept)) s

/-! ### rng (R329) -/

/-- A lane of R166, or nothing for a kind that `rng` does not take. -/
def rngLane (d : Desc) (r : Nat) : Option Nat :=
  match d.kind with
  | .uns => some (r / 2 ^ (64 - d.width))
  | .sgn => some (r / 2 ^ (64 - d.width))
  | .f32 => fmtF32.fit .rtz 0 .wrap (.num false (2 * (r / 2 ^ 40) + 1) (2 ^ 25))
  | .f64 => fmtF64.fit .rtz 0 .wrap (.num false (2 * (r / 2 ^ 11) + 1) (2 ^ 54))
  | _ => none

/-- rng (R329). -/
def execRng (d a b : Nat) (s : State) : Host.Outcome State Fault Refusal :=
  issue (.rng d a b) s (fun x => do
    let _ ← x.check a .int
    let _ ← x.check b .int
    let dd ← x.check d .any
    if (rngLane dd 0).isNone then trap KIND d
    let k ← x.read0 a
    let c ← x.read0 b
    let r ← eachLane (fun l => orTrap KIND d (rngLane dd (rng k c l))) 0 dd.lanes
    .ok (own x (fun th => th.setLanes d r)))

end Sys2Proof.Machine
end

