-- ==== Sys2Proof/Machine/Lease.lean ====
section
/-!
DEFINITION. Lease extensions (R76, R350, R351): `lease`, which sleeps until the porter of its cluster answers,
LEASE_SERVE, where the porter does, and `lease.rel`.
-/

namespace Sys2Proof.Machine

/-- A lease that is refused before it is asked for (R76, R350). -/
def leaseDenied (base len mode : Nat) : Bool :=
  mode == 1 || mode == 2 || len == 0 || decide (base % 64 ≠ 0) || decide (len % 64 ≠ 0)

/-- lease (R350): the request goes to the porter of the thread's cluster. -/
def execLease (a b : Nat) (s : State) : Host.Outcome State Fault Refusal :=
  issue (.lease a b) s (fun x => do
    let da ← x.check a .int
    if da.lanes < 2 then trap KIND a
    else do
      let v ← x.read a
      let base := v.getD 0 0
      let len := v.getD 1 0
      if leaseDenied base len b then trap LEASEDENY 0
      else .ok (fun t => (waits x .blocked [base, len, b] t).pend .leaseServe [x.c, x.sl]))

/-- Hash input of a LEASE record (R215). -/
def leaseInput (base len mode : Nat) : List Byte := leBytes base 8 ++ leBytes len 8 ++ leBytes mode 1

/-- The free extent entries of a task, from the lowest up. -/
def Task.freeEntries (x : Task) : List Nat := (upFrom 0 16).filter (fun i => (look x.ext i).isNone)

/-- The range overlaps a W or RW range of another live node of the space (R76 code 5, R64). -/
def Part.leaseClash (p : Part) (app space base len : Nat) : Bool :=
  p.live.any (fun m => decide (m.1 ≠ app) && decide (p.space m.2.graph = space) &&
    m.2.desc.ranges.any (fun r => (r.mode == 1 || r.mode == 2) && overlaps r.base r.len base len))

/-- The permissions that a range of a mode needs at its home slices (R49, R72). -/
def modeNeeds (mode : Nat) : List Nat := if mode = 3 then [permRd, permAtom] else if mode = 4 then [permRd, permWr] else [permRd]

/-- The tables deny the porter the walk of a range, or the partition some unit of its runs (R76 code 2, R49). -/
def State.leaseRefused (s : State) (n mode : Nat) (ls : List (Nat × Leaf)) (runs : List PRun) : Bool :=
  let sys := sysMaster s.pkg.num
  ls.any (fun q => q.2.path.any (fun a => !s.mayAccess sys a permRd)) ||
    runs.any (fun r => (modeNeeds mode).any (fun m => !s.mayAccessRun (partMaster s.pkg.num n) r.pa r.len m))

/-- The absent pages of a range are made resident, in order (R73). -/
def Trail.residentAll {s : State} (n die space : Nat) : List (Nat × Leaf) → Trail s → Trail s × Served
  | [], t => (t, .done)
  | (va, _) :: r, t =>
    match t.makeResident n die space va with
    | (t, .done) => Trail.residentAll n die space r t
    | (t, end_) => (t, end_)

/-- The porter's checks in the order of R76; 0 when none fails. `ls` are the leaves of the range as the walk finds them, `runs` its
physical runs once every page of it is resident. (DEDUCED, log 44) -/
def State.leaseCode (s : State) (n : Nat) (p : Part) (x : Task) (space base len mode : Nat) (ls : List (Nat × Leaf)) (runs : List PRun) :
    Nat :=
  if s.leaseRefused n mode ls runs then 2
  else if x.ext.any (fun e => overlaps e.2.vbase e.2.len base len) then 3
  else if x.freeEntries.length < runs.length then 4
  else if mode = 0 && p.leaseClash x.app space base len then 5
  else 0

/-- The porter grants a range whose pages are resident: they are leased, and their runs fill free entries (R74, R76). -/
def Trail.grantLease {s : State} (t : Trail s) (k base len mode : Nat) (ls : List (Nat × Leaf)) : Trail s :=
  match t.1.task? k with
  | none => t
  | some x =>
    forEach t (x.freeEntries.zip (physRuns base len ls)) (fun t e =>
      let pages := leafPages (ls.filter (fun q => decide (e.2.va ≤ q.1) && decide (q.1 < e.2.va + e.2.len)))
      (t.takeLeases pages).modTask k (fun x => { x with
        ext := put x.ext e.1 (extentOf mode 0 base len true e.2), leases := x.leases ++ pages.map (fun a => (a, e.1)) }))

/-- The porter's reply lands in `st`, and the lease retires (R350). -/
def leaseReply {s : State} (x : Ctx) (step : Due) (base len mode code data : Nat) (go : Effect s) : Effect s :=
  x.loggedAt (x.threadRec 6 (porterSource (clusterOf x.c)) code (leaseInput base len mode)) step
    (fun t => own x (fun th => th.replied code data) (go t))

/-- LEASE_SERVE: the porter checks the request over what making its pages resident would give, and answers; only a grant changes
anything (R76). It waits while a frame or a lease of a page must be waited for (R73, R74). (DEDUCED, log 44) -/
def execLeaseServe (s : State) : Host.Outcome State Fault Refusal :=
  event s (fun t => t.resume (s.arg 0) (s.arg 1) (fun x a =>
    match x.i, a with
    | .lease _ _, [base, len, mode] =>
      let reply := fun (code data : Nat) (go : Effect s) => leaseReply x ⟨.leaseServe, s.args⟩ base len mode code data go
      .ok (match x.task with
        | none => reply 1 0 id
        | some k => fun t =>
          match t.1.part? k.part with
          | none => t
          | some p =>
            match look p.live k.app with
            | none => t
            | some m =>
              let die := dieOfCluster (clusterOf x.c)
              let space := p.space m.graph
              if p.halted then t
              else
                match t.1.leavesOf die space base len with
                | none => reply 1 0 id t
                | some ls =>
                  match Trail.residentAll k.part die space ls t with
                  | (_, .waits) => t
                  | (_, .fails r) => reply r 0 id t
                  | (u, .done) =>
                    let ready := (u.1.leavesOf die space base len).getD []
                    let runs := physRuns base len ready
                    let code := u.1.leaseCode k.part p k space base len mode ls runs
                    if code ≠ 0 then reply code 0 id t
                    else if u.1.leaseWaits (leafPages ready) then t
                    else
                      reply 0 (k.freeEntries.headD 0 + runs.length * 16) (fun t =>
                        let t := (Trail.residentAll k.part die space ls t).1
                        (forEach t ready (fun t q => t.cache die space q.1 q.2)).grantLease x.th.task base len mode ready) t)
    | _, _ => .ok id))

/-- The runs of task virtual addresses that an instruction of a thread names. -/
def Ctx.opRuns (x : Ctx) : List (Int × Nat) :=
  let lanes := fun (d a sz off form : Nat) =>
    match x.addresses d a (2 ^ sz) off form with
    | .ok l => l.map (fun p => (p.2, 2 ^ sz))
    | .error _ => []
  let one := fun (a n : Nat) => [(((x.th.lanes x.k.vt a).headD 0 : Int), n)]
  match x.i with
  | .ldx d a sz off | .stx d a sz off => lanes d a sz off 0
  | .ldxv d a sz off | .stxv d a sz off => lanes d a sz off 1
  | .ldg d a sz off | .stg d a sz off => lanes d a sz off 2
  | .amoAdd _ a _ _ _ | .amoAnd _ a _ _ _ | .amoOr _ a _ _ _ | .amoXor _ a _ _ _ | .amoMin _ a _ _ _ | .amoMax _ a _ _ _
  | .amoMinu _ a _ _ _ | .amoMaxu _ a _ _ _ | .amoXchg _ a _ _ _ | .amoCas _ a _ _ _ | .amoIncw _ a _ _ _
  | .amoBfa _ a _ _ _ => one a x.amoSize
  | .amoLd _ a _ _ | .amoSt a _ _ _ => one a x.amoSize
  | .waitwX _ a _ => one a 8
  | _ => []

/-- Another thread of the task is in an instruction, issued and not retired, that touches an extent entry (R351). -/
def Ctx.threadBusy (x : Ctx) (y : Extent) : Bool :=
  x.k.threads.any (fun p => decide (p.1 ≠ x.sl) && decide (p.2.task = x.th.task) &&
    (match p.2.op with
     | some o => ({ x with sl := p.1, th := p.2, i := o.instr, hint := o.hint } : Ctx).opRuns.any (fun r =>
         decide (0 ≤ r.1) && overlaps r.1.toNat r.2 y.vbase y.len)
     | none => false))

/-- Something under way still touches an extent entry of the thread's task: a posted store, a job, or an access of another thread
that has passed its extent check (R351). (DEDUCED, log 44) -/
def Ctx.entryBusy (x : Ctx) (e : Nat) (y : Extent) : Bool :=
  x.k.posted.any (fun p => decide (p.task = x.th.task) && p.entries.contains e) || x.threadBusy y ||
    x.s.jobs.any (fun j => decide (j.2.task = x.th.task) && decide (j.2.state ≠ 3) &&
      (j.2.reads ++ j.2.writes).any (fun r => r.virt && overlaps r.adr r.len y.vbase y.len))

/-- lease.rel (R351, R76). (DEDUCED, log 44) -/
def execLeaseRel (b : Nat) (s : State) : Host.Outcome State Fault Refusal :=
  issue (.leaseRel b) s (fun x =>
    match x.task.bind (fun n => (look n.ext b).map (fun e => (n, e))) with
    | none => trap LEASEDENY b
    | some (n, e) => do
      x.entryEcc b
      if !e.leased then trap LEASEDENY b
      else if x.entryBusy b e then .ok (holds x)
      else
        let r := x.threadRec 6 (porterSource (clusterOf x.c)) 8 (leaseInput e.vbase e.len e.mode)
        .ok (x.logged r (fun t =>
          let t := own x id t
          let t := t.modTask x.th.task (fun n => { n with
            ext := del n.ext b, leases := n.leases.filter (fun q => decide (q.2 ≠ b)) })
          t.dropLeases ((n.leases.filter (fun q => decide (q.2 = b))).map (·.1)))))

end Sys2Proof.Machine
end

