-- ==== Sys2Proof/Machine/Links.lean ====
section
/-!
DEFINITION. Links: CXL ports (R18), the domain and its fabric ports (R21, R22), the die-crossing FIFOs (R12, R25), and what a
replay waits too long for (R223).
-/

namespace Sys2Proof.Machine

/-- CXL_PORT_TRAIN: a port trains to a rate in GT/s and a width that it accepts (R18). (DEDUCED, log 56) -/
def execCxlPortTrain (s : State) : Host.Outcome State Fault Refusal :=
  event s (fun t =>
    let rate := s.arg 1
    let width := s.arg 2
    if s.arg 0 < 8 ∧ (rate = 64 ∨ rate = 32 ∨ rate = 16) ∧ (width = 16 ∨ width = 8 ∨ width = 4) then
      t.modPkg (fun p => { p with cxl := put p.cxl (s.arg 0) (rate, width) })
    else t)

/-! ### The domain (R21) -/

/-- Two packages are joined, or have a common neighbour. -/
def withinTwo (joins : List (Nat × Nat)) (all : List Nat) (a b : Nat) : Bool :=
  let joined := fun x y => joins.any (fun j => j == (x, y) || j == (y, x))
  joined a b || all.any (fun c => joined a c && joined c b)

/-- The first pair of packages that lies farther apart than two hops. -/
def farPair (joins : List (Nat × Nat)) (all : List Nat) : Option (Nat × Nat) :=
  (all.flatMap (fun a => (all.filter (fun b => decide (a < b))).map (fun b => (a, b)))).find? (fun p => !withinTwo joins all p.1 p.2)

/-- DOMAIN_BRINGUP: the number of joins, the joins (one package * 64 + another), and the routing table (destination * 256 +
first candidate port * 16 + second; 12 to 15 is no port). It fails on a pair farther apart than two hops, and reports it
(R21). (DEDUCED, log 55) -/
def execDomainBringup (s : State) : Host.Outcome State Fault Refusal :=
  event s (fun t =>
    let k := s.arg 0
    let joins := ((s.args.drop 1).take k).map (fun j => (j / 64 % 64, j % 64))
    let all := joins.foldl (fun l j => addOnce (addOnce l j.1) j.2) [s.pkg.num]
    let routes := ((s.args.drop (1 + k)).filter (fun r => all.contains (r / 256) && decide (r / 256 ≠ s.pkg.num))).foldl
      (fun (m : Tab (Nat × Nat)) r => put m (r / 256) (r / 16 % 16, r % 16)) []
    match farPair joins all with
    | some p => t.modPkg (fun q => { q with offending := some p })
    | none => t.modPkg (fun q => { q with routes := routes, offending := none }))

/-! ### Fabric ports (R21, R22) -/

/-- A port that has never come up. (DESIGN CHOICE, log 51) -/
def Port.reset : Port := { up := false, retries := 0, frames := [] }

def Trail.modPort {s : State} (t : Trail s) (p : Nat) (f : Port → Port) : Trail s :=
  t.modPkg (fun q => { q with ports := put q.ports p (f (lookD q.ports p .reset)) })

/-- FABRIC_FRAME_RECEIVE: a frame of 8 flits of 16 bytes is taken when its CRC-32C fits, and is otherwise retried (R21, R23). (DESIGN CHOICE, log 54) -/
def execFabricFrameReceive (s : State) : Host.Outcome State Fault Refusal :=
  event s (fun t =>
    let p := s.arg 0
    let bytes := s.args.drop 2
    if !t.1.portUp p then t
    else if bytes.length = 128 ∧ crc32c (bytes.map (BitVec.ofNat 8)) = s.arg 1 then
      t.modPort p (fun x => { x with frames := bytes :: x.frames })
    else t.modPort p (fun x => { x with retries := x.retries + 1 }))

/-- A LINK event of a port (R53). -/
def Trail.postLink {s : State} (t : Trail s) (p code dest : Nat) : Trail s := t.postEvent 0 (portSource p) 6 [code, dest]

/-- A partition addresses a package: by an extent of a task or a prepared node, a run of a courier job, or a page of its
frames (R22). (DEDUCED, log 53) -/
def State.addresses (s : State) (n : Nat) (p : Part) (dest : Nat) : Bool :=
  let far := fun (l : Tab Extent) => l.any (fun e => decide (pkgOf e.2.pbase = dest))
  s.tasks.any (fun x => decide (x.2.part = n) && far x.2.ext) || p.live.any (fun m => far m.2.ext) ||
    s.jobs.any (fun j => p.cores.contains j.2.core && (j.2.reads ++ j.2.writes).any (fun r => r.virt && decide (pkgOf r.phys = dest))) ||
    p.frames.any (fun f => decide (pkgOf f.2.back = dest) || decide (pkgOf f.2.leaf = dest))

/-- A destination without a candidate is a domain error of the fault domains of the partitions that address it: a FAULT
event, and their stop (R22, R38). A partition that is stopped at rung 3 already counts for none. (DEDUCED, log 52; DESIGN CHOICE, log 93) -/
def Trail.domainError {s : State} (t : Trail s) (dest : Nat) : Trail s :=
  let hit := t.1.parts.filter (fun p => t.1.addresses p.1 p.2 dest && decide (p.2.ladder ≠ .dump) &&
    !p.2.queues.any (fun q => decide (q.2.state = 3) && decide (q.2.rung = 3)))
  forEach t (hit.foldl (fun l p => addOnce l p.2.fdom) []) (fun t fd =>
    (t.postDomain fd 4 (List.replicate 8 0 ++ [0xFF, 0, 0, 0, 2, dest])).stopDomain fd)

/-- Destinations without a candidate port that is up. -/
def State.lost (s : State) : List Nat := (s.pkg.routes.map (·.1)).filter (fun d => (s.portTo d).isNone)

/-- FABRIC_LANE_LOSS: a port goes down, its traffic goes to second candidates, and destinations left with none are domain
errors; for a port that is down already, what a request has met is told again (R22). (DEDUCED, log 52) -/
def execFabricLaneLoss (s : State) : Host.Outcome State Fault Refusal :=
  event s (fun t =>
    let p := s.arg 0
    let before := t.1.lost
    let t := if t.1.portUp p then
        let t := (t.modPort p (fun x => { x with up := false })).postLink p 1 0
        forEach t (t.1.lost.filter (fun d => !before.contains d)) (fun t d => t.postLink p 3 d)
      else t
    forEach t t.1.lost (fun t d => t.domainError d))

/-- FABRIC_PORT_UP (R22, R53). -/
def execFabricPortUp (s : State) : Host.Outcome State Fault Refusal :=
  event s (fun t =>
    let p := s.arg 0
    if t.1.portUp p || decide (12 ≤ p) then t else (t.modPort p (fun x => { x with up := true })).postLink p 2 0)

/-! ### Die-crossing FIFOs (R12, R25) -/

/-- A flit that its sender held enters the FIFO once there is an allowance (R25). -/
def Trail.placeFlit {s : State} (t : Trail s) (src hop : Nat) : Trail s :=
  let n := src * 4 + hop
  match lookD t.1.unsent n [] with
  | [] => t
  | q :: r => if t.1.linkAllows src hop then (t.act (.unsent n r)).act (.link n (lookD t.1.links n [] ++ [q])) else t

/-- DIE_LINK_FLIT_DELIVER: the oldest flit of a FIFO is delivered, or goes on to the next die on its way, and its place may be taken
by one that the sender holds; an empty FIFO waits for such a one (R25). -/
def execDieLinkFlitDeliver (s : State) : Host.Outcome State Fault Refusal :=
  event s (fun t =>
    let src := s.arg 0
    let hop := s.arg 1
    let n := src * 4 + hop
    match lookD t.1.links n [] with
    | [] => if (lookD t.1.unsent n []).isEmpty then t else (t.placeFlit src hop).pend .dieLinkFlitDeliver [src, hop]
    | (dst, d) :: r => ((t.act (.link n r)).placeFlit src hop).sendTo hop dst d.step d.args)

/-! ### Replay timeout (R223) -/

/-- A waiting operation has waited too long: its agent diverges (R222, R223). (DEDUCED, log 65) -/
def Trail.waitedTooLong {s : State} (t : Trail s) (n src seq : Nat) (w : Waiter) : Trail s :=
  let t := t.diverged n src seq
  match w with
  | .thread c sl => t.stopSlot c sl (.trap DIVERGE seq none)
  | .step d =>
    match d.thread, d.step with
    | some (c, sl), _ => t.stopSlot c sl (.trap DIVERGE seq none)
    | none, .barrierLineRise =>
      let c := d.args.getD 2 0
      t.stopSlot c ((t.1.core c).barrier (d.args.getD 1 0)).last (.trap DIVERGE seq none)
    | none, _ => t.unitDiverge n src seq

/-- REPLAY_TIMEOUT: an operation has waited at a source for tmo; every operation that waits there diverges (R223). (DEDUCED, log 65) -/
def execReplayTimeout (s : State) : Host.Outcome State Fault Refusal :=
  event s (fun t =>
    let n := s.arg 0
    let src := s.arg 1
    match t.1.part? n with
    | none => t
    | some p =>
      let waiting := p.log.turns.filter (fun w => decide (w.1 = src))
      if !waiting.any (fun w => decide (w.2.key = s.args.drop 2)) then t
      else
        let seq := match t.1.nextRecord p src with | some r => r.1 | none => t.1.recordCount p src + 1
        let t := t.modPart n (fun p => { p with log := { p.log with turns := p.log.turns.filter (fun w => decide (w.1 ≠ src)) } })
        forEach t waiting (fun t w => (t.noTimer .replayTimeout (n :: src :: w.2.key)).waitedTooLong n src seq w.2))

end Sys2Proof.Machine
end

