-- ==== Sys2Proof/Machine/Message.lean ====
section
/-!
DEFINITION. Messages (R117, R118, R347-R349, R391): a send waits for its reply; a delivery goes to a pigeonhole, the
arrival buffer or a started thread, or is refused and leads to a context-free notice.
-/

namespace Sys2Proof.Machine

/-- The address of a message or buffer (R347). (DEDUCED, log 26) -/
def Ctx.msgAddr (x : Ctx) (a : Nat) : Except Stop Nat := do
  let p ← x.read0 a
  if p % 32 ≠ 0 then trap ALIGN p else if !x.inRun p 64 then extent 3 0 p else .ok p

/-- A destination word names nothing that can be sent to (R348, code 5). -/
def Ctx.badDest (x : Ctx) (w : Nat) (start : Bool) : Bool :=
  let core := bits w 8 0
  bits w 63 56 ≠ 0 || bits w 31 20 ≠ 0 || bits w 15 9 ≠ 0 || bits w 19 16 == 15 ||
    (if start then bits w 55 32 % 4 ≠ 0 else bits w 55 32 ≠ 0) ||
    (match x.s.partOfCore core with
     | some n => x.part ≠ some n
     | none => true)

/-- send and sendh at issue (R348): with the words goes the thread's latest record as it stands now (R216). -/
def sendMessage (i : Instr) (a b : Nat) (start : Bool) (s : State) : Host.Outcome State Fault Refusal :=
  issue i s (fun x => do
    let _ ← x.check a .int
    let _ ← x.check b .int
    let p ← x.msgAddr a
    let w ← x.read0 b
    x.runRace p 64 false false
    x.runEcc p 64
    let words := (upFrom 0 8).map (fun j => x.locNum (p + 8 * j) 8)
    .ok (afterStores x (fun t =>
      let after := match x.th.lastRec with | some q => [q.1, q.2] | none => []
      let t := waits x .inFlight (w :: words ++ after) (t.enterRun x p 64 false false)
      if x.badDest w start then t.pend .sendReply [x.c, x.sl, 5]
      else t.sendTo (dieOf x.c) (dieOf (bits w 8 0)) .messageArrive [x.c, x.sl])))

/-- send (R348). -/
def execSend (a b : Nat) (s : State) : Host.Outcome State Fault Refusal := sendMessage (.send a b) a b false s

/-- sendh (R348). -/
def execSendh (a b : Nat) (s : State) : Host.Outcome State Fault Refusal := sendMessage (.sendh a b) a b true s

/-- SEND_REPLY: the reply comes back, and the send retires (R348). -/
def execSendReply (s : State) : Host.Outcome State Fault Refusal :=
  event s (fun t => t.resume (s.arg 0) (s.arg 1) (fun x a =>
    if x.th.status = .inFlight ∧ !a.isEmpty then .ok (own x (fun th => th.released.replied (s.arg 2) 0)) else .ok id))

/-! ### Delivery -/

/-- The bytes of a MSG record's input: sender core, sender slot, message (R215). -/
def msgInput (core slot : Nat) (words : List Nat) : List Byte := leBytes core 2 ++ leBytes slot 1 ++ packWords 8 words

/-- The sender word (R349). -/
def senderWord (core slot : Nat) : Nat := core + slot * 65536

def Trail.modPigeon {s : State} (t : Trail s) (c sl : Nat) (f : Pigeon → Pigeon) : Trail s :=
  t.modCore c (fun k => { k with pigeons := put k.pigeons sl (f (k.pigeon sl)) })

/-- A slot's thread that waits in `recv` looks again (R118). -/
def Trail.wakeRecv {s : State} (t : Trail s) (c sl : Nat) : Trail s :=
  if (t.1.core c).blockedIn sl isRecv then t.modThread c sl Thread.again else t

/-- The reply travels back to the sender. -/
def Trail.replyTo {s : State} (t : Trail s) (rc c sl code : Nat) : Trail s :=
  t.sendTo (dieOf rc) (dieOf c) .sendReply [c, sl, code]

/-- A refusal (R117): counted at the slot, and the sender is listed, once for each refusal, or its own core will give it a notice.
(DESIGN CHOICE, log 101) -/
def Trail.refuse {s : State} (t : Trail s) (rc slot c sl : Nat) : Trail s :=
  let t := t.modPigeon rc slot (fun p => { p with refused := if p.refused = 0xFFFFFFFF then p.refused else p.refused + 1 })
  let t :=
    if (t.1.core rc).refusals.length < 32 then t.modCore rc (fun k => { k with refusals := k.refusals ++ [(c, sl)] })
    else t.timer (dieOf c) true 4096 .refusalSelfNotice [c, sl]
  t.replyTo rc c sl 1

/-- Slot mode: the pigeonhole, or else the arrival buffer, takes the message (R117). -/
def Trail.deliver {s : State} (t : Trail s) (rc slot : Nat) (m : Msg) : Trail s :=
  let k := t.1.core rc
  let t :=
    if (k.pigeon slot).msg.isNone then (t.modPigeon rc slot (fun p => { p with msg := some m })).wakeRecv rc slot
    else t.modCore rc (fun k => { k with arrivals := k.arrivals ++ [(slot, m)] })
  (t.countDelivery rc true).replyTo rc m.core m.slot 0

/-- The lowest free user slot of a core. -/
def Core.freeSlot (k : Core) : Option Nat := (upFrom 0 15).find? (fun sl => (look k.threads sl).isNone)

/-- The names of a handler thread: n0-n7, holding the message (R348). -/
def handlerNames (names : Tab NameSt) (words : List Nat) : Tab NameSt :=
  names.map (fun p => (p.1, { p.2 with fields := p.2.fields.map (fun f => { f with lanes := [words.getD p.1 0] }) }))

/-- Start mode: a thread of the target's task starts at the handler (R117, R348). -/
def Trail.startHandler {s : State} (t : Trail s) (rc slot n handler : Nat) (x : Task) (names : Tab NameSt) (m : Msg) :
    Trail s :=
  let (t, agent) := t.newAgent
  let tids := (t.1.core rc).threads.filterMap (fun p => if p.2.task = n then some p.2.tid.toNat else none)
  let tid := ((upFrom 0 15).find? (fun i => !tids.contains i)).getD 0
  let th := Thread.start n agent (x.code + handler) x.hw tid x.ta rc t.1.pkg.num (x.vc.join m.vc) none
  let th := { th with names := handlerNames names m.words, st := BitVec.ofNat 64 (senderWord m.core m.slot) }
  let t := (t.startThread rc slot th).modTask n (fun x => { x with slots := x.slots ++ [slot] })
  (t.countDelivery rc true).replyTo rc m.core m.slot 0

/-- MESSAGE_ARRIVE: a message reaches its core (R117, R348). -/
def execMessageArrive (s : State) : Host.Outcome State Fault Refusal :=
  event s (fun t =>
    let c := s.arg 0
    let sl := s.arg 1
    match t.1.opCtx? c sl with
    | none => t
    | some (x, a) =>
      let w := a.headD 0
      let rc := bits w 8 0
      let slot := bits w 19 16
      let k := t.1.core rc
      let after := match a.drop 9 with | [src, seq] => some (src, seq) | _ => none
      let m : Msg := { core := c, slot := sl, words := (a.drop 1).take 8, after := after, vc := x.th.vc }
      let start := match x.i with | .sendh _ _ => true | _ => false
      let n := t.1.partOfCore rc
      let step : Waiter := .step ⟨.messageArrive, s.args⟩
      let refuse : Effect s :=
        fun t => t.logged n (t.1.recOf c sl 2 (coreSource rc) 2 (msgInput c sl m.words)) step id (fun q t => (x.diverges q t).settle c sl)
          (fun t => t.refuse rc slot c sl)
      if x.th.status ≠ .inFlight ∨ a.length < 9 then t
      else
        match look k.threads slot with
        | none => t.replyTo rc c sl 3
        | some th =>
          if th.status = .finished then t.replyTo rc c sl 3
          else if !start then
            if (k.pigeon slot).msg.isSome && decide (16 ≤ k.arrivals.length) then refuse t else t.deliver rc slot m
          else
            match t.1.task? th.task with
            | none => t.replyTo rc c sl 3
            | some tk =>
              let h := bits w 55 32
              if tk.codelen ≤ h then t.replyTo rc c sl 4
              else
                match k.freeSlot with
                | none => refuse t
                | some free =>
                  let d : Desc := { width := 64, lanes := 1, kind := .uns, pol := .wrap, win := false }
                  match placePattern free ((upFrom 0 8).map (fun i => (i, d))) (k.occupied free) with
                  | none => refuse t
                  | some names =>
                    let r : Rec := { t.1.recOf rc free 2 (coreSource rc) 1 (msgInput c sl m.words) with after := m.after }
                    t.logged n r step id (fun q t => (x.diverges q t).settle c sl) (fun t =>
                      t.startHandler rc free th.task h tk names m))

/-! ### recv -/

/-- The earliest buffered message for a slot moves into its empty pigeonhole, and a buffer entry frees (R117). -/
def Trail.refill {s : State} (t : Trail s) (c sl : Nat) : Trail s :=
  match takeFirst (fun (p : Nat × Msg) => p.1 == sl) (t.1.core c).arrivals with
  | some ((_, m), r) =>
    ((t.modPigeon c sl (fun p => { p with msg := some m })).modCore c (fun k => { k with arrivals := r })).contextFree c
  | none => t

/-- A `recv` that times out (R349). -/
def timedOut {s : State} (x : Ctx) : Effect s :=
  x.logged (x.threadRec 2 (coreSource x.c) 4 []) (fun t => (own x (fun th => th.replied 2 0) t).noTimer .recvtTimeout [x.c, x.sl])

/-- The course of `recv` and `recvt` (R349): a held message first, then a notice, else it blocks. -/
def receive (i : Instr) (d a : Nat) (b : Option Nat) (s : State) : Host.Outcome State Fault Refusal :=
  issue i s (fun x => do
    let _ ← x.check a .int
    match b with
    | some b => let _ ← x.check b .int
    | none => pure ()
    let dd ← x.check d .any
    let p ← x.msgAddr a
    let tmo ← match b with
      | some b => do
        let v ← x.read0 b
        .ok (some v)
      | none => .ok none
    x.syncBad (0x400 + 8 * x.sl)
    let h := x.k.pigeon x.sl
    let end_ : Effect s := fun t => t.noTimer .recvtTimeout [x.c, x.sl]
    match h.msg with
    | some m =>
      x.runRace p 64 true false
      let v ← x.assignInt dd (senderWord m.core m.slot) 0
      let r : Rec := { x.threadRec 2 (coreSource x.c) 0 (msgInput m.core m.slot m.words) with after := m.after }
      .ok (x.logged r (fun t =>
        let t := (t.enterRun x p 64 true false).localStore x.c (x.runBase + p) (packWords 8 m.words)
        let t := t.setThread x.c x.sl ((((((x.th.acquired m.vc).setLane0 x.k.vt d v).drawn
          (if dd.kind.isFloat then x.mode else .rne) dd.lanes)).replied 0 0).retire (x.th.pc + 4))
        (end_ (t.modPigeon x.c x.sl (fun q => { q with msg := none }))).refill x.c x.sl))
    | none =>
      if 0 < h.notices then
        .ok (fun t => end_ ((own x (fun th => th.replied 1 0) t).modPigeon x.c x.sl (fun q => { q with notices := q.notices - 1 })))
      else
        match tmo with
        | some 0 => .ok (timedOut x)
        | some n =>
          .ok (fun t =>
            let t := waits x .blocked [p] t
            if t.1.timers.any (fun y => decide (y.ev = ⟨.recvtTimeout, [x.c, x.sl]⟩)) then t
            else t.timer (dieOf x.c) true n .recvtTimeout [x.c, x.sl])
        | none => .ok (waits x .blocked [p]))

/-- recv (R349). -/
def execRecv (d a : Nat) (s : State) : Host.Outcome State Fault Refusal := receive (.recv d a) d a none s

/-- recvt (R349). -/
def execRecvt (d a b : Nat) (s : State) : Host.Outcome State Fault Refusal := receive (.recvt d a b) d a (some b) s

/-- RECVT_TIMEOUT: the count has reached the timeout with nothing taken (R349). -/
def execRecvtTimeout (s : State) : Host.Outcome State Fault Refusal :=
  event s (fun t => t.resume (s.arg 0) (s.arg 1) (fun x _ =>
    match x.i with
    | .recvt _ _ _ =>
      if x.th.status = .blocked ∧ !x.th.logWait then
        .ok (fun t => t.logged x.part (x.threadRec 2 (coreSource x.c) 4 []) (.step ⟨.recvtTimeout, [x.c, x.sl]⟩) id
          x.diverges (own x (fun th => th.replied 2 0)))
      else .ok id
    | _ => .ok id))

/-- A context-free notice arrives at a slot of a core (R117, R215 op 3). -/
def noticeAt (s : State) (step : Instr) : Host.Outcome State Fault Refusal :=
  event s (fun t =>
    let c := s.arg 0
    let sl := s.arg 1
    let add : Effect s := fun t => (t.modPigeon c sl (fun p => { p with notices := min (p.notices + 1) 255 })).wakeRecv c sl
    match t.1.thread? c sl with
    | none => add t
    | some _ =>
      t.logged (t.1.partOfCore c) (t.1.recOf c sl 2 (coreSource c) 3 []) (.step ⟨step, [c, sl]⟩) id
        (fun seq t => t.stopSlot c sl (.trap DIVERGE seq none)) add)

/-- CONTEXT_FREE_NOTICE (R117). -/
def execContextFreeNotice (s : State) : Host.Outcome State Fault Refusal := noticeAt s .contextFreeNotice

/-- REFUSAL_SELF_NOTICE: 4,096 clocks after a refusal that the list had no room for (R117). -/
def execRefusalSelfNotice (s : State) : Host.Outcome State Fault Refusal := noticeAt s .refusalSelfNotice

end Sys2Proof.Machine
end

