-- ==== Sys2Proof/Machine/Migration.lean ====
section
/-!
DEFINITION. Migration (R77-R79): a porter handles a notice at the home slice, the courier copies the page to the requesting
die, and the access counters are halved every millisecond.
-/

namespace Sys2Proof.Machine

/-- The counters of a page halved (R77, R79). -/
def Page.halved (p : Page) : Page := { p with counts := p.counts.map (· / 2) }

/-- Home slices that feed the notification queue of a cluster's porter (R77). -/
def feeders (cl : Nat) : List Nat := (upFrom 0 24).filter (fun sl => decide (sl % 16 = cl % 16))

/-- The overflow-pending page of a home slice with the lowest address. -/
def State.pendingPage (s : State) (cl sl : Nat) : Option (Nat × Page) :=
  s.pages.find? (fun p => p.2.overflow && decide (memDie (p.1 * 65536) = some (dieOfCluster cl)) && decide (homeSlice (p.1 * 65536) = sl))

/-- An entry has been freed: each slice that feeds the queue delivers one overflow-pending page while the queue has room
(R78). -/
def Trail.deliverNotices {s : State} (t : Trail s) (cl : Nat) : Trail s :=
  forEach t (feeders cl) (fun t sl =>
    let q := t.1.noticesOf cl
    match t.1.pendingPage cl sl with
    | none => t
    | some (n, p) =>
      if 256 ≤ q.entries.length then t
      else
        ((t.act (.page n { p with overflow := false, queued := true })).act
          (.notices cl { q.push (n * 65536, p.dest) with deferred := q.deferred - 1 })).pend .porterNoticeHandle [cl])

/-- The partition whose frame holds a page, and the frame (R73). -/
def State.frameOf (s : State) (n : Nat) : Option (Nat × Nat × Frame) :=
  s.parts.findSome? (fun p => (p.2.frames.find? (fun f => overlaps f.1 f.2.size (n * 65536) 65536)).map (fun f => (p.1, f.1, f.2)))

/-- The 64 KiB pages of a frame. (DEDUCED, log 60) -/
def framePages (base : Nat) (f : Frame) : List Nat := upFrom (pageOf base) (f.size / 65536)

/-- A page stays where it is: its counters are halved, and it may send a notice again (R79). -/
def Trail.stays {s : State} (t : Trail s) (n : Nat) : Trail s := t.modPage n (fun p => { p.halved with queued := false })

/-- PORTER_NOTICE_HANDLE: the porter frees the head of its queue and handles its notice: a page that no lease covers, in a
frame of a partition, begins to move (R78, R79). (DEDUCED, log 60) -/
def execPorterNoticeHandle (s : State) : Host.Outcome State Fault Refusal :=
  event s (fun t =>
    let cl := s.arg 0
    let q := t.1.noticesOf cl
    match q.entries with
    | [] => t
    | (a, die) :: _ =>
      let t := (t.act (.notices cl q.pop)).deliverNotices cl
      let n := pageOf a
      match t.1.frameOf n with
      | none => t.stays n
      | some (_, base, f) =>
        if t.1.frameLeased base f.size then t.stays n
        else
          (forEach t (framePages base f) (fun t k => t.modPage k (fun p => { p with moving := true, dest := die }))).pend
            .migrationCopyDone [n])

/-- The counters, the queued bit and the moving bit of a frame's pages are cleared, and what waits to lease them goes on
(R74, R79). -/
def Trail.moveEnds {s : State} (t : Trail s) (pages : List Nat) (n : Nat) (moved : Bool) : Trail s :=
  let t := forEach t pages (fun t k => t.modPage k (fun p =>
    if moved then { p with counts := [0, 0, 0, 0, 0], queued := p.queued && decide (k ≠ n), moving := false } else { p with moving := false }))
  (if moved then t else t.stays n).pokeLeases

/-- Releases that the words of a run carry move with their values (R182). -/
def Trail.moveHeads {s : State} (t : Trail s) (src dst len : Nat) : Trail s :=
  forEach t (t.1.heads.filter (fun h => decide (src ≤ h.1 * 4) && decide (h.1 * 4 < src + len) && !h.2.isEmpty)) (fun t h =>
    t.act (.heads ((h.1 * 4 - src + dst) / 4) h.2))

/-- MIGRATION_COPY_DONE: the page stands in a frame on the requesting die, its leaf leads there, no die has a stale
translation, and the old frame is free; without room for the frame the page stays (R79, R71). (DEDUCED, log 60) -/
def execMigrationCopyDone (s : State) : Host.Outcome State Fault Refusal :=
  event s (fun t =>
    let n := s.arg 0
    let die := (t.1.page n).dest
    if !(t.1.page n).moving then t
    else
      match t.1.frameOf n with
      | none => t.moveEnds [n] n true
      | some (part, base, f) =>
        let pages := framePages base f
        match Trail.makeRoom part f.size (match t.1.part? part with | some p => p.frames.length + 1 | none => 0) t with
        | (t, .waits) | (t, .fails _) => t.moveEnds pages n false
        | (t, .done) =>
          match t.1.chooseFrame die f.size with
          | none => t.moveEnds pages n false
          | some g =>
            let sys := sysMaster t.1.pkg.num
            if !t.1.mayAccessRun sys base f.size permRd || !t.1.mayAccessRun sys g f.size permWr || !t.1.mayAccess sys f.leaf permWr ||
                (t.1.memBad base f.size).isSome then t.moveEnds pages n false
            else
              let t := t.act (.frameChoice (t.1.frameChoice.drop 1))
              let t := (t.memStore g (t.1.mem.bytes base f.size)).moveHeads base g f.size
              let t := t.putLeaf f.leaf (residentWord (t.1.mem.read f.leaf 8) g) (t.1.mem.read (f.leaf + 8) 8)
              let t := t.dropCached (fun e => decide (e.leaf = f.leaf))
              let t := t.modPart part (fun p => { p with frames := put (del p.frames base) g f })
              t.moveEnds pages n true)

/-- COUNTER_HALVE: the home slices of a die halve their counters, every 1 ms of its `cw.etime` (R77). -/
def execCounterHalve (s : State) : Host.Outcome State Fault Refusal :=
  event s (fun t =>
    let d := s.arg 0
    let mine := t.1.pages.filter (fun p => decide (memDie (p.1 * 65536) = some d))
    (forEach t mine (fun t p => t.modPage p.1 Page.halved)).timer d false (1000 * etimePerUs) .counterHalve [d])

end Sys2Proof.Machine
end

