-- ==== Sys2Proof/Machine/Power.lean ====
section
/-!
DEFINITION. Power and temperature (R30, R81): the controller's samples, its holds of dies below their stewards' targets, the
admission limits, the thermal trip; and the patrol scrub that finds errors (R17, R198, R199).
-/

namespace Sys2Proof.Machine

/-- A POWER event of a die's power controller (R53). (DEDUCED, log 59) -/
def Trail.postPower {s : State} (t : Trail s) (d code : Nat) : Trail s :=
  let x := t.1.die d
  t.postEvent 0 (powerSource d) 5 [code, x.step, x.admission]

/-- The package's clocks stop and a thermal trip is reported (R30). -/
def Trail.trip {s : State} (t : Trail s) (d : Nat) : Trail s :=
  if t.1.pkg.tripped then t else (t.postPower d 5).modPkg (fun p => { p with tripped := true })

/-- A thermal hold begins at 105 °C and ends below 100 °C; a die that it leaves below its target is held by the power limit
until it has been raised (R30). (DEDUCED, log 57; DEDUCED, log 59) -/
def Trail.thermal {s : State} (t : Trail s) (d temp : Nat) : Trail s :=
  let x := t.1.die d
  if !x.thermalHold && decide (105 ≤ temp) then (t.modDie d (fun x => { x with thermalHold := true })).postPower d 3
  else if x.thermalHold && decide (temp < 100) then
    let t := (t.modDie d (fun x => { x with thermalHold := false })).postPower d 4
    if x.step < x.target && !x.powerHold then (t.modDie d (fun x => { x with powerHold := true })).postPower d 1 else t
  else t

/-- A die in a thermal hold goes to step 0 (R30). -/
def Trail.cool {s : State} (t : Trail s) (d : Nat) : Trail s :=
  let x := t.1.die d
  if x.thermalHold && !x.changing && decide (x.step ≠ 0) then t.beginChange d 0 else t

/-- A die that has come back to its steward's target is held no more (R30, R53). (DEDUCED, log 59) -/
def Trail.released {s : State} (t : Trail s) (d : Nat) : Trail s :=
  let x := t.1.die d
  if x.powerHold && !x.changing && decide (x.target ≤ x.step) then (t.modDie d (fun x => { x with powerHold := false })).postPower d 2
  else t

/-- The first die that a test accepts and whose step no other accepted die's beats. (DEDUCED, log 58) -/
def State.pickDie (s : State) (p : Nat → Die → Bool) (beats : Nat → Nat → Bool) : Option Nat :=
  let l := [0, 1, 2, 3].filter (fun d => p d (s.die d))
  l.find? (fun d => l.all (fun e => !beats (s.die e).step (s.die d).step))

/-- Over the limit: the highest-stepped die is lowered by one step, and a die at step 0 loses admission (R30, R81). (DEDUCED, log 58) -/
def Trail.overLimit {s : State} (t : Trail s) : Trail s :=
  let low := [0, 1, 2, 3].filter (fun d => decide ((t.1.die d).step = 0))
  let t := match t.1.pickDie (fun _ x => !x.changing && decide (x.step ≠ 0)) (fun a b => decide (b < a)) with
    | some d =>
      let x := t.1.die d
      let t := if x.powerHold then t else (t.modDie d (fun x => { x with powerHold := true })).postPower d 1
      t.beginChange d (x.step - 1)
    | none => t
  forEach t low (fun t d => t.modDie d (fun x => { x with admission := x.admission - 8 }))

/-- Well under the limit: a die held below its target is raised by one step, and admission rises (R30, R81). (DEDUCED, log 58) -/
def Trail.underLimit {s : State} (t : Trail s) : Trail s :=
  let t := match t.1.pickDie (fun _ x => x.powerHold && !x.thermalHold && !x.changing && decide (x.step < x.target))
      (fun a b => decide (a < b)) with
    | some d => t.beginChange d ((t.1.die d).step + 1)
    | none => t
  forEach t [0, 1, 2, 3] (fun t d => (t.modDie d (fun x => { x with admission := min 128 (x.admission + 8) })).pokeStarts d)

/-- The power limit that PF0 has written comes into use (R33). -/
def HostSt.limitInUse (h : HostSt) : HostSt := { h with powerLimit := h.powerNext.getD h.powerLimit, powerNext := none }

/-- POWER_SAMPLE: the sampled power, the power projected at a higher step, and the temperature of each die (R30, R81). (DEDUCED, log 57; DEDUCED, log 58) -/
def execPowerSample (s : State) : Host.Outcome State Fault Refusal :=
  event s (fun t =>
    let temps := (upFrom 0 4).map (fun d => (d, s.arg (2 + d)))
    if !t.1.pkg.verified.contains 3 then t
    else
      let t := t.modHost HostSt.limitInUse
      match temps.find? (fun p => decide (115 ≤ p.2)) with
      | some p => t.trip p.1
      | none =>
        let t := forEach t temps (fun t p => ((t.thermal p.1 p.2).cool p.1).released p.1)
        let limit := t.1.host.powerLimit
        if limit < s.arg 0 then t.overLimit
        else if s.arg 1 * 100 < limit * 95 then t.underLimit
        else t)

/-- THERMAL_TRIP: a die reads 115 °C (R30). (DEDUCED, log 57) -/
def execThermalTrip (s : State) : Host.Outcome State Fault Refusal := event s (fun t => t.trip (s.arg 0))

/-! ### Errors (R17, R198, R199) -/

/-- What corrected errors of a unit are counted under: a home slice of device memory, or a core's unit. (DESIGN CHOICE, log 36; DEDUCED, log 37) -/
def errorKey (unit core place : Nat) : Nat :=
  if unit = 0 then (memDie (place * 32)).getD 0 * 24 + homeSlice (place * 32) else unit * 512 + core

/-- PATROL_SCRUB: a word of a unit of a core is read. One wrong bit (found 1) is corrected and counted; an error that cannot
be corrected (found 2) stays for what reads the word, and in a steward's own rows it restarts the stewards (R198, R199). (DEDUCED, log 34; DESIGN CHOICE, log 36) -/
def execPatrolScrub (s : State) : Host.Outcome State Fault Refusal :=
  event s (fun t =>
    let unit := s.arg 0
    let core := s.arg 1
    let place := s.arg 2
    let key := errorKey unit core place
    match s.arg 3 with
    | 1 => t.act (.errors t.1.bad (put t.1.corrected key (lookD t.1.corrected key 0 + 1)))
    | 2 =>
      let t := if t.1.bad.contains (unit, core, place) then t else t.act (.errors (t.1.bad ++ [(unit, core, place)]) t.1.corrected)
      if unit = 1 ∧ 992 * 8 ≤ place then t.beginRestart (dieOf core) else t
    | _ => t)

end Sys2Proof.Machine
end

