-- ==== Sys2Proof/Machine/Stream.lean ====
section
/-!
DEFINITION. The stream instructions (R320-R328). One that passes its checks enters its granules into the histories,
leaves the rotation with its operands read, and waits for the core's stream unit, which runs one at a time (R323).
-/

namespace Sys2Proof.Machine

/-- A run of local bytes that an instruction of its own kind uses lies in the task's local run; an empty one does (R322). (DEDUCED, log 26; DEDUCED, log 73) -/
def Ctx.extentCheck (x : Ctx) (a len : Nat) : Except Stop Unit :=
  if len = 0 || x.inRun a len then .ok () else extent 3 0 a

/-- The checks over a name's format: f32 or f64, a lane count, no trap policy (R321). -/
def streamFloat (d : Desc) (lanes : Nat) : Bool :=
  (decide (d.kind = .f32) || decide (d.kind = .f64)) && decide (d.lanes = lanes) && decide (d.pol ≠ .trap)

/-- What a stream instruction does with its second address: alignment, bytes read there, bytes written there, and
whether what it writes may not overlap the source unless identical. -/
structure StreamUse where
  align : Nat
  reads : Nat
  writes : Nat
  apart : Bool
  deriving DecidableEq, Repr

/-- A stream instruction joins the queue of the core's stream unit. -/
def Trail.streamEnter {s : State} (t : Trail s) (x : Ctx) (args : List Nat) : Trail s :=
  let first := (t.1.core x.c).streamQ.isEmpty
  let op : Op := { instr := x.i, pc := x.th.pc, hint := x.hint, args := args }
  let t := waits x .out args (t.modCore x.c (fun k =>
    { k with streamQ := k.streamQ ++ [{ slot := x.sl, op := op, started := false, retried := false }] }))
  if first then t.pend .streamStart [x.c] else t

/-- The course of a stream instruction at issue (R320-R322): `two` asks for two lanes of a, `dOk` is the rule for d, and
`use` gives its use of ys for a count n and d. -/
def streamIssue (i : Instr) (d a b : Nat) (two : Bool) (dOk : Desc → Bool) (use : Nat → Desc → StreamUse) (s : State) :
    Host.Outcome State Fault Refusal :=
  issue i s (fun x => do
    let da ← x.check a .int
    let _ ← x.check b .int
    let dd ← x.check d .any
    if two && decide (da.lanes < 2) then trap KIND a
    else if !dOk dd then trap KIND d
    else
      let va ← x.read a
      let n ← x.read0 b
      let vd ← match i with | .vsoft _ _ _ => x.read d | _ => .ok []
      let xs := va.headD 0
      let ys := va.getD 1 0
      let u := use n dd
      if xs % 4 ≠ 0 then trap ALIGN xs
      else if ys % u.align ≠ 0 then trap ALIGN ys
      else if u.apart && overlaps ys u.writes xs (4 * n) && !(ys == xs && u.writes == 4 * n) then trap ALIGN ys
      else
        x.extentCheck xs (4 * n)
        x.extentCheck ys (u.reads + u.writes)
        let g := fun p len => if len = 0 then [] else granules (x.runBase + p) len
        let rd := (g xs (4 * n) ++ g ys u.reads).map Loc.gran
        let wr := (g ys u.writes).map Loc.gran
        if x.steward then .ok (fun t => t.streamEnter x ([xs, ys, n] ++ vd))
        else
          x.raceCheck false false (rd.map (fun l => (0, l)))
          x.raceCheck true false (wr.map (fun l => (0, l)))
          .ok (fun t => ((t.enterAll x false false rd).enterAll x true false wr).streamEnter x ([xs, ys, n] ++ vd)))

/-- vtopk (R327): it ranks at completion. -/
def execVtopk (d a b : Nat) (s : State) : Host.Outcome State Fault Refusal :=
  streamIssue (.vtopk d a b) d a b true (fun e => e.kind.isInt)
    (fun _ e => { align := 4, reads := 0, writes := 4 * e.lanes, apart := false }) s

/-- vsmax (R325). -/
def execVsmax (d a b : Nat) (s : State) : Host.Outcome State Fault Refusal :=
  streamIssue (.vsmax d a b) d a b false (fun e => streamFloat e 2)
    (fun _ _ => { align := 1, reads := 0, writes := 0, apart := false }) s

/-- vsoft (R325). -/
def execVsoft (d a b : Nat) (s : State) : Host.Outcome State Fault Refusal :=
  streamIssue (.vsoft d a b) d a b true (fun e => streamFloat e 2)
    (fun n _ => { align := 4, reads := 0, writes := 4 * n, apart := true }) s

/-- vsamp (R326). -/
def execVsamp (d a b : Nat) (s : State) : Host.Outcome State Fault Refusal :=
  streamIssue (.vsamp d a b) d a b true (fun e => e.kind.isInt)
    (fun _ _ => { align := 16, reads := 16, writes := 0, apart := false }) s

/-- vscan (R328). -/
def execVscan (d a b : Nat) (s : State) : Host.Outcome State Fault Refusal :=
  streamIssue (.vscan d a b) d a b true (fun e => streamFloat e 1)
    (fun n e => { align := e.width / 8, reads := 0, writes := e.width / 8 * n, apart := true }) s

/-! ### Results -/

/-- A binary64 sum rounded rne. -/
def sum64 (x y : FVal) : FVal := rne64 (FVal.add false x y)

/-- The exponential of a difference, each step in binary64. -/
def expDiff (x y : FVal) : FVal := exp64 (sum64 x y.neg)

/-- Equal under the ranking of R150. -/
def FVal.same (x y : FVal) : Bool := !x.isNan && !y.isNan && !x.below y && !y.below x

/-- One element of `vsmax` (R325): maximum, sum, and whether an element has been seen. -/
def smaxStep (acc : FVal × FVal × Bool) (x : FVal) : FVal × FVal × Bool :=
  let (m, e, seen) := acc
  if x.isNan then (m, e, seen)
  else if x.same m then (m, sum64 e (FVal.ofInt 1), true)
  else if m.below x then (x, sum64 (rne64 (e.mul (expDiff m x))) (FVal.ofInt 1), true)
  else (m, sum64 e (expDiff x m), true)

/-- The maximum and the sum of exponentials of a vector (R325). -/
def smax (xs : List FVal) : FVal × FVal :=
  let (m, e, seen) := xs.foldl smaxStep (.inf true, .num false 0 1, false)
  (if seen then m else .nan, e)

/-- A value that is positive and finite. -/
def FVal.posFinite : FVal → Bool
  | .num false n _ => decide (n ≠ 0)
  | _ => false

/-- An f32 bit string of a value, rounded rne with no policy (R325). -/
def f32Bits (v : FVal) : Nat := (fmtF32.fit .rne 0 .wrap v).getD 0

/-- One probability of `vsoft`. -/
def softLane (m e x : FVal) : Nat :=
  if x.isNan || !e.posFinite || m.isNan then 0
  else f32Bits (rne64 (FVal.div (if x.same m then FVal.ofInt 1 else expDiff x m) e))

/-- The non-NaN elements of a vector with their indices. -/
def present (xs : List FVal) : List (Nat × FVal) := ((upFrom 0 xs.length).zip xs).filter (fun p => !p.2.isNan)

/-- A binary64 sum of weights in the order of a list. -/
def weigh (l : List (Nat × FVal)) : FVal := l.foldl (fun acc p => sum64 acc p.2) (.num false 0 1)

/-- The elements whose weights ranked before sum to less than a limit. -/
def below64 (lim : FVal) (ranked : List (Nat × FVal)) (all : List (Nat × FVal)) : List (Nat × FVal) :=
  (((upFrom 0 ranked.length).zip ranked).filter (fun p =>
    let before := (ranked.take p.1).map (·.1)
    (weigh (all.filter (fun q => before.contains q.1))).lt lim)).map (·.2)

/-- The first index at which the running sum of weights passes t, else the last. -/
def walk (t : FVal) : List (Nat × FVal) → FVal → Nat → Nat
  | [], _, r => r
  | (i, w) :: rest, c, _ =>
    let c := sum64 c w
    if t.lt c then i else walk t rest c i

/-- The index that `vsamp` draws, or nothing when no element is present (R326). -/
def sampleIndex (xs : List FVal) (tm p u : FVal) : Option Nat :=
  let k := present xs
  if k.isEmpty then none
  else
    let m := (k.map (·.2)).foldl FVal.most .nan
    let greedy := match tm with
      | .num false n _ => decide (n = 0)
      | _ => true
    if greedy then (k.find? (fun q => q.2.same m)).map (·.1)
    else
      let w := k.map (fun q =>
        (q.1, if q.2.same m then FVal.ofInt 1 else exp64 (rne64 (FVal.div (sum64 q.2 m.neg) tm))))
      let ranked := sortBy (fun a b => b.2.lt a.2) w
      let nuc :=
        if !(FVal.num false 0 1).lt p then ranked.take 1
        else if !p.lt (FVal.ofInt 1) then w
        else below64 (rne64 (p.mul (weigh w))) ranked w
      let nuc := sortBy (fun a b => decide (a.1 < b.1)) nuc
      let u := if u.isNan || u.lt (.num false 0 1) then .num false 0 1
        else if !u.lt (FVal.ofInt 1) then .num false (2 ^ 24 - 1) (2 ^ 24) else u
      some (walk (rne64 (u.mul (weigh nuc))) nuc (.num false 0 1) 0)

/-- The ranked elements of `vtopk` (R327). -/
def topRank (xs : List FVal) : List (Nat × FVal) := sortBy (fun a b => b.2.below a.2) (present xs)

/-- The running sums of `vscan` (R328). -/
def scanSums : List FVal → FVal → List FVal
  | [], _ => []
  | x :: r, y => let y := sum64 y x; y :: scanSums r y

/-- The f32 words of a vector. -/
def Ctx.vector (x : Ctx) (xs n : Nat) : List Nat := (upFrom 0 n).map (fun i => x.locNum (xs + 4 * i) 4)

/-- Elements before the first that has an uncorrectable error, and that error's `cw.eval` (R324). -/
def Ctx.vectorBad (x : Ctx) (xs n : Nat) : Option (Nat × Nat) :=
  match (upFrom 0 n).find? (fun i => (x.localBad (x.runBase + xs + 4 * i) 4).isSome) with
  | some i => (x.localBad (x.runBase + xs + 4 * i) 4).map (fun v => (i, v))
  | none => none

/-- A float result as a bit string of a name that has no trap policy. -/
def streamFit (d : Desc) (v : FVal) : Nat :=
  match d.kind.fmt? with
  | some f => (f.fit .rne 0 d.pol v).getD 0
  | none => 0

/-- The all-ones string of an integer name. -/
def Desc.ones (d : Desc) : Nat := 2 ^ d.width - 1

/-- The outputs a stream instruction has at ys, element by element, before it writes any name (R325, R328). -/
def streamOutputs (i : Instr) (dd : Desc) (vd : List Nat) (els : List FVal) : List Byte :=
  match i with
  | .vsoft _ _ _ => packWords 4 (els.map (softLane (flt dd (vd.headD 0)) (flt dd (vd.getD 1 0))))
  | .vscan _ _ _ => packWords (dd.width / 8) ((scanSums els (.num false 0 1)).map (streamFit dd))
  | _ => []

/-- What a stream instruction writes when it completes: bytes at ys, and the lanes of a name. -/
def streamResult (x : Ctx) (dd : Desc) (vd words : List Nat) (ys : Nat) :
    Except Stop (List Byte × Option (Nat × List Nat)) :=
  let els := words.map fmtF32.value
  match x.i with
  | .vtopk d _ _ => do
    let top := topRank els
    let r ← eachLane (fun j => match top[j]? with
      | some p => orTrap OVF j (fitInt dd p.1)
      | none => .ok dd.ones) 0 dd.lanes
    .ok (packWords 4 ((upFrom 0 dd.lanes).map (fun j => match top[j]? with
      | some p => words.getD p.1 0
      | none => fmtF32.nanBits)), some (d, r))
  | .vsmax d _ _ => let p := smax els; .ok ([], some (d, [streamFit dd p.1, streamFit dd p.2]))
  | .vsamp d _ _ => do
    let f := fun o => fmtF32.value (x.locNum (ys + o) 4)
    let r ← match sampleIndex els (f 0) (f 4) (f 8) with
      | some r => orTrap OVF 0 (fitInt dd r)
      | none => .ok dd.ones
    .ok ([], some (d, List.replicate dd.lanes r))
  | .vscan d _ _ =>
    .ok (streamOutputs x.i dd vd els, some (d, [streamFit dd ((scanSums els (.num false 0 1)).getLastD (.num false 0 1))]))
  | i => .ok (streamOutputs i dd vd els, none)

/-- The name that a stream instruction's format comes from. -/
def streamName : Instr → Nat
  | .vtopk d _ _ | .vsmax d _ _ | .vsoft d _ _ | .vsamp d _ _ | .vscan d _ _ => d
  | _ => 56

/-- A stream instruction completes: results written whole, or the stop of R324 after the outputs that preceded it. -/
def Trail.streamFinish {s : State} (t : Trail s) (c sl : Nat) : Trail s :=
  match t.1.opCtx? c sl with
  | none => t
  | some (x, args) =>
    let xs := args.getD 0 0
    let ys := args.getD 1 0
    let n := args.getD 2 0
    let vd := args.drop 3
    let dd := (x.th.desc? (streamName x.i)).getD fixedDesc
    let words := x.vector xs n
    match x.vectorBad xs n with
    | some (i, v) =>
      (t.localStore c (x.runBase + ys) (streamOutputs x.i dd vd ((words.take i).map fmtF32.value))).resume c sl
        (fun _ _ => trap ECCU v)
    | none =>
      t.resume c sl (fun x _ => do
        x.runEcc ys (match x.i with | .vsamp _ _ _ => 16 | _ => 0)
        let (bs, r) ← streamResult x dd vd words ys
        .ok (fun t => (t.localStore c (x.runBase + ys) bs).setThread c sl
          ((match r with | some (d, v) => x.th.setLanes d v | none => x.th).retire (x.th.pc + 4))))

/-- STREAM_START: the head of the queue enters the unit (R323). -/
def execStreamStart (s : State) : Host.Outcome State Fault Refusal :=
  event s (fun t =>
    let c := s.arg 0
    match (t.1.core c).streamQ with
    | e :: r =>
      if e.started then t
      else (t.modCore c (fun k => { k with streamQ := { e with started := true } :: r })).pend .streamComplete [c]
    | [] => t)

/-- STREAM_COMPLETE: the instruction in the unit completes, and the next may start (R323). -/
def execStreamComplete (s : State) : Host.Outcome State Fault Refusal :=
  event s (fun t =>
    let c := s.arg 0
    match (t.1.core c).streamQ with
    | e :: r =>
      if e.started then
        let t := ((t.streamFinish c e.slot).modCore c (fun k => { k with streamQ := r })).settle c e.slot
        if r.isEmpty then t else t.pend .streamStart [c]
      else t
    | [] => t)

end Sys2Proof.Machine
end

