-- ==== Sys2Proof/Machine/Submission.lean ====
section
/-!
DEFINITION. Submission (R43, R44): rings enter a die's FIFO, and its stewards handle them from the head.
-/

namespace Sys2Proof.Machine

/-- SUBMISSION_WRITE: a ring enters the FIFO of a die, or finds it full and is counted (R43). -/
def execSubmissionWrite (s : State) : Host.Outcome State Fault Refusal :=
  hostWrite s (fun t =>
    let d := s.arg 1 % 4
    let x := t.1.die d
    if 64 ≤ x.fifo.length then t.modDie d (fun x => { x with drops := countUp x.drops })
    else ((t.modDie d (fun x => { x with fifo := x.fifo ++ [(s.arg 0, s.arg 2 % 2 ^ 64)] })).pendOnce .submissionHandle [d]).wakeDie d)

/-- The FIFO head is popped, and the next is handled (R44 step 5). -/
def Trail.popRing {s : State} (t : Trail s) (d : Nat) : Trail s :=
  let t := t.modDie d (fun x => { x with fifo := x.fifo.drop 1 })
  if (t.1.die d).fifo.isEmpty then t else t.pendOnce .submissionHandle [d]

/-- Steps 1 to 5 of R44 for a ring of a queue; the record it offers next is taken in a step of its own. -/
def Trail.handleRing {s : State} (t : Trail s) (d seq n i : Nat) (q : Queue) : Trail s :=
  let k := (seq + 2 ^ 32 - q.taken) % 2 ^ 32
  if k = 0 ∨ 2 ^ 31 ≤ k then t.popRing d
  else if q.entries < k then (t.modQueue n i (fun q => { q with overrun := true })).popRing d
  else if (t.1.nextLaunch q).seq ≠ (q.taken + 1) % 2 ^ 32 then (t.modQueue n i (fun q => { q with stale := true })).popRing d
  else t.pendOnce .recordAccept [n, i]

/-- SUBMISSION_HANDLE: the stewards of a die handle the head of its FIFO: it is rejected, or handled by R44 (R43). (DESIGN CHOICE, log 12) -/
def execSubmissionHandle (s : State) : Host.Outcome State Fault Refusal :=
  event s (fun t =>
    let d := s.arg 0
    let x := t.1.die d
    if !t.1.pkg.runs || x.restart then t
    else
      match x.fifo with
      | [] => t
      | (fn, v) :: _ =>
        match t.1.queue? (v % 65536) with
        | none => (t.reject d).popRing d
        | some (n, _, i, q) =>
          if bits v 31 16 ≠ 0 ∨ dieOfCluster n ≠ d ∨ q.state = 4 ∨ q.owner ≠ fn then (t.reject d).popRing d
          else t.handleRing d (v / 2 ^ 32) n i q)

end Sys2Proof.Machine
end

