-- ==== Sys2Proof/Machine/System.lean ====
section
/-!
DEFINITION. System instructions (R379-R386): traps and the services of `scall` (R193), control words (R274, R383, R384), `brk`,
the steward's `eret` and `halt`; and the steward's service of the trap queue (R192, R194, R237-R239).
-/

namespace Sys2Proof.Machine

/-! ### Control words (R274) -/

/-- `cw.slotcls` (R245). -/
def Thread.classWord (th : Thread) : Nat :=
  th.clsVacant.toNat * 2 ^ 48 + th.clsMessage.toNat * 2 ^ 32 + th.clsMemory.toNat * 2 ^ 16 + th.clsIssued.toNat

/-- `cw.ready` (R246). -/
def Core.readyWord (k : Core) : Nat :=
  k.readyFour.toNat * 2 ^ 48 + k.readyTwo.toNat * 2 ^ 32 + k.readyOne.toNat * 2 ^ 16 + k.readyNone.toNat

/-- `cw.flitsz` (R23). -/
def flitWord : Nat := 0x081020

/-- `cw.logmode` (R384). -/
def State.logModeWord (s : State) (n : Option Nat) : Nat :=
  match n.bind s.part? with
  | some p =>
    p.mode * 2 ^ 13 + p.logpol * 2 ^ 12 +
      (if p.mode = 1 then p.log.flags % 64 else if p.mode = 2 then s.mem.read (p.logbase + 20) 4 % 64 else 0)
  | none => 0

/-- A control word that each thread has; nothing for a word of the core or die. -/
def Thread.ownWord (th : Thread) : Nat → Option Nat
  | 0 => some th.cause.toNat
  | 1 => some th.epc.toNat
  | 2 => some th.eval.toNat
  | 3 => some th.mapWord
  | 9 => some th.race.toNat
  | 12 => some th.classWord
  | _ => none

/-- A control word of the core, die or package. -/
def Ctx.sharedWord (x : Ctx) (n : Nat) : Nat :=
  let d := x.s.die (dieOf x.c)
  match n with
  | 4 => d.cyc.toNat
  | 5 => d.etime.toNat
  | 6 => d.freqWord
  | 7 => x.k.vt.toNat
  | 8 => x.k.horizon
  | 10 => x.s.logModeWord (if x.steward then x.s.partOfCore x.c else x.part)
  | 11 => flitWord
  | 13 => x.k.readyWord
  | _ => 0

/-- The thread that a slot field names: 0 the executing thread, s + 1 the thread of slot s. -/
def Ctx.named (x : Ctx) (a : Nat) : Option Thread := if a = 0 then some x.th else look x.k.threads (a - 1)

/-- A control word as `cwr` reads it (R383); the spec states none for a slot without a thread. (DESIGN CHOICE, log 20) -/
def Ctx.controlWord (x : Ctx) (n a : Nat) : Nat :=
  match x.th.ownWord n with
  | none => x.sharedWord n
  | some _ => (match x.named a with | some th => (th.ownWord n).getD 0 | none => Config.vacantWord x.s.tick n % 2 ^ 64)

/-- Words whose read sets timeread (R217). -/
def timeWord (n : Nat) : Bool := n == 4 || n == 5 || n == 6 || n == 8 || n == 12 || n == 13

/-- cwr (R383). -/
def execCwr (d a b : Nat) (s : State) : Host.Outcome State Fault Refusal :=
  issue (.cwr d a b) s (fun x => do
    let dd ← x.check d .any
    let r ← x.assignAll dd (x.controlWord b a)
    .ok (fun t =>
      let t := own x (x.assigned dd d r) t
      match x.part, timeWord b with
      | some n, true => t.logFlag n flagTimeRead
      | _, _ => t))

/-- The fields of `cw.cause` that are not zero fields (R4, R190). -/
def causeFields (v : Nat) : Nat := bitAt (bit v 31) 31 + bitAt (bit v 16) 16 + v % 2 ^ 14

/-- A thread whose `cw.cause`, `cw.epc` or `cw.eval` the steward writes (R383); zero fields stay zero (R4). -/
def Thread.withWord (th : Thread) (n v : Nat) : Thread :=
  match n with
  | 0 => { th with cause := BitVec.ofNat 64 (causeFields v) }
  | 1 => { th with epc := BitVec.ofNat 64 (v % 2 ^ 56) }
  | 2 => { th with eval := BitVec.ofNat 64 v }
  | _ => th

/-- cww: by the steward alone (R383). (DESIGN CHOICE, log 20; DEDUCED, log 46) -/
def execCww (d a b : Nat) (s : State) : Host.Outcome State Fault Refusal :=
  issue (.cww d a b) s (fun x => do
    let _ ← x.check a .int
    let v ← x.read0 a
    .ok (fun t =>
      if b = 6 then (own x id t).writeStep (dieOf x.c) (bits v 18 16)
      else if b ≤ 2 ∧ d = 0 then own x (fun th => th.withWord b v) t
      else if b ≤ 2 then (own x id t).modThread x.c (d - 1) (fun th => th.withWord b v)
      else own x id t))

/-! ### Traps and their services (R193, R380, R381) -/

/-- trap (R380). -/
def execTrap (a b : Nat) (s : State) : Host.Outcome State Fault Refusal :=
  issue (.trap a b) s (fun x => do
    let _ ← x.check a .int
    let v ← x.read0 a
    trap b v)

/-- The mask bits of causes that a handler may take (R193). -/
def takeable (mask : Nat) : Nat := ((upFrom 1 0x13).filter (fun c => handlerMay c && bit mask c)).foldl (fun m c => m + 2 ^ c) 0

/-- scall #1: the task's handler is registered, or removed by a mask of zero (R193, R381). -/
def setHandler {s : State} (x : Ctx) (off mask : Nat) : Effect s :=
  match x.task with
  | some n =>
    if off % 4 ≠ 0 ∨ n.codelen ≤ off then own x (fun th => th.replied 1 0)
    else fun t => (own x (fun th => th.replied 0 0) t).modTask x.th.task (fun n =>
      { n with handler := if mask = 0 then none else some (off, takeable mask) })
  | none => own x (fun th => th.replied 1 0)

/-- scall #2 and #3: inh is cleared, and the thread goes on at an address (R193). -/
def leaveHandler {s : State} (x : Ctx) (pc : Nat) : Effect s :=
  fun t => (t.setThread x.c x.sl ((x.th.resumeAt pc false).retire (pc % 2 ^ 56))).trace x.c x.sl 7 (pc % 2 ^ 56)

/-- The dump of a thread's trap, as its control words hold it (R203). -/
def Thread.dump (th : Thread) (c sl : Nat) (second : Option (Nat × Nat × Nat)) : Dump :=
  { core := c, slot := sl, task := th.task, cause := th.cause.toNat % 256, epc := th.epc.toNat, eval := th.eval.toNat
    second := second, dslot := none, seq := 0, done := false }

/-- scall #4: the trap being handled becomes a fatal fault (R193). -/
def failTrap {s : State} (x : Ctx) : Effect s :=
  fun t =>
    let t := t.setThread x.c x.sl { x.th with trapped := true, status := .ready, hint := none }
    match x.part with
    | some n => t.fatal n (x.th.dump x.c x.sl none)
    | none => t

/-- scall (R381, R193). -/
def execScall (a b : Nat) (s : State) : Host.Outcome State Fault Refusal :=
  issue (.scall a b) s (fun x =>
    if b = 1 then do
      let da ← x.check a .int
      if da.lanes < 2 then trap KIND a
      else do
        let v ← x.read a
        .ok (setHandler x (v.getD 0 0) (v.getD 1 0))
    else if !x.th.inh then trap ILL x.word
    else if b = 2 then .ok (leaveHandler x x.th.epc.toNat)
    else if b = 3 then .ok (leaveHandler x x.th.skipPc)
    else .ok (failTrap x))

/-- brk: BRK, or nothing when a thread that stopped at it goes on (R386, R240). (DEDUCED, log 46) -/
def execBrk (b : Nat) (s : State) : Host.Outcome State Fault Refusal :=
  issue (.brk b) s (fun x =>
    if x.th.suppresses BRK true && (x.s.die (dieOf x.c)).dbg.enable then .ok (own x id) else trap BRK (0x40 + b))

/-! ### The trap queue (R192, R194, R239) -/

/-- The freeze bit of the entry that a hit names: a breakpoint's or a watchpoint's; a `brk` names none (R236, R239). -/
def Debug.hitFreezes (g : Debug) (cause n : Nat) : Bool :=
  if cause = WATCH then bit (lookD g.wp (2 * n) 0) 62 else decide (n < 16) && bit (lookD g.bp (2 * n) 0) 62

/-- A hit: the thread is debug-stopped, and the entry may freeze the package (R239, R236). -/
def Trail.hit {s : State} (t : Trail s) (c sl : Nat) (th : Thread) : Trail s :=
  let d := dieOf c
  let n := th.eval.toNat
  let cause := th.cause.toNat % 256
  let t := t.modCore c (fun k => { k with trapQ := k.trapQ.filter (fun q => decide (q ≠ sl)) })
  let t := t.modThread c sl (fun th => { th with trapped := false, stopped := true, stepping := false, suppress := true })
  let t := t.trace c sl 5 (th.epc.toNat % 2 ^ 56)
  if (t.1.die d).dbg.hitFreezes cause n then t.freeze (if cause = WATCH then 3 else 2) d n (c % 128) sl else t

/-- A trap becomes fatal: it leaves the queue, and the partition stops (R192, R200). A trap in handler state has the first
one as its secondary (R194). (DEDUCED, log 41) -/
def Trail.trapFatal {s : State} (t : Trail s) (c sl : Nat) (th : Thread) : Trail s :=
  let t := t.modCore c (fun k => { k with trapQ := k.trapQ.filter (fun q => decide (q ≠ sl)) })
  match t.1.task? th.task with
  | some x => t.fatal x.part (th.dump c sl (th.prior.map (fun p => (p.1, sl, p.2))))
  | none => t

/-- The address of the handler that a task has for a cause (R192, R193). -/
def Task.handlerFor (x : Task) (cause : Nat) : Option Nat :=
  match x.handler with
  | some (off, mask) => if handlerMay cause && bit mask cause then some (x.code + off) else none
  | none => none

/-- Serve a thread's trap (R192, R194, R239). While a dump of its context is due, a trap that its thread has raised since the stop
counts as the second fault of the context (R204); one that it had raised before, and that a handler would take, stays queued. -/
def Trail.serveTrap {s : State} (t : Trail s) (c sl : Nat) (th : Thread) : Trail s :=
  let cause := th.cause.toNat % 256
  let x := t.1.task? th.task
  let p := x.bind (fun x => t.1.part? x.part)
  let halted := match p with | some p => p.halted | none => false
  let faulted := match p with
    | some p => p.dumps.any (fun d => decide (d.task = th.task) && !d.done) && p.foundCode c sl != some 5
    | none => false
  let isHit := cause == WATCH || (cause == BRK && (decide (th.eval.toNat < 0x40) || (t.1.die (dieOf c)).dbg.enable))
  if isHit then t.hit c sl th
  else if faulted || th.inh then t.trapFatal c sl th
  else
    match x.bind (fun x => x.handlerFor cause) with
    | some pc => if halted then t else t.returnFromTrap c sl pc true
    | none => t.trapFatal c sl th

/-- TRAP_SERVICE: the steward serves the head of the core's trap queue (R192); while the partition's save or a steward's restart
holds it, it waits. (DESIGN CHOICE, log 12) -/
def execTrapService (s : State) : Host.Outcome State Fault Refusal :=
  event s (fun t =>
    let c := s.arg 0
    match (t.1.core c).trapQ with
    | [] => t
    | sl :: r =>
      match t.1.thread? c sl with
      | none => t.modCore c (fun k => { k with trapQ := r })
      | some th =>
        let saving := match (t.1.task? th.task).bind (fun x => t.1.part? x.part) with
          | some p => p.halted && decide (p.ladder ≠ .dump)
          | none => false
        if saving || (t.1.die (dieOf c)).restart then t
        else
          let t := t.serveTrap c sl th
          let q := (t.1.core c).trapQ
          if q.isEmpty then t
          else if q = sl :: r then
            -- the head stays queued until the partition's reset; the others are served
            forEach t r (fun t sl => match t.1.thread? c sl with | some th => t.serveTrap c sl th | none => t)
          else t.pendOnce .trapService [c])

/-! ### The steward's instructions (R382) -/

/-- eret: the steward ends its handling of a slot's trap (R382). (DEDUCED, log 46) -/
def execEret (a : Nat) (s : State) : Host.Outcome State Fault Refusal :=
  issue (.eret a) s (fun x => do
    let _ ← x.check a .int
    let v ← x.read0 a
    let sl := v % 16
    if v / 16 % 16 ≠ 0 ∨ v / 1024 ≠ 0 ∨ !x.k.trapQ.contains sl then trap ILL x.word
    else
      match look x.k.threads sl with
      | none => trap ILL x.word
      | some th =>
        let handler := (x.s.task? th.task).bind (fun n => n.handler.map (fun h => n.code + h.1))
        .ok (fun t =>
          let t := own x id t
          match bits v 9 8, handler with
          | 0, _ => t.returnFromTrap x.c sl th.epc.toNat th.inh
          | 1, _ => t.returnFromTrap x.c sl th.skipPc th.inh
          | 2, some pc => t.returnFromTrap x.c sl pc true
          | _, _ => t.trapFatal x.c sl th))

/-- halt: the steward waits for a trap, a request or its heartbeat (R382). (DEDUCED, log 46) -/
def execHalt (s : State) : Host.Outcome State Fault Refusal :=
  issue .halt s (fun x => .ok (if x.k.trapQ.isEmpty then waits x .blocked [] else own x id))

/-- STEWARD_HEARTBEAT_DUE: the stewards of a die are woken, and their next heartbeat falls due 10 ms later (R45, R382). -/
def execStewardHeartbeatDue (s : State) : Host.Outcome State Fault Refusal :=
  event s (fun t => (t.wakeDie (s.arg 0)).timer (s.arg 0) false (10000 * etimePerUs) .stewardHeartbeatDue [s.arg 0])

end Sys2Proof.Machine
end

