-- ==== Sys2Proof/Machine/TaskOps.lean ====
section
/-!
DEFINITION. Task instructions: `spawn` (R83, R370), `done` (R371), `yield` (R372), `tidq` (R373), and the end of a task, by
DONE (R75, R171) and by EXTENT (R196, R197).
-/

namespace Sys2Proof.Machine

/-! ### spawn (R83, R370) -/

/-- A race of the node record's bytes, read as one: each 32 bytes with its share (R174); and an error in the entry that holds
them (R198). -/
def Ctx.recordRace (x : Ctx) (va : Nat) (e : Nat × Extent) : Except Stop Unit := do
  x.entryEcc e.1
  let _ ← eachOf (fun j => x.shareRace { x.vlane 0 (va + 32 * j : Nat) e with va := va }) (upFrom 0 6)
  .ok ()

/-- spawn: the request leaves for the lead dispatcher (R370). -/
def execSpawn (a : Nat) (s : State) : Host.Outcome State Fault Refusal :=
  issue (.spawn a) s (fun x => do
    let _ ← x.check a .int
    let va ← x.read0 a
    if va % 64 ≠ 0 then trap ALIGN va
    else
      match x.findExtent va 192 extRd with
      | none => extent 7 0 va
      | some e =>
        x.recordRace va e
        let phys := e.2.pbase + (va - e.2.vbase)
        .ok (afterStores x (fun t => (waits x .inFlight [va, phys] t).sendTo (dieOf x.c)
          (match x.part with | some n => dieOfCluster n | none => dieOf x.c) .spawnAppend [x.c, x.sl])))

/-- A spawned node is appended to the graph of its spawner's node; to a graph that has been aborted, it is removed at
once (R83, R68). -/
def Trail.appendSpawned {s : State} (t : Trail s) (n g : Nat) (rec : NodeRec) (name : Option (Nat × Nat)) (vc : Clock) :
    Trail s :=
  match t.1.part? n with
  | none => t
  | some p =>
    match look p.graphs g with
    | none => t
    | some x =>
      let q : Part := { p with graphs := put p.graphs g { x with spawned := x.spawned + 1 } }
      let (q, app) := q.appendNode g ((x.nnodes + x.spawned) % 65536) rec [] true name vc
      let t := t.act (.part n (some q))
      if x.aborted then (t.nodeGone n app none []).afterGone n g else t.pokeReady n

/-- SPAWN_APPEND: the lead dispatcher appends the node and replies (R83). In record and replay modes a full live table
makes the spawn wait (R370). -/
def execSpawnAppend (s : State) : Host.Outcome State Fault Refusal :=
  event s (fun t => t.resume (s.arg 0) (s.arg 1) (fun x a =>
    match x.i, a, x.task with
    | .spawn _, [va, phys], some k =>
      .ok (fun t =>
        match t.1.part? k.part with
        | none => t
        | some p =>
          match look p.live k.app with
          | none => t
          | some m =>
            let nr := t.1.mem.read phys 192
            let read : Effect s := fun t => t.countAll (dieOfCluster k.part) (unitsOf phys 192)
            let bad := !nodeOk nr || decide (field nr 33 1 ≠ 0) || decide (field nr 35 1 = 1)
            if bad then own x (fun th => th.replied 1 0) (read t)
            else if 4096 ≤ p.live.length then
              (if p.mode = 1 ∨ p.mode = 2 then t else own x (fun th => th.replied 2 0) (read t))
            else
              let app := (p.append + 1).toNat
              let r := x.threadRec 0 (dispatcherSource k.part) 2 (leBytes app 4 ++ leBytes va 8)
              let name := t.1.recName k.part r.source
              x.loggedAt r ⟨.spawnAppend, [x.c, x.sl]⟩ (fun t =>
                own x (fun th => th.released.replied 0 app) ((read t).appendSpawned k.part m.graph (nodeOf nr) name x.th.vc)) t)
    | _, _, _ => .ok id))

/-! ### done, yield, tidq -/

/-- done (R371): the thread is Finished, and a pending release fence is discarded. -/
def execDone (s : State) : Host.Outcome State Fault Refusal :=
  issue .done s (fun x =>
    .ok (fun t => (own x (fun th => { th with relFence := none }) t |>.modThread x.c x.sl (fun th =>
      { th with status := .finished })).pokeTask x.th.task))

/-- yield (R372): the thread is Yielding for the 16 clocks that follow those of the instruction itself. -/
def execYield (s : State) : Host.Outcome State Fault Refusal :=
  issue .yield s (fun x =>
    .ok (fun t => (((retireNext x t).modThread x.c x.sl (fun th => { th with status := .yielding })).noTimer .yieldEnd
      [x.c, x.sl]).timer (dieOf x.c) true (x.th.busy + 16) .yieldEnd [x.c, x.sl]))

/-- YIELD_END: a Yielding thread is Ready again; one that a stop of its partition or debug has halted stays as the stop found it
(R372, R399). -/
def execYieldEnd (s : State) : Host.Outcome State Fault Refusal :=
  event s (fun t =>
    let halted := ((t.1.partOfCore (s.arg 0)).bind t.1.part?).any (·.halted)
    t.modThread (s.arg 0) (s.arg 1) (fun th =>
      if th.status = .yielding ∧ !halted ∧ !th.stopped then { th with status := .ready } else th))

/-- The mask of the threads of a task that have not executed `done`, by tid. -/
def State.liveTids (s : State) (n : Nat) (x : Task) : Nat :=
  maskOf ((s.core x.core).threads.filterMap (fun p =>
    if p.2.task = n ∧ p.2.status ≠ .finished then some p.2.tid.toNat else none))

/-- The value that `tidq` reads (R373); the steward has no task and reads zero. -/
def Ctx.taskWord (x : Ctx) (k : Nat) : Nat :=
  match x.task with
  | none => 0
  | some n =>
    match k with
    | 0 => n.threads
    | 1 => (match (x.s.part? n.part).bind (fun p => look p.live n.app) with | some m => m.index | none => 0)
    | 2 => n.app
    | 3 => n.hw
    | 4 => x.s.liveTids x.th.task n
    | _ => n.localBase

/-- tidq (R373). -/
def execTidq (d b : Nat) (s : State) : Host.Outcome State Fault Refusal :=
  issue (.tidq d b) s (fun x => do
    let dd ← x.check d .int
    let r ← x.assignAll dd (x.taskWord b)
    .ok (own x (x.assigned dd d r)))

/-! ### The end of a task (R75, R171, R196) -/

/-- What happens before a task's end: all its threads, and every job they issued (R171). -/
def State.taskClock (s : State) (n : Nat) (x : Task) : Clock :=
  let v := (s.core x.core).threads.foldl (fun (v : Clock) p => if p.2.task = n then v.join p.2.vc else v) x.vc
  s.jobs.foldl (fun (v : Clock) j => if j.2.task = n then v.join j.2.vc else v) v

/-- A posted store or a courier job of a task has not been performed. -/
def State.taskBusy (s : State) (n : Nat) (x : Task) : Bool :=
  (s.core x.core).posted.any (fun p => decide (p.task = n)) || s.jobs.any (fun j => decide (j.2.task = n) && decide (j.2.state ≠ 3))

/-- The end of a task by EXTENT as its graph's error (R197). -/
def extentError (index : Nat) (e : ExtentEnd) : RecError :=
  { kind := 4, node := index, thread := e.thread, lane := e.lane, reason := e.reason, adr := e.adr }

/-- What the second part of a task's end is about: partition, append number, core, and the EXTENT end if one. -/
def endArgs (k : Nat) (x : Task) : List Nat :=
  [k, x.part, x.app, x.core] ++ (match x.ending with | some e => [e.thread, e.lane, e.reason, e.adr] | none => [])

/-- A task's leases drop, its extents, slots and local run go (R75); its end is then to be recorded. (DEDUCED, log 40) -/
def Trail.taskGone {s : State} (t : Trail s) (n : Nat) (x : Task) : Trail s :=
  let vc := t.1.taskClock n x
  let t := forEach t x.slots (fun t sl => t.trace x.core sl 6 (if x.ending.isSome then 2 ^ 56 else 0))
  let t := t.modPart x.part (fun p => match look p.live x.app with
    | some m => { p with live := put p.live x.app { m with vc := vc } }
    | none => p)
  ((t.freeTask n).pokeStarts (dieOf x.core)).pendFirst .taskEnd (endArgs n x)

/-- A task's end is recorded, and its successors are released; an EXTENT end aborts its graph (R75, R196, R215). (DEDUCED, log 40; DEDUCED, log 66) -/
def Trail.taskRecord {s : State} (t : Trail s) (args : List Nat) (n app core : Nat) (e : Option ExtentEnd) : Trail s :=
  match t.1.part? n with
  | none => t
  | some p =>
    match look p.live app with
    | none => t
    | some m =>
      let cl := clusterOf core
      let r := dispatchRec cl cl 0 1 app m.index core none
      let name := t.1.recName n r.source
      if m.st.unstarted then t
      else t.unitLogged n r ⟨.taskEnd, args⟩ (fun t =>
        let t := t.nodeGone n app name m.vc
        match e with
        | some e => t.abortGraph n m.graph (extentError m.index e)
        | none => t.afterGone n m.graph)

/-- TASK_END: a task whose threads, stores and jobs are all done ends (R75, R171, R371). The record of its end, and what
follows, come as a second part of the step, which the order log may hold. (DEDUCED, log 40) -/
def execTaskEnd (s : State) : Host.Outcome State Fault Refusal :=
  event s (fun t =>
    match s.args with
    | [k] =>
      (match t.1.task? k with
       | none => t
       | some x => if x.ending.isSome || !t.1.allDone k x || t.1.taskBusy k x then t else t.taskGone k x)
    | [_, n, app, core] => (t.taskRecord s.args n app core none).drained n
    | [_, n, app, core, th, lane, reason, adr] =>
      (t.taskRecord s.args n app core (some { thread := th, lane := lane, reason := reason, adr := adr })).drained n
    | _ => t)

/-- An instruction of a thread whose request has not left the core (R196 step 2): blocked, or held in step 5. -/
def Thread.abandonable (th : Thread) : Bool :=
  decide (th.status = .blocked) ||
    (decide (th.status = .inFlight) && (match th.op with
      | some o =>
        (match o.instr with
         | .cpy _ | .qcpy _ | .zcpy _ | .xcpy _ | .lease _ _ => true
         | .vtsend _ _ => decide (o.args.headD 0 = 0)
         | _ => o.args.isEmpty)
      | none => true))

/-- A thread stands at an instruction boundary. -/
def Thread.atBoundary (th : Thread) : Bool :=
  match th.status with
  | .inFlight => false
  | .out => false
  | .held => false
  | _ => true

/-- An abandoned instruction neither retires nor has an effect. -/
def Trail.abandon {s : State} (t : Trail s) (c sl : Nat) : Trail s :=
  let t := t.dropWaits c sl
  let t := t.modCore c (fun k => { k.forget sl with
    trapQ := k.trapQ, threads := k.threads.map (fun p => if p.1 = sl then (p.1, { p.2 with status := .ready, op := none, logWait := false }) else p) })
  t.freeClocks c

/-- Cards of a task that are queued at the port are dropped, and its running jobs are told to stop (R196 step 3). -/
def Trail.stopJobs {s : State} (t : Trail s) (n c : Nat) : Trail s :=
  let queued := (t.1.jobs.filter (fun j => decide (j.2.task = n) && decide (j.2.state = 1))).map (·.1)
  let t := forEach t queued (fun t j => t.act (.job j none))
  let t := t.modCore c (fun k => { k with
    portQ := k.portQ.filter (fun j => !queued.contains j), tags := k.tags.filter (fun g => !queued.contains g.job) })
  forEach t (t.1.jobs.filter (fun j => decide (j.2.task = n) && decide (j.2.state = 2))) (fun t j =>
    (t.act (.job j.1 (some { j.2 with cancel := true }))).pendOnce (if j.2.kind = 3 then .xcpyChunkDeliver else .courierJobComplete) [j.1])

/-- TASK_EXTENT_END: the task's other threads stop, its jobs stop, and then it goes (R196). -/
def execTaskExtentEnd (s : State) : Host.Outcome State Fault Refusal :=
  event s (fun t =>
    let n := s.arg 0
    match t.1.task? n with
    | none => t
    | some x =>
      if x.ending.isNone then t
      else
        let mine := (t.1.core x.core).threads.filter (fun p => decide (p.2.task = n))
        let t := forEach t (mine.filter (fun p => p.2.abandonable)) (fun t p => t.abandon x.core p.1)
        if (t.1.core x.core).threads.any (fun p => decide (p.2.task = n) && !p.2.atBoundary) then t
        else
          let t := t.stopJobs n x.core
          if t.1.taskBusy n x then t else t.taskGone n x)

end Sys2Proof.Machine
end

