-- ==== Sys2Proof/Machine/Dispatch.lean ====
section
/-!
DEFINITION. The meaning of every row of the table of operations: one arm per constructor, each one direct call.
-/

namespace Sys2Proof.Machine

/-- One step of the machine: an instruction of the current thread, or a whole step of another agent. -/
def exec (i : Instr) (s : State) : Host.Outcome State Fault Refusal :=
  match i with
  | .hintImm hi => Sys2Proof.Machine.execHintImm hi s
  | .hintMod rm wsize => Sys2Proof.Machine.execHintMod rm wsize s
  | .hintMma stride => Sys2Proof.Machine.execHintMma stride s
  | .hintScope scope ord keep => Sys2Proof.Machine.execHintScope scope ord keep s
  | .add d a b => Sys2Proof.Machine.execAdd d a b s
  | .sub d a b => Sys2Proof.Machine.execSub d a b s
  | .and d a b => Sys2Proof.Machine.execAnd d a b s
  | .or d a b => Sys2Proof.Machine.execOr d a b s
  | .xor d a b => Sys2Proof.Machine.execXor d a b s
  | .andn d a b => Sys2Proof.Machine.execAndn d a b s
  | .orn d a b => Sys2Proof.Machine.execOrn d a b s
  | .shl d a b => Sys2Proof.Machine.execShl d a b s
  | .shr d a b => Sys2Proof.Machine.execShr d a b s
  | .sra d a b => Sys2Proof.Machine.execSra d a b s
  | .rol d a b => Sys2Proof.Machine.execRol d a b s
  | .min d a b => Sys2Proof.Machine.execMin d a b s
  | .max d a b => Sys2Proof.Machine.execMax d a b s
  | .minu d a b => Sys2Proof.Machine.execMinu d a b s
  | .maxu d a b => Sys2Proof.Machine.execMaxu d a b s
  | .abs d a => Sys2Proof.Machine.execAbs d a s
  | .neg d a => Sys2Proof.Machine.execNeg d a s
  | .mov d a => Sys2Proof.Machine.execMov d a s
  | .cmov d a b => Sys2Proof.Machine.execCmov d a b s
  | .addi d a imm => Sys2Proof.Machine.execAddi d a imm s
  | .andi d a imm => Sys2Proof.Machine.execAndi d a imm s
  | .ori d a imm => Sys2Proof.Machine.execOri d a imm s
  | .xori d a imm => Sys2Proof.Machine.execXori d a imm s
  | .shli d a sh => Sys2Proof.Machine.execShli d a sh s
  | .shri d a sh => Sys2Proof.Machine.execShri d a sh s
  | .srai d a sh => Sys2Proof.Machine.execSrai d a sh s
  | .roli d a sh => Sys2Proof.Machine.execRoli d a sh s
  | .ceq d a b => Sys2Proof.Machine.execCeq d a b s
  | .cne d a b => Sys2Proof.Machine.execCne d a b s
  | .clt d a b => Sys2Proof.Machine.execClt d a b s
  | .cle d a b => Sys2Proof.Machine.execCle d a b s
  | .cltu d a b => Sys2Proof.Machine.execCltu d a b s
  | .cleu d a b => Sys2Proof.Machine.execCleu d a b s
  | .ceqi d a imm => Sys2Proof.Machine.execCeqi d a imm s
  | .cnei d a imm => Sys2Proof.Machine.execCnei d a imm s
  | .clti d a imm => Sys2Proof.Machine.execClti d a imm s
  | .cltui d a imm => Sys2Proof.Machine.execCltui d a imm s
  | .mul d a b => Sys2Proof.Machine.execMul d a b s
  | .mulh d a b => Sys2Proof.Machine.execMulh d a b s
  | .mulhu d a b => Sys2Proof.Machine.execMulhu d a b s
  | .div d a b => Sys2Proof.Machine.execDiv d a b s
  | .divu d a b => Sys2Proof.Machine.execDivu d a b s
  | .rem d a b => Sys2Proof.Machine.execRem d a b s
  | .remu d a b => Sys2Proof.Machine.execRemu d a b s
  | .sethi d imm => Sys2Proof.Machine.execSethi d imm s
  | .addpc d imm => Sys2Proof.Machine.execAddpc d imm s
  | .clz d a => Sys2Proof.Machine.execClz d a s
  | .ctz d a => Sys2Proof.Machine.execCtz d a s
  | .popc d a => Sys2Proof.Machine.execPopc d a s
  | .brev d a => Sys2Proof.Machine.execBrev d a s
  | .bext d a b => Sys2Proof.Machine.execBext d a b s
  | .bins d a b => Sys2Proof.Machine.execBins d a b s
  | .mapld a imm => Sys2Proof.Machine.execMapld a imm s
  | .resz d kind wd => Sys2Proof.Machine.execResz d kind wd s
  | .wqry d sel nm => Sys2Proof.Machine.execWqry d sel nm s
  | .pol d pcy => Sys2Proof.Machine.execPol d pcy s
  | .cvt d a => Sys2Proof.Machine.execCvt d a s
  | .pack d a => Sys2Proof.Machine.execPack d a s
  | .unpk d a pl => Sys2Proof.Machine.execUnpk d a pl s
  | .fadd d a b => Sys2Proof.Machine.execFadd d a b s
  | .fsub d a b => Sys2Proof.Machine.execFsub d a b s
  | .fmul d a b => Sys2Proof.Machine.execFmul d a b s
  | .fmin d a b => Sys2Proof.Machine.execFmin d a b s
  | .fmax d a b => Sys2Proof.Machine.execFmax d a b s
  | .fabs d a => Sys2Proof.Machine.execFabs d a s
  | .fneg d a => Sys2Proof.Machine.execFneg d a s
  | .fceq d a b => Sys2Proof.Machine.execFceq d a b s
  | .fclt d a b => Sys2Proof.Machine.execFclt d a b s
  | .fcle d a b => Sys2Proof.Machine.execFcle d a b s
  | .fclass d a => Sys2Proof.Machine.execFclass d a s
  | .fma d a b => Sys2Proof.Machine.execFma d a b s
  | .fnma d a b => Sys2Proof.Machine.execFnma d a b s
  | .fexp2 d a => Sys2Proof.Machine.execFexp2 d a s
  | .flog2 d a => Sys2Proof.Machine.execFlog2 d a s
  | .frcp d a => Sys2Proof.Machine.execFrcp d a s
  | .frsq d a => Sys2Proof.Machine.execFrsq d a s
  | .fsqrt d a => Sys2Proof.Machine.execFsqrt d a s
  | .rsum d a => Sys2Proof.Machine.execRsum d a s
  | .rmax d a => Sys2Proof.Machine.execRmax d a s
  | .rmin d a => Sys2Proof.Machine.execRmin d a s
  | .rmaxi d a => Sys2Proof.Machine.execRmaxi d a s
  | .rmini d a => Sys2Proof.Machine.execRmini d a s
  | .rall d a => Sys2Proof.Machine.execRall d a s
  | .rany d a => Sys2Proof.Machine.execRany d a s
  | .rfsum d a => Sys2Proof.Machine.execRfsum d a s
  | .rfmax d a => Sys2Proof.Machine.execRfmax d a s
  | .rfmaxi d a => Sys2Proof.Machine.execRfmaxi d a s
  | .vperm d a b => Sys2Proof.Machine.execVperm d a b s
  | .vshuf d a b => Sys2Proof.Machine.execVshuf d a b s
  | .vlane d a b => Sys2Proof.Machine.execVlane d a b s
  | .vins d a b => Sys2Proof.Machine.execVins d a b s
  | .vidx d a => Sys2Proof.Machine.execVidx d a s
  | .vcomp d a b => Sys2Proof.Machine.execVcomp d a b s
  | .vtopk d a b => Sys2Proof.Machine.execVtopk d a b s
  | .vsmax d a b => Sys2Proof.Machine.execVsmax d a b s
  | .vsoft d a b => Sys2Proof.Machine.execVsoft d a b s
  | .vsamp d a b => Sys2Proof.Machine.execVsamp d a b s
  | .vscan d a b => Sys2Proof.Machine.execVscan d a b s
  | .rng d a b => Sys2Proof.Machine.execRng d a b s
  | .bt c disp => Sys2Proof.Machine.execBt c disp s
  | .bf c disp => Sys2Proof.Machine.execBf c disp s
  | .call disp => Sys2Proof.Machine.execCall disp s
  | .jmp disp => Sys2Proof.Machine.execJmp disp s
  | .jr c => Sys2Proof.Machine.execJr c s
  | .callr c => Sys2Proof.Machine.execCallr c s
  | .ret => Sys2Proof.Machine.execRet s
  | .dbnz c disp => Sys2Proof.Machine.execDbnz c disp s
  | .ld d a sz off => Sys2Proof.Machine.execLd d a sz off s
  | .st d a sz off => Sys2Proof.Machine.execSt d a sz off s
  | .ldv d a sz off => Sys2Proof.Machine.execLdv d a sz off s
  | .stv d a sz off => Sys2Proof.Machine.execStv d a sz off s
  | .ldx d a sz off => Sys2Proof.Machine.execLdx d a sz off s
  | .ldxv d a sz off => Sys2Proof.Machine.execLdxv d a sz off s
  | .stx d a sz off => Sys2Proof.Machine.execStx d a sz off s
  | .stxv d a sz off => Sys2Proof.Machine.execStxv d a sz off s
  | .ldg d a sz off => Sys2Proof.Machine.execLdg d a sz off s
  | .stg d a sz off => Sys2Proof.Machine.execStg d a sz off s
  | .amoAdd d a b ord scope => Sys2Proof.Machine.execAmoAdd d a b ord scope s
  | .amoAnd d a b ord scope => Sys2Proof.Machine.execAmoAnd d a b ord scope s
  | .amoOr d a b ord scope => Sys2Proof.Machine.execAmoOr d a b ord scope s
  | .amoXor d a b ord scope => Sys2Proof.Machine.execAmoXor d a b ord scope s
  | .amoMin d a b ord scope => Sys2Proof.Machine.execAmoMin d a b ord scope s
  | .amoMax d a b ord scope => Sys2Proof.Machine.execAmoMax d a b ord scope s
  | .amoMinu d a b ord scope => Sys2Proof.Machine.execAmoMinu d a b ord scope s
  | .amoMaxu d a b ord scope => Sys2Proof.Machine.execAmoMaxu d a b ord scope s
  | .amoXchg d a b ord scope => Sys2Proof.Machine.execAmoXchg d a b ord scope s
  | .amoCas d a b ord scope => Sys2Proof.Machine.execAmoCas d a b ord scope s
  | .amoIncw d a b ord scope => Sys2Proof.Machine.execAmoIncw d a b ord scope s
  | .amoBfa d a b ord scope => Sys2Proof.Machine.execAmoBfa d a b ord scope s
  | .amoLd d a ord scope => Sys2Proof.Machine.execAmoLd d a ord scope s
  | .amoSt a b ord scope => Sys2Proof.Machine.execAmoSt a b ord scope s
  | .fence ord scope => Sys2Proof.Machine.execFence ord scope s
  | .aliasf => Sys2Proof.Machine.execAliasf s
  | .fencec => Sys2Proof.Machine.execFencec s
  | .barArr d b => Sys2Proof.Machine.execBarArr d b s
  | .barWait a b => Sys2Proof.Machine.execBarWait a b s
  | .barSync b => Sys2Proof.Machine.execBarSync b s
  | .barCfg a b => Sys2Proof.Machine.execBarCfg a b s
  | .acqs b => Sys2Proof.Machine.execAcqs b s
  | .rels b => Sys2Proof.Machine.execRels b s
  | .qput a b => Sys2Proof.Machine.execQput a b s
  | .qget d b => Sys2Proof.Machine.execQget d b s
  | .qtry d b => Sys2Proof.Machine.execQtry d b s
  | .send a b => Sys2Proof.Machine.execSend a b s
  | .sendh a b => Sys2Proof.Machine.execSendh a b s
  | .recv d a => Sys2Proof.Machine.execRecv d a s
  | .recvt d a b => Sys2Proof.Machine.execRecvt d a b s
  | .waitwL d a b => Sys2Proof.Machine.execWaitwL d a b s
  | .waitwX d a b => Sys2Proof.Machine.execWaitwX d a b s
  | .lease a b => Sys2Proof.Machine.execLease a b s
  | .leaseRel b => Sys2Proof.Machine.execLeaseRel b s
  | .mma a b tile zi => Sys2Proof.Machine.execMma a b tile zi s
  | .mmas a b tile zi => Sys2Proof.Machine.execMmas a b tile zi s
  | .mzero tile => Sys2Proof.Machine.execMzero tile s
  | .maccrd a tile => Sys2Proof.Machine.execMaccrd a tile s
  | .maccwr a tile => Sys2Proof.Machine.execMaccwr a tile s
  | .scacc a tile src => Sys2Proof.Machine.execScacc a tile src s
  | .mldb a b slot => Sys2Proof.Machine.execMldb a b slot s
  | .mldm a b slot => Sys2Proof.Machine.execMldm a b slot s
  | .cpy a => Sys2Proof.Machine.execCpy a s
  | .qcpy a => Sys2Proof.Machine.execQcpy a s
  | .zcpy a => Sys2Proof.Machine.execZcpy a s
  | .xcpy a => Sys2Proof.Machine.execXcpy a s
  | .jstat d a => Sys2Proof.Machine.execJstat d a s
  | .jcancel a => Sys2Proof.Machine.execJcancel a s
  | .spawn a => Sys2Proof.Machine.execSpawn a s
  | .done => Sys2Proof.Machine.execDone s
  | .yield => Sys2Proof.Machine.execYield s
  | .tidq d b => Sys2Proof.Machine.execTidq d b s
  | .vtsend a b => Sys2Proof.Machine.execVtsend a b s
  | .vtrecv d a => Sys2Proof.Machine.execVtrecv d a s
  | .vtadv a => Sys2Proof.Machine.execVtadv a s
  | .vtann a b => Sys2Proof.Machine.execVtann a b s
  | .vtnull => Sys2Proof.Machine.execVtnull s
  | .vthor d => Sys2Proof.Machine.execVthor d s
  | .trap a b => Sys2Proof.Machine.execTrap a b s
  | .scall a b => Sys2Proof.Machine.execScall a b s
  | .eret a => Sys2Proof.Machine.execEret a s
  | .cwr d a b => Sys2Proof.Machine.execCwr d a b s
  | .cww d a b => Sys2Proof.Machine.execCww d a b s
  | .snap d => Sys2Proof.Machine.execSnap d s
  | .brk b => Sys2Proof.Machine.execBrk b s
  | .halt => Sys2Proof.Machine.execHalt s
  | .submissionWrite => Sys2Proof.Machine.execSubmissionWrite s
  | .submissionHandle => Sys2Proof.Machine.execSubmissionHandle s
  | .queuePreempt => Sys2Proof.Machine.execQueuePreempt s
  | .queueResume => Sys2Proof.Machine.execQueueResume s
  | .queueAbort => Sys2Proof.Machine.execQueueAbort s
  | .queueCommandBadOp => Sys2Proof.Machine.execQueueCommandBadOp s
  | .regionActivate => Sys2Proof.Machine.execRegionActivate s
  | .regionDeactivate => Sys2Proof.Machine.execRegionDeactivate s
  | .regionCommandBadOp => Sys2Proof.Machine.execRegionCommandBadOp s
  | .snapshotTrigger => Sys2Proof.Machine.execSnapshotTrigger s
  | .snapshotFiringComplete => Sys2Proof.Machine.execSnapshotFiringComplete s
  | .attestationRequest => Sys2Proof.Machine.execAttestationRequest s
  | .powerLimitWrite => Sys2Proof.Machine.execPowerLimitWrite s
  | .migrationThresholdWrite => Sys2Proof.Machine.execMigrationThresholdWrite s
  | .registerWriteOther => Sys2Proof.Machine.execRegisterWriteOther s
  | .accessTableEdit => Sys2Proof.Machine.execAccessTableEdit s
  | .hostMemoryRead => Sys2Proof.Machine.execHostMemoryRead s
  | .hostMemoryWrite => Sys2Proof.Machine.execHostMemoryWrite s
  | .debugFreeze => Sys2Proof.Machine.execDebugFreeze s
  | .debugThaw => Sys2Proof.Machine.execDebugThaw s
  | .debugStop => Sys2Proof.Machine.execDebugStop s
  | .debugGo => Sys2Proof.Machine.execDebugGo s
  | .debugStep => Sys2Proof.Machine.execDebugStep s
  | .packageReset => Sys2Proof.Machine.execPackageReset s
  | .firmwareImageVerify => Sys2Proof.Machine.execFirmwareImageVerify s
  | .hostLinkDown => Sys2Proof.Machine.execHostLinkDown s
  | .hostLinkRetrain => Sys2Proof.Machine.execHostLinkRetrain s
  | .cxlPortTrain => Sys2Proof.Machine.execCxlPortTrain s
  | .domainBringup => Sys2Proof.Machine.execDomainBringup s
  | .fabricFrameReceive => Sys2Proof.Machine.execFabricFrameReceive s
  | .fabricLaneLoss => Sys2Proof.Machine.execFabricLaneLoss s
  | .fabricPortUp => Sys2Proof.Machine.execFabricPortUp s
  | .dieLinkFlitDeliver => Sys2Proof.Machine.execDieLinkFlitDeliver s
  | .powerSample => Sys2Proof.Machine.execPowerSample s
  | .thermalTrip => Sys2Proof.Machine.execThermalTrip s
  | .supplyRampUpDone => Sys2Proof.Machine.execSupplyRampUpDone s
  | .relockDone => Sys2Proof.Machine.execRelockDone s
  | .supplyRampDownDone => Sys2Proof.Machine.execSupplyRampDownDone s
  | .stewardHeartbeatMiss => Sys2Proof.Machine.execStewardHeartbeatMiss s
  | .stewardRestartCommand => Sys2Proof.Machine.execStewardRestartCommand s
  | .stewardRestartDone => Sys2Proof.Machine.execStewardRestartDone s
  | .patrolScrub => Sys2Proof.Machine.execPatrolScrub s
  | .recordAccept => Sys2Proof.Machine.execRecordAccept s
  | .fenceRecordRelease => Sys2Proof.Machine.execFenceRecordRelease s
  | .poolPlace => Sys2Proof.Machine.execPoolPlace s
  | .nodeTake => Sys2Proof.Machine.execNodeTake s
  | .porterResidency => Sys2Proof.Machine.execPorterResidency s
  | .nodeStart => Sys2Proof.Machine.execNodeStart s
  | .leaseServe => Sys2Proof.Machine.execLeaseServe s
  | .porterNoticeHandle => Sys2Proof.Machine.execPorterNoticeHandle s
  | .migrationCopyDone => Sys2Proof.Machine.execMigrationCopyDone s
  | .counterHalve => Sys2Proof.Machine.execCounterHalve s
  | .loadBalance => Sys2Proof.Machine.execLoadBalance s
  | .repeatDecide => Sys2Proof.Machine.execRepeatDecide s
  | .repeatRearm => Sys2Proof.Machine.execRepeatRearm s
  | .spawnAppend => Sys2Proof.Machine.execSpawnAppend s
  | .taskEnd => Sys2Proof.Machine.execTaskEnd s
  | .taskExtentEnd => Sys2Proof.Machine.execTaskExtentEnd s
  | .trapService => Sys2Proof.Machine.execTrapService s
  | .dumpBegin => Sys2Proof.Machine.execDumpBegin s
  | .dumpComplete => Sys2Proof.Machine.execDumpComplete s
  | .deviceFatalFault => Sys2Proof.Machine.execDeviceFatalFault s
  | .preemptT1Expire => Sys2Proof.Machine.execPreemptT1Expire s
  | .saveComplete => Sys2Proof.Machine.execSaveComplete s
  | .preemptT2Expire => Sys2Proof.Machine.execPreemptT2Expire s
  | .loadReturn => Sys2Proof.Machine.execLoadReturn s
  | .postedStorePerform => Sys2Proof.Machine.execPostedStorePerform s
  | .atomicPerform => Sys2Proof.Machine.execAtomicPerform s
  | .logRdPoll => Sys2Proof.Machine.execLogRdPoll s
  | .replayTimeout => Sys2Proof.Machine.execReplayTimeout s
  | .matrixStart => Sys2Proof.Machine.execMatrixStart s
  | .matrixComplete => Sys2Proof.Machine.execMatrixComplete s
  | .matrixSoftErrorRetry => Sys2Proof.Machine.execMatrixSoftErrorRetry s
  | .streamStart => Sys2Proof.Machine.execStreamStart s
  | .streamComplete => Sys2Proof.Machine.execStreamComplete s
  | .frameSpillDone => Sys2Proof.Machine.execFrameSpillDone s
  | .frameFillDone => Sys2Proof.Machine.execFrameFillDone s
  | .yieldEnd => Sys2Proof.Machine.execYieldEnd s
  | .cardAccept => Sys2Proof.Machine.execCardAccept s
  | .courierJobStart => Sys2Proof.Machine.execCourierJobStart s
  | .courierJobComplete => Sys2Proof.Machine.execCourierJobComplete s
  | .xcpyChunkDeliver => Sys2Proof.Machine.execXcpyChunkDeliver s
  | .messageArrive => Sys2Proof.Machine.execMessageArrive s
  | .sendReply => Sys2Proof.Machine.execSendReply s
  | .contextFreeNotice => Sys2Proof.Machine.execContextFreeNotice s
  | .refusalSelfNotice => Sys2Proof.Machine.execRefusalSelfNotice s
  | .recvtTimeout => Sys2Proof.Machine.execRecvtTimeout s
  | .barrierCountArrive => Sys2Proof.Machine.execBarrierCountArrive s
  | .barrierUnitArrival => Sys2Proof.Machine.execBarrierUnitArrival s
  | .barrierLineRise => Sys2Proof.Machine.execBarrierLineRise s
  | .vtNeighbourRegister => Sys2Proof.Machine.execVtNeighbourRegister s
  | .vtEventArrive => Sys2Proof.Machine.execVtEventArrive s
  | .vtMilestoneArrive => Sys2Proof.Machine.execVtMilestoneArrive s
  | .vtNullCountExpire => Sys2Proof.Machine.execVtNullCountExpire s
  | .stewardHeartbeatDue => Sys2Proof.Machine.execStewardHeartbeatDue s

end Sys2Proof.Machine
end

