-- ==== Sys2Proof/Machine/Step.lean ====
section
/-!
DEFINITION. One step of the machine: time passes, the next move is chosen, and it runs whole.
-/

namespace Sys2Proof.Machine

/-- One step. A step in which nothing can run, or in which a thread stops at its fetch, ends where it is. -/
def step (s : State) : Host.Outcome State Fault Refusal :=
  match nextMove s with
  | (t, .due i) => exec i.step t.1
  | (t, .thread i) => exec i t.1
  | (t, .none) => .next t.1

/-- s with an instruction stored where the next step fetches it. (DESIGN CHOICE, log 11) -/
def State.withFetchWord (s : State) (_nbits w : Nat) : State := s.place w

end Sys2Proof.Machine
end

