-- ==== Sys2Proof/Laws/PerInstr.lean ====
section
/-!
SUPPORT. A statement about every instruction as syntax: the decoder reads back the word that the encoder writes, every
operand at every value its field admits (R268, R270, R273). One lemma per constructor.
-/

section

set_option Elab.async false

namespace Sys2Proof.Laws

theorem split32 (w : Nat) (h : w < 4294967296) :
    w % 256 + w / 256 % 256 * 256 + w / 65536 % 256 * 65536 + w / 16777216 % 256 * 16777216 = w := by
  omega

theorem word32_bytes (w : Nat) (h : w < 4294967296) :
    word32 (BitVec.ofNat 8 w) (BitVec.ofNat 8 (w / 256)) (BitVec.ofNat 8 (w / 65536)) (BitVec.ofNat 8 (w / 16777216)) = w := by
  unfold word32
  rw [BitVec.toNat_ofNat, BitVec.toNat_ofNat, BitVec.toNat_ofNat, BitVec.toNat_ofNat]
  exact split32 w h

theorem decode_four (b0 b1 b2 b3 : Byte) (r : List Byte) (i : Instr) (h : decodeWord (word32 b0 b1 b2 b3) = .ok i) :
    decode (b0 :: b1 :: b2 :: b3 :: r) = .ok (i, r) := by
  show withRest r (decodeWord (word32 b0 b1 b2 b3)) = _
  rw [h]
  rfl

/-- What the decoder reads from the bytes of a word is what its map of words says. -/
theorem decode_word {w : Nat} {i : Instr} (h : w < 4294967296) (hd : decodeWord w = .ok i) : decode (wordBytes w) = .ok (i, []) :=
  decode_four _ _ _ _ [] i ((congrArg decodeWord (word32_bytes w h)).trans hd)

/-- The fields of a word of R format (R268). -/
theorem fieldsR (w m s d a b : Nat) (hw : m * 67108864 + s + d * 1048576 + a * 16384 + b * 256 = w)
    (h : m < 64 ∧ s < 256 ∧ d < 64 ∧ a < 64 ∧ b < 64) :
    w < 4294967296 ∧ w / 67108864 = m ∧ w % 256 = s ∧ w / 1048576 % 64 = d ∧ w / 16384 % 64 = a ∧ w / 256 % 64 = b := by
  omega

/-- The fields of a word of I format (R268). -/
theorem fieldsI (w m s d a imm : Nat) (hw : m * 67108864 + s * 4096 + d * 1048576 + a * 16384 + imm = w)
    (h : m < 64 ∧ s < 4 ∧ d < 64 ∧ a < 64 ∧ imm < 4096) :
    w < 4294967296 ∧ w / 67108864 = m ∧ w / 4096 % 4 = s ∧ w / 1048576 % 64 = d ∧ w / 16384 % 64 = a ∧ w % 4096 = imm := by
  omega

/-- The fields of a word of M format (R268). -/
theorem fieldsM (w m s d a sz off : Nat) (hw : m * 67108864 + s * 8192 + d * 1048576 + a * 16384 + sz * 2048 + off = w)
    (h : m < 64 ∧ s < 2 ∧ d < 64 ∧ a < 64 ∧ sz < 4 ∧ off < 2048) :
    w < 4294967296 ∧ w / 67108864 = m ∧ w / 8192 % 2 = s ∧ w / 1048576 % 64 = d ∧ w / 16384 % 64 = a ∧ w / 2048 % 4 = sz ∧
      w % 2048 = off := by
  omega

/-- The fields of a word of A format (R268). -/
theorem fieldsA (w m s d a b ord scope : Nat)
    (hw : m * 67108864 + s * 16 + d * 1048576 + a * 16384 + b * 256 + ord * 4 + scope = w)
    (h : m < 64 ∧ s < 16 ∧ d < 64 ∧ a < 64 ∧ b < 64 ∧ ord < 4 ∧ scope < 4) :
    w < 4294967296 ∧ w / 67108864 = m ∧ w / 16 % 16 = s ∧ w / 1048576 % 64 = d ∧ w / 16384 % 64 = a ∧ w / 256 % 64 = b ∧
      w / 4 % 4 = ord ∧ w % 4 = scope := by
  omega

namespace RoundTrip

/-- The words that the encoder writes for an instruction decode to it. -/
def Statement (i : Instr) : Prop := i.wf → ∀ w, encode i = some w → decode (wordBytes w) = .ok (i, [])

theorem hintImm (hi : Nat) : Statement (.hintImm hi) := by
  intro h w hw
  have hw := Option.some.inj hw
  simp only [Instr.wf, Instr.fieldsFit, decide_eq_true_eq] at h
  have m : w / 67108864 = 0 := by omega
  have s : w / 4194304 % 16 = 1 := by omega
  have f0 : w % 4194304 = hi := by omega
  exact decode_word (by omega) (by simp only [decodeWord, m, decodeHint, s, f0])

theorem hintMod (rm wsize : Nat) : Statement (.hintMod rm wsize) := by
  intro h w hw
  have hw := Option.some.inj hw
  simp only [Instr.wf, Instr.fieldsFit, Bool.and_eq_true, decide_eq_true_eq] at h
  have m : w / 67108864 = 0 := by omega
  have s : w / 4194304 % 16 = 2 := by omega
  have r : w % 262144 = 0 := by omega
  have f0 : w / 524288 % 8 = rm := by omega
  have f1 : w / 262144 % 2 = wsize := by omega
  exact decode_word (by omega) (by simp [decodeWord, m, decodeHint, s, r, f0, f1])

theorem hintMma (stride : Nat) : Statement (.hintMma stride) := by
  intro h w hw
  have hw := Option.some.inj hw
  simp only [Instr.wf, Instr.fieldsFit, decide_eq_true_eq] at h
  have m : w / 67108864 = 0 := by omega
  have s : w / 4194304 % 16 = 3 := by omega
  have r : w % 64 = 0 ∧ w / 2097152 % 2 = 0 := by omega
  have f0 : w / 64 % 32768 = stride := by omega
  exact decode_word (by omega) (by simp [decodeWord, m, decodeHint, s, r, f0])

theorem hintScope (scope ord keep : Nat) : Statement (.hintScope scope ord keep) := by
  intro h w hw
  have hw := Option.some.inj hw
  simp only [Instr.wf, Instr.fieldsFit, Bool.and_eq_true, decide_eq_true_eq] at h
  have m : w / 67108864 = 0 := by omega
  have s : w / 4194304 % 16 = 4 := by omega
  have r : w % 65536 = 0 := by omega
  have f0 : w / 1048576 % 4 = scope := by omega
  have f1 : w / 262144 % 4 = ord := by omega
  have f2 : w / 65536 % 4 = keep := by omega
  exact decode_word (by omega) (by simp [decodeWord, m, decodeHint, s, r, f0, f1, f2])

theorem add (d a b : Nat) : Statement (.add d a b) := by
  intro h w hw
  simp only [Instr.wf, Instr.fieldsFit, Bool.and_eq_true, decide_eq_true_eq] at h
  obtain ⟨l, m, s, f0, f1, f2⟩ := fieldsR w 1 0 d a b (Option.some.inj hw) (by omega)
  exact decode_word l (by simp only [decodeWord, m, decodeAluR, s, f0, f1, f2])

theorem sub (d a b : Nat) : Statement (.sub d a b) := by
  intro h w hw
  simp only [Instr.wf, Instr.fieldsFit, Bool.and_eq_true, decide_eq_true_eq] at h
  obtain ⟨l, m, s, f0, f1, f2⟩ := fieldsR w 1 1 d a b (Option.some.inj hw) (by omega)
  exact decode_word l (by simp only [decodeWord, m, decodeAluR, s, f0, f1, f2])

theorem and (d a b : Nat) : Statement (.and d a b) := by
  intro h w hw
  simp only [Instr.wf, Instr.fieldsFit, Bool.and_eq_true, decide_eq_true_eq] at h
  obtain ⟨l, m, s, f0, f1, f2⟩ := fieldsR w 1 2 d a b (Option.some.inj hw) (by omega)
  exact decode_word l (by simp only [decodeWord, m, decodeAluR, s, f0, f1, f2])

theorem or (d a b : Nat) : Statement (.or d a b) := by
  intro h w hw
  simp only [Instr.wf, Instr.fieldsFit, Bool.and_eq_true, decide_eq_true_eq] at h
  obtain ⟨l, m, s, f0, f1, f2⟩ := fieldsR w 1 3 d a b (Option.some.inj hw) (by omega)
  exact decode_word l (by simp only [decodeWord, m, decodeAluR, s, f0, f1, f2])

theorem xor (d a b : Nat) : Statement (.xor d a b) := by
  intro h w hw
  simp only [Instr.wf, Instr.fieldsFit, Bool.and_eq_true, decide_eq_true_eq] at h
  obtain ⟨l, m, s, f0, f1, f2⟩ := fieldsR w 1 4 d a b (Option.some.inj hw) (by omega)
  exact decode_word l (by simp only [decodeWord, m, decodeAluR, s, f0, f1, f2])

theorem andn (d a b : Nat) : Statement (.andn d a b) := by
  intro h w hw
  simp only [Instr.wf, Instr.fieldsFit, Bool.and_eq_true, decide_eq_true_eq] at h
  obtain ⟨l, m, s, f0, f1, f2⟩ := fieldsR w 1 5 d a b (Option.some.inj hw) (by omega)
  exact decode_word l (by simp only [decodeWord, m, decodeAluR, s, f0, f1, f2])

theorem orn (d a b : Nat) : Statement (.orn d a b) := by
  intro h w hw
  simp only [Instr.wf, Instr.fieldsFit, Bool.and_eq_true, decide_eq_true_eq] at h
  obtain ⟨l, m, s, f0, f1, f2⟩ := fieldsR w 1 6 d a b (Option.some.inj hw) (by omega)
  exact decode_word l (by simp only [decodeWord, m, decodeAluR, s, f0, f1, f2])

theorem shl (d a b : Nat) : Statement (.shl d a b) := by
  intro h w hw
  simp only [Instr.wf, Instr.fieldsFit, Bool.and_eq_true, decide_eq_true_eq] at h
  obtain ⟨l, m, s, f0, f1, f2⟩ := fieldsR w 1 7 d a b (Option.some.inj hw) (by omega)
  exact decode_word l (by simp only [decodeWord, m, decodeAluR, s, f0, f1, f2])

theorem shr (d a b : Nat) : Statement (.shr d a b) := by
  intro h w hw
  simp only [Instr.wf, Instr.fieldsFit, Bool.and_eq_true, decide_eq_true_eq] at h
  obtain ⟨l, m, s, f0, f1, f2⟩ := fieldsR w 1 8 d a b (Option.some.inj hw) (by omega)
  exact decode_word l (by simp only [decodeWord, m, decodeAluR, s, f0, f1, f2])

theorem sra (d a b : Nat) : Statement (.sra d a b) := by
  intro h w hw
  simp only [Instr.wf, Instr.fieldsFit, Bool.and_eq_true, decide_eq_true_eq] at h
  obtain ⟨l, m, s, f0, f1, f2⟩ := fieldsR w 1 9 d a b (Option.some.inj hw) (by omega)
  exact decode_word l (by simp only [decodeWord, m, decodeAluR, s, f0, f1, f2])

theorem rol (d a b : Nat) : Statement (.rol d a b) := by
  intro h w hw
  simp only [Instr.wf, Instr.fieldsFit, Bool.and_eq_true, decide_eq_true_eq] at h
  obtain ⟨l, m, s, f0, f1, f2⟩ := fieldsR w 1 10 d a b (Option.some.inj hw) (by omega)
  exact decode_word l (by simp only [decodeWord, m, decodeAluR, s, f0, f1, f2])

theorem min (d a b : Nat) : Statement (.min d a b) := by
  intro h w hw
  simp only [Instr.wf, Instr.fieldsFit, Bool.and_eq_true, decide_eq_true_eq] at h
  obtain ⟨l, m, s, f0, f1, f2⟩ := fieldsR w 1 11 d a b (Option.some.inj hw) (by omega)
  exact decode_word l (by simp only [decodeWord, m, decodeAluR, s, f0, f1, f2])

theorem max (d a b : Nat) : Statement (.max d a b) := by
  intro h w hw
  simp only [Instr.wf, Instr.fieldsFit, Bool.and_eq_true, decide_eq_true_eq] at h
  obtain ⟨l, m, s, f0, f1, f2⟩ := fieldsR w 1 12 d a b (Option.some.inj hw) (by omega)
  exact decode_word l (by simp only [decodeWord, m, decodeAluR, s, f0, f1, f2])

theorem minu (d a b : Nat) : Statement (.minu d a b) := by
  intro h w hw
  simp only [Instr.wf, Instr.fieldsFit, Bool.and_eq_true, decide_eq_true_eq] at h
  obtain ⟨l, m, s, f0, f1, f2⟩ := fieldsR w 1 13 d a b (Option.some.inj hw) (by omega)
  exact decode_word l (by simp only [decodeWord, m, decodeAluR, s, f0, f1, f2])

theorem maxu (d a b : Nat) : Statement (.maxu d a b) := by
  intro h w hw
  simp only [Instr.wf, Instr.fieldsFit, Bool.and_eq_true, decide_eq_true_eq] at h
  obtain ⟨l, m, s, f0, f1, f2⟩ := fieldsR w 1 14 d a b (Option.some.inj hw) (by omega)
  exact decode_word l (by simp only [decodeWord, m, decodeAluR, s, f0, f1, f2])

theorem abs (d a : Nat) : Statement (.abs d a) := by
  intro h w hw
  simp only [Instr.wf, Instr.fieldsFit, Bool.and_eq_true, decide_eq_true_eq] at h
  obtain ⟨l, m, s, f0, f1, f2⟩ := fieldsR w 1 15 d a 0 (Option.some.inj hw) (by omega)
  exact decode_word l (by simp [decodeWord, m, decodeAluR, s, f0, f1, f2])

theorem neg (d a : Nat) : Statement (.neg d a) := by
  intro h w hw
  simp only [Instr.wf, Instr.fieldsFit, Bool.and_eq_true, decide_eq_true_eq] at h
  obtain ⟨l, m, s, f0, f1, f2⟩ := fieldsR w 1 16 d a 0 (Option.some.inj hw) (by omega)
  exact decode_word l (by simp [decodeWord, m, decodeAluR, s, f0, f1, f2])

theorem mov (d a : Nat) : Statement (.mov d a) := by
  intro h w hw
  simp only [Instr.wf, Instr.fieldsFit, Bool.and_eq_true, decide_eq_true_eq] at h
  obtain ⟨l, m, s, f0, f1, f2⟩ := fieldsR w 1 17 d a 0 (Option.some.inj hw) (by omega)
  exact decode_word l (by simp [decodeWord, m, decodeAluR, s, f0, f1, f2])

theorem cmov (d a b : Nat) : Statement (.cmov d a b) := by
  intro h w hw
  simp only [Instr.wf, Instr.fieldsFit, Bool.and_eq_true, decide_eq_true_eq] at h
  obtain ⟨l, m, s, f0, f1, f2⟩ := fieldsR w 1 18 d a b (Option.some.inj hw) (by omega)
  exact decode_word l (by simp only [decodeWord, m, decodeAluR, s, f0, f1, f2])

theorem addi (d a imm : Nat) : Statement (.addi d a imm) := by
  intro h w hw
  simp only [Instr.wf, Instr.fieldsFit, Bool.and_eq_true, decide_eq_true_eq] at h
  obtain ⟨l, m, s, f0, f1, f2⟩ := fieldsI w 2 0 d a imm (Option.some.inj hw) (by omega)
  exact decode_word l (by simp only [decodeWord, m, decodeAluI, s, f0, f1, f2])

theorem andi (d a imm : Nat) : Statement (.andi d a imm) := by
  intro h w hw
  simp only [Instr.wf, Instr.fieldsFit, Bool.and_eq_true, decide_eq_true_eq] at h
  obtain ⟨l, m, s, f0, f1, f2⟩ := fieldsI w 2 1 d a imm (Option.some.inj hw) (by omega)
  exact decode_word l (by simp only [decodeWord, m, decodeAluI, s, f0, f1, f2])

theorem ori (d a imm : Nat) : Statement (.ori d a imm) := by
  intro h w hw
  simp only [Instr.wf, Instr.fieldsFit, Bool.and_eq_true, decide_eq_true_eq] at h
  obtain ⟨l, m, s, f0, f1, f2⟩ := fieldsI w 2 2 d a imm (Option.some.inj hw) (by omega)
  exact decode_word l (by simp only [decodeWord, m, decodeAluI, s, f0, f1, f2])

theorem xori (d a imm : Nat) : Statement (.xori d a imm) := by
  intro h w hw
  simp only [Instr.wf, Instr.fieldsFit, Bool.and_eq_true, decide_eq_true_eq] at h
  obtain ⟨l, m, s, f0, f1, f2⟩ := fieldsI w 2 3 d a imm (Option.some.inj hw) (by omega)
  exact decode_word l (by simp only [decodeWord, m, decodeAluI, s, f0, f1, f2])

theorem shli (d a sh : Nat) : Statement (.shli d a sh) := by
  intro h w hw
  have hw := Option.some.inj hw
  simp only [Instr.wf, Instr.fieldsFit, Bool.and_eq_true, decide_eq_true_eq] at h
  have m : w / 67108864 = 3 := by omega
  have s : w / 4096 % 4 = 0 := by omega
  have r : w / 64 % 64 = 0 := by omega
  have f0 : w / 1048576 % 64 = d := by omega
  have f1 : w / 16384 % 64 = a := by omega
  have f2 : w % 64 = sh := by omega
  exact decode_word (by omega) (by simp [decodeWord, m, decodeShiftI, s, r, f0, f1, f2])

theorem shri (d a sh : Nat) : Statement (.shri d a sh) := by
  intro h w hw
  have hw := Option.some.inj hw
  simp only [Instr.wf, Instr.fieldsFit, Bool.and_eq_true, decide_eq_true_eq] at h
  have m : w / 67108864 = 3 := by omega
  have s : w / 4096 % 4 = 1 := by omega
  have r : w / 64 % 64 = 0 := by omega
  have f0 : w / 1048576 % 64 = d := by omega
  have f1 : w / 16384 % 64 = a := by omega
  have f2 : w % 64 = sh := by omega
  exact decode_word (by omega) (by simp [decodeWord, m, decodeShiftI, s, r, f0, f1, f2])

theorem srai (d a sh : Nat) : Statement (.srai d a sh) := by
  intro h w hw
  have hw := Option.some.inj hw
  simp only [Instr.wf, Instr.fieldsFit, Bool.and_eq_true, decide_eq_true_eq] at h
  have m : w / 67108864 = 3 := by omega
  have s : w / 4096 % 4 = 2 := by omega
  have r : w / 64 % 64 = 0 := by omega
  have f0 : w / 1048576 % 64 = d := by omega
  have f1 : w / 16384 % 64 = a := by omega
  have f2 : w % 64 = sh := by omega
  exact decode_word (by omega) (by simp [decodeWord, m, decodeShiftI, s, r, f0, f1, f2])

theorem roli (d a sh : Nat) : Statement (.roli d a sh) := by
  intro h w hw
  have hw := Option.some.inj hw
  simp only [Instr.wf, Instr.fieldsFit, Bool.and_eq_true, decide_eq_true_eq] at h
  have m : w / 67108864 = 3 := by omega
  have s : w / 4096 % 4 = 3 := by omega
  have r : w / 64 % 64 = 0 := by omega
  have f0 : w / 1048576 % 64 = d := by omega
  have f1 : w / 16384 % 64 = a := by omega
  have f2 : w % 64 = sh := by omega
  exact decode_word (by omega) (by simp [decodeWord, m, decodeShiftI, s, r, f0, f1, f2])

theorem ceq (d a b : Nat) : Statement (.ceq d a b) := by
  intro h w hw
  simp only [Instr.wf, Instr.fieldsFit, Bool.and_eq_true, decide_eq_true_eq] at h
  obtain ⟨l, m, s, f0, f1, f2⟩ := fieldsR w 4 0 d a b (Option.some.inj hw) (by omega)
  exact decode_word l (by simp only [decodeWord, m, decodeCmpR, s, f0, f1, f2])

theorem cne (d a b : Nat) : Statement (.cne d a b) := by
  intro h w hw
  simp only [Instr.wf, Instr.fieldsFit, Bool.and_eq_true, decide_eq_true_eq] at h
  obtain ⟨l, m, s, f0, f1, f2⟩ := fieldsR w 4 1 d a b (Option.some.inj hw) (by omega)
  exact decode_word l (by simp only [decodeWord, m, decodeCmpR, s, f0, f1, f2])

theorem clt (d a b : Nat) : Statement (.clt d a b) := by
  intro h w hw
  simp only [Instr.wf, Instr.fieldsFit, Bool.and_eq_true, decide_eq_true_eq] at h
  obtain ⟨l, m, s, f0, f1, f2⟩ := fieldsR w 4 2 d a b (Option.some.inj hw) (by omega)
  exact decode_word l (by simp only [decodeWord, m, decodeCmpR, s, f0, f1, f2])

theorem cle (d a b : Nat) : Statement (.cle d a b) := by
  intro h w hw
  simp only [Instr.wf, Instr.fieldsFit, Bool.and_eq_true, decide_eq_true_eq] at h
  obtain ⟨l, m, s, f0, f1, f2⟩ := fieldsR w 4 3 d a b (Option.some.inj hw) (by omega)
  exact decode_word l (by simp only [decodeWord, m, decodeCmpR, s, f0, f1, f2])

theorem cltu (d a b : Nat) : Statement (.cltu d a b) := by
  intro h w hw
  simp only [Instr.wf, Instr.fieldsFit, Bool.and_eq_true, decide_eq_true_eq] at h
  obtain ⟨l, m, s, f0, f1, f2⟩ := fieldsR w 4 4 d a b (Option.some.inj hw) (by omega)
  exact decode_word l (by simp only [decodeWord, m, decodeCmpR, s, f0, f1, f2])

theorem cleu (d a b : Nat) : Statement (.cleu d a b) := by
  intro h w hw
  simp only [Instr.wf, Instr.fieldsFit, Bool.and_eq_true, decide_eq_true_eq] at h
  obtain ⟨l, m, s, f0, f1, f2⟩ := fieldsR w 4 5 d a b (Option.some.inj hw) (by omega)
  exact decode_word l (by simp only [decodeWord, m, decodeCmpR, s, f0, f1, f2])

theorem ceqi (d a imm : Nat) : Statement (.ceqi d a imm) := by
  intro h w hw
  simp only [Instr.wf, Instr.fieldsFit, Bool.and_eq_true, decide_eq_true_eq] at h
  obtain ⟨l, m, s, f0, f1, f2⟩ := fieldsI w 5 0 d a imm (Option.some.inj hw) (by omega)
  exact decode_word l (by simp only [decodeWord, m, decodeCmpI, s, f0, f1, f2])

theorem cnei (d a imm : Nat) : Statement (.cnei d a imm) := by
  intro h w hw
  simp only [Instr.wf, Instr.fieldsFit, Bool.and_eq_true, decide_eq_true_eq] at h
  obtain ⟨l, m, s, f0, f1, f2⟩ := fieldsI w 5 1 d a imm (Option.some.inj hw) (by omega)
  exact decode_word l (by simp only [decodeWord, m, decodeCmpI, s, f0, f1, f2])

theorem clti (d a imm : Nat) : Statement (.clti d a imm) := by
  intro h w hw
  simp only [Instr.wf, Instr.fieldsFit, Bool.and_eq_true, decide_eq_true_eq] at h
  obtain ⟨l, m, s, f0, f1, f2⟩ := fieldsI w 5 2 d a imm (Option.some.inj hw) (by omega)
  exact decode_word l (by simp only [decodeWord, m, decodeCmpI, s, f0, f1, f2])

theorem cltui (d a imm : Nat) : Statement (.cltui d a imm) := by
  intro h w hw
  simp only [Instr.wf, Instr.fieldsFit, Bool.and_eq_true, decide_eq_true_eq] at h
  obtain ⟨l, m, s, f0, f1, f2⟩ := fieldsI w 5 3 d a imm (Option.some.inj hw) (by omega)
  exact decode_word l (by simp only [decodeWord, m, decodeCmpI, s, f0, f1, f2])

theorem mul (d a b : Nat) : Statement (.mul d a b) := by
  intro h w hw
  simp only [Instr.wf, Instr.fieldsFit, Bool.and_eq_true, decide_eq_true_eq] at h
  obtain ⟨l, m, s, f0, f1, f2⟩ := fieldsR w 6 0 d a b (Option.some.inj hw) (by omega)
  exact decode_word l (by simp only [decodeWord, m, decodeMul, s, f0, f1, f2])

theorem mulh (d a b : Nat) : Statement (.mulh d a b) := by
  intro h w hw
  simp only [Instr.wf, Instr.fieldsFit, Bool.and_eq_true, decide_eq_true_eq] at h
  obtain ⟨l, m, s, f0, f1, f2⟩ := fieldsR w 6 1 d a b (Option.some.inj hw) (by omega)
  exact decode_word l (by simp only [decodeWord, m, decodeMul, s, f0, f1, f2])

theorem mulhu (d a b : Nat) : Statement (.mulhu d a b) := by
  intro h w hw
  simp only [Instr.wf, Instr.fieldsFit, Bool.and_eq_true, decide_eq_true_eq] at h
  obtain ⟨l, m, s, f0, f1, f2⟩ := fieldsR w 6 2 d a b (Option.some.inj hw) (by omega)
  exact decode_word l (by simp only [decodeWord, m, decodeMul, s, f0, f1, f2])

theorem div (d a b : Nat) : Statement (.div d a b) := by
  intro h w hw
  simp only [Instr.wf, Instr.fieldsFit, Bool.and_eq_true, decide_eq_true_eq] at h
  obtain ⟨l, m, s, f0, f1, f2⟩ := fieldsR w 6 3 d a b (Option.some.inj hw) (by omega)
  exact decode_word l (by simp only [decodeWord, m, decodeMul, s, f0, f1, f2])

theorem divu (d a b : Nat) : Statement (.divu d a b) := by
  intro h w hw
  simp only [Instr.wf, Instr.fieldsFit, Bool.and_eq_true, decide_eq_true_eq] at h
  obtain ⟨l, m, s, f0, f1, f2⟩ := fieldsR w 6 4 d a b (Option.some.inj hw) (by omega)
  exact decode_word l (by simp only [decodeWord, m, decodeMul, s, f0, f1, f2])

theorem rem (d a b : Nat) : Statement (.rem d a b) := by
  intro h w hw
  simp only [Instr.wf, Instr.fieldsFit, Bool.and_eq_true, decide_eq_true_eq] at h
  obtain ⟨l, m, s, f0, f1, f2⟩ := fieldsR w 6 5 d a b (Option.some.inj hw) (by omega)
  exact decode_word l (by simp only [decodeWord, m, decodeMul, s, f0, f1, f2])

theorem remu (d a b : Nat) : Statement (.remu d a b) := by
  intro h w hw
  simp only [Instr.wf, Instr.fieldsFit, Bool.and_eq_true, decide_eq_true_eq] at h
  obtain ⟨l, m, s, f0, f1, f2⟩ := fieldsR w 6 6 d a b (Option.some.inj hw) (by omega)
  exact decode_word l (by simp only [decodeWord, m, decodeMul, s, f0, f1, f2])

theorem sethi (d imm : Nat) : Statement (.sethi d imm) := by
  intro h w hw
  have hw := Option.some.inj hw
  simp only [Instr.wf, Instr.fieldsFit, Bool.and_eq_true, decide_eq_true_eq] at h
  have m : w / 67108864 = 7 := by omega
  have f0 : w / 1048576 % 64 = d := by omega
  have f1 : w % 1048576 = imm := by omega
  exact decode_word (by omega) (by simp only [decodeWord, m, decodeSethi, f0, f1])

theorem addpc (d imm : Nat) : Statement (.addpc d imm) := by
  intro h w hw
  have hw := Option.some.inj hw
  simp only [Instr.wf, Instr.fieldsFit, Bool.and_eq_true, decide_eq_true_eq] at h
  have m : w / 67108864 = 8 := by omega
  have f0 : w / 1048576 % 64 = d := by omega
  have f1 : w % 1048576 = imm := by omega
  exact decode_word (by omega) (by simp only [decodeWord, m, decodeAddpc, f0, f1])

theorem clz (d a : Nat) : Statement (.clz d a) := by
  intro h w hw
  simp only [Instr.wf, Instr.fieldsFit, Bool.and_eq_true, decide_eq_true_eq] at h
  obtain ⟨l, m, s, f0, f1, f2⟩ := fieldsR w 9 0 d a 0 (Option.some.inj hw) (by omega)
  exact decode_word l (by simp [decodeWord, m, decodeBits, s, f0, f1, f2])

theorem ctz (d a : Nat) : Statement (.ctz d a) := by
  intro h w hw
  simp only [Instr.wf, Instr.fieldsFit, Bool.and_eq_true, decide_eq_true_eq] at h
  obtain ⟨l, m, s, f0, f1, f2⟩ := fieldsR w 9 1 d a 0 (Option.some.inj hw) (by omega)
  exact decode_word l (by simp [decodeWord, m, decodeBits, s, f0, f1, f2])

theorem popc (d a : Nat) : Statement (.popc d a) := by
  intro h w hw
  simp only [Instr.wf, Instr.fieldsFit, Bool.and_eq_true, decide_eq_true_eq] at h
  obtain ⟨l, m, s, f0, f1, f2⟩ := fieldsR w 9 2 d a 0 (Option.some.inj hw) (by omega)
  exact decode_word l (by simp [decodeWord, m, decodeBits, s, f0, f1, f2])

theorem brev (d a : Nat) : Statement (.brev d a) := by
  intro h w hw
  simp only [Instr.wf, Instr.fieldsFit, Bool.and_eq_true, decide_eq_true_eq] at h
  obtain ⟨l, m, s, f0, f1, f2⟩ := fieldsR w 9 3 d a 0 (Option.some.inj hw) (by omega)
  exact decode_word l (by simp [decodeWord, m, decodeBits, s, f0, f1, f2])

theorem bext (d a b : Nat) : Statement (.bext d a b) := by
  intro h w hw
  simp only [Instr.wf, Instr.fieldsFit, Bool.and_eq_true, decide_eq_true_eq] at h
  obtain ⟨l, m, s, f0, f1, f2⟩ := fieldsR w 9 4 d a b (Option.some.inj hw) (by omega)
  exact decode_word l (by simp only [decodeWord, m, decodeBits, s, f0, f1, f2])

theorem bins (d a b : Nat) : Statement (.bins d a b) := by
  intro h w hw
  simp only [Instr.wf, Instr.fieldsFit, Bool.and_eq_true, decide_eq_true_eq] at h
  obtain ⟨l, m, s, f0, f1, f2⟩ := fieldsR w 9 5 d a b (Option.some.inj hw) (by omega)
  exact decode_word l (by simp only [decodeWord, m, decodeBits, s, f0, f1, f2])

theorem mapld (a imm : Nat) : Statement (.mapld a imm) := by
  intro h w hw
  have hw := Option.some.inj hw
  simp only [Instr.wf, Instr.fieldsFit, Bool.and_eq_true, decide_eq_true_eq] at h
  have m : w / 67108864 = 10 := by omega
  have s : w / 4096 % 4 = 0 := by omega
  have r : w / 1048576 % 64 = 0 := by omega
  have f0 : w / 16384 % 64 = a := by omega
  have f1 : w % 4096 = imm := by omega
  exact decode_word (by omega) (by simp [decodeWord, m, decodePattern, s, r, f0, f1])

theorem resz (d kind wd : Nat) : Statement (.resz d kind wd) := by
  intro h w hw
  have hw := Option.some.inj hw
  simp only [Instr.wf, Instr.fieldsFit, Bool.and_eq_true, decide_eq_true_eq] at h
  have m : w / 67108864 = 10 := by omega
  have s : w / 4096 % 4 = 1 := by omega
  have r : w / 1024 % 4 = 0 ∧ w / 16384 % 64 = 0 := by omega
  have f0 : w / 1048576 % 64 = d := by omega
  have f1 : w / 64 % 16 = kind := by omega
  have f2 : w % 64 = wd := by omega
  exact decode_word (by omega) (by simp [decodeWord, m, decodePattern, s, r, f0, f1, f2])

theorem wqry (d sel nm : Nat) : Statement (.wqry d sel nm) := by
  intro h w hw
  have hw := Option.some.inj hw
  simp only [Instr.wf, Instr.fieldsFit, Bool.and_eq_true, decide_eq_true_eq] at h
  have m : w / 67108864 = 10 := by omega
  have s : w / 4096 % 4 = 2 := by omega
  have r : w / 256 % 16 = 0 ∧ w / 16384 % 64 = 0 := by omega
  have f0 : w / 1048576 % 64 = d := by omega
  have f1 : w / 64 % 4 = sel := by omega
  have f2 : w % 64 = nm := by omega
  exact decode_word (by omega) (by simp [decodeWord, m, decodePattern, s, r, f0, f1, f2])

theorem pol (d pcy : Nat) : Statement (.pol d pcy) := by
  intro h w hw
  have hw := Option.some.inj hw
  simp only [Instr.wf, Instr.fieldsFit, Bool.and_eq_true, decide_eq_true_eq] at h
  have m : w / 67108864 = 10 := by omega
  have s : w / 4096 % 4 = 3 := by omega
  have r : w / 4 % 1024 = 0 ∧ w / 16384 % 64 = 0 := by omega
  have f0 : w / 1048576 % 64 = d := by omega
  have f1 : w % 4 = pcy := by omega
  exact decode_word (by omega) (by simp [decodeWord, m, decodePattern, s, r, f0, f1])

theorem cvt (d a : Nat) : Statement (.cvt d a) := by
  intro h w hw
  simp only [Instr.wf, Instr.fieldsFit, Bool.and_eq_true, decide_eq_true_eq] at h
  obtain ⟨l, m, s, f0, f1, f2⟩ := fieldsR w 11 0 d a 0 (Option.some.inj hw) (by omega)
  exact decode_word l (by simp [decodeWord, m, decodeConv, s, f0, f1, f2])

theorem pack (d a : Nat) : Statement (.pack d a) := by
  intro h w hw
  simp only [Instr.wf, Instr.fieldsFit, Bool.and_eq_true, decide_eq_true_eq] at h
  obtain ⟨l, m, s, f0, f1, f2⟩ := fieldsR w 11 1 d a 0 (Option.some.inj hw) (by omega)
  exact decode_word l (by simp [decodeWord, m, decodeConv, s, f0, f1, f2])

theorem unpk (d a pl : Nat) : Statement (.unpk d a pl) := by
  intro h w hw
  simp only [Instr.wf, Instr.fieldsFit, Bool.and_eq_true, decide_eq_true_eq] at h
  obtain ⟨l, m, s, f0, f1, f2⟩ := fieldsR w 11 2 d a pl (Option.some.inj hw) (by omega)
  exact decode_word l (by simp only [decodeWord, m, decodeConv, s, f0, f1, f2])

theorem fadd (d a b : Nat) : Statement (.fadd d a b) := by
  intro h w hw
  simp only [Instr.wf, Instr.fieldsFit, Bool.and_eq_true, decide_eq_true_eq] at h
  obtain ⟨l, m, s, f0, f1, f2⟩ := fieldsR w 12 0 d a b (Option.some.inj hw) (by omega)
  exact decode_word l (by simp only [decodeWord, m, decodeFloatR, s, f0, f1, f2])

theorem fsub (d a b : Nat) : Statement (.fsub d a b) := by
  intro h w hw
  simp only [Instr.wf, Instr.fieldsFit, Bool.and_eq_true, decide_eq_true_eq] at h
  obtain ⟨l, m, s, f0, f1, f2⟩ := fieldsR w 12 1 d a b (Option.some.inj hw) (by omega)
  exact decode_word l (by simp only [decodeWord, m, decodeFloatR, s, f0, f1, f2])

theorem fmul (d a b : Nat) : Statement (.fmul d a b) := by
  intro h w hw
  simp only [Instr.wf, Instr.fieldsFit, Bool.and_eq_true, decide_eq_true_eq] at h
  obtain ⟨l, m, s, f0, f1, f2⟩ := fieldsR w 12 2 d a b (Option.some.inj hw) (by omega)
  exact decode_word l (by simp only [decodeWord, m, decodeFloatR, s, f0, f1, f2])

theorem fmin (d a b : Nat) : Statement (.fmin d a b) := by
  intro h w hw
  simp only [Instr.wf, Instr.fieldsFit, Bool.and_eq_true, decide_eq_true_eq] at h
  obtain ⟨l, m, s, f0, f1, f2⟩ := fieldsR w 12 3 d a b (Option.some.inj hw) (by omega)
  exact decode_word l (by simp only [decodeWord, m, decodeFloatR, s, f0, f1, f2])

theorem fmax (d a b : Nat) : Statement (.fmax d a b) := by
  intro h w hw
  simp only [Instr.wf, Instr.fieldsFit, Bool.and_eq_true, decide_eq_true_eq] at h
  obtain ⟨l, m, s, f0, f1, f2⟩ := fieldsR w 12 4 d a b (Option.some.inj hw) (by omega)
  exact decode_word l (by simp only [decodeWord, m, decodeFloatR, s, f0, f1, f2])

theorem fabs (d a : Nat) : Statement (.fabs d a) := by
  intro h w hw
  simp only [Instr.wf, Instr.fieldsFit, Bool.and_eq_true, decide_eq_true_eq] at h
  obtain ⟨l, m, s, f0, f1, f2⟩ := fieldsR w 12 5 d a 0 (Option.some.inj hw) (by omega)
  exact decode_word l (by simp [decodeWord, m, decodeFloatR, s, f0, f1, f2])

theorem fneg (d a : Nat) : Statement (.fneg d a) := by
  intro h w hw
  simp only [Instr.wf, Instr.fieldsFit, Bool.and_eq_true, decide_eq_true_eq] at h
  obtain ⟨l, m, s, f0, f1, f2⟩ := fieldsR w 12 6 d a 0 (Option.some.inj hw) (by omega)
  exact decode_word l (by simp [decodeWord, m, decodeFloatR, s, f0, f1, f2])

theorem fceq (d a b : Nat) : Statement (.fceq d a b) := by
  intro h w hw
  simp only [Instr.wf, Instr.fieldsFit, Bool.and_eq_true, decide_eq_true_eq] at h
  obtain ⟨l, m, s, f0, f1, f2⟩ := fieldsR w 12 7 d a b (Option.some.inj hw) (by omega)
  exact decode_word l (by simp only [decodeWord, m, decodeFloatR, s, f0, f1, f2])

theorem fclt (d a b : Nat) : Statement (.fclt d a b) := by
  intro h w hw
  simp only [Instr.wf, Instr.fieldsFit, Bool.and_eq_true, decide_eq_true_eq] at h
  obtain ⟨l, m, s, f0, f1, f2⟩ := fieldsR w 12 8 d a b (Option.some.inj hw) (by omega)
  exact decode_word l (by simp only [decodeWord, m, decodeFloatR, s, f0, f1, f2])

theorem fcle (d a b : Nat) : Statement (.fcle d a b) := by
  intro h w hw
  simp only [Instr.wf, Instr.fieldsFit, Bool.and_eq_true, decide_eq_true_eq] at h
  obtain ⟨l, m, s, f0, f1, f2⟩ := fieldsR w 12 9 d a b (Option.some.inj hw) (by omega)
  exact decode_word l (by simp only [decodeWord, m, decodeFloatR, s, f0, f1, f2])

theorem fclass (d a : Nat) : Statement (.fclass d a) := by
  intro h w hw
  simp only [Instr.wf, Instr.fieldsFit, Bool.and_eq_true, decide_eq_true_eq] at h
  obtain ⟨l, m, s, f0, f1, f2⟩ := fieldsR w 12 10 d a 0 (Option.some.inj hw) (by omega)
  exact decode_word l (by simp [decodeWord, m, decodeFloatR, s, f0, f1, f2])

theorem fma (d a b : Nat) : Statement (.fma d a b) := by
  intro h w hw
  simp only [Instr.wf, Instr.fieldsFit, Bool.and_eq_true, decide_eq_true_eq] at h
  obtain ⟨l, m, s, f0, f1, f2⟩ := fieldsR w 13 0 d a b (Option.some.inj hw) (by omega)
  exact decode_word l (by simp only [decodeWord, m, decodeFma, s, f0, f1, f2])

theorem fnma (d a b : Nat) : Statement (.fnma d a b) := by
  intro h w hw
  simp only [Instr.wf, Instr.fieldsFit, Bool.and_eq_true, decide_eq_true_eq] at h
  obtain ⟨l, m, s, f0, f1, f2⟩ := fieldsR w 13 1 d a b (Option.some.inj hw) (by omega)
  exact decode_word l (by simp only [decodeWord, m, decodeFma, s, f0, f1, f2])

theorem fexp2 (d a : Nat) : Statement (.fexp2 d a) := by
  intro h w hw
  simp only [Instr.wf, Instr.fieldsFit, Bool.and_eq_true, decide_eq_true_eq] at h
  obtain ⟨l, m, s, f0, f1, f2⟩ := fieldsR w 14 0 d a 0 (Option.some.inj hw) (by omega)
  exact decode_word l (by simp [decodeWord, m, decodeFloatFn, s, f0, f1, f2])

theorem flog2 (d a : Nat) : Statement (.flog2 d a) := by
  intro h w hw
  simp only [Instr.wf, Instr.fieldsFit, Bool.and_eq_true, decide_eq_true_eq] at h
  obtain ⟨l, m, s, f0, f1, f2⟩ := fieldsR w 14 1 d a 0 (Option.some.inj hw) (by omega)
  exact decode_word l (by simp [decodeWord, m, decodeFloatFn, s, f0, f1, f2])

theorem frcp (d a : Nat) : Statement (.frcp d a) := by
  intro h w hw
  simp only [Instr.wf, Instr.fieldsFit, Bool.and_eq_true, decide_eq_true_eq] at h
  obtain ⟨l, m, s, f0, f1, f2⟩ := fieldsR w 14 2 d a 0 (Option.some.inj hw) (by omega)
  exact decode_word l (by simp [decodeWord, m, decodeFloatFn, s, f0, f1, f2])

theorem frsq (d a : Nat) : Statement (.frsq d a) := by
  intro h w hw
  simp only [Instr.wf, Instr.fieldsFit, Bool.and_eq_true, decide_eq_true_eq] at h
  obtain ⟨l, m, s, f0, f1, f2⟩ := fieldsR w 14 3 d a 0 (Option.some.inj hw) (by omega)
  exact decode_word l (by simp [decodeWord, m, decodeFloatFn, s, f0, f1, f2])

theorem fsqrt (d a : Nat) : Statement (.fsqrt d a) := by
  intro h w hw
  simp only [Instr.wf, Instr.fieldsFit, Bool.and_eq_true, decide_eq_true_eq] at h
  obtain ⟨l, m, s, f0, f1, f2⟩ := fieldsR w 14 4 d a 0 (Option.some.inj hw) (by omega)
  exact decode_word l (by simp [decodeWord, m, decodeFloatFn, s, f0, f1, f2])

theorem rsum (d a : Nat) : Statement (.rsum d a) := by
  intro h w hw
  simp only [Instr.wf, Instr.fieldsFit, Bool.and_eq_true, decide_eq_true_eq] at h
  obtain ⟨l, m, s, f0, f1, f2⟩ := fieldsR w 15 0 d a 0 (Option.some.inj hw) (by omega)
  exact decode_word l (by simp [decodeWord, m, decodeLanes, s, f0, f1, f2])

theorem rmax (d a : Nat) : Statement (.rmax d a) := by
  intro h w hw
  simp only [Instr.wf, Instr.fieldsFit, Bool.and_eq_true, decide_eq_true_eq] at h
  obtain ⟨l, m, s, f0, f1, f2⟩ := fieldsR w 15 1 d a 0 (Option.some.inj hw) (by omega)
  exact decode_word l (by simp [decodeWord, m, decodeLanes, s, f0, f1, f2])

theorem rmin (d a : Nat) : Statement (.rmin d a) := by
  intro h w hw
  simp only [Instr.wf, Instr.fieldsFit, Bool.and_eq_true, decide_eq_true_eq] at h
  obtain ⟨l, m, s, f0, f1, f2⟩ := fieldsR w 15 2 d a 0 (Option.some.inj hw) (by omega)
  exact decode_word l (by simp [decodeWord, m, decodeLanes, s, f0, f1, f2])

theorem rmaxi (d a : Nat) : Statement (.rmaxi d a) := by
  intro h w hw
  simp only [Instr.wf, Instr.fieldsFit, Bool.and_eq_true, decide_eq_true_eq] at h
  obtain ⟨l, m, s, f0, f1, f2⟩ := fieldsR w 15 3 d a 0 (Option.some.inj hw) (by omega)
  exact decode_word l (by simp [decodeWord, m, decodeLanes, s, f0, f1, f2])

theorem rmini (d a : Nat) : Statement (.rmini d a) := by
  intro h w hw
  simp only [Instr.wf, Instr.fieldsFit, Bool.and_eq_true, decide_eq_true_eq] at h
  obtain ⟨l, m, s, f0, f1, f2⟩ := fieldsR w 15 4 d a 0 (Option.some.inj hw) (by omega)
  exact decode_word l (by simp [decodeWord, m, decodeLanes, s, f0, f1, f2])

theorem rall (d a : Nat) : Statement (.rall d a) := by
  intro h w hw
  simp only [Instr.wf, Instr.fieldsFit, Bool.and_eq_true, decide_eq_true_eq] at h
  obtain ⟨l, m, s, f0, f1, f2⟩ := fieldsR w 15 5 d a 0 (Option.some.inj hw) (by omega)
  exact decode_word l (by simp [decodeWord, m, decodeLanes, s, f0, f1, f2])

theorem rany (d a : Nat) : Statement (.rany d a) := by
  intro h w hw
  simp only [Instr.wf, Instr.fieldsFit, Bool.and_eq_true, decide_eq_true_eq] at h
  obtain ⟨l, m, s, f0, f1, f2⟩ := fieldsR w 15 6 d a 0 (Option.some.inj hw) (by omega)
  exact decode_word l (by simp [decodeWord, m, decodeLanes, s, f0, f1, f2])

theorem rfsum (d a : Nat) : Statement (.rfsum d a) := by
  intro h w hw
  simp only [Instr.wf, Instr.fieldsFit, Bool.and_eq_true, decide_eq_true_eq] at h
  obtain ⟨l, m, s, f0, f1, f2⟩ := fieldsR w 15 7 d a 0 (Option.some.inj hw) (by omega)
  exact decode_word l (by simp [decodeWord, m, decodeLanes, s, f0, f1, f2])

theorem rfmax (d a : Nat) : Statement (.rfmax d a) := by
  intro h w hw
  simp only [Instr.wf, Instr.fieldsFit, Bool.and_eq_true, decide_eq_true_eq] at h
  obtain ⟨l, m, s, f0, f1, f2⟩ := fieldsR w 15 8 d a 0 (Option.some.inj hw) (by omega)
  exact decode_word l (by simp [decodeWord, m, decodeLanes, s, f0, f1, f2])

theorem rfmaxi (d a : Nat) : Statement (.rfmaxi d a) := by
  intro h w hw
  simp only [Instr.wf, Instr.fieldsFit, Bool.and_eq_true, decide_eq_true_eq] at h
  obtain ⟨l, m, s, f0, f1, f2⟩ := fieldsR w 15 9 d a 0 (Option.some.inj hw) (by omega)
  exact decode_word l (by simp [decodeWord, m, decodeLanes, s, f0, f1, f2])

theorem vperm (d a b : Nat) : Statement (.vperm d a b) := by
  intro h w hw
  simp only [Instr.wf, Instr.fieldsFit, Bool.and_eq_true, decide_eq_true_eq] at h
  obtain ⟨l, m, s, f0, f1, f2⟩ := fieldsR w 15 16 d a b (Option.some.inj hw) (by omega)
  exact decode_word l (by simp only [decodeWord, m, decodeLanes, s, f0, f1, f2])

theorem vshuf (d a b : Nat) : Statement (.vshuf d a b) := by
  intro h w hw
  simp only [Instr.wf, Instr.fieldsFit, Bool.and_eq_true, decide_eq_true_eq] at h
  obtain ⟨l, m, s, f0, f1, f2⟩ := fieldsR w 15 17 d a b (Option.some.inj hw) (by omega)
  exact decode_word l (by simp only [decodeWord, m, decodeLanes, s, f0, f1, f2])

theorem vlane (d a b : Nat) : Statement (.vlane d a b) := by
  intro h w hw
  simp only [Instr.wf, Instr.fieldsFit, Bool.and_eq_true, decide_eq_true_eq] at h
  obtain ⟨l, m, s, f0, f1, f2⟩ := fieldsR w 15 18 d a b (Option.some.inj hw) (by omega)
  exact decode_word l (by simp only [decodeWord, m, decodeLanes, s, f0, f1, f2])

theorem vins (d a b : Nat) : Statement (.vins d a b) := by
  intro h w hw
  simp only [Instr.wf, Instr.fieldsFit, Bool.and_eq_true, decide_eq_true_eq] at h
  obtain ⟨l, m, s, f0, f1, f2⟩ := fieldsR w 15 19 d a b (Option.some.inj hw) (by omega)
  exact decode_word l (by simp only [decodeWord, m, decodeLanes, s, f0, f1, f2])

theorem vidx (d a : Nat) : Statement (.vidx d a) := by
  intro h w hw
  simp only [Instr.wf, Instr.fieldsFit, Bool.and_eq_true, decide_eq_true_eq] at h
  obtain ⟨l, m, s, f0, f1, f2⟩ := fieldsR w 15 20 d a 0 (Option.some.inj hw) (by omega)
  exact decode_word l (by simp [decodeWord, m, decodeLanes, s, f0, f1, f2])

theorem vcomp (d a b : Nat) : Statement (.vcomp d a b) := by
  intro h w hw
  simp only [Instr.wf, Instr.fieldsFit, Bool.and_eq_true, decide_eq_true_eq] at h
  obtain ⟨l, m, s, f0, f1, f2⟩ := fieldsR w 15 21 d a b (Option.some.inj hw) (by omega)
  exact decode_word l (by simp only [decodeWord, m, decodeLanes, s, f0, f1, f2])

theorem vtopk (d a b : Nat) : Statement (.vtopk d a b) := by
  intro h w hw
  simp only [Instr.wf, Instr.fieldsFit, Bool.and_eq_true, decide_eq_true_eq] at h
  obtain ⟨l, m, s, f0, f1, f2⟩ := fieldsR w 16 0 d a b (Option.some.inj hw) (by omega)
  exact decode_word l (by simp only [decodeWord, m, decodeStream, s, f0, f1, f2])

theorem vsmax (d a b : Nat) : Statement (.vsmax d a b) := by
  intro h w hw
  simp only [Instr.wf, Instr.fieldsFit, Bool.and_eq_true, decide_eq_true_eq] at h
  obtain ⟨l, m, s, f0, f1, f2⟩ := fieldsR w 16 1 d a b (Option.some.inj hw) (by omega)
  exact decode_word l (by simp only [decodeWord, m, decodeStream, s, f0, f1, f2])

theorem vsoft (d a b : Nat) : Statement (.vsoft d a b) := by
  intro h w hw
  simp only [Instr.wf, Instr.fieldsFit, Bool.and_eq_true, decide_eq_true_eq] at h
  obtain ⟨l, m, s, f0, f1, f2⟩ := fieldsR w 16 2 d a b (Option.some.inj hw) (by omega)
  exact decode_word l (by simp only [decodeWord, m, decodeStream, s, f0, f1, f2])

theorem vsamp (d a b : Nat) : Statement (.vsamp d a b) := by
  intro h w hw
  simp only [Instr.wf, Instr.fieldsFit, Bool.and_eq_true, decide_eq_true_eq] at h
  obtain ⟨l, m, s, f0, f1, f2⟩ := fieldsR w 16 3 d a b (Option.some.inj hw) (by omega)
  exact decode_word l (by simp only [decodeWord, m, decodeStream, s, f0, f1, f2])

theorem vscan (d a b : Nat) : Statement (.vscan d a b) := by
  intro h w hw
  simp only [Instr.wf, Instr.fieldsFit, Bool.and_eq_true, decide_eq_true_eq] at h
  obtain ⟨l, m, s, f0, f1, f2⟩ := fieldsR w 16 4 d a b (Option.some.inj hw) (by omega)
  exact decode_word l (by simp only [decodeWord, m, decodeStream, s, f0, f1, f2])

theorem rng (d a b : Nat) : Statement (.rng d a b) := by
  intro h w hw
  simp only [Instr.wf, Instr.fieldsFit, Bool.and_eq_true, decide_eq_true_eq] at h
  obtain ⟨l, m, s, f0, f1, f2⟩ := fieldsR w 17 0 d a b (Option.some.inj hw) (by omega)
  exact decode_word l (by simp only [decodeWord, m, decodeRng, s, f0, f1, f2])

theorem bt (c disp : Nat) : Statement (.bt c disp) := by
  intro h w hw
  have hw := Option.some.inj hw
  simp only [Instr.wf, Instr.fieldsFit, Bool.and_eq_true, decide_eq_true_eq] at h
  have m : w / 67108864 = 18 := by omega
  have s : w / 524288 % 2 = 1 := by omega
  have f0 : w / 1048576 % 64 = c := by omega
  have f1 : w % 524288 = disp := by omega
  exact decode_word (by omega) (by simp only [decodeWord, m, decodeBranch, s, f0, f1])

theorem bf (c disp : Nat) : Statement (.bf c disp) := by
  intro h w hw
  have hw := Option.some.inj hw
  simp only [Instr.wf, Instr.fieldsFit, Bool.and_eq_true, decide_eq_true_eq] at h
  have m : w / 67108864 = 18 := by omega
  have s : w / 524288 % 2 = 0 := by omega
  have f0 : w / 1048576 % 64 = c := by omega
  have f1 : w % 524288 = disp := by omega
  exact decode_word (by omega) (by simp only [decodeWord, m, decodeBranch, s, f0, f1])

theorem call (disp : Nat) : Statement (.call disp) := by
  intro h w hw
  have hw := Option.some.inj hw
  simp only [Instr.wf, Instr.fieldsFit, decide_eq_true_eq] at h
  have m : w / 67108864 = 19 := by omega
  have f0 : w % 67108864 = disp := by omega
  exact decode_word (by omega) (by simp only [decodeWord, m, decodeCall, f0])

theorem jmp (disp : Nat) : Statement (.jmp disp) := by
  intro h w hw
  have hw := Option.some.inj hw
  simp only [Instr.wf, Instr.fieldsFit, decide_eq_true_eq] at h
  have m : w / 67108864 = 20 := by omega
  have f0 : w % 67108864 = disp := by omega
  exact decode_word (by omega) (by simp only [decodeWord, m, decodeJmp, f0])

theorem jr (c : Nat) : Statement (.jr c) := by
  intro h w hw
  have hw := Option.some.inj hw
  simp only [Instr.wf, Instr.fieldsFit, decide_eq_true_eq] at h
  have m : w / 67108864 = 21 := by omega
  have s : w / 262144 % 4 = 0 := by omega
  have r : w % 262144 = 0 := by omega
  have f0 : w / 1048576 % 64 = c := by omega
  exact decode_word (by omega) (by simp [decodeWord, m, decodeControl, s, r, f0])

theorem callr (c : Nat) : Statement (.callr c) := by
  intro h w hw
  have hw := Option.some.inj hw
  simp only [Instr.wf, Instr.fieldsFit, decide_eq_true_eq] at h
  have m : w / 67108864 = 21 := by omega
  have s : w / 262144 % 4 = 1 := by omega
  have r : w % 262144 = 0 := by omega
  have f0 : w / 1048576 % 64 = c := by omega
  exact decode_word (by omega) (by simp [decodeWord, m, decodeControl, s, r, f0])

theorem ret : Statement .ret := by
  intro h w hw
  have hw := Option.some.inj hw
  have m : w / 67108864 = 21 := by omega
  have s : w / 262144 % 4 = 2 := by omega
  have r : w % 262144 = 0 ∧ w / 1048576 % 64 = 0 := by omega
  exact decode_word (by omega) (by simp [decodeWord, m, decodeControl, s, r])

theorem dbnz (c disp : Nat) : Statement (.dbnz c disp) := by
  intro h w hw
  have hw := Option.some.inj hw
  simp only [Instr.wf, Instr.fieldsFit, Bool.and_eq_true, decide_eq_true_eq] at h
  have m : w / 67108864 = 21 := by omega
  have s : w / 262144 % 4 = 3 := by omega
  have f0 : w / 1048576 % 64 = c := by omega
  have f1 : w % 262144 = disp := by omega
  exact decode_word (by omega) (by simp only [decodeWord, m, decodeControl, s, f0, f1])

theorem ld (d a sz off : Nat) : Statement (.ld d a sz off) := by
  intro h w hw
  simp only [Instr.wf, Instr.fieldsFit, Bool.and_eq_true, decide_eq_true_eq] at h
  obtain ⟨l, m, s, f0, f1, f2, f3⟩ := fieldsM w 24 0 d a sz off (Option.some.inj hw) (by omega)
  exact decode_word l (by simp only [decodeWord, m, decodeLd, s, f0, f1, f2, f3])

theorem st (d a sz off : Nat) : Statement (.st d a sz off) := by
  intro h w hw
  simp only [Instr.wf, Instr.fieldsFit, Bool.and_eq_true, decide_eq_true_eq] at h
  obtain ⟨l, m, s, f0, f1, f2, f3⟩ := fieldsM w 25 0 d a sz off (Option.some.inj hw) (by omega)
  exact decode_word l (by simp only [decodeWord, m, decodeSt, s, f0, f1, f2, f3])

theorem ldv (d a sz off : Nat) : Statement (.ldv d a sz off) := by
  intro h w hw
  simp only [Instr.wf, Instr.fieldsFit, Bool.and_eq_true, decide_eq_true_eq] at h
  obtain ⟨l, m, s, f0, f1, f2, f3⟩ := fieldsM w 26 0 d a sz off (Option.some.inj hw) (by omega)
  exact decode_word l (by simp only [decodeWord, m, decodeLdv, s, f0, f1, f2, f3])

theorem stv (d a sz off : Nat) : Statement (.stv d a sz off) := by
  intro h w hw
  simp only [Instr.wf, Instr.fieldsFit, Bool.and_eq_true, decide_eq_true_eq] at h
  obtain ⟨l, m, s, f0, f1, f2, f3⟩ := fieldsM w 27 0 d a sz off (Option.some.inj hw) (by omega)
  exact decode_word l (by simp only [decodeWord, m, decodeStv, s, f0, f1, f2, f3])

theorem ldx (d a sz off : Nat) : Statement (.ldx d a sz off) := by
  intro h w hw
  simp only [Instr.wf, Instr.fieldsFit, Bool.and_eq_true, decide_eq_true_eq] at h
  obtain ⟨l, m, s, f0, f1, f2, f3⟩ := fieldsM w 28 0 d a sz off (Option.some.inj hw) (by omega)
  exact decode_word l (by simp only [decodeWord, m, decodeLdx, s, f0, f1, f2, f3])

theorem ldxv (d a sz off : Nat) : Statement (.ldxv d a sz off) := by
  intro h w hw
  simp only [Instr.wf, Instr.fieldsFit, Bool.and_eq_true, decide_eq_true_eq] at h
  obtain ⟨l, m, s, f0, f1, f2, f3⟩ := fieldsM w 28 1 d a sz off (Option.some.inj hw) (by omega)
  exact decode_word l (by simp only [decodeWord, m, decodeLdx, s, f0, f1, f2, f3])

theorem stx (d a sz off : Nat) : Statement (.stx d a sz off) := by
  intro h w hw
  simp only [Instr.wf, Instr.fieldsFit, Bool.and_eq_true, decide_eq_true_eq] at h
  obtain ⟨l, m, s, f0, f1, f2, f3⟩ := fieldsM w 29 0 d a sz off (Option.some.inj hw) (by omega)
  exact decode_word l (by simp only [decodeWord, m, decodeStx, s, f0, f1, f2, f3])

theorem stxv (d a sz off : Nat) : Statement (.stxv d a sz off) := by
  intro h w hw
  simp only [Instr.wf, Instr.fieldsFit, Bool.and_eq_true, decide_eq_true_eq] at h
  obtain ⟨l, m, s, f0, f1, f2, f3⟩ := fieldsM w 29 1 d a sz off (Option.some.inj hw) (by omega)
  exact decode_word l (by simp only [decodeWord, m, decodeStx, s, f0, f1, f2, f3])

theorem ldg (d a sz off : Nat) : Statement (.ldg d a sz off) := by
  intro h w hw
  simp only [Instr.wf, Instr.fieldsFit, Bool.and_eq_true, decide_eq_true_eq] at h
  obtain ⟨l, m, s, f0, f1, f2, f3⟩ := fieldsM w 30 0 d a sz off (Option.some.inj hw) (by omega)
  exact decode_word l (by simp only [decodeWord, m, decodeLdg, s, f0, f1, f2, f3])

theorem stg (d a sz off : Nat) : Statement (.stg d a sz off) := by
  intro h w hw
  simp only [Instr.wf, Instr.fieldsFit, Bool.and_eq_true, decide_eq_true_eq] at h
  obtain ⟨l, m, s, f0, f1, f2, f3⟩ := fieldsM w 31 0 d a sz off (Option.some.inj hw) (by omega)
  exact decode_word l (by simp only [decodeWord, m, decodeStg, s, f0, f1, f2, f3])

theorem amoAdd (d a b ord scope : Nat) : Statement (.amoAdd d a b ord scope) := by
  intro h w hw
  simp only [Instr.wf, Instr.fieldsFit, Bool.and_eq_true, decide_eq_true_eq] at h
  obtain ⟨l, m, s, f0, f1, f2, f3, f4⟩ := fieldsA w 32 0 d a b ord scope (Option.some.inj hw) (by omega)
  exact decode_word l (by simp only [decodeWord, m, decodeAmo, s, f0, f1, f2, f3, f4])

theorem amoAnd (d a b ord scope : Nat) : Statement (.amoAnd d a b ord scope) := by
  intro h w hw
  simp only [Instr.wf, Instr.fieldsFit, Bool.and_eq_true, decide_eq_true_eq] at h
  obtain ⟨l, m, s, f0, f1, f2, f3, f4⟩ := fieldsA w 32 1 d a b ord scope (Option.some.inj hw) (by omega)
  exact decode_word l (by simp only [decodeWord, m, decodeAmo, s, f0, f1, f2, f3, f4])

theorem amoOr (d a b ord scope : Nat) : Statement (.amoOr d a b ord scope) := by
  intro h w hw
  simp only [Instr.wf, Instr.fieldsFit, Bool.and_eq_true, decide_eq_true_eq] at h
  obtain ⟨l, m, s, f0, f1, f2, f3, f4⟩ := fieldsA w 32 2 d a b ord scope (Option.some.inj hw) (by omega)
  exact decode_word l (by simp only [decodeWord, m, decodeAmo, s, f0, f1, f2, f3, f4])

theorem amoXor (d a b ord scope : Nat) : Statement (.amoXor d a b ord scope) := by
  intro h w hw
  simp only [Instr.wf, Instr.fieldsFit, Bool.and_eq_true, decide_eq_true_eq] at h
  obtain ⟨l, m, s, f0, f1, f2, f3, f4⟩ := fieldsA w 32 3 d a b ord scope (Option.some.inj hw) (by omega)
  exact decode_word l (by simp only [decodeWord, m, decodeAmo, s, f0, f1, f2, f3, f4])

theorem amoMin (d a b ord scope : Nat) : Statement (.amoMin d a b ord scope) := by
  intro h w hw
  simp only [Instr.wf, Instr.fieldsFit, Bool.and_eq_true, decide_eq_true_eq] at h
  obtain ⟨l, m, s, f0, f1, f2, f3, f4⟩ := fieldsA w 32 4 d a b ord scope (Option.some.inj hw) (by omega)
  exact decode_word l (by simp only [decodeWord, m, decodeAmo, s, f0, f1, f2, f3, f4])

theorem amoMax (d a b ord scope : Nat) : Statement (.amoMax d a b ord scope) := by
  intro h w hw
  simp only [Instr.wf, Instr.fieldsFit, Bool.and_eq_true, decide_eq_true_eq] at h
  obtain ⟨l, m, s, f0, f1, f2, f3, f4⟩ := fieldsA w 32 5 d a b ord scope (Option.some.inj hw) (by omega)
  exact decode_word l (by simp only [decodeWord, m, decodeAmo, s, f0, f1, f2, f3, f4])

theorem amoMinu (d a b ord scope : Nat) : Statement (.amoMinu d a b ord scope) := by
  intro h w hw
  simp only [Instr.wf, Instr.fieldsFit, Bool.and_eq_true, decide_eq_true_eq] at h
  obtain ⟨l, m, s, f0, f1, f2, f3, f4⟩ := fieldsA w 32 6 d a b ord scope (Option.some.inj hw) (by omega)
  exact decode_word l (by simp only [decodeWord, m, decodeAmo, s, f0, f1, f2, f3, f4])

theorem amoMaxu (d a b ord scope : Nat) : Statement (.amoMaxu d a b ord scope) := by
  intro h w hw
  simp only [Instr.wf, Instr.fieldsFit, Bool.and_eq_true, decide_eq_true_eq] at h
  obtain ⟨l, m, s, f0, f1, f2, f3, f4⟩ := fieldsA w 32 7 d a b ord scope (Option.some.inj hw) (by omega)
  exact decode_word l (by simp only [decodeWord, m, decodeAmo, s, f0, f1, f2, f3, f4])

theorem amoXchg (d a b ord scope : Nat) : Statement (.amoXchg d a b ord scope) := by
  intro h w hw
  simp only [Instr.wf, Instr.fieldsFit, Bool.and_eq_true, decide_eq_true_eq] at h
  obtain ⟨l, m, s, f0, f1, f2, f3, f4⟩ := fieldsA w 32 8 d a b ord scope (Option.some.inj hw) (by omega)
  exact decode_word l (by simp only [decodeWord, m, decodeAmo, s, f0, f1, f2, f3, f4])

theorem amoCas (d a b ord scope : Nat) : Statement (.amoCas d a b ord scope) := by
  intro h w hw
  simp only [Instr.wf, Instr.fieldsFit, Bool.and_eq_true, decide_eq_true_eq] at h
  obtain ⟨l, m, s, f0, f1, f2, f3, f4⟩ := fieldsA w 32 9 d a b ord scope (Option.some.inj hw) (by omega)
  exact decode_word l (by simp only [decodeWord, m, decodeAmo, s, f0, f1, f2, f3, f4])

theorem amoIncw (d a b ord scope : Nat) : Statement (.amoIncw d a b ord scope) := by
  intro h w hw
  simp only [Instr.wf, Instr.fieldsFit, Bool.and_eq_true, decide_eq_true_eq] at h
  obtain ⟨l, m, s, f0, f1, f2, f3, f4⟩ := fieldsA w 32 10 d a b ord scope (Option.some.inj hw) (by omega)
  exact decode_word l (by simp only [decodeWord, m, decodeAmo, s, f0, f1, f2, f3, f4])

theorem amoBfa (d a b ord scope : Nat) : Statement (.amoBfa d a b ord scope) := by
  intro h w hw
  simp only [Instr.wf, Instr.fieldsFit, Bool.and_eq_true, decide_eq_true_eq] at h
  obtain ⟨l, m, s, f0, f1, f2, f3, f4⟩ := fieldsA w 32 11 d a b ord scope (Option.some.inj hw) (by omega)
  exact decode_word l (by simp only [decodeWord, m, decodeAmo, s, f0, f1, f2, f3, f4])

theorem amoLd (d a ord scope : Nat) : Statement (.amoLd d a ord scope) := by
  intro h w hw
  simp only [Instr.wf, Instr.fieldsFit, Bool.and_eq_true, decide_eq_true_eq] at h
  obtain ⟨l, m, s, f0, f1, f2, f3, f4⟩ := fieldsA w 32 12 d a 0 ord scope (Option.some.inj hw) (by omega)
  exact decode_word l (by simp [decodeWord, m, decodeAmo, s, f0, f1, f2, f3, f4])

theorem amoSt (a b ord scope : Nat) : Statement (.amoSt a b ord scope) := by
  intro h w hw
  simp only [Instr.wf, Instr.fieldsFit, Bool.and_eq_true, decide_eq_true_eq] at h
  obtain ⟨l, m, s, f0, f1, f2, f3, f4⟩ := fieldsA w 32 13 0 a b ord scope (Option.some.inj hw) (by omega)
  exact decode_word l (by simp [decodeWord, m, decodeAmo, s, f0, f1, f2, f3, f4])

theorem fence (ord scope : Nat) : Statement (.fence ord scope) := by
  intro h w hw
  have hw := Option.some.inj hw
  simp only [Instr.wf, Instr.fieldsFit, Bool.and_eq_true, decide_eq_true_eq] at h
  have m : w / 67108864 = 33 := by omega
  have s : w / 16 % 16 = 0 := by omega
  have r : w / 256 % 262144 = 0 := by omega
  have f0 : w / 4 % 4 = ord := by omega
  have f1 : w % 4 = scope := by omega
  exact decode_word (by omega) (by simp [decodeWord, m, decodeFence, s, r, f0, f1])

theorem aliasf : Statement .aliasf := by
  intro h w hw
  have hw := Option.some.inj hw
  have m : w / 67108864 = 33 := by omega
  have s : w / 16 % 16 = 1 := by omega
  have r : w % 16 = 0 ∧ w / 256 % 262144 = 0 := by omega
  exact decode_word (by omega) (by simp [decodeWord, m, decodeFence, s, r])

theorem fencec : Statement .fencec := by
  intro h w hw
  have hw := Option.some.inj hw
  have m : w / 67108864 = 33 := by omega
  have s : w / 16 % 16 = 2 := by omega
  have r : w % 16 = 0 ∧ w / 256 % 262144 = 0 := by omega
  exact decode_word (by omega) (by simp [decodeWord, m, decodeFence, s, r])

theorem barArr (d b : Nat) : Statement (.barArr d b) := by
  intro h w hw
  have hw := Option.some.inj hw
  simp only [Instr.wf, Instr.fieldsFit, Bool.and_eq_true, decide_eq_true_eq] at h
  have m : w / 67108864 = 34 := by omega
  have s : w % 256 = 0 := by omega
  have r : w / 16384 % 64 = 0 := by omega
  have f0 : w / 1048576 % 64 = d := by omega
  have f1 : w / 256 % 64 = b := by omega
  exact decode_word (by omega) (by simp [decodeWord, m, decodeSync, s, r, f0, f1])

theorem barWait (a b : Nat) : Statement (.barWait a b) := by
  intro h w hw
  simp only [Instr.wf, Instr.fieldsFit, Bool.and_eq_true, decide_eq_true_eq] at h
  obtain ⟨l, m, s, f0, f1, f2⟩ := fieldsR w 34 1 0 a b (Option.some.inj hw) (by omega)
  exact decode_word l (by simp [decodeWord, m, decodeSync, s, f0, f1, f2])

theorem barSync (b : Nat) : Statement (.barSync b) := by
  intro h w hw
  have hw := Option.some.inj hw
  simp only [Instr.wf, Instr.fieldsFit, decide_eq_true_eq] at h
  have m : w / 67108864 = 34 := by omega
  have s : w % 256 = 2 := by omega
  have r : w / 16384 % 4096 = 0 := by omega
  have f0 : w / 256 % 64 = b := by omega
  exact decode_word (by omega) (by simp [decodeWord, m, decodeSync, s, r, f0])

theorem barCfg (a b : Nat) : Statement (.barCfg a b) := by
  intro h w hw
  simp only [Instr.wf, Instr.fieldsFit, Bool.and_eq_true, decide_eq_true_eq] at h
  obtain ⟨l, m, s, f0, f1, f2⟩ := fieldsR w 34 3 0 a b (Option.some.inj hw) (by omega)
  exact decode_word l (by simp [decodeWord, m, decodeSync, s, f0, f1, f2])

theorem acqs (b : Nat) : Statement (.acqs b) := by
  intro h w hw
  have hw := Option.some.inj hw
  simp only [Instr.wf, Instr.fieldsFit, decide_eq_true_eq] at h
  have m : w / 67108864 = 34 := by omega
  have s : w % 256 = 4 := by omega
  have r : w / 16384 % 4096 = 0 := by omega
  have f0 : w / 256 % 64 = b := by omega
  exact decode_word (by omega) (by simp [decodeWord, m, decodeSync, s, r, f0])

theorem rels (b : Nat) : Statement (.rels b) := by
  intro h w hw
  have hw := Option.some.inj hw
  simp only [Instr.wf, Instr.fieldsFit, decide_eq_true_eq] at h
  have m : w / 67108864 = 34 := by omega
  have s : w % 256 = 5 := by omega
  have r : w / 16384 % 4096 = 0 := by omega
  have f0 : w / 256 % 64 = b := by omega
  exact decode_word (by omega) (by simp [decodeWord, m, decodeSync, s, r, f0])

theorem qput (a b : Nat) : Statement (.qput a b) := by
  intro h w hw
  simp only [Instr.wf, Instr.fieldsFit, Bool.and_eq_true, decide_eq_true_eq] at h
  obtain ⟨l, m, s, f0, f1, f2⟩ := fieldsR w 34 6 0 a b (Option.some.inj hw) (by omega)
  exact decode_word l (by simp [decodeWord, m, decodeSync, s, f0, f1, f2])

theorem qget (d b : Nat) : Statement (.qget d b) := by
  intro h w hw
  have hw := Option.some.inj hw
  simp only [Instr.wf, Instr.fieldsFit, Bool.and_eq_true, decide_eq_true_eq] at h
  have m : w / 67108864 = 34 := by omega
  have s : w % 256 = 7 := by omega
  have r : w / 16384 % 64 = 0 := by omega
  have f0 : w / 1048576 % 64 = d := by omega
  have f1 : w / 256 % 64 = b := by omega
  exact decode_word (by omega) (by simp [decodeWord, m, decodeSync, s, r, f0, f1])

theorem qtry (d b : Nat) : Statement (.qtry d b) := by
  intro h w hw
  have hw := Option.some.inj hw
  simp only [Instr.wf, Instr.fieldsFit, Bool.and_eq_true, decide_eq_true_eq] at h
  have m : w / 67108864 = 34 := by omega
  have s : w % 256 = 8 := by omega
  have r : w / 16384 % 64 = 0 := by omega
  have f0 : w / 1048576 % 64 = d := by omega
  have f1 : w / 256 % 64 = b := by omega
  exact decode_word (by omega) (by simp [decodeWord, m, decodeSync, s, r, f0, f1])

theorem send (a b : Nat) : Statement (.send a b) := by
  intro h w hw
  simp only [Instr.wf, Instr.fieldsFit, Bool.and_eq_true, decide_eq_true_eq] at h
  obtain ⟨l, m, s, f0, f1, f2⟩ := fieldsR w 35 0 0 a b (Option.some.inj hw) (by omega)
  exact decode_word l (by simp [decodeWord, m, decodeMessage, s, f0, f1, f2])

theorem sendh (a b : Nat) : Statement (.sendh a b) := by
  intro h w hw
  simp only [Instr.wf, Instr.fieldsFit, Bool.and_eq_true, decide_eq_true_eq] at h
  obtain ⟨l, m, s, f0, f1, f2⟩ := fieldsR w 35 1 0 a b (Option.some.inj hw) (by omega)
  exact decode_word l (by simp [decodeWord, m, decodeMessage, s, f0, f1, f2])

theorem recv (d a : Nat) : Statement (.recv d a) := by
  intro h w hw
  simp only [Instr.wf, Instr.fieldsFit, Bool.and_eq_true, decide_eq_true_eq] at h
  obtain ⟨l, m, s, f0, f1, f2⟩ := fieldsR w 35 2 d a 0 (Option.some.inj hw) (by omega)
  exact decode_word l (by simp [decodeWord, m, decodeMessage, s, f0, f1, f2])

theorem recvt (d a b : Nat) : Statement (.recvt d a b) := by
  intro h w hw
  simp only [Instr.wf, Instr.fieldsFit, Bool.and_eq_true, decide_eq_true_eq] at h
  obtain ⟨l, m, s, f0, f1, f2⟩ := fieldsR w 35 3 d a b (Option.some.inj hw) (by omega)
  exact decode_word l (by simp only [decodeWord, m, decodeMessage, s, f0, f1, f2])

theorem waitwL (d a b : Nat) : Statement (.waitwL d a b) := by
  intro h w hw
  simp only [Instr.wf, Instr.fieldsFit, Bool.and_eq_true, decide_eq_true_eq] at h
  obtain ⟨l, m, s, f0, f1, f2⟩ := fieldsR w 36 0 d a b (Option.some.inj hw) (by omega)
  exact decode_word l (by simp only [decodeWord, m, decodeWaitw, s, f0, f1, f2])

theorem waitwX (d a b : Nat) : Statement (.waitwX d a b) := by
  intro h w hw
  simp only [Instr.wf, Instr.fieldsFit, Bool.and_eq_true, decide_eq_true_eq] at h
  obtain ⟨l, m, s, f0, f1, f2⟩ := fieldsR w 36 1 d a b (Option.some.inj hw) (by omega)
  exact decode_word l (by simp only [decodeWord, m, decodeWaitw, s, f0, f1, f2])

theorem lease (a b : Nat) : Statement (.lease a b) := by
  intro h w hw
  simp only [Instr.wf, Instr.fieldsFit, Bool.and_eq_true, decide_eq_true_eq] at h
  obtain ⟨l, m, s, f0, f1, f2⟩ := fieldsR w 37 0 0 a b (Option.some.inj hw) (by omega)
  exact decode_word l (by simp [decodeWord, m, decodeLease, s, f0, f1, f2])

theorem leaseRel (b : Nat) : Statement (.leaseRel b) := by
  intro h w hw
  have hw := Option.some.inj hw
  simp only [Instr.wf, Instr.fieldsFit, decide_eq_true_eq] at h
  have m : w / 67108864 = 37 := by omega
  have s : w % 256 = 1 := by omega
  have r : w / 16384 % 4096 = 0 := by omega
  have f0 : w / 256 % 64 = b := by omega
  exact decode_word (by omega) (by simp [decodeWord, m, decodeLease, s, r, f0])

theorem mma (a b tile zi : Nat) : Statement (.mma a b tile zi) := by
  intro h w hw
  have hw := Option.some.inj hw
  simp only [Instr.wf, Instr.fieldsFit, Bool.and_eq_true, decide_eq_true_eq] at h
  have m : w / 67108864 = 40 := by omega
  have s : w / 16777216 % 4 = 0 := by omega
  have r : w % 16 = 0 := by omega
  have f0 : w / 262144 % 64 = a := by omega
  have f1 : w / 4096 % 64 = b := by omega
  have f2 : w / 32 % 128 = tile := by omega
  have f3 : w / 16 % 2 = zi := by omega
  exact decode_word (by omega) (by simp [decodeWord, m, decodeMatrix, s, r, f0, f1, f2, f3])

theorem mmas (a b tile zi : Nat) : Statement (.mmas a b tile zi) := by
  intro h w hw
  have hw := Option.some.inj hw
  simp only [Instr.wf, Instr.fieldsFit, Bool.and_eq_true, decide_eq_true_eq] at h
  have m : w / 67108864 = 40 := by omega
  have s : w / 16777216 % 4 = 1 := by omega
  have r : w % 16 = 0 := by omega
  have f0 : w / 262144 % 64 = a := by omega
  have f1 : w / 4096 % 64 = b := by omega
  have f2 : w / 32 % 128 = tile := by omega
  have f3 : w / 16 % 2 = zi := by omega
  exact decode_word (by omega) (by simp [decodeWord, m, decodeMatrix, s, r, f0, f1, f2, f3])

theorem mzero (tile : Nat) : Statement (.mzero tile) := by
  intro h w hw
  have hw := Option.some.inj hw
  simp only [Instr.wf, Instr.fieldsFit, decide_eq_true_eq] at h
  have m : w / 67108864 = 41 := by omega
  have s : w / 16777216 % 4 = 0 := by omega
  have r : w % 2048 = 0 ∧ w / 262144 % 64 = 0 := by omega
  have f0 : w / 2048 % 128 = tile := by omega
  exact decode_word (by omega) (by simp [decodeWord, m, decodeAcc, s, r, f0])

theorem maccrd (a tile : Nat) : Statement (.maccrd a tile) := by
  intro h w hw
  have hw := Option.some.inj hw
  simp only [Instr.wf, Instr.fieldsFit, Bool.and_eq_true, decide_eq_true_eq] at h
  have m : w / 67108864 = 41 := by omega
  have s : w / 16777216 % 4 = 1 := by omega
  have r : w % 2048 = 0 := by omega
  have f0 : w / 262144 % 64 = a := by omega
  have f1 : w / 2048 % 128 = tile := by omega
  exact decode_word (by omega) (by simp [decodeWord, m, decodeAcc, s, r, f0, f1])

theorem maccwr (a tile : Nat) : Statement (.maccwr a tile) := by
  intro h w hw
  have hw := Option.some.inj hw
  simp only [Instr.wf, Instr.fieldsFit, Bool.and_eq_true, decide_eq_true_eq] at h
  have m : w / 67108864 = 41 := by omega
  have s : w / 16777216 % 4 = 2 := by omega
  have r : w % 2048 = 0 := by omega
  have f0 : w / 262144 % 64 = a := by omega
  have f1 : w / 2048 % 128 = tile := by omega
  exact decode_word (by omega) (by simp [decodeWord, m, decodeAcc, s, r, f0, f1])

theorem scacc (a tile src : Nat) : Statement (.scacc a tile src) := by
  intro h w hw
  have hw := Option.some.inj hw
  simp only [Instr.wf, Instr.fieldsFit, Bool.and_eq_true, decide_eq_true_eq] at h
  have m : w / 67108864 = 41 := by omega
  have s : w / 16777216 % 4 = 3 := by omega
  have r : w % 16 = 0 := by omega
  have f0 : w / 262144 % 64 = a := by omega
  have f1 : w / 2048 % 128 = tile := by omega
  have f2 : w / 16 % 128 = src := by omega
  exact decode_word (by omega) (by simp [decodeWord, m, decodeAcc, s, r, f0, f1, f2])

theorem mldb (a b slot : Nat) : Statement (.mldb a b slot) := by
  intro h w hw
  have hw := Option.some.inj hw
  simp only [Instr.wf, Instr.fieldsFit, Bool.and_eq_true, decide_eq_true_eq] at h
  have m : w / 67108864 = 42 := by omega
  have s : w / 16777216 % 4 = 0 := by omega
  have r : w % 256 = 0 := by omega
  have f0 : w / 262144 % 64 = a := by omega
  have f1 : w / 4096 % 64 = b := by omega
  have f2 : w / 256 % 16 = slot := by omega
  exact decode_word (by omega) (by simp [decodeWord, m, decodeMatrixLoad, s, r, f0, f1, f2])

theorem mldm (a b slot : Nat) : Statement (.mldm a b slot) := by
  intro h w hw
  have hw := Option.some.inj hw
  simp only [Instr.wf, Instr.fieldsFit, Bool.and_eq_true, decide_eq_true_eq] at h
  have m : w / 67108864 = 42 := by omega
  have s : w / 16777216 % 4 = 1 := by omega
  have r : w % 256 = 0 := by omega
  have f0 : w / 262144 % 64 = a := by omega
  have f1 : w / 4096 % 64 = b := by omega
  have f2 : w / 256 % 16 = slot := by omega
  exact decode_word (by omega) (by simp [decodeWord, m, decodeMatrixLoad, s, r, f0, f1, f2])

theorem cpy (a : Nat) : Statement (.cpy a) := by
  intro h w hw
  simp only [Instr.wf, Instr.fieldsFit, decide_eq_true_eq] at h
  obtain ⟨l, m, s, f0, f1, f2⟩ := fieldsR w 44 0 0 a 0 (Option.some.inj hw) (by omega)
  exact decode_word l (by simp [decodeWord, m, decodeCourier, s, f0, f1, f2])

theorem qcpy (a : Nat) : Statement (.qcpy a) := by
  intro h w hw
  simp only [Instr.wf, Instr.fieldsFit, decide_eq_true_eq] at h
  obtain ⟨l, m, s, f0, f1, f2⟩ := fieldsR w 44 1 0 a 0 (Option.some.inj hw) (by omega)
  exact decode_word l (by simp [decodeWord, m, decodeCourier, s, f0, f1, f2])

theorem zcpy (a : Nat) : Statement (.zcpy a) := by
  intro h w hw
  simp only [Instr.wf, Instr.fieldsFit, decide_eq_true_eq] at h
  obtain ⟨l, m, s, f0, f1, f2⟩ := fieldsR w 44 2 0 a 0 (Option.some.inj hw) (by omega)
  exact decode_word l (by simp [decodeWord, m, decodeCourier, s, f0, f1, f2])

theorem xcpy (a : Nat) : Statement (.xcpy a) := by
  intro h w hw
  simp only [Instr.wf, Instr.fieldsFit, decide_eq_true_eq] at h
  obtain ⟨l, m, s, f0, f1, f2⟩ := fieldsR w 44 3 0 a 0 (Option.some.inj hw) (by omega)
  exact decode_word l (by simp [decodeWord, m, decodeCourier, s, f0, f1, f2])

theorem jstat (d a : Nat) : Statement (.jstat d a) := by
  intro h w hw
  simp only [Instr.wf, Instr.fieldsFit, Bool.and_eq_true, decide_eq_true_eq] at h
  obtain ⟨l, m, s, f0, f1, f2⟩ := fieldsR w 44 4 d a 0 (Option.some.inj hw) (by omega)
  exact decode_word l (by simp [decodeWord, m, decodeCourier, s, f0, f1, f2])

theorem jcancel (a : Nat) : Statement (.jcancel a) := by
  intro h w hw
  simp only [Instr.wf, Instr.fieldsFit, decide_eq_true_eq] at h
  obtain ⟨l, m, s, f0, f1, f2⟩ := fieldsR w 44 5 0 a 0 (Option.some.inj hw) (by omega)
  exact decode_word l (by simp [decodeWord, m, decodeCourier, s, f0, f1, f2])

theorem spawn (a : Nat) : Statement (.spawn a) := by
  intro h w hw
  simp only [Instr.wf, Instr.fieldsFit, decide_eq_true_eq] at h
  obtain ⟨l, m, s, f0, f1, f2⟩ := fieldsR w 48 0 0 a 0 (Option.some.inj hw) (by omega)
  exact decode_word l (by simp [decodeWord, m, decodeTask, s, f0, f1, f2])

theorem done : Statement .done := by
  intro h w hw
  have hw := Option.some.inj hw
  have m : w / 67108864 = 48 := by omega
  have s : w % 256 = 1 := by omega
  have r : w / 256 % 262144 = 0 := by omega
  exact decode_word (by omega) (by simp [decodeWord, m, decodeTask, s, r])

theorem yield : Statement .yield := by
  intro h w hw
  have hw := Option.some.inj hw
  have m : w / 67108864 = 48 := by omega
  have s : w % 256 = 2 := by omega
  have r : w / 256 % 262144 = 0 := by omega
  exact decode_word (by omega) (by simp [decodeWord, m, decodeTask, s, r])

theorem tidq (d b : Nat) : Statement (.tidq d b) := by
  intro h w hw
  have hw := Option.some.inj hw
  simp only [Instr.wf, Instr.fieldsFit, Bool.and_eq_true, decide_eq_true_eq] at h
  have m : w / 67108864 = 48 := by omega
  have s : w % 256 = 3 := by omega
  have r : w / 16384 % 64 = 0 := by omega
  have f0 : w / 1048576 % 64 = d := by omega
  have f1 : w / 256 % 64 = b := by omega
  exact decode_word (by omega) (by simp [decodeWord, m, decodeTask, s, r, f0, f1])

theorem vtsend (a b : Nat) : Statement (.vtsend a b) := by
  intro h w hw
  simp only [Instr.wf, Instr.fieldsFit, Bool.and_eq_true, decide_eq_true_eq] at h
  obtain ⟨l, m, s, f0, f1, f2⟩ := fieldsR w 49 0 0 a b (Option.some.inj hw) (by omega)
  exact decode_word l (by simp [decodeWord, m, decodeVt, s, f0, f1, f2])

theorem vtrecv (d a : Nat) : Statement (.vtrecv d a) := by
  intro h w hw
  simp only [Instr.wf, Instr.fieldsFit, Bool.and_eq_true, decide_eq_true_eq] at h
  obtain ⟨l, m, s, f0, f1, f2⟩ := fieldsR w 49 1 d a 0 (Option.some.inj hw) (by omega)
  exact decode_word l (by simp [decodeWord, m, decodeVt, s, f0, f1, f2])

theorem vtadv (a : Nat) : Statement (.vtadv a) := by
  intro h w hw
  simp only [Instr.wf, Instr.fieldsFit, decide_eq_true_eq] at h
  obtain ⟨l, m, s, f0, f1, f2⟩ := fieldsR w 49 2 0 a 0 (Option.some.inj hw) (by omega)
  exact decode_word l (by simp [decodeWord, m, decodeVt, s, f0, f1, f2])

theorem vtann (a b : Nat) : Statement (.vtann a b) := by
  intro h w hw
  simp only [Instr.wf, Instr.fieldsFit, Bool.and_eq_true, decide_eq_true_eq] at h
  obtain ⟨l, m, s, f0, f1, f2⟩ := fieldsR w 49 3 0 a b (Option.some.inj hw) (by omega)
  exact decode_word l (by simp [decodeWord, m, decodeVt, s, f0, f1, f2])

theorem vtnull : Statement .vtnull := by
  intro h w hw
  have hw := Option.some.inj hw
  have m : w / 67108864 = 49 := by omega
  have s : w % 256 = 4 := by omega
  have r : w / 256 % 262144 = 0 := by omega
  exact decode_word (by omega) (by simp [decodeWord, m, decodeVt, s, r])

theorem vthor (d : Nat) : Statement (.vthor d) := by
  intro h w hw
  have hw := Option.some.inj hw
  simp only [Instr.wf, Instr.fieldsFit, decide_eq_true_eq] at h
  have m : w / 67108864 = 49 := by omega
  have s : w % 256 = 5 := by omega
  have r : w / 256 % 4096 = 0 := by omega
  have f0 : w / 1048576 % 64 = d := by omega
  exact decode_word (by omega) (by simp [decodeWord, m, decodeVt, s, r, f0])

theorem trap (a b : Nat) : Statement (.trap a b) := by
  intro h w hw
  simp only [Instr.wf, Instr.fieldsFit, Bool.and_eq_true, decide_eq_true_eq] at h
  obtain ⟨l, m, s, f0, f1, f2⟩ := fieldsR w 50 0 0 a b (Option.some.inj hw) (by omega)
  exact decode_word l (by simp [decodeWord, m, decodeSystem, s, f0, f1, f2])

theorem scall (a b : Nat) : Statement (.scall a b) := by
  intro h w hw
  simp only [Instr.wf, Instr.fieldsFit, Bool.and_eq_true, decide_eq_true_eq] at h
  obtain ⟨l, m, s, f0, f1, f2⟩ := fieldsR w 50 1 0 a b (Option.some.inj hw) (by omega)
  exact decode_word l (by simp [decodeWord, m, decodeSystem, s, f0, f1, f2])

theorem eret (a : Nat) : Statement (.eret a) := by
  intro h w hw
  simp only [Instr.wf, Instr.fieldsFit, decide_eq_true_eq] at h
  obtain ⟨l, m, s, f0, f1, f2⟩ := fieldsR w 50 2 0 a 0 (Option.some.inj hw) (by omega)
  exact decode_word l (by simp [decodeWord, m, decodeSystem, s, f0, f1, f2])

theorem cwr (d a b : Nat) : Statement (.cwr d a b) := by
  intro h w hw
  simp only [Instr.wf, Instr.fieldsFit, Bool.and_eq_true, decide_eq_true_eq] at h
  obtain ⟨l, m, s, f0, f1, f2⟩ := fieldsR w 50 3 d a b (Option.some.inj hw) (by omega)
  exact decode_word l (by simp only [decodeWord, m, decodeSystem, s, f0, f1, f2])

theorem cww (d a b : Nat) : Statement (.cww d a b) := by
  intro h w hw
  simp only [Instr.wf, Instr.fieldsFit, Bool.and_eq_true, decide_eq_true_eq] at h
  obtain ⟨l, m, s, f0, f1, f2⟩ := fieldsR w 50 4 d a b (Option.some.inj hw) (by omega)
  exact decode_word l (by simp only [decodeWord, m, decodeSystem, s, f0, f1, f2])

theorem snap (d : Nat) : Statement (.snap d) := by
  intro h w hw
  have hw := Option.some.inj hw
  simp only [Instr.wf, Instr.fieldsFit, decide_eq_true_eq] at h
  have m : w / 67108864 = 50 := by omega
  have s : w % 256 = 5 := by omega
  have r : w / 256 % 4096 = 0 := by omega
  have f0 : w / 1048576 % 64 = d := by omega
  exact decode_word (by omega) (by simp [decodeWord, m, decodeSystem, s, r, f0])

theorem brk (b : Nat) : Statement (.brk b) := by
  intro h w hw
  have hw := Option.some.inj hw
  simp only [Instr.wf, Instr.fieldsFit, decide_eq_true_eq] at h
  have m : w / 67108864 = 50 := by omega
  have s : w % 256 = 6 := by omega
  have r : w / 16384 % 4096 = 0 := by omega
  have f0 : w / 256 % 64 = b := by omega
  exact decode_word (by omega) (by simp [decodeWord, m, decodeSystem, s, r, f0])

theorem halt : Statement .halt := by
  intro h w hw
  have hw := Option.some.inj hw
  have m : w / 67108864 = 50 := by omega
  have s : w % 256 = 7 := by omega
  have r : w / 256 % 262144 = 0 := by omega
  exact decode_word (by omega) (by simp [decodeWord, m, decodeSystem, s, r])

theorem submissionWrite : Statement .submissionWrite := fun _ _ h => nomatch h

theorem submissionHandle : Statement .submissionHandle := fun _ _ h => nomatch h

theorem queuePreempt : Statement .queuePreempt := fun _ _ h => nomatch h

theorem queueResume : Statement .queueResume := fun _ _ h => nomatch h

theorem queueAbort : Statement .queueAbort := fun _ _ h => nomatch h

theorem queueCommandBadOp : Statement .queueCommandBadOp := fun _ _ h => nomatch h

theorem regionActivate : Statement .regionActivate := fun _ _ h => nomatch h

theorem regionDeactivate : Statement .regionDeactivate := fun _ _ h => nomatch h

theorem regionCommandBadOp : Statement .regionCommandBadOp := fun _ _ h => nomatch h

theorem snapshotTrigger : Statement .snapshotTrigger := fun _ _ h => nomatch h

theorem snapshotFiringComplete : Statement .snapshotFiringComplete := fun _ _ h => nomatch h

theorem attestationRequest : Statement .attestationRequest := fun _ _ h => nomatch h

theorem powerLimitWrite : Statement .powerLimitWrite := fun _ _ h => nomatch h

theorem migrationThresholdWrite : Statement .migrationThresholdWrite := fun _ _ h => nomatch h

theorem registerWriteOther : Statement .registerWriteOther := fun _ _ h => nomatch h

theorem accessTableEdit : Statement .accessTableEdit := fun _ _ h => nomatch h

theorem hostMemoryRead : Statement .hostMemoryRead := fun _ _ h => nomatch h

theorem hostMemoryWrite : Statement .hostMemoryWrite := fun _ _ h => nomatch h

theorem debugFreeze : Statement .debugFreeze := fun _ _ h => nomatch h

theorem debugThaw : Statement .debugThaw := fun _ _ h => nomatch h

theorem debugStop : Statement .debugStop := fun _ _ h => nomatch h

theorem debugGo : Statement .debugGo := fun _ _ h => nomatch h

theorem debugStep : Statement .debugStep := fun _ _ h => nomatch h

theorem packageReset : Statement .packageReset := fun _ _ h => nomatch h

theorem firmwareImageVerify : Statement .firmwareImageVerify := fun _ _ h => nomatch h

theorem hostLinkDown : Statement .hostLinkDown := fun _ _ h => nomatch h

theorem hostLinkRetrain : Statement .hostLinkRetrain := fun _ _ h => nomatch h

theorem cxlPortTrain : Statement .cxlPortTrain := fun _ _ h => nomatch h

theorem domainBringup : Statement .domainBringup := fun _ _ h => nomatch h

theorem fabricFrameReceive : Statement .fabricFrameReceive := fun _ _ h => nomatch h

theorem fabricLaneLoss : Statement .fabricLaneLoss := fun _ _ h => nomatch h

theorem fabricPortUp : Statement .fabricPortUp := fun _ _ h => nomatch h

theorem dieLinkFlitDeliver : Statement .dieLinkFlitDeliver := fun _ _ h => nomatch h

theorem powerSample : Statement .powerSample := fun _ _ h => nomatch h

theorem thermalTrip : Statement .thermalTrip := fun _ _ h => nomatch h

theorem supplyRampUpDone : Statement .supplyRampUpDone := fun _ _ h => nomatch h

theorem relockDone : Statement .relockDone := fun _ _ h => nomatch h

theorem supplyRampDownDone : Statement .supplyRampDownDone := fun _ _ h => nomatch h

theorem stewardHeartbeatMiss : Statement .stewardHeartbeatMiss := fun _ _ h => nomatch h

theorem stewardRestartCommand : Statement .stewardRestartCommand := fun _ _ h => nomatch h

theorem stewardRestartDone : Statement .stewardRestartDone := fun _ _ h => nomatch h

theorem patrolScrub : Statement .patrolScrub := fun _ _ h => nomatch h

theorem recordAccept : Statement .recordAccept := fun _ _ h => nomatch h

theorem fenceRecordRelease : Statement .fenceRecordRelease := fun _ _ h => nomatch h

theorem poolPlace : Statement .poolPlace := fun _ _ h => nomatch h

theorem nodeTake : Statement .nodeTake := fun _ _ h => nomatch h

theorem porterResidency : Statement .porterResidency := fun _ _ h => nomatch h

theorem nodeStart : Statement .nodeStart := fun _ _ h => nomatch h

theorem leaseServe : Statement .leaseServe := fun _ _ h => nomatch h

theorem porterNoticeHandle : Statement .porterNoticeHandle := fun _ _ h => nomatch h

theorem migrationCopyDone : Statement .migrationCopyDone := fun _ _ h => nomatch h

theorem counterHalve : Statement .counterHalve := fun _ _ h => nomatch h

theorem loadBalance : Statement .loadBalance := fun _ _ h => nomatch h

theorem repeatDecide : Statement .repeatDecide := fun _ _ h => nomatch h

theorem repeatRearm : Statement .repeatRearm := fun _ _ h => nomatch h

theorem spawnAppend : Statement .spawnAppend := fun _ _ h => nomatch h

theorem taskEnd : Statement .taskEnd := fun _ _ h => nomatch h

theorem taskExtentEnd : Statement .taskExtentEnd := fun _ _ h => nomatch h

theorem trapService : Statement .trapService := fun _ _ h => nomatch h

theorem dumpBegin : Statement .dumpBegin := fun _ _ h => nomatch h

theorem dumpComplete : Statement .dumpComplete := fun _ _ h => nomatch h

theorem deviceFatalFault : Statement .deviceFatalFault := fun _ _ h => nomatch h

theorem preemptT1Expire : Statement .preemptT1Expire := fun _ _ h => nomatch h

theorem saveComplete : Statement .saveComplete := fun _ _ h => nomatch h

theorem preemptT2Expire : Statement .preemptT2Expire := fun _ _ h => nomatch h

theorem loadReturn : Statement .loadReturn := fun _ _ h => nomatch h

theorem postedStorePerform : Statement .postedStorePerform := fun _ _ h => nomatch h

theorem atomicPerform : Statement .atomicPerform := fun _ _ h => nomatch h

theorem logRdPoll : Statement .logRdPoll := fun _ _ h => nomatch h

theorem replayTimeout : Statement .replayTimeout := fun _ _ h => nomatch h

theorem matrixStart : Statement .matrixStart := fun _ _ h => nomatch h

theorem matrixComplete : Statement .matrixComplete := fun _ _ h => nomatch h

theorem matrixSoftErrorRetry : Statement .matrixSoftErrorRetry := fun _ _ h => nomatch h

theorem streamStart : Statement .streamStart := fun _ _ h => nomatch h

theorem streamComplete : Statement .streamComplete := fun _ _ h => nomatch h

theorem frameSpillDone : Statement .frameSpillDone := fun _ _ h => nomatch h

theorem frameFillDone : Statement .frameFillDone := fun _ _ h => nomatch h

theorem yieldEnd : Statement .yieldEnd := fun _ _ h => nomatch h

theorem cardAccept : Statement .cardAccept := fun _ _ h => nomatch h

theorem courierJobStart : Statement .courierJobStart := fun _ _ h => nomatch h

theorem courierJobComplete : Statement .courierJobComplete := fun _ _ h => nomatch h

theorem xcpyChunkDeliver : Statement .xcpyChunkDeliver := fun _ _ h => nomatch h

theorem messageArrive : Statement .messageArrive := fun _ _ h => nomatch h

theorem sendReply : Statement .sendReply := fun _ _ h => nomatch h

theorem contextFreeNotice : Statement .contextFreeNotice := fun _ _ h => nomatch h

theorem refusalSelfNotice : Statement .refusalSelfNotice := fun _ _ h => nomatch h

theorem recvtTimeout : Statement .recvtTimeout := fun _ _ h => nomatch h

theorem barrierCountArrive : Statement .barrierCountArrive := fun _ _ h => nomatch h

theorem barrierUnitArrival : Statement .barrierUnitArrival := fun _ _ h => nomatch h

theorem barrierLineRise : Statement .barrierLineRise := fun _ _ h => nomatch h

theorem vtNeighbourRegister : Statement .vtNeighbourRegister := fun _ _ h => nomatch h

theorem vtEventArrive : Statement .vtEventArrive := fun _ _ h => nomatch h

theorem vtMilestoneArrive : Statement .vtMilestoneArrive := fun _ _ h => nomatch h

theorem vtNullCountExpire : Statement .vtNullCountExpire := fun _ _ h => nomatch h

theorem stewardHeartbeatDue : Statement .stewardHeartbeatDue := fun _ _ h => nomatch h

end RoundTrip

end Sys2Proof.Laws

end
end

