-- ==== Sys2Proof/Safety.lean ====
section
/-!
DEFINITION. What counts as a safe run, in the terms claims use: the invariant that every step keeps, runs that never
stop, an instruction that issues and passes its first checks, an operand that can be read, and a state with one thread
replaced.
-/

namespace Sys2Proof

open Sys2Proof.Machine

/-- Memory and every table in canonical form: equal contents are equal data. -/
def Canonical (s : State) : Prop :=
  s.mem.wf ∧ s.loc.wf ∧ s.cores.wf ∧ s.tasks.wf ∧ s.parts.wf ∧ s.regions.wf ∧ s.pages.wf ∧ s.jobs.wf ∧ s.barUnits.wf ∧
    s.dies.wf ∧ s.notices.wf ∧ s.links.wf ∧ s.unsent.wf ∧ s.acl.wf ∧ s.heads.wf

/-- The state with one thread replaced, and everything else as it was. -/
def withThread (s : State) (c sl : Nat) (th : Thread) : State :=
  { s with cores := put s.cores c { s.core c with threads := put (s.core c).threads sl th } }

/-- The current thread issues the instruction, in the context x, and it passes steps 1 to 3 of R280: no undefined operand
value, a hint that binds it legally or none, and no privilege that the thread lacks. -/
structure Issues (s : State) (i : Instr) (x : Ctx) : Prop where
  cur : s.cur = some (x.c, x.sl)
  ctx : s.ctx? x.c x.sl i = some x
  checked : guard x = .ok ()

/-- The lanes of a name in the thread that issues. -/
def val (x : Ctx) (n : Nat) : List Nat := x.th.lanes x.k.vt n

/-- The name is declared or fixed, with this descriptor, its kind is of the class, and its row-store words are sound. -/
structure Operand (x : Ctx) (n : Nat) (cls : Desc → Bool) (d : Desc) : Prop where
  desc : x.th.desc? n = some d
  fits : cls d = true
  sound : x.rowBad n = none

/-- A source of an element-wise operation into a name with a descriptor: one lane, or as many (R279). -/
structure Source (x : Ctx) (n : Nat) (cls : Desc → Bool) (d dd : Desc) : Prop extends Operand x n cls d where
  lanes : d.lanes = 1 ∨ d.lanes = dd.lanes

/-- The name is declared or fixed, with this descriptor, and its kind is of the class. -/
structure Dest (x : Ctx) (n : Nat) (cls : Desc → Bool) (d : Desc) : Prop where
  desc : x.th.desc? n = some d
  fits : cls d = true

/-- The classes of R279. -/
def isInt (d : Desc) : Bool := d.kind.isInt
def isFlt (d : Desc) : Bool := d.kind.isFloat
def isPred (d : Desc) : Bool := decide (d.width = 1)
def isAny (_ : Desc) : Bool := true

/-- One bit string per lane. -/
def PerLane (n : Nat) (r : List Nat) (p : Nat → Nat → Prop) : Prop := r.length = n ∧ ∀ l, l < n → p l (r.getD l 0)

/-- The next state of an instruction that changes its own thread alone, and goes on at the next word. -/
def retired (s : State) (x : Ctx) (th : Thread) : State := withThread s x.c x.sl (th.retire (x.th.pc + 4))

/-- The next state of an instruction that traps: R190 to R192, and nothing else. -/
def trapped (s : State) (x : Ctx) (cause eval : Nat) : State :=
  ((begin s).takeTrap x.c x.sl cause eval none x.th.pc (x.word / 67108864) x.hint.isSome).1

/-- A run of n steps ends in a next state. -/
def Runs (s : State) (n : Nat) : Prop := ∃ t, Host.Core.run core n s = .next t

end Sys2Proof
end

