-- ==== Sys2Proof/Certificates/Slice0/Obligations.lean ====
section
/-!
DEFINITION. The statements for the provers. The shapes that several statements share stand in Sys2Proof.Claims; a statement
about a next state says it whole (`retired`, `trapped`, `withThread`: everything else is as it was), or names what it holds.
-/

namespace Sys2Proof.Claims
end Sys2Proof.Claims

open Sys2Proof Sys2Proof.Machine Sys2Proof.Claims

namespace Sys2Proof.Claims

open Sys2Proof.Machine

/-! ### Shapes of statements over several instructions -/

/-- d := f of the lanes of a and b, an integer assigned by fit() (R7). -/
def IntBinary (mk : Nat → Nat → Nat → Instr) (f : Desc → Desc → Desc → Nat → Nat → Int) : Prop :=
  ∀ s x d a b da db dd r, Issues s (mk d a b) x → Source x a isInt da dd → Source x b isInt db dd → Dest x d isInt dd →
    PerLane dd.lanes r (fun l v => fitInt dd (f dd da db (lane (val x a) l) (lane (val x b) l)) = some v) →
    exec (mk d a b) s = .next (retired s x (x.th.setLanes d r))

/-- The lowest lane whose result no policy admits traps OVF with its number (R7, R9). -/
def IntOverflow (mk : Nat → Nat → Nat → Instr) (f : Desc → Desc → Desc → Nat → Nat → Int) : Prop :=
  ∀ s x d a b da db dd k, Issues s (mk d a b) x → Source x a isInt da dd → Source x b isInt db dd → Dest x d isInt dd →
    k < dd.lanes → (∀ l, l < k → (fitInt dd (f dd da db (lane (val x a) l) (lane (val x b) l))).isSome) →
    fitInt dd (f dd da db (lane (val x a) k) (lane (val x b) k)) = none →
    exec (mk d a b) s = .next (trapped s x OVF k)

/-- d := f of the lanes of a; `imm` is what the word itself supplies. -/
def IntUnary (mk : Nat → Nat → Nat → Instr) (f : Ctx → Desc → Nat → Nat → Int) : Prop :=
  ∀ s x d a imm da dd r, Issues s (mk d a imm) x → Source x a isInt da dd → Dest x d isInt dd →
    PerLane dd.lanes r (fun l v => fitInt dd (f x da (lane (val x a) l) imm) = some v) →
    exec (mk d a imm) s = .next (retired s x (x.th.setLanes d r))

/-- d := the truth of a relation of the lanes of a and b: 1 in an uns d, −1 in a sgn d (R288). -/
def IntCompare (mk : Nat → Nat → Nat → Instr) (f : Desc → Desc → Nat → Nat → Prop) [∀ da db u v, Decidable (f da db u v)] : Prop :=
  ∀ s x d a b da db dd, Issues s (mk d a b) x → Source x a isInt da dd → Source x b isInt db dd → Dest x d isInt dd →
    exec (mk d a b) s = .next (retired s x (x.th.setLanes d ((upFrom 0 dd.lanes).map (fun l =>
      if f da db (lane (val x a) l) (lane (val x b) l) then (if dd.kind = .sgn then 2 ^ dd.width - 1 else 1) else 0))))

def IntCompareImm (mk : Nat → Nat → Nat → Instr) (f : Ctx → Desc → Nat → Nat → Prop) [∀ x da u m, Decidable (f x da u m)] : Prop :=
  ∀ s x d a imm da dd, Issues s (mk d a imm) x → Source x a isInt da dd → Dest x d isInt dd →
    exec (mk d a imm) s = .next (retired s x (x.th.setLanes d ((upFrom 0 dd.lanes).map (fun l =>
      if f x da (lane (val x a) l) imm then (if dd.kind = .sgn then 2 ^ dd.width - 1 else 1) else 0))))

/-- A divisor lane of zero traps DIVZ with the number of the lowest such lane, if no lane below it overflows. -/
def DivideByZero (mk : Nat → Nat → Nat → Instr) (f : Desc → Desc → Nat → Nat → Int) : Prop :=
  ∀ s x d a b da db dd k, Issues s (mk d a b) x → Source x a isInt da dd → Source x b isInt db dd → Dest x d isInt dd →
    k < dd.lanes →
    (∀ l, l < k → lane (val x b) l ≠ 0 ∧ (fitInt dd (f da db (lane (val x a) l) (lane (val x b) l))).isSome) →
    lane (val x b) k = 0 → exec (mk d a b) s = .next (trapped s x DIVZ k)

/-- A quotient or remainder whose divisor lanes are not zero. -/
def Divide (mk : Nat → Nat → Nat → Instr) (f : Desc → Desc → Nat → Nat → Int) : Prop :=
  ∀ s x d a b da db dd r, Issues s (mk d a b) x → Source x a isInt da dd → Source x b isInt db dd → Dest x d isInt dd →
    (∀ l, l < dd.lanes → lane (val x b) l ≠ 0) →
    PerLane dd.lanes r (fun l v => fitInt dd (f da db (lane (val x a) l) (lane (val x b) l)) = some v) →
    exec (mk d a b) s = .next (retired s x (x.th.setLanes d r))

/-- d := f of the float lanes of a and b, assigned by fit() under the mode in force; the counter of rsn advances by the lanes
of d (R309, R153). -/
def FloatBinary (mk : Nat → Nat → Nat → Instr) (f : RMode → FVal → FVal → FVal) : Prop :=
  ∀ s x d a b da db dd r, Issues s (mk d a b) x → Source x a isFlt da dd → Source x b isFlt db dd → Dest x d isFlt dd →
    PerLane dd.lanes r (fun l v =>
      fitFloat x.th x.mode dd l (f x.mode (flt da (lane (val x a) l)) (flt db (lane (val x b) l))) = some v) →
    exec (mk d a b) s = .next (retired s x ((x.th.setLanes d r).drawn x.mode dd.lanes))

/-- The lowest lane whose rounded result the policy trap does not admit raises FPX with its number (R9, R154). -/
def FloatTraps (mk : Nat → Nat → Nat → Instr) (f : RMode → FVal → FVal → FVal) : Prop :=
  ∀ s x d a b da db dd k, Issues s (mk d a b) x → Source x a isFlt da dd → Source x b isFlt db dd → Dest x d isFlt dd → k < dd.lanes →
    (∀ l, l < k → (fitFloat x.th x.mode dd l (f x.mode (flt da (lane (val x a) l)) (flt db (lane (val x b) l)))).isSome) →
    fitFloat x.th x.mode dd k (f x.mode (flt da (lane (val x a) k)) (flt db (lane (val x b) k))) = none →
    exec (mk d a b) s = .next (trapped s x FPX k)

/-- The same with the old d, which is read. -/
def FloatTernary (mk : Nat → Nat → Nat → Instr) (f : RMode → FVal → FVal → FVal → FVal) : Prop :=
  ∀ s x d a b da db dd r, Issues s (mk d a b) x → Source x a isFlt da dd → Source x b isFlt db dd → Operand x d isFlt dd →
    PerLane dd.lanes r (fun l v => fitFloat x.th x.mode dd l
      (f x.mode (flt da (lane (val x a) l)) (flt db (lane (val x b) l)) (flt dd (lane (val x d) l))) = some v) →
    exec (mk d a b) s = .next (retired s x ((x.th.setLanes d r).drawn x.mode dd.lanes))

/-- An integer value given to every lane of a name of any kind (R7): by fit(), exact in an integer name and rounded under the mode
in force in a float name. -/
def GivesAll (mk : Nat → Instr) (f : Ctx → Int) : Prop :=
  (∀ s x d dd r, Issues s (mk d) x → Dest x d isInt dd → PerLane dd.lanes r (fun _ v => fitInt dd (f x) = some v) →
    exec (mk d) s = .next (retired s x (x.th.setLanes d r))) ∧
  (∀ s x d dd r, Issues s (mk d) x → Dest x d isFlt dd →
    PerLane dd.lanes r (fun l v => fitFloat x.th x.mode dd l (FVal.ofInt (f x)) = some v) →
    exec (mk d) s = .next (retired s x ((x.th.setLanes d r).drawn x.mode dd.lanes)))

/-- The checks of the names of a two-source instruction, in order (R279, R280): a source that is undeclared, of another class,
or of a lane count that is neither 1 nor that of d raises KIND with its number, and so does such a d. -/
def KindTraps (mk : Nat → Nat → Nat → Instr) (cls : Desc → Bool) : Prop :=
  ∀ s x d a b, Issues s (mk d a b) x →
    ((∀ da, x.th.desc? a = some da → cls da = false) → exec (mk d a b) s = .next (trapped s x KIND a)) ∧
    (∀ da dd, x.th.desc? a = some da → cls da = true → x.th.desc? d = some dd → da.lanes ≠ 1 → da.lanes ≠ dd.lanes →
      exec (mk d a b) s = .next (trapped s x KIND a)) ∧
    (∀ da dd, x.th.desc? d = some dd → Source x a cls da dd → (∀ db, x.th.desc? b = some db → cls db = false) →
      exec (mk d a b) s = .next (trapped s x KIND b)) ∧
    (∀ da db dd, x.th.desc? d = some dd → Source x a cls da dd → Source x b cls db dd → cls dd = false →
      exec (mk d a b) s = .next (trapped s x KIND d))

def FloatFunction (mk : Nat → Nat → Instr) (f : FVal → FVal) : Prop :=
  ∀ s x d a da dd r, Issues s (mk d a) x → Source x a isFlt da dd → Dest x d isFlt dd →
    PerLane dd.lanes r (fun l v => fitFloat x.th x.mode dd l (f (flt da (lane (val x a) l))) = some v) →
    exec (mk d a) s = .next (retired s x ((x.th.setLanes d r).drawn x.mode dd.lanes))

/-- The same with the old d, which is read. -/
def FloatTernaryTraps (mk : Nat → Nat → Nat → Instr) (f : RMode → FVal → FVal → FVal → FVal) : Prop :=
  ∀ s x d a b da db dd k, Issues s (mk d a b) x → Source x a isFlt da dd → Source x b isFlt db dd → Operand x d isFlt dd → k < dd.lanes →
    let v := fun l => fitFloat x.th x.mode dd l (f x.mode (flt da (lane (val x a) l)) (flt db (lane (val x b) l)) (flt dd (lane (val x d) l)))
    (∀ l, l < k → (v l).isSome) → v k = none → exec (mk d a b) s = .next (trapped s x FPX k)

def FloatFunctionTraps (mk : Nat → Nat → Instr) (f : FVal → FVal) : Prop :=
  ∀ s x d a da dd k, Issues s (mk d a) x → Source x a isFlt da dd → Dest x d isFlt dd → k < dd.lanes →
    (∀ l, l < k → (fitFloat x.th x.mode dd l (f (flt da (lane (val x a) l)))).isSome) →
    fitFloat x.th x.mode dd k (f (flt da (lane (val x a) k))) = none → exec (mk d a) s = .next (trapped s x FPX k)

/-- d := bits of a changed, where d and a have one kind (R313). -/
def FloatBits (mk : Nat → Nat → Instr) (f : Nat → Nat → Nat) : Prop :=
  ∀ s x d a da dd, Issues s (mk d a) x → Source x a isFlt da dd → Dest x d isFlt dd → da.kind = dd.kind →
    exec (mk d a) s = .next (retired s x (x.th.setLanes d ((upFrom 0 dd.lanes).map (fun l => f dd.width (lane (val x a) l)))))

def FloatCompare (mk : Nat → Nat → Nat → Instr) (f : FVal → FVal → Bool) : Prop :=
  ∀ s x d a b da db dd, Issues s (mk d a b) x → Source x a isFlt da dd → Source x b isFlt db dd → Dest x d isInt dd →
    exec (mk d a b) s = .next (retired s x (x.th.setLanes d ((upFrom 0 dd.lanes).map (fun l =>
      if f (flt da (lane (val x a) l)) (flt db (lane (val x b) l)) = true then (if dd.kind = .sgn then 2 ^ dd.width - 1 else 1)
      else 0))))

/-- An integer that all lanes of a give, assigned by fit() to every lane of d (R317). -/
def IntReduce (mk : Nat → Nat → Instr) (cls : Desc → Bool) (f : Desc → List Nat → Int) : Prop :=
  ∀ s x d a da dd r, Issues s (mk d a) x → Operand x a cls da → Dest x d isInt dd →
    PerLane dd.lanes r (fun _ v => fitInt dd (f da (val x a)) = some v) →
    exec (mk d a) s = .next (retired s x (x.th.setLanes d r))

/-- A lane operation with an index name b; a and d agree in kind and width (R319). -/
def LaneOp (mk : Nat → Nat → Nat → Instr) (ok : Desc → Desc → Desc → Prop) (f : List Nat → List Nat → Nat → Nat) : Prop :=
  ∀ s x d a b da db dd, Issues s (mk d a b) x → Operand x a isAny da → Operand x b isInt db → Dest x d isAny dd →
    da.kind = dd.kind → da.width = dd.width → ok da db dd →
    exec (mk d a b) s = .next (retired s x (x.th.setLanes d ((upFrom 0 dd.lanes).map (f (val x a) (val x b)))))

end Sys2Proof.Claims

/-! ### Integer instructions -/

/-- R7 over an integer name of 1 to 64 bits: a value in the range is held exactly; outside it, wrap keeps it modulo 2^w, sat
takes the nearer end, and trap holds nothing. -/
def Sys2Proof.Claims.FitIntegerHold : Prop :=
  ∀ (d : Desc) (v : Int), d.kind = .uns ∨ d.kind = .sgn → 1 ≤ d.width → d.width ≤ 64 →
    (rangeLo d.kind d.width ≤ v ∧ v ≤ rangeHi d.kind d.width →
      ∃ r, fitInt d v = some r ∧ r < 2 ^ d.width ∧ extInt d.kind d.width r = v) ∧
    (¬(rangeLo d.kind d.width ≤ v ∧ v ≤ rangeHi d.kind d.width) →
      (d.pol = .wrap → ∃ r, fitInt d v = some r ∧ r < 2 ^ d.width ∧ (extInt d.kind d.width r - v) % 2 ^ d.width = 0) ∧
      (d.pol = .sat → ∃ r, fitInt d v = some r ∧ r < 2 ^ d.width ∧
        extInt d.kind d.width r = if v < rangeLo d.kind d.width then rangeLo d.kind d.width else rangeHi d.kind d.width) ∧
      (d.pol = .trap → fitInt d v = none))

/-- R285: the two-operand integer instructions compute exactly and assign by fit(), lane by lane; nothing but d and the
program counter changes. -/
def Sys2Proof.Claims.IntegerArithmeticHold : Prop :=
  IntBinary .add (fun _ da db u v => rdS da u + rdS db v) ∧ IntBinary .sub (fun _ da db u v => rdS da u - rdS db v) ∧
  IntBinary .and (fun _ da db u v => stringOp Nat.land (rdS da u) (rdS db v)) ∧
  IntBinary .or (fun _ da db u v => stringOp Nat.lor (rdS da u) (rdS db v)) ∧
  IntBinary .xor (fun _ da db u v => stringOp Nat.xor (rdS da u) (rdS db v)) ∧
  IntBinary .andn (fun _ da db u v => stringOp Nat.land (rdS da u) (-rdS db v - 1)) ∧
  IntBinary .orn (fun _ da db u v => stringOp Nat.lor (rdS da u) (-rdS db v - 1)) ∧
  IntBinary .shl (fun _ da _ u v => shlInt (rdS da u) v) ∧ IntBinary .shr (fun _ _ _ u v => shrInt u v) ∧
  IntBinary .sra (fun _ da _ u v => shrInt (rdS da u) v) ∧ IntBinary .rol (fun _ da _ u v => rolBits da.width u v) ∧
  IntBinary .min (fun _ da db u v => min (rdS da u) (rdS db v)) ∧ IntBinary .max (fun _ da db u v => max (rdS da u) (rdS db v)) ∧
  IntBinary .minu (fun _ _ _ u v => min (u : Int) v) ∧ IntBinary .maxu (fun _ _ _ u v => max (u : Int) v)

/-- R7 and R9: where the policy is trap and a result is out of range, add, sub, shl and mul raise OVF for the lowest such lane
and write nothing. -/
def Sys2Proof.Claims.IntegerOverflowTrapsHold : Prop :=
  IntOverflow .add (fun _ da db u v => rdS da u + rdS db v) ∧ IntOverflow .sub (fun _ da db u v => rdS da u - rdS db v) ∧
  IntOverflow .shl (fun _ da _ u v => shlInt (rdS da u) v) ∧ IntOverflow .mul (fun _ da db u v => rdS da u * rdS db v)

/-- R285, R287 and R291: the one-operand and the immediate integer instructions. -/
def Sys2Proof.Claims.IntegerImmediatesHold : Prop :=
  IntUnary (fun d a _ => .abs d a) (fun _ da u _ => |rdS da u|) ∧ IntUnary (fun d a _ => .neg d a) (fun _ da u _ => -rdS da u) ∧
  IntUnary .addi (fun x da u imm => rdS da u + x.immI imm) ∧
  IntUnary .andi (fun x da u imm => stringOp Nat.land (rdS da u) (x.immI imm)) ∧
  IntUnary .ori (fun x da u imm => stringOp Nat.lor (rdS da u) (x.immI imm)) ∧
  IntUnary .xori (fun x da u imm => stringOp Nat.xor (rdS da u) (x.immI imm)) ∧
  IntUnary .shli (fun _ da u n => shlInt (rdS da u) n) ∧ IntUnary .shri (fun _ _ u n => shrInt u n) ∧
  IntUnary .srai (fun _ da u n => shrInt (rdS da u) n) ∧ IntUnary .roli (fun _ da u n => rolBits da.width u n) ∧
  IntUnary (fun d a _ => .clz d a) (fun _ da u _ => clzBits da.width u) ∧
  IntUnary (fun d a _ => .ctz d a) (fun _ da u _ => ctzBits da.width u) ∧
  IntUnary (fun d a _ => .popc d a) (fun _ da u _ => popcount u da.width) ∧
  IntUnary (fun d a _ => .brev d a) (fun _ da u _ => revBits da.width u)

/-- R281 and R276: an immediate is 12 bits signed, or 34 bits signed under a binding `hint.imm`, whose bits stand above it. -/
def Sys2Proof.Claims.ImmediateValuesHold : Prop :=
  ∀ (x : Ctx) (imm : Nat), imm < 4096 →
    (x.hint = none → x.immI imm = if imm < 2048 then (imm : Int) else (imm : Int) - 4096) ∧
    (∀ hi : Nat, hi < 4194304 → x.hint = some (4194304 + hi) →
      x.immI imm = if hi < 2097152 then (hi : Int) * 4096 + imm else (hi : Int) * 4096 + imm - 17179869184)

/-- Over strings of at most 100 bits a string operation is the one of the infinite two's-complement strings, bit by bit. -/
def Sys2Proof.Claims.StringOperationsHold : Prop :=
  ∀ (a b : Int), -(2 ^ 100) ≤ a → a < 2 ^ 100 → -(2 ^ 100) ≤ b → b < 2 ^ 100 →
    stringOp Nat.land a b = Int.land a b ∧ stringOp Nat.lor a b = Int.lor a b ∧ stringOp Nat.xor a b = Int.xor a b

/-- Shift counts have no bound: the model's cut at 200 places changes no result of an operand of at most 64 bits. -/
def Sys2Proof.Claims.ShiftCountsHold : Prop :=
  ∀ (d : Desc) (a : Int) (n : Nat), d.width ≤ 64 → -(2 ^ 64) ≤ a → a < 2 ^ 64 →
    fitInt d (shlInt a n) = fitInt d (a * 2 ^ n) ∧ shrInt a n = a / 2 ^ n

/-- R288: the integer compares. -/
def Sys2Proof.Claims.IntegerComparesHold : Prop :=
  IntCompare .ceq (fun da db u v => rdS da u = rdS db v) ∧ IntCompare .cne (fun da db u v => rdS da u ≠ rdS db v) ∧
  IntCompare .clt (fun da db u v => rdS da u < rdS db v) ∧ IntCompare .cle (fun da db u v => rdS da u ≤ rdS db v) ∧
  IntCompare .cltu (fun _ _ u v => u < v) ∧ IntCompare .cleu (fun _ _ u v => u ≤ v) ∧
  IntCompareImm .ceqi (fun x da u imm => rdS da u = x.immI imm) ∧ IntCompareImm .cnei (fun x da u imm => rdS da u ≠ x.immI imm) ∧
  IntCompareImm .clti (fun x da u imm => rdS da u < x.immI imm) ∧
  IntCompareImm .cltui (fun x _ u imm => (u : Int) < x.immI imm % 2 ^ 64)

/-- R289: the multiplier and the divider; a zero divisor lane raises DIVZ. -/
def Sys2Proof.Claims.MultiplyDivideHold : Prop :=
  IntBinary .mul (fun _ da db u v => rdS da u * rdS db v) ∧
  IntBinary .mulh (fun dd da db u v => rdS da u * rdS db v / 2 ^ dd.width) ∧
  IntBinary .mulhu (fun dd _ _ u v => (u * v / 2 ^ dd.width : Nat)) ∧
  Divide .div (fun da db u v => Int.tdiv (rdS da u) (rdS db v)) ∧ Divide .divu (fun _ _ u v => (u / v : Nat)) ∧
  Divide .rem (fun da db u v => Int.tmod (rdS da u) (rdS db v)) ∧ Divide .remu (fun _ _ u v => (u % v : Nat)) ∧
  DivideByZero .div (fun da db u v => Int.tdiv (rdS da u) (rdS db v)) ∧ DivideByZero .divu (fun _ _ u v => (u / v : Nat)) ∧
  DivideByZero .rem (fun da db u v => Int.tmod (rdS da u) (rdS db v)) ∧ DivideByZero .remu (fun _ _ u v => (u % v : Nat))

/-- R291: `bext` takes a field of a, signed when d is sgn; `bins` replaces a field of the old d and keeps its other bits. -/
def Sys2Proof.Claims.BitFieldsHold : Prop :=
  (∀ s x d a b da db dd r, Issues s (.bext d a b) x → Source x a isInt da dd → Source x b isInt db dd → Dest x d isInt dd →
    PerLane dd.lanes r (fun l v => fitInt dd (extractField dd.kind (rdS da (lane (val x a) l)) (lane (val x b) l)) = some v) →
    exec (.bext d a b) s = .next (retired s x (x.th.setLanes d r))) ∧
  (∀ s x d a b da db dd, Issues s (.bins d a b) x → Source x a isInt da dd → Source x b isInt db dd → Operand x d isInt dd →
    exec (.bins d a b) s = .next (retired s x (x.th.setLanes d ((upFrom 0 dd.lanes).map (fun l =>
      insertField dd.width (lane (val x d) l) (rdS da (lane (val x a) l)) (lane (val x b) l)))))) ∧
  (∀ (k : Kind) (a : Int) (v : Nat), v < 8192 → k ≠ .sgn → extractField k a v = a / 2 ^ (v % 64) % 2 ^ (v / 64)) ∧
  (∀ (w old v i : Nat) (a : Int), v < 8192 → i < w → old < 2 ^ w →
    (insertField w old a v).testBit i =
      if v % 64 ≤ i ∧ i < v % 64 + v / 64 then a.testBit (i - v % 64) else old.testBit i)

/-! ### Moves, immediates and patterns -/

/-- R286: `mov` gives each lane of d from a, between integer kinds by fit() and between equal float kinds bit by bit; any other pairing
raises KIND with the number of a. `cmov` checks the same whatever b holds, requires b to be a predicate, moves when b is 1, and writes
nothing when it is 0. -/
def Obligations.Moves : Prop :=
  let apart := fun da dd : Desc => ¬(isInt da = true ∧ isInt dd = true) ∧ ¬(isFlt da = true ∧ da.kind = dd.kind)
  (∀ s x d a da dd, Issues s (.mov d a) x → Source x a isAny da dd → Dest x d isAny dd →
    (∀ r, isInt da = true → isInt dd = true → PerLane dd.lanes r (fun l v => fitInt dd (rdS da (lane (val x a) l)) = some v) →
      exec (.mov d a) s = .next (retired s x (x.th.setLanes d r))) ∧
    (∀ k, isInt da = true → isInt dd = true → k < dd.lanes → (∀ l, l < k → (fitInt dd (rdS da (lane (val x a) l))).isSome) →
      fitInt dd (rdS da (lane (val x a) k)) = none → exec (.mov d a) s = .next (trapped s x OVF k)) ∧
    (isFlt da = true → da.kind = dd.kind →
      exec (.mov d a) s = .next (retired s x (x.th.setLanes d ((upFrom 0 dd.lanes).map (lane (val x a)))))) ∧
    (apart da dd → exec (.mov d a) s = .next (trapped s x KIND a))) ∧
  (∀ s x d a b da db dd, Issues s (.cmov d a b) x → Source x a isAny da dd → Operand x b isPred db → Dest x d isAny dd →
    (apart da dd → exec (.cmov d a b) s = .next (trapped s x KIND a)) ∧
    (¬apart da dd → (val x b).headD 0 = 0 → exec (.cmov d a b) s = .next (retired s x x.th)) ∧
    (∀ r, (val x b).headD 0 ≠ 0 → isInt da = true → isInt dd = true →
      PerLane dd.lanes r (fun l v => fitInt dd (rdS da (lane (val x a) l)) = some v) →
      exec (.cmov d a b) s = .next (retired s x (x.th.setLanes d r))) ∧
    (∀ k, (val x b).headD 0 ≠ 0 → isInt da = true → isInt dd = true → k < dd.lanes →
      (∀ l, l < k → (fitInt dd (rdS da (lane (val x a) l))).isSome) → fitInt dd (rdS da (lane (val x a) k)) = none →
      exec (.cmov d a b) s = .next (trapped s x OVF k)) ∧
    ((val x b).headD 0 ≠ 0 → isFlt da = true → da.kind = dd.kind →
      exec (.cmov d a b) s = .next (retired s x (x.th.setLanes d ((upFrom 0 dd.lanes).map (lane (val x a))))))) ∧
  (∀ s x d a b da dd, Issues s (.cmov d a b) x → Source x a isAny da dd → Dest x d isAny dd → ¬apart da dd →
    (∀ db, x.th.desc? b = some db → db.width ≠ 1) → exec (.cmov d a b) s = .next (trapped s x KIND b))

/-- R290 and R294: `sethi` and `addpc` give their value to every lane of d; `wqry` answers from the pattern. -/
def Sys2Proof.Claims.ValuesToEveryLaneHold : Prop :=
  (∀ imm, GivesAll (fun d => .sethi d imm) (fun x => x.immU imm)) ∧
  (∀ imm, GivesAll (fun d => .addpc d imm) (fun x => (x.th.pc : Int) + x.immU imm)) ∧
  (∀ nm, GivesAll (fun d => .wqry d 0 nm) (fun x => match x.th.desc? nm with | some e => (descWord e : Int) | none => 0)) ∧
  GivesAll (fun d => .wqry d 1 0) (fun x => x.th.depth) ∧ GivesAll (fun d => .wqry d 2 0) (fun x => x.th.charge) ∧
  GivesAll (fun d => .wqry d 3 0) (fun x => x.th.rmode.code)

/-- R86, R279 and R280: names of the wrong class or lane count. -/
def Sys2Proof.Claims.KindChecksHold : Prop :=
  KindTraps .add isInt ∧ KindTraps .xor isInt ∧ KindTraps .shl isInt ∧ KindTraps .clt isInt ∧ KindTraps .mul isInt ∧ KindTraps .bext isInt ∧
  KindTraps .fadd isFlt ∧ KindTraps .fma isFlt

/-- R295: `pol` sets the policy of a declared name and nothing else. -/
def Sys2Proof.Claims.PolicyChangeHold : Prop :=
  ∀ s x d pcy n p, Issues s (.pol d pcy) x → look x.th.names d = some n → d < 56 → Policy.ofCode pcy = some p →
    exec (.pol d pcy) s = .next (retired s x { x.th with names := put x.th.names d { n with desc := { n.desc with pol := p } } })

/-- R296 to R298: conversions, and the bit planes that `pack` makes and `unpk` reads. -/
def Sys2Proof.Claims.ConversionsHold : Prop :=
  (∀ s x d a da dd r, Issues s (.cvt d a) x → Source x a isInt da dd → Dest x d isInt dd →
    PerLane dd.lanes r (fun l v => fitInt dd (rdS da (lane (val x a) l)) = some v) →
    exec (.cvt d a) s = .next (retired s x (x.th.setLanes d r))) ∧
  (∀ s x d a da dd r, Issues s (.cvt d a) x → Source x a isInt da dd → Dest x d isFlt dd →
    PerLane dd.lanes r (fun l v => fitFloat x.th x.mode dd l (FVal.ofInt (rdS da (lane (val x a) l))) = some v) →
    exec (.cvt d a) s = .next (retired s x ((x.th.setLanes d r).drawn x.mode dd.lanes))) ∧
  (∀ s x d a da dd r, Issues s (.cvt d a) x → Source x a isFlt da dd → Dest x d isInt dd →
    PerLane dd.lanes r (fun l v => fitFloatToInt x.th x.mode dd l (flt da (lane (val x a) l)) = some v) →
    exec (.cvt d a) s = .next (retired s x ((x.th.setLanes d r).drawn x.mode dd.lanes))) ∧
  (∀ s x d a da dd f r, Issues s (.cvt d a) x → Source x a isFlt da dd → Dest x d isFlt dd → dd.kind.fmt? = some f →
    PerLane dd.lanes r (fun l v => if (flt da (lane (val x a) l)).isNan = true then v = f.nanBits
      else fitFloat x.th x.mode dd l (flt da (lane (val x a) l)) = some v) →
    exec (.cvt d a) s = .next (retired s x ((x.th.setLanes d r).drawn x.mode dd.lanes))) ∧
  (∀ s x d a da dd q, Issues s (.pack d a) x → Operand x a isInt da → Dest x d isInt dd → da.lanes = dd.width → dd.lanes ≤ 8 →
    PerLane da.lanes q (fun l v => fitInt { dd with kind := .sgn, width := 8 } (rdS da (lane (val x a) l)) = some v) →
    exec (.pack d a) s = .next (retired s x (x.th.setLanes d ((upFrom 0 dd.lanes).map (planeOf q))))) ∧
  (∀ s x d a pl da dd r, Issues s (.unpk d a pl) x → Operand x a isInt da → Dest x d isInt dd → da.width = dd.lanes → pl ≤ da.lanes →
    PerLane dd.lanes r (fun l v => fitInt dd (signed pl (columnOf (val x a) pl l)) = some v) →
    exec (.unpk d a pl) s = .next (retired s x (x.th.setLanes d r)))

/-! ### Float instructions -/

/-- R309 to R312: float arithmetic forms the exact value and assigns it by fit() under the mode in force. -/
def Sys2Proof.Claims.FloatArithmeticHold : Prop :=
  FloatBinary .fadd (fun m u v => u.plus m v) ∧ FloatBinary .fsub (fun m u v => u.plus m v.neg) ∧
  FloatBinary .fmul (fun _ u v => u.mul v) ∧ FloatTernary .fma (fun m u v w => (u.mul v).plus m w) ∧
  FloatTernary .fnma (fun m u v w => (u.neg.mul v).plus m w) ∧
  FloatBinary .fmin (fun _ u v => if u.isNan then v else if v.isNan then u else if v.below u then v else u) ∧
  FloatBinary .fmax (fun _ u v => if u.isNan then v else if v.isNan then u else if u.below v then v else u)

/-- R313 to R316: sign changes, classification, compares and the float functions. -/
def Sys2Proof.Claims.FloatFunctionsHold : Prop :=
  FloatBits .fabs (fun w v => v % 2 ^ (w - 1)) ∧ FloatBits .fneg (fun w v => Nat.xor v (2 ^ (w - 1))) ∧
  FloatCompare .fceq FVal.eq ∧ FloatCompare .fclt FVal.lt ∧ FloatCompare .fcle (fun u v => u.lt v || u.eq v) ∧
  FloatFunction .fexp2 FVal.exp2 ∧ FloatFunction .flog2 FVal.log2 ∧ FloatFunction .frcp (FVal.div (.num false 1 1)) ∧
  FloatFunction .frsq FVal.rsq ∧ FloatFunction .fsqrt FVal.sqrt ∧
  (∀ s x d a da dd f r, Issues s (.fclass d a) x → Source x a isFlt da dd → Dest x d isInt dd → da.kind.fmt? = some f →
    PerLane dd.lanes r (fun l v => fitInt dd (2 ^ classOf f (lane (val x a) l)) = some v) →
    exec (.fclass d a) s = .next (retired s x (x.th.setLanes d r)))

/-- The number that a finite value is. -/
def Sys2Proof.Claims.ratOf : FVal → ℚ
  | .num neg n d => if neg then -((n : ℚ) / d) else (n : ℚ) / d
  | _ => 0

/-- A finite value, written with a denominator that is not zero. -/
def Sys2Proof.Claims.IsFin (v : FVal) : Prop := ∃ neg n d, v = .num neg n d ∧ d ≠ 0

/-- R149: sums, products, quotients, comparisons and integers are exact; a root is exact, or the middle of an interval of width
2^-1200 that holds it and that no rounding boundary divides; the exponential of an integer and the logarithm of a power of two are
exact. (DEDUCED, log 75, for the roots' interval) -/
def Sys2Proof.Claims.ExactValuesHold : Prop :=
  (∀ m u v, IsFin u → IsFin v →
    (IsFin (u.plus m v) ∧ ratOf (u.plus m v) = ratOf u + ratOf v) ∧ (IsFin (u.mul v) ∧ ratOf (u.mul v) = ratOf u * ratOf v) ∧
    (ratOf v ≠ 0 → IsFin (u.div v) ∧ ratOf (u.div v) = ratOf u / ratOf v) ∧ ratOf u.neg = -ratOf u ∧
    (u.lt v = true ↔ ratOf u < ratOf v) ∧ (u.eq v = true ↔ ratOf u = ratOf v)) ∧
  (∀ i : Int, IsFin (FVal.ofInt i) ∧ ratOf (FVal.ofInt i) = i) ∧
  (∀ u r q, IsFin u → 0 < ratOf u → (r = u.sqrt ∧ q = ratOf u ∨ r = u.rsq ∧ q = (ratOf u)⁻¹) →
    ratOf r ^ 2 = q ∨ ∃ low : Nat, r = middle low rootBits ∧ ((low : ℚ) / 2 ^ rootBits) ^ 2 < q ∧ q < (((low : ℚ) + 1) / 2 ^ rootBits) ^ 2) ∧
  (∀ i : Int, -2100 ≤ i → i ≤ 2100 → ratOf (FVal.exp2 (FVal.ofInt i)) = 2 ^ i) ∧
  (∀ u, ∀ i : Int, IsFin u → ratOf u = 2 ^ i → u.log2 = FVal.ofInt i)

/-- R151 and R153: the rounding of a finite value to a format. A finite result is a value of the format: under rne none is nearer, and
of two that are as near it is the even one; under rup and rdn it is the nearest on its side; under rtz the nearest that is no greater
in magnitude; under rsn one of the two neighbours. Only a value beyond the largest finite one overflows, and none under rtz. -/
def Sys2Proof.Claims.RoundingHold : Prop :=
  ∀ f ∈ [fmtE4M3, fmtE5M2, fmtF16, fmtBF16, fmtF32, fmtF64], ∀ m draw v, IsFin v → draw < 2 ^ 24 →
    let top := ratOf (f.value f.maxBits)
    f.round m draw v ≠ .nan ∧
    (∀ neg, f.round m draw v = .inf neg → m ≠ .rtz ∧ top < |ratOf v| ∧ (neg = true ↔ ratOf v < 0) ∧
      (m = .rne → 3 * top - ratOf (f.value (f.maxBits - 1)) ≤ 2 * |ratOf v|)) ∧
    (∀ x, f.round m draw v = .fin x →
      let r := ratOf (f.value x)
      x < 2 ^ f.width ∧ IsFin (f.value x) ∧ 0 ≤ r * ratOf v ∧
      (∀ y, y < 2 ^ f.width → IsFin (f.value y) →
        let q := ratOf (f.value y)
        (m = .rne → |r - ratOf v| ≤ |q - ratOf v| ∧ (|r - ratOf v| = |q - ratOf v| → q ≠ r → x % 2 = 0)) ∧
        (m = .rup → ratOf v ≤ r ∧ (ratOf v ≤ q → r ≤ q)) ∧ (m = .rdn → r ≤ ratOf v ∧ (q ≤ ratOf v → q ≤ r)) ∧
        (m = .rtz → |r| ≤ |ratOf v| ∧ (|q| ≤ |ratOf v| → |q| ≤ |r|)) ∧
        (m = .rsn → ¬(min |r| |ratOf v| < |q| ∧ |q| < max |r| |ratOf v|))))

/-- R154: fit() of a float name rounds under the mode and applies the name's policy. -/
def Sys2Proof.Claims.FitFloatHold : Prop :=
  ∀ th m d l v f, d.kind.fmt? = some f →
    let r := f.round m (if m = .rsn then th.draw l else 0) v
    (∀ x, r = .fin x → fitFloat th m d l v = some x) ∧
    (∀ neg, r = .inf neg → fitFloat th m d l v = match d.pol with
      | .wrap => some (if f.hasInf = true then (if neg then 2 ^ (f.width - 1) else 0) + (2 ^ f.exp - 1) * 2 ^ f.man else f.nanBits)
      | .sat => some ((if neg then 2 ^ (f.width - 1) else 0) + f.maxBits)
      | .trap => none) ∧
    (r = .nan → fitFloat th m d l v = if d.pol = .trap then none else some f.nanBits)

/-- R9 and R154: under trap policy an infinity or a NaN raises FPX for the lowest such lane, and nothing is written. -/
def Sys2Proof.Claims.FloatTrapsHold : Prop :=
  FloatTraps .fadd (fun m u v => u.plus m v) ∧ FloatTraps .fsub (fun m u v => u.plus m v.neg) ∧ FloatTraps .fmul (fun _ u v => u.mul v) ∧
  FloatTraps .fmin (fun _ u v => u.least v) ∧ FloatTraps .fmax (fun _ u v => u.most v) ∧
  FloatTernaryTraps .fma (fun m u v w => (u.mul v).plus m w) ∧ FloatTernaryTraps .fnma (fun m u v w => (u.neg.mul v).plus m w) ∧
  FloatFunctionTraps .fexp2 FVal.exp2 ∧ FloatFunctionTraps .flog2 FVal.log2 ∧ FloatFunctionTraps .frcp (FVal.div (.num false 1 1)) ∧
  FloatFunctionTraps .frsq FVal.rsq ∧ FloatFunctionTraps .fsqrt FVal.sqrt

/-! ### Reductions and lane operations -/

/-- R317 and R318: reductions. -/
def Sys2Proof.Claims.ReductionsHold : Prop :=
  IntReduce .rsum isInt (fun da v => (v.map (rdS da)).sum) ∧
  IntReduce .rmax isInt (fun da v => (v.map (rdS da)).foldl max ((v.map (rdS da)).headD 0)) ∧
  IntReduce .rmin isInt (fun da v => (v.map (rdS da)).foldl min ((v.map (rdS da)).headD 0)) ∧
  IntReduce .rmaxi isInt (fun da v => (argBest (fun y u => decide (u < y)) (v.map (rdS da)) : Nat)) ∧
  IntReduce .rmini isInt (fun da v => (argBest (fun y u => decide (y < u)) (v.map (rdS da)) : Nat)) ∧
  IntReduce .rfmaxi isFlt (fun da v => (argBest (fun y u => !y.isNan && (u.isNan || u.below y)) (v.map (flt da)) : Nat)) ∧
  (∀ s x d a da dd, Issues s (.rall d a) x → Operand x a isInt da → Dest x d isInt dd →
    exec (.rall d a) s = .next (retired s x (x.th.setLanes d (List.replicate dd.lanes
      (if ∀ u ∈ val x a, u ≠ 0 then (if dd.kind = .sgn then 2 ^ dd.width - 1 else 1) else 0))))) ∧
  (∀ s x d a da dd, Issues s (.rany d a) x → Operand x a isInt da → Dest x d isInt dd →
    exec (.rany d a) s = .next (retired s x (x.th.setLanes d (List.replicate dd.lanes
      (if ∃ u ∈ val x a, u ≠ 0 then (if dd.kind = .sgn then 2 ^ dd.width - 1 else 1) else 0))))) ∧
  (∀ s x d a da dd r, Issues s (.rfsum d a) x → Operand x a isFlt da → Dest x d isFlt dd →
    PerLane dd.lanes r (fun l v => fitFloat x.th x.mode.noDraw dd l (binarySum da (val x a)) = some v) →
    exec (.rfsum d a) s = .next (retired s x (x.th.setLanes d r))) ∧
  (∀ s x d a da dd r, Issues s (.rfmax d a) x → Operand x a isFlt da → Dest x d isFlt dd → da.kind = dd.kind →
    PerLane dd.lanes r (fun l v => fitFloat x.th .rne dd l (((val x a).map (flt da)).foldl FVal.most .nan) = some v) →
    exec (.rfmax d a) s = .next (retired s x (x.th.setLanes d r)))

/-- The first of the best: `argBest` names an entry that none beats, and that beats every entry before it. -/
def Sys2Proof.Claims.FirstBestHold : Prop :=
  ∀ (l : List Int), l ≠ [] →
    let k := argBest (fun y u => decide (u < y)) l
    k < l.length ∧ (∀ j, j < l.length → l.getD j 0 ≤ l.getD k 0) ∧ (∀ j, j < k → l.getD j 0 < l.getD k 0)

/-- R319 and R329: lane operations; an index past the lanes of a gives the zero string. -/
def Sys2Proof.Claims.LaneOperationsHold : Prop :=
  LaneOp .vperm (fun _ db dd => db.lanes = 1 ∨ db.lanes = dd.lanes) (fun va vb l => va.getD (lane vb l) 0) ∧
  LaneOp .vshuf (fun da _ dd => da.lanes = dd.lanes) (fun va vb l => va.getD (Nat.xor l (vb.headD 0)) 0) ∧
  LaneOp .vlane (fun _ _ _ => True) (fun va vb _ => va.getD (vb.headD 0) 0) ∧
  LaneOp .vcomp (fun da db _ => db.lanes = da.lanes)
    (fun va vb l => (((va.zip vb).filter (fun p => decide (p.2 ≠ 0))).map (·.1)).getD l 0) ∧
  (∀ s x d a b da db dd, Issues s (.vins d a b) x → Operand x a isAny da → Operand x b isInt db → Operand x d isAny dd →
    da.kind = dd.kind → da.width = dd.width →
    exec (.vins d a b) s = .next (retired s x (x.th.setLanes d (setAt (val x d) ((val x b).headD 0) ((val x a).headD 0))))) ∧
  (∀ s x d a da dd r, Issues s (.vidx d a) x → Operand x a isInt da → Dest x d isInt dd →
    PerLane dd.lanes r (fun l v => fitInt dd (rdS da ((val x a).headD 0) + l) = some v) →
    exec (.vidx d a) s = .next (retired s x (x.th.setLanes d r))) ∧
  (∀ s x d a b da db dd, Issues s (.rng d a b) x → Operand x a isInt da → Operand x b isInt db → Dest x d isInt dd →
    exec (.rng d a b) s = .next (retired s x (x.th.setLanes d ((upFrom 0 dd.lanes).map (fun l =>
      rng ((val x a).headD 0) ((val x b).headD 0) l / 2 ^ (64 - dd.width))))))

/-- R7, R281, R285 and R287: fit() of an integer, the integer instructions of two operands, of one and of an immediate, the
trap of the lowest lane that no policy admits (R9), and, of the functions they are said with, that an immediate is what its
word and its hint say, that string operations act bit by bit, and that no bound on a shift count shows. -/
def Obligations.IntegerArithmetic : Prop :=
  Claims.FitIntegerHold ∧ Claims.IntegerArithmeticHold ∧ Claims.IntegerOverflowTrapsHold ∧ Claims.IntegerImmediatesHold ∧ Claims.ImmediateValuesHold ∧ Claims.StringOperationsHold ∧ Claims.ShiftCountsHold

/-- R86, R279, R280 and R288: the integer compares, and the checks of the names of a two-source instruction. -/
def Obligations.IntegerCompares : Prop :=
  Claims.IntegerComparesHold ∧ Claims.KindChecksHold

/-- R289 and R291: the multiplier and the divider, and the bit fields. -/
def Obligations.MultiplyDivide : Prop :=
  Claims.MultiplyDivideHold ∧ Claims.BitFieldsHold

/-- R290 and R294 to R298: values given to every lane, policies, and conversions. That a conversion between float kinds gives a NaN the
canonical NaN of d under every policy, trap among them, is the model's reading of R154 and R296 (DEDUCED, log 24). -/
def Obligations.Conversions : Prop :=
  Claims.ValuesToEveryLaneHold ∧ Claims.PolicyChangeHold ∧ Claims.ConversionsHold

/-- R149 to R154 and R309 to R316: float arithmetic, sign changes, classification, compares and functions; the values they are said
with are exact, and each is rounded once and meets its policy, FPX included. That an irrational result of `fexp2`, `flog2`, `frsq`
and `fsqrt` is the middle of an interval that holds it, and is rounded from there, is the model's reading (DEDUCED, log 75). -/
def Obligations.FloatArithmetic : Prop :=
  Claims.FloatArithmeticHold ∧ Claims.FloatFunctionsHold ∧ Claims.ExactValuesHold ∧ Claims.RoundingHold ∧ Claims.FitFloatHold ∧
    Claims.FloatTrapsHold

/-- R317 to R319 and R329: reductions, the index of the first best, lane operations and the generator. -/
def Obligations.LaneOperations : Prop :=
  Claims.ReductionsHold ∧ Claims.FirstBestHold ∧ Claims.LaneOperationsHold
namespace Sys2Proof.Claims

open Sys2Proof.Machine

/-- A thread is as it was; or, waiting in an instruction, it looks again at what it waits for. -/
def SameOrAgain (s t : State) (c sl : Nat) : Prop :=
  t.thread? c sl = s.thread? c sl ∨ ∃ th, s.thread? c sl = some th ∧ th.op.isSome = true ∧ t.thread? c sl = some th.again

/-- Threads other than those named are as they were, but that a waiting one may look again, and so is every other field of every
core. -/
def ThreadsOnly (s t : State) (p : Nat → Nat → Prop) : Prop :=
  (∀ c, { t.core c with threads := [] } = { s.core c with threads := [] }) ∧ ∀ c sl, ¬p c sl → SameOrAgain s t c sl

/-- No trace entry selects the slot (R243). -/
def Untraced (s : State) (c sl : Nat) : Prop := s.traced c sl = false

/-- The hint words: each is pending for the next word, and nothing else changes. -/
def Hints (i : Instr) : Prop :=
  ∀ s x w, Issues s i x → encode i = some w → exec i s = .next (withThread s x.c x.sl { x.th with pc := x.th.pc + 4, hint := some w })

/-- The thread in a new frame at a target (R304). -/
def called (x : Ctx) (pc : Nat) : Thread :=
  { x.th with fill := x.th.fill.filter (fun f => decide (f.1 + 3 ≠ x.th.depth)), depth := x.th.depth + 1, names := setFrame ((x.th.depth + 1) % 4) x.th.names [],
              lk := BitVec.ofNat 64 (x.th.pc + 4) }.retire pc

/-- No frame goes to memory at a call: the new frame's slot is free, there are no windowed lanes, or the frame in it is there
already. -/
def NoSpill (x : Ctx) : Prop := x.th.depth + 1 < 4 ∨ x.th.frameLanes = 0 ∨ x.th.depth - 3 ∈ x.th.spilled

/-- The frame that a call would overwrite must go to memory, and can (R107). -/
structure Spills (x : Ctx) : Prop where
  deep : 3 ≤ x.th.depth
  lanes : 0 < x.th.frameLanes
  inside : x.th.depth - 3 ∉ x.th.spilled
  aligned : x.th.ws.toNat % 8 = 0
  fits : 8 * x.th.frameLanes ≤ x.th.ws.toNat
  run : x.inRun (x.th.ws.toNat - 8 * x.th.frameLanes : Nat) (8 * x.th.frameLanes) = true
  noRace : x.runRace (x.th.ws.toNat - 8 * x.th.frameLanes) (8 * x.th.frameLanes) true false = .ok ()
  sound : x.frameEcc ((x.th.depth - 3) % 4) = .ok ()

/-- What a spilling call answers: the thread is Held, and the spill is due. -/
def CallHeld (s : State) (x : Ctx) (i : Instr) : Prop :=
  ∃ t th, exec i s = .next t ∧ t.thread? x.c x.sl = some th ∧ th.status = .held ∧ th.pc = x.th.pc ∧ th.names = x.th.names ∧
    th.depth = x.th.depth ∧ th.lk = x.th.lk ∧ th.ws = x.th.ws ∧ ⟨.frameSpillDone, [x.c, x.sl]⟩ ∈ t.pending ∧
    t = { s with cores := t.cores, pending := t.pending }

end Sys2Proof.Claims

/-! ### Taking a trap and coming back -/

/-- R190 to R192: a trap of a user thread halts it, saves cause, address and value in its control words, puts it into the
core's trap queue and makes the steward's service due; the names, memory and every other user thread are as they were, but that a
thread whose turn at the order log comes by it goes on. -/
def Obligations.TakingATrap : Prop :=
  ∀ (s : State) (i : Instr) (x : Ctx) (cause eval : Nat), Issues s i x → x.sl ≠ 15 → Untraced s x.c x.sl →
    let t := trapped s x cause eval
    let at_ := if x.th.hint.isSome then x.th.pc - 4 else x.th.pc
    (∃ th, t.thread? x.c x.sl = some th ∧ th.trapped = true ∧ th.pc = at_ ∧ th.epc = BitVec.ofNat 64 at_ ∧
      th.eval = BitVec.ofNat 64 eval ∧ th.cause = causeWord cause (x.word / 67108864) x.th.hint.isSome x.th.inh ∧
      th.hint = none ∧ th.relFence = none ∧ th.names = x.th.names ∧ th.lk = x.th.lk ∧ th.ws = x.th.ws ∧ th.st = x.th.st ∧
      th.rsn = x.th.rsn ∧ th.depth = x.th.depth) ∧
    (t.core x.c).trapQ = (s.core x.c).trapQ ++ [x.sl] ∧ ⟨.trapService, [x.c]⟩ ∈ t.pending ∧
    (∀ c sl, ¬(c = x.c ∧ (sl = x.sl ∨ sl = 15)) → t.thread? c sl = s.thread? c sl ∨
      ∃ th, s.thread? c sl = some th ∧ th.logWait = true ∧ t.thread? c sl = some { th.again with logWait := false }) ∧
    t = { s with cores := t.cores, parts := t.parts, timers := t.timers, pending := t.pending }

/-- R280: an undefined operand value raises ILL with the word, and a privileged form raises PRIV for a user thread, before any
check of the instruction's own; with neither nor a pending hint the instruction goes on to those. -/
def Sys2Proof.Claims.FirstChecksHold : Prop :=
  ∀ (s : State) (i : Instr) (x : Ctx), s.cur = some (x.c, x.sl) → s.ctx? x.c x.sl i = some x → (encode i).isSome →
    (illOperand i = true → exec i s = .next (trapped s x ILL x.word)) ∧
    (∀ v, illOperand i = false → needsLocalTime i = false → x.th.hint = none → x.sl ≠ 15 → privileged i = some v →
      exec i s = .next (trapped s x PRIV v)) ∧
    (illOperand i = false → needsLocalTime i = false → x.th.hint = none → (x.sl = 15 ∨ privileged i = none) → guard x = .ok ())

/-! ### Hints -/

/-- R275 to R277: a hint retires in its own issue and is pending for the next word. -/
def Sys2Proof.Claims.HintsPendHold : Prop :=
  (∀ hi, hi < 4194304 → Hints (.hintImm hi)) ∧ (∀ rm ws, rm < 8 → ws < 2 → Hints (.hintMod rm ws)) ∧
  (∀ st, st < 32768 → Hints (.hintMma st)) ∧ (∀ sc o k, sc < 4 → o < 4 → k < 4 → Hints (.hintScope sc o k))

/-! ### Control transfers and frames -/

/-- R299: a target that is no multiple of 4 raises ALIGN, and one outside the code extent of the task ends the task by EXTENT. -/
def Sys2Proof.Claims.TransferTargetsHold : Prop :=
  ∀ (x : Ctx) (a : Int) (n : Task) (e : Extent), x.sl ≠ 15 → x.task = some n → look n.ext 0 = some e →
    (a % 4 ≠ 0 → x.target a = trap ALIGN (a % 2 ^ 64).toNat) ∧
    (a % 4 = 0 → (e.vbase : Int) ≤ a → a + 4 ≤ (e.vbase : Int) + e.len → x.target a = .ok a.toNat) ∧
    (a % 4 = 0 → (a < (e.vbase : Int) ∨ (e.vbase : Int) + e.len < a + 4) → x.target a = extent 1 0 (a % 2 ^ 64).toNat)

/-- R300 to R302: branches and jumps; one that is not taken goes on at the next word. -/
def Sys2Proof.Claims.BranchesHold : Prop :=
  (∀ s x c disp d pc, Issues s (.bt c disp) x → Operand x c isPred d → Untraced s x.c x.sl → (val x c).headD 0 = 1 →
    x.target (x.th.pc + 4 * signed 19 disp) = .ok pc → exec (.bt c disp) s = .next (withThread s x.c x.sl (x.th.retire pc))) ∧
  (∀ s x c disp d, Issues s (.bt c disp) x → Operand x c isPred d → (val x c).headD 0 ≠ 1 →
    exec (.bt c disp) s = .next (retired s x x.th)) ∧
  (∀ s x c disp d pc, Issues s (.bf c disp) x → Operand x c isPred d → Untraced s x.c x.sl → (val x c).headD 0 = 0 →
    x.target (x.th.pc + 4 * signed 19 disp) = .ok pc → exec (.bf c disp) s = .next (withThread s x.c x.sl (x.th.retire pc))) ∧
  (∀ s x c disp d, Issues s (.bf c disp) x → Operand x c isPred d → (val x c).headD 0 ≠ 0 →
    exec (.bf c disp) s = .next (retired s x x.th)) ∧
  (∀ s x disp pc, Issues s (.jmp disp) x → x.target (x.th.pc + 4 * signed 26 disp) = .ok pc →
    exec (.jmp disp) s = .next (withThread s x.c x.sl (x.th.retire pc))) ∧
  (∀ s x c d pc, Issues s (.jr c) x → Operand x c isInt d → Untraced s x.c x.sl → x.target ((val x c).headD 0) = .ok pc →
    exec (.jr c) s = .next (withThread s x.c x.sl (x.th.retire pc)))

/-- R106, R107 and R304: a call enters a new frame whose windowed lanes are zero, with the return address in lk; where the
frame it would overwrite is not in memory yet, the thread is Held until the spill is done. -/
def Sys2Proof.Claims.CallsHold : Prop :=
  (∀ s x disp pc, Issues s (.call disp) x → x.target (x.th.pc + 4 * signed 26 disp) = .ok pc → x.th.depth ≠ 65535 → NoSpill x →
    exec (.call disp) s = .next (withThread s x.c x.sl (called x pc))) ∧
  (∀ s x c d pc, Issues s (.callr c) x → Operand x c isInt d → Untraced s x.c x.sl → x.target ((val x c).headD 0) = .ok pc →
    x.th.depth ≠ 65535 → NoSpill x → exec (.callr c) s = .next (withThread s x.c x.sl (called x pc))) ∧
  (∀ s x disp pc, Issues s (.call disp) x → x.target (x.th.pc + 4 * signed 26 disp) = .ok pc → x.th.depth ≠ 65535 → Spills x →
    CallHeld s x (.call disp)) ∧
  (∀ s x c d pc, Issues s (.callr c) x → Operand x c isInt d → x.target ((val x c).headD 0) = .ok pc → x.th.depth ≠ 65535 →
    Spills x → CallHeld s x (.callr c)) ∧
  (∀ s x disp pc, Issues s (.call disp) x → x.target (x.th.pc + 4 * signed 26 disp) = .ok pc → x.th.depth = 65535 →
    exec (.call disp) s = .next (trapped s x MAPFULL 3))

/-- R305 and R108: `ret` leaves the frame; where the frame three below is in memory its fill begins, to end at FRAME_FILL_DONE, from
where ws will stand when the fills before it have ended; where the frame that it reaches is still to be filled, it is Held and goes
on when the fill has ended. -/
def Sys2Proof.Claims.ReturnsHold : Prop :=
  (∀ s x pc, Issues s .ret x → Untraced s x.c x.sl → x.target x.th.lk.toNat = .ok pc → x.th.depth = 0 →
    exec .ret s = .next (withThread s x.c x.sl (x.th.retire pc))) ∧
  (∀ s x pc, Issues s .ret x → Untraced s x.c x.sl → x.target x.th.lk.toNat = .ok pc → x.th.depth ≠ 0 → x.th.depth - 1 ∉ x.th.spilled →
    (x.th.depth < 4 ∨ x.th.depth - 4 ∉ x.th.spilled) →
    exec .ret s = .next (withThread s x.c x.sl ({ x.th with depth := x.th.depth - 1 }.retire pc))) ∧
  (∀ s x pc, Issues s .ret x → Untraced s x.c x.sl → x.target x.th.lk.toNat = .ok pc → 4 ≤ x.th.depth → x.th.depth - 1 ∉ x.th.spilled →
    x.th.depth - 4 ∈ x.th.spilled →
    let a := x.th.ws.toNat + 8 * x.th.frameLanes * x.th.fill.length
    a % 8 = 0 → x.inRun a (8 * x.th.frameLanes) = true → x.runRace a (8 * x.th.frameLanes) false false = .ok () →
    x.runEcc a (8 * x.th.frameLanes) = .ok () →
    ∃ t, exec .ret s = .next t ∧ t.thread? x.c x.sl =
        some ({ x.th with depth := x.th.depth - 1, fill := x.th.fill ++ [(x.th.depth - 4, a)] }.retire pc) ∧
      ⟨.frameFillDone, [x.c, x.sl]⟩ ∈ t.pending ∧ t = { s with cores := t.cores, pending := t.pending }) ∧
  (∀ s x pc, Issues s .ret x → x.target x.th.lk.toNat = .ok pc → x.th.depth ≠ 0 → x.th.depth - 1 ∈ x.th.spilled →
    exec .ret s = .next (withThread s x.c x.sl (x.th.wait .ret x.hint .held [pc]))) ∧
  (∀ s c sl x f a r, s.args = [c, sl] → s.ctx? c sl .ret = some x → x.th.fill = (f, a) :: r → x.th.op = none →
    ∃ t, exec .frameFillDone s = .next t ∧
      t.thread? c sl = some (x.th.filled f (s.locWords c (x.runBase + a) x.th.frameLanes)) ∧
      (r ≠ [] → ⟨.frameFillDone, [c, sl]⟩ ∈ t.pending) ∧
      t = { s with cores := t.cores, pending := t.pending } ∧ ThreadsOnly s t (fun c' sl' => c' = c ∧ sl' = sl)) ∧
  (∀ s c sl x a pc, s.args = [c, sl] → s.opCtx? c sl = some (x, [pc]) → x.i = .ret → x.th.status = .held → x.th.fill = [(x.th.depth - 1, a)] →
    (x.th.depth < 4 ∨ x.th.depth - 4 ∉ x.th.spilled) → Untraced s c sl →
    ∃ t, exec .frameFillDone s = .next t ∧
      t.thread? c sl = some ({ x.th.filled (x.th.depth - 1) (s.locWords c (x.runBase + a) x.th.frameLanes) with depth := x.th.depth - 1 }.retire pc) ∧
      t = { s with cores := t.cores, pending := t.pending } ∧ ThreadsOnly s t (fun c' sl' => c' = c ∧ sl' = sl))

/-- R107 and R304: FRAME_SPILL_DONE writes the words of the frame just below `ws`, `ws` falls by their bytes, and the held call
enters its frame; no other byte of local store and no byte of memory changes. -/
def Sys2Proof.Claims.SpillWritesFrameHold : Prop :=
  ∀ s c sl x pc, s.args = [c, sl] → s.opCtx? c sl = some (x, [pc]) → ((∃ n, x.i = .call n) ∨ ∃ n, x.i = .callr n) →
    Untraced s c sl → x.th.status = .held → x.frameEcc ((x.th.depth - 3) % 4) = .ok () →
    s.loc.wf → 8 * x.th.frameLanes ≤ x.th.ws.toNat → c < 512 → x.runBase + x.th.ws.toNat ≤ 2097152 →
    let base := locKey c (x.runBase + (x.th.ws.toNat - 8 * x.th.frameLanes))
    let bytes := packWords 8 (x.th.frameWords ((x.th.depth - 3) % 4))
    ∃ t, exec .frameSpillDone s = .next t ∧
      t.thread? c sl = some ({ x.th with
        spilled := x.th.spilled ++ [x.th.depth - 3], depth := x.th.depth + 1
        fill := x.th.fill.filter (fun f => decide (f.1 + 3 ≠ x.th.depth))
        ws := BitVec.ofNat 64 (x.th.ws.toNat - 8 * x.th.frameLanes)
        names := setFrame ((x.th.depth + 1) % 4) x.th.names [], lk := BitVec.ofNat 64 (x.th.pc + 4) }.retire pc) ∧
      (∀ k, bytes.length ≤ 8 * x.th.frameLanes → k < base ∨ base + bytes.length ≤ k → t.loc.get k = s.loc.get k) ∧
      (∀ j, bytes.length ≤ 8 * x.th.frameLanes → j < bytes.length → t.loc.get (base + j) = bytes.getD j 0) ∧
      t = { s with loc := t.loc, cores := t.cores, bad := t.bad, pending := t.pending }

/-! ### Patterns -/

/-- Rows of a slot are locked for some clocks, at whose end a step of the instruction is due (R103 to R105). -/
def Sys2Proof.Claims.LocksFor (t : State) (c sl : Nat) (rows : List Nat) (n : Nat) (i : Instr) : Prop :=
  (sl, rows) ∈ (t.core c).locks ∧
    ({ ev := ⟨i, [c, sl]⟩, die := dieOf c, onCyc := true, due := (t.die (dieOf c)).cyc.toNat + n } : Timer) ∈ t.timers

/-- R96, R105 and R292: `mapld` of a sound pattern that fits gives every declared name the value zero at depth 0, takes the header's
rounding mode, drops a pending release fence and raises the pattern's generation; the rows that it writes are locked for two clocks
each, in which its thread issues nothing, and are then unlocked; memory is as it was. (When the clocks pass is DEDUCED, log 90.) -/
def Sys2Proof.Claims.PatternLoadHold : Prop :=
  ∀ s x a imm d p m ds names, Issues s (.mapld a imm) x → Operand x a isInt d → ((val x a).headD 0 + x.immI imm : Int) = (p : Nat) →
    p % 8 = 0 → x.inRun p (8 + 4 * (x.locNum p 8 % 64)) = true → x.localBad (x.runBase + p) 8 = none →
    x.localBad (x.runBase + p) (8 + 4 * (x.locNum p 8 % 64)) = none →
    x.runRace p (8 + 4 * (x.locNum p 8 % 64)) false false = .ok () → parseHeader (x.locNum p 8) = some m →
    parseDescs (fun i => x.locNum (p + 8 + 4 * i) 4) 0 (x.locNum p 8 % 64) = .ok ds → (ds.map (fun e => e.2.charge)).sum ≤ 16384 →
    placePattern x.sl ds (x.k.occupied x.sl) = some names → x.k.refusals = [] →
    let th : Thread := { x.th with
      relFence := none, names := names, rmode := m, depth := 0, spilled := [], fill := [], mapGen := x.th.mapGen + 1 }
    ∃ t, exec (.mapld a imm) s = .next t ∧
      t.thread? x.c x.sl = some ({ th with busy := max x.th.busy (2 * th.rows.length) }.retire (x.th.pc + 4)) ∧
      LocksFor t x.c x.sl th.rows (2 * th.rows.length) (.mapld a imm) ∧
      t = { s with cores := t.cores, timers := t.timers } ∧ ∀ c sl, ¬(c = x.c ∧ sl = x.sl) → t.thread? c sl = s.thread? c sl

/-- R105: the end of a pattern load's clocks unlocks its rows. -/
def Sys2Proof.Claims.PatternUnlocksHold : Prop :=
  ∀ s c sl a imm, s.cur = none → s.args = [c, sl] →
    ∃ t, exec (.mapld a imm) s = .next t ∧ (∀ l ∈ (t.core c).locks, l.1 ≠ sl) ∧ (∀ l ∈ (s.core c).locks, l.1 ≠ sl → l ∈ (t.core c).locks) ∧
      t = { s with cores := t.cores } ∧ ∀ c' sl', SameOrAgain s t c' sl'

/-- R97 and R98: whatever pattern is placed, its names have the descriptors asked for and every lane is zero. -/
def Sys2Proof.Claims.PlacedPatternsAreZeroHold : Prop :=
  ∀ sl ds occ names, placePattern sl ds occ = some names → ∀ n e, look names n = some e → (n, e.desc) ∈ ds ∧
    e.fields.length = (if e.desc.win then 4 else 1) ∧ ∀ f ∈ e.fields, f.lanes = List.replicate e.desc.lanes 0

/-- What a `resz` of an integer name of one field needs: a kind and a width that it may take, a charge that fits, and values that the new
width holds. -/
structure Sys2Proof.Claims.Resizes (x : Ctx) (d kind wd : Nat) (dd : Desc) (f : Field) (r : List Nat) : Prop where
  name : look x.th.names d = some { desc := dd, fields := [f] }
  operand : Operand x d isInt dd
  declared : d < 56
  plain : dd.win = false
  kind : Kind.ofCode kind = some dd.kind
  charge : x.th.charge - dd.width * dd.lanes + (wd + 1) * dd.lanes ≤ 16384
  values : PerLane dd.lanes r (fun l v => fitInt { dd with width := wd + 1 } (rdS dd (lane (val x d) l)) = some v)

/-- R101 to R104 and R293: `resz` of an integer name chooses the name's own place or another, locks the rows of both and is in flight for
its clocks; while another slot's move runs on the core, one that needs a move is Held; and when the clocks are over and no earlier
instruction touches the rows, the name stands in its place with every value that the new width holds, no other name has changed,
and the locks and the claim are gone. (DEDUCED, log 90) -/
def Sys2Proof.Claims.ResizeHold : Prop :=
  (∀ s x d kind wd dd f r row bit moved, Issues s (.resz d kind wd) x → Resizes x d kind wd dd f r →
    x.resizePlace d (dd.width * dd.lanes) ((wd + 1) * dd.lanes) f = some (row, bit, moved) →
    let rows := reszRows f (dd.width * dd.lanes) row bit ((wd + 1) * dd.lanes)
    let n := reszClocks moved rows
    ((moved = false ∨ x.k.moveRuns x.sl = false) →
      ∃ t, exec (.resz d kind wd) s = .next t ∧
        t.thread? x.c x.sl = some { x.th.wait (.resz d kind wd) x.hint .inFlight [row, bit, bitAt moved 0] with busy := n } ∧
        LocksFor t x.c x.sl rows n (.resz d kind wd) ∧ (moved = true → (x.sl, row * 512 + bit, span ((wd + 1) * dd.lanes)) ∈ (t.core x.c).claims) ∧
        t = { s with cores := t.cores, timers := t.timers } ∧ ∀ c sl, ¬(c = x.c ∧ sl = x.sl) → t.thread? c sl = s.thread? c sl) ∧
    (moved = true → x.k.moveRuns x.sl = true →
      ∃ t, exec (.resz d kind wd) s = .next t ∧ t.thread? x.c x.sl = some (x.th.wait (.resz d kind wd) x.hint .held []) ∧
        (x.sl, f.rows (dd.width * dd.lanes)) ∈ (t.core x.c).locks ∧ t = { s with cores := t.cores })) ∧
  (∀ s c sl x d kind wd dd f r row bit moved, s.cur = none → s.args = [c, sl] → s.opCtx? c sl = some (x, [row, bit, bitAt moved 0]) →
    x.i = .resz d kind wd → x.th.status = .inFlight → Resizes x d kind wd dd f r → (s.core c).rowsInUse sl = false → x.k.refusals = [] →
    ∃ t, exec (.resz d kind wd) s = .next t ∧
      t.thread? c sl = some ({ x.th with
        names := put x.th.names d { desc := { dd with width := wd + 1 }, fields := [⟨row, bit, r⟩] }
        mapGen := x.th.mapGen + 1
        mapMoves := if moved ∧ x.th.mapMoves ≠ 0xFFFF then x.th.mapMoves + 1 else x.th.mapMoves }.retire (x.th.pc + 4)) ∧
      (∀ l ∈ (t.core c).locks, l.1 ≠ sl) ∧ (∀ l ∈ (t.core c).claims, l.1 ≠ sl) ∧
      t = { s with cores := t.cores, pending := t.pending } ∧ ∀ c' sl', ¬(c' = c ∧ sl' = sl) → SameOrAgain s t c' sl')

/-- R275 to R277 and R280: the checks before an instruction's own, and hints. -/
def Obligations.FirstChecks : Prop :=
  Claims.FirstChecksHold ∧ Claims.HintsPendHold

/-- R299 to R302: targets, branches and jumps. -/
def Obligations.Branches : Prop :=
  Claims.TransferTargetsHold ∧ Claims.BranchesHold

/-- R106 to R108, R304 and R305: calls, returns, and the frames that go to memory and come back. -/
def Obligations.CallsAndReturns : Prop :=
  Claims.CallsHold ∧ Claims.ReturnsHold ∧ Claims.SpillWritesFrameHold

/-- R96 to R98, R101 to R105, R292 and R293: loading a pattern, and resizing a name. The clocks of both, and the two parts of a `resz`,
are the model's reading (DEDUCED, log 90). -/
def Obligations.Patterns : Prop :=
  Claims.PatternLoadHold ∧ Claims.PatternUnlocksHold ∧ Claims.PlacedPatternsAreZeroHold ∧ Claims.ResizeHold
namespace Sys2Proof.Claims

open Sys2Proof.Machine

/-! ### Shapes of statements about memory -/

/-- The access sizes of R331. -/
def IsSize (n : Nat) : Prop := n = 1 ∨ n = 2 ∨ n = 4 ∨ n = 8

/-- A request goes from die to die: due at once on its own die, else at the tail of the first link of its way, where that link has an
allowance for it and nothing stands before it, and else held by its sender (R25, R26). -/
def Sent (s t : State) (src dst : Nat) (i : Instr) (args : List Nat) : Prop :=
  let hop := nextHop src dst
  let n := src * 4 + hop
  if src = dst then t.pending = s.pending ++ [⟨i, args⟩] ∧ t.links = s.links ∧ t.unsent = s.unsent
  else t.pending = s.pending ++ [⟨.dieLinkFlitDeliver, [src, hop]⟩] ∧
    (if lookD s.unsent n [] = [] ∧ s.linkAllows src hop = true then
      t.links = put s.links n (lookD s.links n [] ++ [(dst, ⟨i, args⟩)]) ∧ t.unsent = s.unsent
    else t.links = s.links ∧ t.unsent = put s.unsent n (lookD s.unsent n [] ++ [(dst, ⟨i, args⟩)]))

/-- A core without its threads and without what race detection keeps. -/
def bare (k : Core) : Core := { k with threads := [], hGran := [], hWin := [], hTile := [] }

/-- The thread of the instruction becomes th; beside it the histories of race detection alone change. -/
structure ReadsOnly (s t : State) (c sl : Nat) (th : Thread) : Prop where
  own : t.thread? c sl = some th
  others : ∀ c' sl', ¬(c' = c ∧ sl' = sl) → SameOrAgain s t c' sl'
  cores : ∀ c', bare (t.core c') = bare (s.core c')
  rest : t = { s with cores := t.cores }

/-- Threads other than one are as they were, but for those that wait in an instruction, which may have seen a word now written and look
again (R341). -/
def OthersWake (s t : State) (c sl : Nat) : Prop :=
  ∀ c' sl', ¬(c' = c ∧ sl' = sl) → t.thread? c' sl' = s.thread? c' sl' ∨
    ∃ th st saw w, s.thread? c' sl' = some th ∧ th.op.isSome = true ∧ t.thread? c' sl' = some { th with status := st, saw := saw, logWait := w }

/-- The thread's partition neither records nor replays. -/
def Unlogged (s : State) (x : Ctx) : Prop := ∀ n p, x.part = some n → s.part? n = some p → p.mode ≠ 1 ∧ p.mode ≠ 2

/-- The first lane address of a load or store. -/
def startAt (x : Ctx) (a sz off : Nat) : Int := ((val x a).headD 0 : Int) + x.offM off (2 ^ sz)

/-- A data name whose element size agrees (R332). -/
structure DataName (x : Ctx) (n sz : Nat) (d : Desc) : Prop extends Dest x n isAny d where
  size : sz ≤ 3
  float : isFlt d = true → d.width = 8 * 2 ^ sz

/-- What a lane holds of a loaded element: a float its bits, an integer its value by fit() (R332). -/
def Loaded (d : Desc) (size w v : Nat) : Prop :=
  if isFlt d = true then v = w else fitInt d (extInt d.kind (8 * size) w) = some v

def LocalLoad (mk : Nat → Nat → Nat → Nat → Instr) (vec : Bool) : Prop :=
  ∀ s x d a sz off da dd ps r, Issues s (mk d a sz off) x → Operand x a isInt da → DataName x d sz dd →
    x.localChecks (2 ^ sz) false (strided (startAt x a sz off) (2 ^ sz) (if vec then dd.lanes else 1)) = .ok ps →
    x.windowLocked ps = false →
    PerLane ps.length r (fun l v => ∃ w, (ps[l]?).map (x.readPlace (2 ^ sz)) = some (.ok w) ∧ Loaded dd (2 ^ sz) w v) →
    ∃ t, exec (mk d a sz off) s = .next t ∧
      ReadsOnly s t x.c x.sl ((x.th.setLanes d (if vec then r else r.headD 0 :: (val x d).drop 1)).retire (x.th.pc + 4)) ∧
      ∀ c sl, ¬(c = x.c ∧ sl = x.sl) → t.thread? c sl = s.thread? c sl

/-- An access to a register window in a row that another slot has locked is Held, with nothing changed (R104, R112). -/
def LocalHeld (mk : Nat → Nat → Nat → Nat → Instr) (vec write : Bool) : Prop :=
  ∀ s x d a sz off da dd ps, Issues s (mk d a sz off) x → Operand x a isInt da → DataName x d sz dd → (write = true → x.rowBad d = none) →
    x.localChecks (2 ^ sz) write (strided (startAt x a sz off) (2 ^ sz) (if vec then dd.lanes else 1)) = .ok ps → x.windowLocked ps = true →
    exec (mk d a sz off) s = .next (withThread s x.c x.sl (x.th.wait (mk d a sz off) x.hint .held []))

def LocalStore (mk : Nat → Nat → Nat → Nat → Instr) (vec : Bool) : Prop :=
  ∀ s x d a sz off da dd ps p, Issues s (mk d a sz off) x → Operand x a isInt da → DataName x d sz dd → x.rowBad d = none →
    s.loc.wf → x.c < 512 → x.runBase + x.runLen ≤ 2097152 → startAt x a sz off = (p : Nat) →
    p + 2 ^ sz * (if vec then dd.lanes else 1) ≤ x.runLen →
    x.localChecks (2 ^ sz) true (strided p (2 ^ sz) (if vec then dd.lanes else 1)) = .ok ps →
    ∃ t, exec (mk d a sz off) s = .next t ∧ t.thread? x.c x.sl = some (x.th.retire (x.th.pc + 4)) ∧
      (∀ l, l < (if vec then dd.lanes else 1) → t.loc.bytes (locKey x.c (x.runBase + p + l * 2 ^ sz)) (2 ^ sz) =
        leBytes (storeLane dd (2 ^ sz) ((val x d).getD l 0)) (2 ^ sz)) ∧
      (∀ k, k < locKey x.c (x.runBase + p) ∨ locKey x.c (x.runBase + p) + 2 ^ sz * (if vec then dd.lanes else 1) ≤ k →
        t.loc.get k = s.loc.get k) ∧
      OthersWake s t x.c x.sl ∧ t = { s with loc := t.loc, cores := t.cores, bad := t.bad, pending := t.pending }

/-- The lane addresses of a task-virtual load or store. -/
def laneAddrs (x : Ctx) (form : Nat) (a sz off lanes : Nat) : List (Nat × Int) :=
  if form = 2 then (upFrom 0 lanes).map (fun l => (l, ((val x a).getD l 0 : Int) + x.offM off (2 ^ sz)))
  else strided (startAt x a sz off) (2 ^ sz) (if form = 1 then lanes else 1)

/-- A load leaves with its lanes' physical addresses (R336). -/
def TaskLoad (mk : Nat → Nat → Nat → Nat → Instr) (form : Nat) : Prop :=
  ∀ s x d a sz off da dd vs, Issues s (mk d a sz off) x → Operand x a isInt da → DataName x d sz dd → x.hintScope = none →
    (form = 2 → da.lanes = dd.lanes) → alignLanes (2 ^ sz) (laneAddrs x form a sz off dd.lanes) = .ok () →
    eachOf (x.readLane (form == 0) (2 ^ sz)) (laneAddrs x form a sz off dd.lanes) = .ok vs → (∀ v ∈ vs, v.atomic = false) →
    ∃ t, exec (mk d a sz off) s = .next t ∧
      t.thread? x.c x.sl = some (x.th.wait (mk d a sz off) x.hint .inFlight (vs.flatMap VLane.pack)) ∧
      Sent s t (dieOf x.c) (s.homeDie (dieOf x.c) ((vs.map (·.phys)).headD 0)) .loadReturn [x.c, x.sl] ∧
      ThreadsOnly s t (fun c sl => c = x.c ∧ sl = x.sl) ∧ t = { s with cores := t.cores, pending := t.pending, links := t.links, unsent := t.unsent }

/-- The bytes that a store's lanes put: physical address, task address, byte. -/
def storedBytes (size : Nat) (vs : List VLane) (ws : List Nat) : List (Nat × Nat × Byte) :=
  (vs.zip ws).flatMap (fun p => ((upFrom 0 size).zip (leBytes p.2 size)).map (fun b => (p.1.phys + b.1, p.1.va + b.1, b.2)))

/-- The posted store that a store of a thread leaves (R336). -/
def postedOf (x : Ctx) (size : Nat) (vs : List VLane) (ws : List Nat) : Posted :=
  { task := x.th.task, slot := x.sl, agent := x.th.agent, epoch := lookD x.th.vc x.th.agent 0, bytes := storedBytes size vs ws
    entries := vs.map (·.ent) }

/-- A store retires and is posted behind the stores of its core; behind 32 it waits (R336). -/
def TaskStore (mk : Nat → Nat → Nat → Nat → Instr) (form : Nat) : Prop :=
  ∀ s x d a sz off da dd vs, Issues s (mk d a sz off) x → Operand x a isInt da → DataName x d sz dd → x.rowBad d = none →
    x.hintScope = none → (form = 2 → da.lanes = dd.lanes) → alignLanes (2 ^ sz) (laneAddrs x form a sz off dd.lanes) = .ok () →
    eachOf (x.writeLane (2 ^ sz)) (laneAddrs x form a sz off dd.lanes) = .ok vs →
    x.watch true false true (vs.map (fun v => ((v.va : Int), 2 ^ sz))) = none →
    ((s.core x.c).posted.length < 32 →
      ∃ t, exec (mk d a sz off) s = .next t ∧ t.thread? x.c x.sl = some (x.th.retire (x.th.pc + 4)) ∧
        (t.core x.c).posted = (s.core x.c).posted ++ [postedOf x (2 ^ sz) vs ((upFrom 0 vs.length).map (fun l =>
          storeLane dd (2 ^ sz) ((val x d).getD l 0)))] ∧
        Sent s t (dieOf x.c) (s.homeDie (dieOf x.c) ((vs.map (·.phys)).headD 0)) .postedStorePerform [x.c] ∧
        (∀ c sl, ¬(c = x.c ∧ sl = x.sl) → t.thread? c sl = s.thread? c sl) ∧
        t = { s with cores := t.cores, pending := t.pending, links := t.links, unsent := t.unsent }) ∧
    (32 ≤ (s.core x.c).posted.length →
      exec (mk d a sz off) s = .next (withThread s x.c x.sl (x.th.wait (mk d a sz off) x.hint .inFlight [])))

/-- Code, order, scope, destination, address name and operand name of an atomic (R338). -/
def amoForm : Instr → Option (Nat × Nat × Nat × Option Nat × Nat × Option Nat)
  | .amoAdd d a b o s => some (0, o, s, some d, a, some b)
  | .amoAnd d a b o s => some (1, o, s, some d, a, some b)
  | .amoOr d a b o s => some (2, o, s, some d, a, some b)
  | .amoXor d a b o s => some (3, o, s, some d, a, some b)
  | .amoMin d a b o s => some (4, o, s, some d, a, some b)
  | .amoMax d a b o s => some (5, o, s, some d, a, some b)
  | .amoMinu d a b o s => some (6, o, s, some d, a, some b)
  | .amoMaxu d a b o s => some (7, o, s, some d, a, some b)
  | .amoXchg d a b o s => some (8, o, s, some d, a, some b)
  | .amoCas d a b o s => some (9, o, s, some d, a, some b)
  | .amoIncw d a b o s => some (10, o, s, some d, a, some b)
  | .amoBfa d a b o s => some (11, o, s, some d, a, some b)
  | .amoLd d a o s => some (12, o, s, some d, a, none)
  | .amoSt a b o s => some (13, o, s, none, a, some b)
  | _ => none

/-- What each atomic writes at n bits, from the old value, the operand x and the old d as e (R339, R188). -/
def amoWrites (i : Instr) (n old x e : Nat) : Option Nat :=
  match i with
  | .amoAdd _ _ _ _ _ => some ((old + x) % 2 ^ n)
  | .amoAnd _ _ _ _ _ => some (Nat.land old x)
  | .amoOr _ _ _ _ _ => some (Nat.lor old x)
  | .amoXor _ _ _ _ _ => some (Nat.xor old x)
  | .amoMin _ _ _ _ _ => some (if signed n old ≤ signed n x then old else x)
  | .amoMax _ _ _ _ _ => some (if signed n x ≤ signed n old then old else x)
  | .amoMinu _ _ _ _ _ => some (min old x)
  | .amoMaxu _ _ _ _ _ => some (max old x)
  | .amoXchg _ _ _ _ _ => some x
  | .amoCas _ _ _ _ _ => if old = e then some x else none
  | .amoIncw _ _ _ _ _ => some (if x ≤ old then 0 else old + 1)
  | .amoBfa _ _ _ _ _ => if old + x ≤ e then some (old + x) else none
  | .amoSt _ _ _ _ => some x
  | _ => none

/-- The operands of an atomic that pass its checks: the address, the operand word and the old d. -/
structure AmoReady (x : Ctx) (aop ord : Nat) (d : Option Nat) (a : Nat) (b : Option Nat) (va bv ev : Nat) : Prop where
  adr : ∃ da, Operand x a isInt da ∧ va = (val x a).headD 0
  aligned : va % x.amoSize = 0
  op : match b with | some n => ∃ db, Operand x n isInt db ∧ bv = word64 db (val x n) | none => bv = 0
  dest : match d with
    | some n => ∃ dd, Operand x n isInt dd ∧ 8 * x.amoSize ≤ dd.width ∧ (aop = 11 → n ≠ 63) ∧
        ev = (if aop = 9 ∨ aop = 11 then word64 dd (val x n) else 0)
    | none => ev = 0
  stores : aop = 12 ∨ (ord < 2 ∧ x.th.relFence = none) ∨ x.drained = true

/-- The old value in lane 0 of d: sign-extended in a sgn d (R339). -/
def amoOld (x : Ctx) (d : Option Nat) (n old : Nat) : Thread :=
  match d with
  | some m => (match x.th.desc? m with
    | some e => x.th.setLane0 x.k.vt m (if e.kind = .sgn then bitsOf e.width (signed n old) else old)
    | none => x.th)
  | none => x.th

/-- The thread after an atomic: d, `sat` after `bfa`, the fence consumed, and no other name (R339, R340). -/
structure AmoThread (x : Ctx) (aop : Nat) (d : Option Nat) (n old : Nat) (wrote : Bool) (th : Thread) : Prop where
  pc : th.pc = x.th.pc + 4 ∧ th.status = .ready ∧ th.op = none ∧ th.hint = none
  names : th.names = (amoOld x d n old).names ∧ th.lk = (amoOld x d n old).lk ∧ th.ws = (amoOld x d n old).ws
  st : th.st = (if aop = 11 then ((amoOld x d n old).satBit (!wrote)).st else (amoOld x d n old).st)
  fence : th.relFence = if aop = 12 then x.th.relFence else none
  rest : th.task = x.th.task ∧ th.depth = x.th.depth ∧ th.rmode = x.th.rmode ∧ th.rsn = x.th.rsn

/-- The stream instructions with the two names each takes an address and a count from, and what each uses at its second
address: alignment, bytes read, bytes written, and whether these may not overlap the source (R320 to R322). -/
def streamUses (i : Instr) (n : Nat) (e : Desc) : Option StreamUse :=
  match i with
  | .vtopk _ _ _ => if isInt e = true then some ⟨4, 0, 4 * e.lanes, false⟩ else none
  | .vsmax _ _ _ => if streamFloat e 2 = true then some ⟨1, 0, 0, false⟩ else none
  | .vsoft _ _ _ => if streamFloat e 2 = true then some ⟨4, 0, 4 * n, true⟩ else none
  | .vsamp _ _ _ => if isInt e = true then some ⟨16, 16, 0, false⟩ else none
  | .vscan _ _ _ => if streamFloat e 1 = true then some ⟨e.width / 8, 0, e.width / 8 * n, true⟩ else none
  | _ => none

/-- A stream instruction that passes its checks leaves the rotation with its operands read and joins the stream unit's queue
(R322, R323). -/
def StreamIssues (mk : Nat → Nat → Nat → Instr) (two soft : Bool) : Prop :=
  ∀ s x d a b da db dd u, Issues s (mk d a b) x → Operand x a isInt da → Operand x b isInt db → Operand x d isAny dd →
    (two = true → 2 ≤ da.lanes) →
    let xs := (val x a).headD 0
    let ys := (val x a).getD 1 0
    let n := (val x b).headD 0
    let args := [xs, ys, n] ++ (if soft then val x d else [])
    streamUses (mk d a b) n dd = some u → xs % 4 = 0 → ys % u.align = 0 →
    (u.apart = true → overlaps ys u.writes xs (4 * n) = false ∨ (ys = xs ∧ u.writes = 4 * n)) →
    x.extentCheck xs (4 * n) = .ok () → x.extentCheck ys (u.reads + u.writes) = .ok () →
    (∀ g, (g ∈ granules (x.runBase + xs) (4 * n) ∨ g ∈ granules (x.runBase + ys) u.reads) → x.race (.gran g) false false = none) →
    (∀ g ∈ granules (x.runBase + ys) u.writes, x.race (.gran g) true false = none) →
    ∃ t, exec (mk d a b) s = .next t ∧ t.thread? x.c x.sl = some (x.th.wait (mk d a b) x.hint .out args) ∧
      (t.core x.c).streamQ = (s.core x.c).streamQ ++
        [{ slot := x.sl, op := { instr := mk d a b, pc := x.th.pc, hint := x.hint, args := args }, started := false, retried := false }] ∧
      t.pending = s.pending ++ (if (s.core x.c).streamQ = [] then [⟨.streamStart, [x.c]⟩] else []) ∧
      (∀ c sl, ¬(c = x.c ∧ sl = x.sl) → t.thread? c sl = s.thread? c sl) ∧ t = { s with cores := t.cores, pending := t.pending }

/-- What a stream instruction in progress answers: bytes for its second address and lanes for its name (R325 to R328). -/
inductive StreamAnswer (x : Ctx) (dd : Desc) (xs ys n : Nat) (vd : List Nat) : List Byte → Option (Nat × List Nat) → Prop where
  | topk (d a b : Nat) (r : List Nat) (h : x.i = .vtopk d a b)
      (hr : PerLane dd.lanes r (fun j v => match (topRank ((x.vector xs n).map fmtF32.value))[j]? with
        | some p => fitInt dd p.1 = some v
        | none => v = 2 ^ dd.width - 1)) :
      StreamAnswer x dd xs ys n vd (packWords 4 ((upFrom 0 dd.lanes).map (fun j =>
        match (topRank ((x.vector xs n).map fmtF32.value))[j]? with
        | some p => (x.vector xs n).getD p.1 0
        | none => 0x7FC00000))) (some (d, r))
  | smax (d a b : Nat) (h : x.i = .vsmax d a b) :
      StreamAnswer x dd xs ys n vd [] (some (d, [streamFit dd (smax ((x.vector xs n).map fmtF32.value)).1,
        streamFit dd (smax ((x.vector xs n).map fmtF32.value)).2]))
  | soft (d a b : Nat) (h : x.i = .vsoft d a b) :
      StreamAnswer x dd xs ys n vd (packWords 4 (((x.vector xs n).map fmtF32.value).map
        (softLane (flt dd (vd.headD 0)) (flt dd (vd.getD 1 0))))) none
  | samp (d a b v : Nat) (h : x.i = .vsamp d a b) (sound : x.localBad (x.runBase + ys) 16 = none)
      (hv : match sampleIndex ((x.vector xs n).map fmtF32.value) (fmtF32.value (x.locNum ys 4)) (fmtF32.value (x.locNum (ys + 4) 4))
          (fmtF32.value (x.locNum (ys + 8) 4)) with
        | some r => fitInt dd r = some v
        | none => v = 2 ^ dd.width - 1) :
      StreamAnswer x dd xs ys n vd [] (some (d, List.replicate dd.lanes v))
  | scan (d a b : Nat) (h : x.i = .vscan d a b) :
      StreamAnswer x dd xs ys n vd
        (packWords (dd.width / 8) ((scanSums ((x.vector xs n).map fmtF32.value) (.num false 0 1)).map (streamFit dd)))
        (some (d, [streamFit dd ((scanSums ((x.vector xs n).map fmtF32.value) (.num false 0 1)).getLastD (.num false 0 1))]))

end Sys2Proof.Claims

/-! ### Local memory -/

/-- R110, R112, R195, R331: where a lane address of a user thread leads. An address that its size does not divide raises ALIGN;
the task's own run, the register windows of its task's slots and, for reads, the status range are reached; any other address
ends the task by EXTENT. -/
def Sys2Proof.Claims.LocalPlacesHold : Prop :=
  ∀ (x : Ctx) (n : Task) (a l size : Nat) (write : Bool), x.sl ≠ 15 → x.task = some n → n.hw ≤ 512 → IsSize size → a < 2 ^ 64 →
    (∀ loc, x.race loc write false = none) → x.watch false (!write) write [((a : Int), size)] = none →
    let go := x.localChecks size write [(l, (a : Int))]
    (a % size ≠ 0 → go = trap ALIGN a) ∧
    (a % size = 0 → a + size ≤ n.hw * 4096 → go = .ok [.store (n.localBase + a)]) ∧
    (0x01000000 ≤ a → a < 0x01080000 → size ≠ 8 → go = trap ALIGN a) ∧
    (a % 8 = 0 → size = 8 → 0x01000000 ≤ a → a < 0x01080000 →
      go = if x.ownSlot ((a - 0x01000000) / 0x8000) then
        .ok [.window ((a - 0x01000000) / 0x8000) ((a - 0x01000000) / 0x200 % 64) ((a - 0x01000000) / 8 % 64)]
      else extent 3 l a) ∧
    (a % size = 0 → 0x02000000 ≤ a → a < 0x02001000 → go = if write then extent 4 l a else .ok [.status (a - 0x02000000)]) ∧
    (a % size = 0 → n.hw * 4096 < a + size → (a < 0x01000000 ∨ (0x01080000 ≤ a ∧ a < 0x02000000) ∨ 0x02001000 ≤ a) →
      go = extent 3 l a)

/-- R332 and R334: `ld` and `ldv`; a place of local store reads little-endian (R2). An access to a window in a locked row is Held. -/
def Sys2Proof.Claims.LocalLoadsHold : Prop :=
  LocalLoad .ld false ∧ LocalLoad .ldv true ∧ LocalHeld .ld false false ∧ LocalHeld .ldv true false ∧ LocalHeld .st false true ∧
  LocalHeld .stv true true ∧
  (∀ (x : Ctx) (size off : Nat), x.localBad off size = none →
    x.readPlace size (.store off) = .ok (leNat (x.s.loc.bytes (locKey x.c off) size)))

/-- R332 and R334: `st` and `stv` write the lanes' bytes in the task's run and no other; a lane that leads to a register window
writes that lane of the other slot's name (R112). -/
def Sys2Proof.Claims.LocalStoresHold : Prop :=
  LocalStore .st false ∧ LocalStore .stv true ∧
  (∀ s x d a off da dd sl n j th w, Issues s (.st d a 3 off) x → Operand x a isInt da → DataName x d 3 dd → x.rowBad d = none →
    x.localChecks 8 true [(0, startAt x a 3 off)] = .ok [.window sl n j] → x.windowLocked [.window sl n j] = false → sl ≠ x.sl → s.thread? x.c sl = some th →
    windowLane x.k sl n j (storeLane dd 8 ((val x d).getD 0 0)) = .ok (some w) →
    ∃ t, exec (.st d a 3 off) s = .next t ∧ t.thread? x.c sl = some (th.setLane n j w) ∧
      t.thread? x.c x.sl = some (x.th.retire (x.th.pc + 4)) ∧
      (∀ c' sl', ¬(c' = x.c ∧ (sl' = x.sl ∨ sl' = sl)) → t.thread? c' sl' = s.thread? c' sl') ∧ t = { s with cores := t.cores }) ∧
  (∀ s x d a off da dd sl n j, Issues s (.st d a 3 off) x → Operand x a isInt da → DataName x d 3 dd → x.rowBad d = none →
    x.localChecks 8 true [(0, startAt x a 3 off)] = .ok [.window sl n j] → x.windowLocked [.window sl n j] = false →
    windowLane x.k sl n j (storeLane dd 8 ((val x d).getD 0 0)) = .error () →
    exec (.st d a 3 off) s = .next (trapped s x OVF 0))

/-! ### Task-virtual memory -/

/-- R72, R177, R195, R331, R337: a lane address of a user thread goes through the lowest entry that holds it and permits the access, if
that entry has no uncorrectable error (R198); with none, or at an address of 2^56 or more, it ends the task by EXTENT with reason 1, a write of another thread's share with 2, a read of a compressed page with
5, and a vector read of an ATOMIC range with 9. -/
def Obligations.ExtentChecks : Prop :=
  ∀ (x : Ctx) (n : Task) (l size va : Nat), x.sl ≠ 15 → x.task = some n → va < 2 ^ 64 →
    let holds := fun (perm : Nat) (e : Nat × Extent) => va + size ≤ 2 ^ 56 ∧ e.2.vbase ≤ va ∧ va + size ≤ e.2.vbase + e.2.len ∧ bit e.2.perm perm = true
    ((∀ e ∈ n.ext, ¬holds 0 e) → ∀ sc, x.readLane sc size (l, (va : Int)) = extent 1 l va) ∧
    ((∀ e ∈ n.ext, ¬holds 1 e) → x.writeLane size (l, (va : Int)) = extent 1 l va) ∧
    (∀ p e q, n.ext = p ++ e :: q → (∀ f ∈ p, ¬holds 0 f) → holds 0 e → x.entryEcc e.1 = .ok () → ∀ sc,
      (e.2.mode ≠ 3 → e.2.inComp va size = true → x.readLane sc size (l, (va : Int)) = extent 5 l va) ∧
      (e.2.mode ≠ 3 → e.2.inComp va size = false → ∃ v, x.readLane sc size (l, (va : Int)) = .ok v ∧ v.l = l ∧ v.va = va ∧
        v.phys = e.2.pbase + (va - e.2.vbase) ∧ v.ent = e.1 ∧ v.atomic = false) ∧
      (e.2.mode = 3 → sc = true → 4 ≤ size → bit e.2.perm 2 = true → e.2.inComp va size = true → x.readLane sc size (l, (va : Int)) = extent 5 l va) ∧
      (e.2.mode = 3 → (sc = false ∨ size < 4 ∨ bit e.2.perm 2 = false) → x.readLane sc size (l, (va : Int)) = extent 9 l va)) ∧
    (∀ p e q, n.ext = p ++ e :: q → (∀ f ∈ p, ¬holds 1 f) → holds 1 e → x.entryEcc e.1 = .ok () →
      ((e.2.share = 0 ∨ e.2.owner va = some x.th.tid.toNat) → ∃ v, x.writeLane size (l, (va : Int)) = .ok v ∧ v.l = l ∧ v.va = va ∧
        v.phys = e.2.pbase + (va - e.2.vbase) ∧ v.ent = e.1) ∧
      (e.2.share ≠ 0 → e.2.owner va ≠ some x.th.tid.toNat → x.writeLane size (l, (va : Int)) = extent 2 l va))

/-- R335 and R336: `ldx`, `ldxv` and `ldg` leave for memory with their lanes, and LOAD_RETURN gives the data's values to the name
and retires them; no byte of memory changes. -/
def Sys2Proof.Claims.TaskLoadsHold : Prop :=
  TaskLoad .ldx 0 ∧ TaskLoad .ldxv 1 ∧ TaskLoad .ldg 2 ∧
  (∀ s c sl x a d size one dd r, s.args = [c, sl] → s.opCtx? c sl = some (x, a) → loadShape x.i = some (d, size, one) →
    x.th.status = .inFlight → unpackLanes a ≠ [] → Dest x d isAny dd → x.behindStore (unpackLanes a) size = false →
    x.watch true true false ((unpackLanes a).map (fun v => ((v.va : Int), size))) = none →
    (∀ v ∈ unpackLanes a, s.reaches v.phys = true ∧ x.inControl v.phys = false ∧ s.mayAccess x.master v.phys permRd = true ∧ x.shareRace v = .ok () ∧
      s.memBad v.phys size = none ∧ v.racy = false) →
    PerLane (unpackLanes a).length r (fun k w => ∀ v, (unpackLanes a)[k]? = some v → Loaded dd size (s.mem.read v.phys size) w) →
    ∃ t, exec .loadReturn s = .next t ∧
      t.thread? c sl = some ((x.th.setLanes d (if one then r.headD 0 :: (val x d).drop 1 else r)).retire (x.th.pc + 4)) ∧
      t.mem = s.mem ∧ t.loc = s.loc ∧ ThreadsOnly s t (fun c' sl' => c' = c ∧ sl' = sl)) ∧
  (∀ s c sl x a d size one, s.args = [c, sl] → s.opCtx? c sl = some (x, a) → loadShape x.i = some (d, size, one) →
    x.th.status = .inFlight → unpackLanes a ≠ [] → x.behindStore (unpackLanes a) size = true →
    ∃ t, exec .loadReturn s = .next t ∧ ⟨.loadReturn, [c, sl]⟩ ∈ t.pending ∧
      t = { s with cores := t.cores, pending := t.pending } ∧ ThreadsOnly s t (fun _ _ => False))

/-- R335 and R336: `stx`, `stxv` and `stg` retire and are posted, and POSTED_STORE_PERFORM writes the bytes of the oldest posted
store and no other. -/
def Sys2Proof.Claims.TaskStoresHold : Prop :=
  TaskStore .stx 0 ∧ TaskStore .stxv 1 ∧ TaskStore .stg 2 ∧
  (∀ s c p r n size vs ws, s.args = [c] → (s.core c).posted = p :: r → 0 < size → vs ≠ [] → ws.length = vs.length →
    p.bytes = storedBytes size vs ws → p.entries = vs.map (·.ent) → s.mem.wf → s.task? p.task = some n →
    (∀ b ∈ p.bytes, s.reaches b.1 = true) → (∀ v ∈ vs, s.mayAccess (partMaster s.pkg.num n.part) v.phys permWr = true) →
    (∀ v ∈ vs, ∀ e, look n.ext v.ent = some e → e.mode ≠ 4) →
    ∃ t, exec .postedStorePerform s = .next t ∧ (t.core c).posted = r ∧ t.loc = s.loc ∧
      (∀ a, (∀ b ∈ p.bytes, b.1 ≠ a) → t.mem.get a = s.mem.get a) ∧
      (∀ (j : Nat) (b : Nat × Nat × Byte), p.bytes[j]? = some b → backed b.1 = true → (∀ (k : Nat) (b' : Nat × Nat × Byte), j < k → p.bytes[k]? = some b' → b'.1 ≠ b.1) →
        t.mem.get b.1 = b.2.2))

/-! ### Atomics, waits and fences -/

/-- R339: an atomic of scope `.core` is performed at its bank as it issues. It returns the old value, writes what its operation
gives where it writes, and changes no other byte. -/
def Sys2Proof.Claims.CoreAtomicsHold : Prop :=
  ∀ s x i aop ord d a b va bv ev, Issues s i x → amoForm i = some (aop, ord, 0, d, a, b) → AmoReady x aop ord d a b va bv ev →
    Unlogged s x → s.loc.wf → x.c < 512 → x.runBase + x.runLen ≤ 2097152 → x.inRun va x.amoSize = true →
    x.localBad (x.runBase + va) x.amoSize = none →
    let n := 8 * x.amoSize
    let key := locKey x.c (x.runBase + va)
    let old := s.loc.read key x.amoSize
    let new := amoWrites i n old (bv % 2 ^ n) (ev % 2 ^ n)
    (x.steward = true ∨ (x.race (.gran ((x.runBase + va) / 32)) new.isSome true = none ∧
      x.watch false true true [((va : Int), x.amoSize)] = none)) →
    ∃ t th, exec i s = .next t ∧ t.thread? x.c x.sl = some th ∧ AmoThread x aop d n old new.isSome th ∧
      (∀ v, new = some v → t.loc.bytes key x.amoSize = leBytes v x.amoSize) ∧ (new = none → t.loc = s.loc) ∧
      (∀ k, k < key ∨ key + x.amoSize ≤ k → t.loc.get k = s.loc.get k) ∧
      OthersWake s t x.c x.sl ∧ t = { s with loc := t.loc, cores := t.cores, bad := t.bad, pending := t.pending }

/-- R339: an atomic of a wider scope leaves for its unit, and ATOMIC_PERFORM performs it there: the old value returns, the bytes
of its location alone change. -/
def Sys2Proof.Claims.DeviceAtomicsHold : Prop :=
  (∀ s x i aop ord scope d a b va bv ev v, Issues s i x → amoForm i = some (aop, ord, scope, d, a, b) → scope ≠ 0 →
    AmoReady x aop ord d a b va bv ev → x.atomicLane x.amoSize va = .ok v →
    x.watch true true true [((va : Int), x.amoSize)] = none →
    ∃ t, exec i s = .next t ∧
      t.thread? x.c x.sl = some (x.th.wait i x.hint .inFlight (atomicArgs aop x.amoSize ord scope va v.phys bv ev)) ∧
      Sent s t (dieOf x.c) (s.homeDie (dieOf x.c) v.phys) .atomicPerform [x.c, x.sl] ∧
      ThreadsOnly s t (fun c sl => c = x.c ∧ sl = x.sl) ∧ t = { s with cores := t.cores, pending := t.pending, links := t.links, unsent := t.unsent }) ∧
  (∀ s c sl x aop ord scope d a b size va phys bv ev, s.args = [c, sl] →
    s.opCtx? c sl = some (x, atomicArgs aop size ord scope va phys bv ev) → amoForm x.i = some (aop, ord, scope, d, a, b) →
    x.th.status = .inFlight → Unlogged s x → s.mem.wf → size = 4 ∨ size = 8 → s.reaches phys = true →
    s.mayAccess x.master phys permAtom = true → s.memBad phys size = none → (∀ k, k < size → backed (phys + k) = true) →
    let n := 8 * size
    let old := s.mem.read phys size
    let new := amoWrites x.i n old (bv % 2 ^ n) (ev % 2 ^ n)
    ∃ t th, exec .atomicPerform s = .next t ∧ t.thread? c sl = some th ∧ AmoThread x aop d n old new.isSome th ∧
      (∀ v, new = some v → t.mem.bytes phys size = leBytes v size) ∧ (new = none → t.mem = s.mem) ∧
      (∀ k, k < phys ∨ phys + size ≤ k → t.mem.get k = s.mem.get k) ∧ t.loc = s.loc ∧ OthersWake s t c sl)

/-- R341: `waitw` reads its word; at a value other than b's it retires with that value in d, else it blocks until the word is
written; and once it has seen a value that differs, it returns that one, whatever stands in the word since. -/
def Sys2Proof.Claims.WordWaitsHold : Prop :=
  (∀ s x d a b da db dd va, Issues s (.waitwL d a b) x → Operand x a isInt da → Operand x b isInt db → DataName x d 3 dd →
    Unlogged s x → x.th.saw = [] → va = (val x a).headD 0 → va % 8 = 0 → x.inRun va 8 = true → x.localBad (x.runBase + va) 8 = none →
    (x.steward = true ∨ (x.race (.gran ((x.runBase + va) / 32)) false true = none ∧ x.watch false true false [((va : Int), 8)] = none)) →
    let w := s.loc.read (locKey x.c (x.runBase + va)) 8
    (∀ v, w ≠ word64 db (val x b) → Loaded dd 8 w v → ∃ t th, exec (.waitwL d a b) s = .next t ∧ ReadsOnly s t x.c x.sl th ∧
      th.pc = x.th.pc + 4 ∧ th.status = .ready ∧ th.names = (x.th.setLane0 x.k.vt d v).names ∧
      th.lk = (x.th.setLane0 x.k.vt d v).lk ∧ th.ws = (x.th.setLane0 x.k.vt d v).ws ∧ th.st = (x.th.setLane0 x.k.vt d v).st) ∧
    (w = word64 db (val x b) → ∃ t, exec (.waitwL d a b) s = .next t ∧
      ReadsOnly s t x.c x.sl (x.th.wait (.waitwL d a b) x.hint .blocked [x.runBase + va, word64 db (val x b)]))) ∧
  (∀ s x d a b da db dd w hs r v, Issues s (.waitwL d a b) x → Operand x a isInt da → Operand x b isInt db → DataName x d 3 dd →
    Unlogged s x → (val x a).headD 0 % 8 = 0 → x.th.saw = (w, hs) :: r → w ≠ word64 db (val x b) → Loaded dd 8 w v →
    ∃ t th, exec (.waitwL d a b) s = .next t ∧ ReadsOnly s t x.c x.sl th ∧ th.pc = x.th.pc + 4 ∧ th.status = .ready ∧
      th.names = (x.th.setLane0 x.k.vt d v).names ∧ th.lk = (x.th.setLane0 x.k.vt d v).lk ∧ th.ws = (x.th.setLane0 x.k.vt d v).ws ∧
      th.st = (x.th.setLane0 x.k.vt d v).st) ∧
  (∀ s x d a b da db dd va p, Issues s (.waitwX d a b) x → Operand x a isInt da → Operand x b isInt db → DataName x d 3 dd →
    Unlogged s x → x.th.saw = [] → va = (val x a).headD 0 → va % 8 = 0 → x.waitLane va = .ok p →
    x.watch true true false [((va : Int), 8)] = none → s.reaches p.phys = true → (s.die (s.homeDie (dieOf x.c) p.phys)).relocking = false → s.mayAccess x.master p.phys permAtom = true →
    s.memBad p.phys 8 = none →
    let w := s.mem.read p.phys 8
    (∀ v, w ≠ word64 db (val x b) → Loaded dd 8 w v → ∃ t th, exec (.waitwX d a b) s = .next t ∧ t.thread? x.c x.sl = some th ∧
      th.pc = x.th.pc + 4 ∧ th.status = .ready ∧ th.names = (x.th.setLane0 x.k.vt d v).names ∧
      th.lk = (x.th.setLane0 x.k.vt d v).lk ∧ th.ws = (x.th.setLane0 x.k.vt d v).ws ∧ th.st = (x.th.setLane0 x.k.vt d v).st ∧
      t.mem = s.mem ∧ t.loc = s.loc ∧ ThreadsOnly s t (fun c sl => c = x.c ∧ sl = x.sl)) ∧
    (w = word64 db (val x b) → ∃ t, exec (.waitwX d a b) s = .next t ∧
      t.thread? x.c x.sl = some (x.th.wait (.waitwX d a b) x.hint .blocked [p.phys, word64 db (val x b)]) ∧ t.mem = s.mem ∧ t.loc = s.loc ∧
      ThreadsOnly s t (fun c sl => c = x.c ∧ sl = x.sl)))

/-- R183 and R340: a fence changes no name; one with release leaves a fence of its scope, or of the wider, pending. `aliasf`
waits for the thread's stores, and `fencec` for its jobs. -/
def Sys2Proof.Claims.FencesHold : Prop :=
  (∀ s x ord scope, Issues s (.fence ord scope) x → ∃ th, exec (.fence ord scope) s = .next (retired s x th) ∧
    th.names = x.th.names ∧ th.st = x.th.st ∧ th.lk = x.th.lk ∧ th.ws = x.th.ws ∧
    th.relFence = if 2 ≤ ord then some (match x.th.relFence with | some f => max f scope | none => scope) else x.th.relFence) ∧
  (∀ s x, Issues s .aliasf x → exec .aliasf s = .next (if x.drained then retired s x x.th
    else withThread s x.c x.sl (x.th.wait .aliasf x.hint .inFlight []))) ∧
  (∀ s x, Issues s .fencec x →
    ((∀ j ∈ s.jobsOf x.c x.sl x.th.task, j.state = 3) → ∃ th, exec .fencec s = .next (retired s x th) ∧
      th.names = x.th.names ∧ th.st = x.th.st ∧ th.lk = x.th.lk ∧ th.ws = x.th.ws ∧ th.relFence = x.th.relFence) ∧
    ((∃ j ∈ s.jobsOf x.c x.sl x.th.task, j.state ≠ 3) →
      exec .fencec s = .next (withThread s x.c x.sl (x.th.wait .fencec x.hint .inFlight []))))

/-! ### Stream instructions -/

/-- R320 to R323: the stream instructions at issue, and STREAM_START. -/
def Sys2Proof.Claims.StreamsIssueHold : Prop :=
  StreamIssues .vtopk true false ∧ StreamIssues .vsmax false false ∧ StreamIssues .vsoft true true ∧
  StreamIssues .vsamp true false ∧ StreamIssues .vscan true false ∧
  (∀ s c e r, s.args = [c] → (s.core c).streamQ = e :: r → e.started = false →
    exec .streamStart s = .next { s with
      cores := put s.cores c { s.core c with streamQ := { e with started := true } :: r }
      pending := s.pending ++ [⟨.streamComplete, [c]⟩] })

/-- R324 to R328: STREAM_COMPLETE writes the answer of the instruction in the unit, whole, and the next one starts. -/
def Sys2Proof.Claims.StreamsCompleteHold : Prop :=
  ∀ s c e r x xs ys n vd dd bs nm, s.args = [c] → (s.core c).streamQ = e :: r → e.started = true →
    s.opCtx? c e.slot = some (x, [xs, ys, n] ++ vd) → x.th.desc? (streamName x.i) = some dd → x.vectorBad xs n = none →
    x.th.status = .out → s.loc.wf → c < 512 → x.runBase + ys + bs.length ≤ 2097152 → StreamAnswer x dd xs ys n vd bs nm →
    let key := locKey c (x.runBase + ys)
    ∃ t, exec .streamComplete s = .next t ∧
      t.thread? c e.slot = some ((match nm with | some (d, v) => x.th.setLanes d v | none => x.th).retire (x.th.pc + 4)) ∧
      (t.core c).streamQ = r ∧ (r ≠ [] → ⟨.streamStart, [c]⟩ ∈ t.pending) ∧ t.loc.bytes key bs.length = bs ∧
      (∀ k, k < key ∨ key + bs.length ≤ k → t.loc.get k = s.loc.get k) ∧ OthersWake s t c e.slot ∧
      t = { s with loc := t.loc, cores := t.cores, bad := t.bad, pending := t.pending }

/-- R6, R111, R331 to R334: the places of local accesses, loads and stores of local store. -/
def Obligations.LocalAccesses : Prop :=
  Claims.LocalPlacesHold ∧ Claims.LocalLoadsHold ∧ Claims.LocalStoresHold

/-- R332 to R336: task-virtual loads and stores, from issue to completion. -/
def Obligations.TaskAccesses : Prop :=
  Claims.TaskLoadsHold ∧ Claims.TaskStoresHold

/-- R179 to R182, R337 to R339: atomics on local words and on device memory. -/
def Obligations.Atomics : Prop :=
  Claims.CoreAtomicsHold ∧ Claims.DeviceAtomicsHold

/-- R183, R340 and R341: waits on a word, and fences. -/
def Obligations.WaitsAndFences : Prop :=
  Claims.WordWaitsHold ∧ Claims.FencesHold

/-- R320 to R328: the token instructions of the stream unit. -/
def Obligations.Streams : Prop :=
  Claims.StreamsIssueHold ∧ Claims.StreamsCompleteHold
namespace Sys2Proof.Claims

open Sys2Proof.Machine

/-! ### States after a change -/

/-- A step is due, after those that already are. -/
def due (s : State) (i : Instr) (args : List Nat) : State := { s with pending := s.pending ++ [⟨i, args⟩] }

/-- The same, unless it is due already. -/
def dueOnce (s : State) (i : Instr) (args : List Nat) : State := if ⟨i, args⟩ ∈ s.pending then s else due s i args

/-- A request has left from die to die: due at once on its own die, else at the tail of the first link of its way, where that link has
an allowance for it and nothing stands before it, and else held by its sender (R25, R26). -/
def sent (s : State) (src dst : Nat) (i : Instr) (args : List Nat) : State :=
  let hop := nextHop src dst
  let n := src * 4 + hop
  if src = dst then due s i args
  else due (if lookD s.unsent n [] = [] ∧ s.linkAllows src hop = true then
      { s with links := put s.links n (lookD s.links n [] ++ [(dst, ⟨i, args⟩)]) }
    else { s with unsent := put s.unsent n (lookD s.unsent n [] ++ [(dst, ⟨i, args⟩)]) }) .dieLinkFlitDeliver [src, hop]

def onCore (s : State) (c : Nat) (f : Core → Core) : State := { s with cores := put s.cores c (f (s.core c)) }

def onThread (s : State) (c sl : Nat) (f : Thread → Thread) : State :=
  match s.thread? c sl with
  | some th => withThread s c sl (f th)
  | none => s

def onBarrier (s : State) (c b : Nat) (f : Barrier → Barrier) : State :=
  onCore s c (fun k => { k with barriers := put k.barriers b (f (k.barrier b)) })

def onStage (s : State) (c n : Nat) (f : Stage → Stage) : State :=
  onCore s c (fun k => { k with stages := put k.stages n (f (k.stage n)) })

def onQueue (s : State) (c q : Nat) (f : QueueReg → QueueReg) : State :=
  onCore s c (fun k => { k with queues := put k.queues q (f (k.queue q)) })

def onPigeon (s : State) (c sl : Nat) (f : Pigeon → Pigeon) : State :=
  onCore s c (fun k => { k with pigeons := put k.pigeons sl (f (k.pigeon sl)) })

/-- A partition, if there is one, neither records nor replays. -/
def Quiet (s : State) (n : Option Nat) : Prop := ∀ m p, n = some m → s.part? m = some p → p.mode ≠ 1 ∧ p.mode ≠ 2

/-- An integer given to a lane of a name of any kind by fit() (R7). -/
def Gives (x : Ctx) (dd : Desc) (v : Int) (l n : Nat) : Prop :=
  if isFlt dd = true then fitFloat x.th x.mode dd l (FVal.ofInt v) = some n else fitInt dd v = some n

/-- The random draws that giving a value to a name of a kind takes (R153). -/
def drawnFor (x : Ctx) (dd : Desc) (th : Thread) : Thread := th.drawn (if isFlt dd = true then x.mode else .rne) dd.lanes

/-! ### Barriers, stages and queues -/

/-- A barrier with the thread's arrival, which is a release (R116, R170). -/
def arrivedIn (x : Ctx) (k : Barrier) : Barrier := { k with arrived := k.arrived + 2 ^ x.sl, last := x.sl, vc := k.vc.join x.th.vc }

/-- A core completes a phase: arrived clears, the phase advances, and the slots that wait for it go on as acquirers of what was
released in it (R116, R170, R345). -/
def phaseDone (s : State) (c b : Nat) : State :=
  let k := (s.core c).barrier b
  (((s.core c).threads.filter (fun p => p.2.inPhase b k.phase.toNat)).map (·.1)).foldl
    (fun s sl => onThread s c sl (fun th => (th.acquired k.vc).retire (th.pc + 4)))
    (onBarrier s c b (fun k => { k with
      arrived := 0, sent := false, phase := k.phase + 1, vc := [], past := put k.past k.phase.toNat k.vc
      gotMsg := if k.pb then k.gotMsg - k.nmsg else k.gotMsg, gotComp := if k.pb then k.gotComp - k.ncomp else k.gotComp }))

/-- An arrival of the thread, which becomes th: counted, and where it completes the count the phase completes at level none, or
the core's one arrival goes to its cluster's unit (R344). -/
def Arrives (s : State) (x : Ctx) (b : Nat) (th : Thread) : Prop :=
  let k := x.k.barrier b
  let u := onBarrier (withThread s x.c x.sl th.released) x.c b (arrivedIn x)
  ((arrivedIn x k).full = false → exec x.i s = .next u) ∧
  ((arrivedIn x k).full = true → k.level = 0 → exec x.i s = .next (phaseDone u x.c b)) ∧
  ((arrivedIn x k).full = true → k.level ≠ 0 → k.sent = false →
    exec x.i s = .next (sent (onBarrier u x.c b (fun k => { k with sent := true })) (dieOf x.c) (unitDie (clusterOf x.c))
      .barrierUnitArrival [clusterOf x.c, (s.partOfCore x.c).getD 0, b, x.c, x.sl]))

/-- A barrier as a configuration word gives it (R343). -/
def configured (w : Nat) (k : Barrier) : Barrier :=
  { k with
    mask := bits w 14 0, level := bits w 42 40, arrived := 0, sent := false, pb := bit w 39, ncomp := bits w 31 24, nmsg := bits w 23 16
    root := bits w 63 58, vc := [] }

/-- The units that a configuration word gives counts to, with the counts. -/
def unitCounts (w c num : Nat) : List (Nat × Nat) :=
  let level := bits w 42 40
  (if 1 ≤ level then [(clusterOf c, bits w 45 43 + 1)] else []) ++ (if 2 ≤ level then [(64 + dieOf c, bits w 49 46 + 1)] else []) ++
    (if 3 ≤ level then [(68, bits w 51 50 + 1)] else []) ++ (if level = 4 ∧ bits w 63 58 = num then [(69, bits w 57 52 + 1)] else [])

/-- A unit's line rises: each core of the barrier is told, with what all have released (R116, R170). -/
def lineRises (s : State) (u part b : Nat) : State :=
  (s.lineCores u part b).foldl (fun t c => sent (onBarrier t c b (fun k => { k with
      vc := (s.lineCores u part b).foldl (fun (v : Clock) c => v.join ((s.core c).barrier b).vc) [] }))
    (unitDie u) (dieOf c) .barrierLineRise [(t.partOfCore c).getD 0, b, c]) s

/-- A slot takes the oldest value of a queue, and its `qget` or `qtry` retires (R114, R346). -/
def taken (s : State) (c sl q : Nat) (i : Instr) (v : Nat) (vc : Clock) : State :=
  onThread (onQueue s c q (fun k => { k with vals := k.vals.drop 1, readers := k.readers.filter (fun n => decide (n ≠ sl)) })) c sl
    (fun th =>
      let th := (th.acquired vc).putWord (s.core c).vt (queueDest i) v
      (match i with | .qtry _ _ => th.replied 0 0 | _ => th).retire (th.pc + 4))

/-- A value taken by the thread that issues; the earliest writer that waits for the place puts its own (R114). -/
def Takes (mk : Nat → Nat → Instr) : Prop :=
  ∀ s x d b dd v vc r, Issues s (mk d b) x → Dest x d isAny dd → x.syncBad (0x500 + 8 * b) = .ok () → Unlogged s x →
    Quiet s (s.partOfCore x.c) → (x.k.queue b).vals = (v, vc) :: r → (x.k.queue b).readers = [] →
    ((x.k.queue b).writers = [] → exec (mk d b) s = .next (taken s x.c x.sl b (mk d b) v vc)) ∧
    (∀ w ws th o, (x.k.queue b).writers = w :: ws → w ≠ x.sl → s.thread? x.c w = some th → th.op = some o → r.length = 3 →
      exec (mk d b) s = .next (onThread (onQueue (taken s x.c x.sl b (mk d b) v vc) x.c b (fun k => { k with
        writers := k.writers.filter (fun n => decide (n ≠ w)), vals := k.vals ++ [(o.args.headD 0, th.vc)] })) x.c w
        (fun th => th.released.retire (th.pc + 4))))

end Sys2Proof.Claims

/-! ### Barriers -/

/-- R116, R342 to R345: configuring a barrier, arriving at it and waiting for its phase; and the units that count arrivals above the
cores, and raise their lines. That under record and replay a `bar.sync` counts at its core only when a unit has answered is log 91
(DEDUCED). -/
def Sys2Proof.Claims.BarriersHold : Prop :=
  (∀ s x a b da, Issues s (.barCfg a b) x → Operand x a isInt da → x.syncBad (0x580 + 8 * b) = .ok () → (x.k.barrier b).arrived = 0 →
    (x.k.barrier b).sent = false →
    let w := (val x a).headD 0
    bits w 42 40 ≤ 4 → bits w 38 32 = 0 → bit w 15 = false → bits w 14 0 ≠ 0 → x.foreignSlots (bits w 14 0) = false →
    exec (.barCfg a b) s = .next ((unitCounts w x.c s.pkg.num).foldl (fun t u =>
      sent t (dieOf x.c) (unitDie u.1) .barrierCountArrive [u.1, (s.partOfCore x.c).getD 0, b, u.2])
      (onBarrier (retired s x x.th) x.c b (configured w)))) ∧
  (∀ s x d b dd v, Issues s (.barArr d b) x → Dest x d isAny dd → x.syncBad (0x580 + 8 * b) = .ok () → bit (x.k.barrier b).mask x.sl = true →
    bit (x.k.barrier b).arrived x.sl = false → x.drained = true → Unlogged s x → Quiet s (s.partOfCore x.c) →
    Gives x dd (x.k.barrier b).phase.toNat 0 v →
    Arrives s x b ((drawnFor x dd (x.th.setLane0 x.k.vt d v)).retire (x.th.pc + 4))) ∧
  (∀ s x b, Issues s (.barSync b) x → x.syncBad (0x580 + 8 * b) = .ok () → bit (x.k.barrier b).mask x.sl = true →
    bit (x.k.barrier b).arrived x.sl = false → x.drained = true → Unlogged s x → Quiet s (s.partOfCore x.c) →
    Arrives s x b (x.th.wait (.barSync b) x.hint .blocked [(x.k.barrier b).phase.toNat])) ∧
  (∀ s x a b da, Issues s (.barWait a b) x → Operand x a isInt da → x.syncBad (0x580 + 8 * b) = .ok () →
    let v := (val x a).headD 0 % 65536
    exec (.barWait a b) s = .next (if (x.k.barrier b).phase.toNat ≠ v then retired s x (x.th.acquired (lookD (x.k.barrier b).past v []))
      else withThread s x.c x.sl (x.th.wait (.barWait a b) x.hint .blocked [v]))) ∧
  (∀ s u part b n, s.args = [u, part, b, n] → exec .barrierCountArrive s = .next { s with
    barUnits := put s.barUnits (unitKey u part b) { s.barUnit (unitKey u part b) with expect := n } }) ∧
  (∀ s u part b c sl, s.args = [u, part, b, c, sl] →
    let x := s.barUnit (unitKey u part b)
    let k := (s.core c).barrier b
    let left := x.left.getD x.expect - 1
    let counts := fun (l : Option Nat) => { s with barUnits := put s.barUnits (unitKey u part b) { x with left := l } }
    (left ≠ 0 → s.awaitsUnit c sl b = false → exec .barrierUnitArrival s = .next (counts (some left))) ∧
    (left ≠ 0 → s.awaitsUnit c sl b = true → ∀ th o, s.thread? c sl = some th → th.op = some o → o.instr = .barSync b →
      ∃ t, exec .barrierUnitArrival s = .next t ∧ t.barUnits = (counts (some left)).barUnits ∧
        (t.core c).barrier b = { k with arrived := k.arrived + 2 ^ sl, last := sl, vc := k.vc.join th.vc }) ∧
    (left = 0 → unitLevel u < k.level → u = 68 → k.root ≠ s.pkg.num → s.awaitsUnit c sl b = false →
      exec .barrierUnitArrival s = .next (counts none)) ∧
    (left = 0 → unitLevel u < k.level → (u ≠ 68 ∨ k.root = s.pkg.num) → exec .barrierUnitArrival s =
      .next (sent (counts none) (unitDie u) (unitDie (unitAbove u)) .barrierUnitArrival [unitAbove u, part, b, c, sl])) ∧
    (left = 0 → k.level ≤ unitLevel u → Quiet s (some part) → s.awaitsUnit c sl b = false →
      exec .barrierUnitArrival s = .next (lineRises (counts none) u part b))) ∧
  (∀ s n b c, s.args = [n, b, c] → ((s.core c).barrier b).level ≠ 0 → ((s.core c).barrier b).sent = true →
    exec .barrierLineRise s = .next (phaseDone s c b))

/-! ### Stages and queues -/

/-- R115 and R346: `acqs` takes an unowned stage in the state it wants, or waits; `rels` inverts it and gives it to the earliest
waiter that wants its new state. -/
def Sys2Proof.Claims.StagesHold : Prop :=
  (∀ s x b, Issues s (.acqs b) x → x.syncBad (0x540 + 8 * (b % 8)) = .ok () →
    let k := x.k.stage (b % 8)
    (k.owner = some x.sl → exec (.acqs b) s = .next (trapped s x KIND (0x60 + b % 8))) ∧
    (k.owner = none → k.full = decide (8 ≤ b) → Unlogged s x → exec (.acqs b) s =
      .next (withThread (onStage s x.c (b % 8) (fun k => { k with
        owner := some x.sl, wait := k.wait.filter (fun p => decide (p.1 ≠ x.sl)) })) x.c x.sl ((x.th.acquired k.vc).retire (x.th.pc + 4)))) ∧
    (k.owner ≠ some x.sl → (k.owner ≠ none ∨ k.full ≠ decide (8 ≤ b)) → exec (.acqs b) s =
      .next (withThread (onStage s x.c (b % 8) (fun k => { k with
        wait := k.wait.filter (fun p => decide (p.1 ≠ x.sl)) ++ [(x.sl, decide (8 ≤ b))] })) x.c x.sl
          (x.th.wait (.acqs b) x.hint .blocked [])))) ∧
  (∀ s x b, Issues s (.rels b) x → x.syncBad (0x540 + 8 * b) = .ok () →
    let k := x.k.stage b
    let u := onStage (retired s x x.th.released) x.c b (fun k => { k with full := !k.full, owner := none, vc := x.th.vc })
    (k.owner ≠ some x.sl → exec (.rels b) s = .next (trapped s x KIND (0x60 + b))) ∧
    (k.owner = some x.sl → x.drained = true → Unlogged s x → Quiet s (s.partOfCore x.c) →
      (k.wait.find? (fun p => p.2 == !k.full) = none → exec (.rels b) s = .next u) ∧
      (∀ sl w, k.wait.find? (fun p => p.2 == !k.full) = some (sl, w) → exec (.rels b) s =
        .next (onThread (onStage u x.c b (fun k => { k with
          owner := some sl, wait := k.wait.filter (fun p => decide (p.1 ≠ sl)) })) x.c sl
            (fun th => (th.acquired x.th.vc).retire (th.pc + 4))))))

/-- R114 and R346: a queue holds four values, in order. `qput` gives one to the earliest blocked reader or to the queue, and waits
while it is full; `qget` takes the oldest, or waits; `qtry` takes it, or says in `st` that there was none. -/
def Sys2Proof.Claims.QueuesHold : Prop :=
  (∀ s x a b da, Issues s (.qput a b) x → Operand x a isAny da → x.syncBad (0x500 + 8 * b) = .ok () → x.drained = true →
    let k := x.k.queue b
    let v := queueWordOf da ((val x a).headD 0)
    let u := onQueue (retired s x x.th.released) x.c b (fun k => { k with vals := k.vals ++ [(v, x.th.vc)] })
    (k.vals.length < 4 → k.readers = [] → k.writers = [] → Unlogged s x → exec (.qput a b) s = .next u) ∧
    (∀ r rs o, k.vals = [] → k.readers = r :: rs → k.writers = [] → r ≠ x.sl → s.blockedOp x.c r = some o → Unlogged s x →
      Quiet s (s.partOfCore x.c) → exec (.qput a b) s = .next (taken u x.c r b o.instr v x.th.vc)) ∧
    (4 ≤ k.vals.length → exec (.qput a b) s = .next (withThread (onQueue s x.c b (fun k => { k with
      writers := k.writers.filter (fun m => decide (m ≠ x.sl)) ++ [x.sl] })) x.c x.sl (x.th.wait (.qput a b) x.hint .blocked [v])))) ∧
  Takes .qget ∧ Takes .qtry ∧
  (∀ s x d b dd, Issues s (.qget d b) x → Dest x d isAny dd → x.syncBad (0x500 + 8 * b) = .ok () → (x.k.queue b).vals = [] →
    exec (.qget d b) s = .next (withThread (onQueue s x.c b (fun k => { k with
      readers := k.readers.filter (fun m => decide (m ≠ x.sl)) ++ [x.sl] })) x.c x.sl (x.th.wait (.qget d b) x.hint .blocked []))) ∧
  (∀ s x d b dd, Issues s (.qtry d b) x → Dest x d isAny dd → x.syncBad (0x500 + 8 * b) = .ok () → (x.k.queue b).vals = [] → Unlogged s x →
    exec (.qtry d b) s = .next (retired s x (x.th.replied 1 0)))

/-- R114 to R116, R342 to R346: barriers, stages and queues. -/
def Obligations.Synchronisation : Prop :=
  Claims.BarriersHold ∧ Claims.StagesHold ∧ Claims.QueuesHold
namespace Sys2Proof.Claims

open Sys2Proof.Machine

/-! ### Messages -/

/-- A slot blocked in `recv` or `recvt` issues again. -/
def wokenRecv (s : State) (c sl : Nat) : State := if (s.core c).blockedIn sl isRecv then onThread s c sl Thread.again else s

/-- The timers without those of a step. -/
def noTimers (s : State) (i : Instr) (args : List Nat) : State := { s with timers := s.timers.filter (fun x => decide (x.ev ≠ ⟨i, args⟩)) }

/-- A thread whose request came back has become th; beside it only steps become due, and threads that wait look again. -/
def Answered (s : State) (i : Instr) (c sl : Nat) (th : Thread) : Prop :=
  ∃ t, exec i s = .next t ∧ t.thread? c sl = some th ∧ ThreadsOnly s t (fun c' sl' => c' = c ∧ sl' = sl) ∧
    t = { s with cores := t.cores, pending := t.pending }

/-- A timer more, at a count of clocks of a die. -/
def onClock (s : State) (d n : Nat) (i : Instr) (args : List Nat) : State :=
  { s with timers := s.timers ++ [{ ev := ⟨i, args⟩, die := d, onCyc := true, due := (s.die d).cyc.toNat + n }] }

/-- The latest record of a thread, as a message carries it (R216). -/
def lastRecord (x : Ctx) : List Nat := match x.th.lastRec with | some q => [q.1, q.2] | none => []

/-- `send` and `sendh`: the message leaves with its destination word and the thread's latest record, and waits for its reply, or is
refused by its own core (R216, R347, R348). -/
def Sends (mk : Nat → Nat → Instr) (start : Bool) : Prop :=
  ∀ s x a b da db p, Issues s (mk a b) x → Operand x a isInt da → Operand x b isInt db → p = (val x a).headD 0 → p % 32 = 0 →
    x.inRun p 64 = true → x.runRace p 64 false false = .ok () → x.localBad (x.runBase + p) 64 = none → x.drained = true →
    let w := (val x b).headD 0
    let th := x.th.wait (mk a b) x.hint .inFlight (w :: (upFrom 0 8).map (fun j => x.locNum (p + 8 * j) 8) ++ lastRecord x)
    ∃ t, exec (mk a b) s = .next t ∧ ReadsOnly (if x.badDest w start = true then due s .sendReply [x.c, x.sl, 5]
      else sent s (dieOf x.c) (dieOf (bits w 8 0)) .messageArrive [x.c, x.sl]) t x.c x.sl th

/-- The message that a thread has in flight: its words and, behind them, the record that it followed when it left. -/
def messageOf (x : Ctx) (words after : List Nat) : Msg :=
  { core := x.c, slot := x.sl, words := words, after := match after with | [src, seq] => some (src, seq) | _ => none, vc := x.th.vc }

/-- A message of 64 bytes in flight, on its way to a slot whose thread runs. -/
structure InTransit (s : State) (x : Ctx) (w : Nat) (words after : List Nat) (th : Thread) : Prop where
  args : s.args = [x.c, x.sl]
  op : s.opCtx? x.c x.sl = some (x, w :: words ++ after)
  size : words.length = 8
  flight : x.th.status = .inFlight
  target : s.thread? (bits w 8 0) (bits w 19 16) = some th
  runs : th.status ≠ .finished
  plain : ∀ b ∈ (s.core (bits w 8 0)).barriers, b.2.pb = false

end Sys2Proof.Claims

/-! ### Messages -/

/-- R117 and R347 to R349: sending, the reply, and what becomes of a message where it arrives: pigeonhole, arrival buffer, a handler
thread, or a refusal. -/
def Sys2Proof.Claims.MessagesHold : Prop :=
  Sends .send false ∧ Sends .sendh true ∧
  (∀ s c sl code x a, s.args = [c, sl, code] → s.opCtx? c sl = some (x, a) → x.th.status = .inFlight → a ≠ [] →
    Answered s .sendReply c sl ((x.th.released.replied code 0).retire (x.th.pc + 4))) ∧
  (∀ s x w words after th a b, InTransit s x w words after th → x.i = .send a b →
    let rc := bits w 8 0
    let slot := bits w 19 16
    let k := s.core rc
    ((k.pigeon slot).msg = none → exec .messageArrive s =
      .next (sent (wokenRecv (onPigeon s rc slot (fun p => { p with msg := some (messageOf x words after) })) rc slot) (dieOf rc) (dieOf x.c)
        .sendReply [x.c, x.sl, 0])) ∧
    ((k.pigeon slot).msg ≠ none → k.arrivals.length < 16 → exec .messageArrive s =
      .next (sent (onCore s rc (fun k => { k with arrivals := k.arrivals ++ [(slot, messageOf x words after)] })) (dieOf rc) (dieOf x.c)
        .sendReply [x.c, x.sl, 0])) ∧
    ((k.pigeon slot).msg ≠ none → 16 ≤ k.arrivals.length → Quiet s (s.partOfCore rc) → k.refusals.length < 32 → exec .messageArrive s =
      .next (sent (onCore (onPigeon s rc slot (fun p => { p with refused := if p.refused = 0xFFFFFFFF then p.refused else p.refused + 1 })) rc
        (fun k => { k with refusals := k.refusals ++ [(x.c, x.sl)] })) (dieOf rc) (dieOf x.c) .sendReply [x.c, x.sl, 1]))) ∧
  (∀ s x w words after, s.args = [x.c, x.sl] → s.opCtx? x.c x.sl = some (x, w :: words ++ after) → words.length = 8 → x.th.status = .inFlight →
    (∀ th, s.thread? (bits w 8 0) (bits w 19 16) = some th → th.status = .finished) →
    exec .messageArrive s = .next (sent s (dieOf (bits w 8 0)) (dieOf x.c) .sendReply [x.c, x.sl, 3])) ∧
  (∀ s x w words after th a b n, InTransit s x w words after th → x.i = .sendh a b → s.task? th.task = some n →
    let rc := bits w 8 0
    (n.codelen ≤ bits w 55 32 → exec .messageArrive s = .next (sent s (dieOf rc) (dieOf x.c) .sendReply [x.c, x.sl, 4])) ∧
    (∀ free names, bits w 55 32 < n.codelen → (s.core rc).freeSlot = some free →
      placePattern free ((upFrom 0 8).map (fun i => (i, { width := 64, lanes := 1, kind := .uns, pol := .wrap, win := false })))
        ((s.core rc).occupied free) = some names → Quiet s (s.partOfCore rc) → Untraced s rc free →
      ∃ t h, exec .messageArrive s = .next t ∧ t.thread? rc free = some h ∧ h.task = th.task ∧ h.pc = n.code + bits w 55 32 ∧
        h.status = .ready ∧ h.names = handlerNames names words ∧ h.st = BitVec.ofNat 64 (x.c + x.sl * 65536) ∧
        (∀ c sl, ¬(c = rc ∧ sl = free) → t.thread? c sl = s.thread? c sl) ∧
        t.task? th.task = some { n with slots := n.slots ++ [free] } ∧ t.mem = s.mem ∧ t.loc = s.loc))

/-- R118 and R349: `recv` and `recvt` take a message that the pigeonhole holds, else a notice, else they wait; a timeout ends the
wait; notices are counted. -/
def Sys2Proof.Claims.ReceivingHold : Prop :=
  (∀ s x i d a da dd p, (i = .recv d a ∨ ∃ b db, i = .recvt d a b ∧ Operand x b isInt db) → Issues s i x → Operand x a isInt da →
    Dest x d isAny dd → x.syncBad (0x400 + 8 * x.sl) = .ok () → p = (val x a).headD 0 → p % 32 = 0 → x.inRun p 64 = true →
    let h := x.k.pigeon x.sl
    let key := locKey x.c (x.runBase + p)
    (∀ m v, h.msg = some m → m.words.length = 8 → Unlogged s x → x.runRace p 64 true false = .ok () →
      Gives x dd (m.core + m.slot * 65536 : Nat) 0 v → x.k.refusals = [] → s.loc.wf → x.c < 512 → x.runBase + p + 64 ≤ 2097152 →
      ∃ t th, exec i s = .next t ∧ t.thread? x.c x.sl = some th ∧ th.pc = x.th.pc + 4 ∧ th.status = .ready ∧ th.st = reply 0 0 ∧
        th.names = (x.th.setLane0 x.k.vt d v).names ∧ th.lk = (x.th.setLane0 x.k.vt d v).lk ∧ th.ws = (x.th.setLane0 x.k.vt d v).ws ∧
        ((t.core x.c).pigeon x.sl).msg = (x.k.arrivals.find? (fun q => q.1 == x.sl)).map (·.2) ∧
        t.loc.bytes key 64 = packWords 8 m.words ∧ (∀ k, k < key ∨ key + 64 ≤ k → t.loc.get k = s.loc.get k) ∧
        OthersWake s t x.c x.sl ∧
        t = { s with loc := t.loc, cores := t.cores, bad := t.bad, pending := t.pending, timers := t.timers }) ∧
    (h.msg = none → 0 < h.notices → exec i s = .next (noTimers
      (onPigeon (retired s x (x.th.replied 1 0)) x.c x.sl (fun q => { q with notices := q.notices - 1 })) .recvtTimeout [x.c, x.sl])) ∧
    (h.msg = none → h.notices = 0 → i = .recv d a → exec i s = .next (withThread s x.c x.sl (x.th.wait i x.hint .blocked [p]))) ∧
    (∀ b, h.msg = none → h.notices = 0 → i = .recvt d a b →
      ((val x b).headD 0 = 0 → Unlogged s x → exec i s = .next (noTimers (retired s x (x.th.replied 2 0)) .recvtTimeout [x.c, x.sl])) ∧
      ((val x b).headD 0 ≠ 0 → (∀ y ∈ s.timers, y.ev ≠ ⟨.recvtTimeout, [x.c, x.sl]⟩) → exec i s =
        .next (onClock (withThread s x.c x.sl (x.th.wait i x.hint .blocked [p])) (dieOf x.c) ((val x b).headD 0) .recvtTimeout
          [x.c, x.sl])))) ∧
  (∀ s c sl x a d b e, s.args = [c, sl] → s.opCtx? c sl = some (x, a) → x.i = .recvt d b e → x.th.status = .blocked → x.th.logWait = false →
    Unlogged s x →
    Answered s .recvtTimeout c sl ((x.th.replied 2 0).retire (x.th.pc + 4))) ∧
  (∀ s c sl i, i = .contextFreeNotice ∨ i = .refusalSelfNotice → s.args = [c, sl] → Quiet s (s.partOfCore c) →
    exec i s = .next (wokenRecv (onPigeon s c sl (fun p => { p with notices := min (p.notices + 1) 255 })) c sl))

namespace Sys2Proof.Claims

open Sys2Proof.Machine

/-! ### Local time -/

/-- A core's clock goes to an out-neighbour, or stays behind an event that waits for its place there (R227, R228, R231). -/
def clockSent (s : State) (c dst : Nat) : State :=
  if (s.core c).firstSender dst = none then sent s (dieOf c) (dieOf dst) .vtMilestoneArrive [c, dst, (s.core c).vt.toNat]
  else onCore s c (fun k => { k with clockHeld := addOnce k.clockHeld dst })

/-- A core's clock goes to its out-neighbours (R228, R231). -/
def clocksSent (s : State) (c : Nat) : State := (s.core c).outNbrs.foldl (fun t n => clockSent t c n.1) s

/-- The core's clock rises to at least a value; where it rises, milestones go out (R228). -/
def clockRaised (s : State) (c v : Nat) : State :=
  if v ≤ (s.core c).vt.toNat then s else clocksSent (onCore s c (fun k => { k with vt := BitVec.ofNat 64 v })) c

/-- A `vtsend` that passes its checks. -/
structure EventReady (x : Ctx) (a b : Nat) (p st dst l : Nat) : Prop where
  buffer : ∃ da, Operand x a isInt da ∧ p = (val x a).headD 0
  aligned : p % 32 = 0
  run : x.inRun p 32 = true
  pair : ∃ db, Operand x b isInt db ∧ 2 ≤ db.lanes ∧ st = (val x b).getD 0 0 ∧ dst = (val x b).getD 1 0
  present : x.k.vt.toNat ≤ st
  neighbour : look x.k.outNbrs dst = some l
  top : st + l ≤ 2 ^ 64 - 2
  race : x.runRace p 32 false false = .ok ()
  sound : x.localBad (x.runBase + p) 32 = none
  drained : x.drained = true
  fresh : x.th.op = none

/-- What becomes of a `vtsend` that has passed its checks: its event leaves with the next sequence number where the core's mesh port
accepts it, there is a place of the quota and no other waits for one; else the thread waits, for the port or for the place. -/
def Launches (s : State) (x : Ctx) (i : Instr) (dst stamp : Nat) (words : List Nat) : Prop :=
  (Config.portAccepts s.tick x.c = true → lookD x.k.quota dst 0 < 16 → x.k.firstSender dst = none →
    ∃ t, exec i s = .next t ∧ t.thread? x.c x.sl = some (x.th.released.retire (x.th.pc + 4)) ∧
      (t.core x.c).sendSeq = put x.k.sendSeq dst (lookD x.k.sendSeq dst 0 + 1) ∧
      (t.core x.c).quota = put x.k.quota dst (lookD x.k.quota dst 0 + 1) ∧
      Sent s t (dieOf x.c) (dieOf dst) .vtEventArrive ([x.c, dst, lookD x.k.sendSeq dst 0 + 1, stamp] ++ words ++ packClock x.th.vc) ∧
      (∀ c sl, ¬(c = x.c ∧ sl = x.sl) → SameOrAgain s t c sl) ∧
      t = { s with cores := t.cores, pending := t.pending, links := t.links, unsent := t.unsent }) ∧
  (Config.portAccepts s.tick x.c = true → (16 ≤ lookD x.k.quota dst 0 ∨ x.k.firstSender dst ≠ none) → ∃ t, exec i s = .next t ∧
    ReadsOnly s t x.c x.sl (x.th.wait i x.hint .inFlight ([0, dst, stamp, s.tick] ++ words))) ∧
  (Config.portAccepts s.tick x.c = false → ∃ t, exec i s = .next t ∧
    ReadsOnly s t x.c x.sl (x.th.wait i x.hint .ready ([1, dst, stamp, s.tick] ++ words)))

/-- A place comes back to a core whose slot sl has waited longest for it: its event leaves, and its `vtsend` retires. -/
def PlaceGoesOn (s : State) (c dst : Nat) : Prop :=
  ∀ sl x a since st words, s.args = [c, dst] → (s.core c).firstSender dst = some sl → s.opCtx? c sl = some (x, a) →
    a = [0, dst, st, since] ++ words → words.length = 4 →
    let u := sent s (dieOf c) (dieOf dst) .vtEventArrive ([c, dst, lookD (s.core c).sendSeq dst 0 + 1, st] ++ words ++ packClock x.th.vc)
    ∃ t, exec .vtEventArrive s = .next t ∧ t.thread? c sl = some (x.th.released.retire (x.th.pc + 4)) ∧
      (t.core c).sendSeq = put (s.core c).sendSeq dst (lookD (s.core c).sendSeq dst 0 + 1) ∧
      lookD (t.core c).quota dst 0 = lookD (s.core c).quota dst 0 - 1 + 1 ∧ (∀ d ∈ u.pending, d ∈ t.pending) ∧
      (dst ∉ (s.core c).clockHeld → t.links = u.links ∧ t.unsent = u.unsent ∧ (t.core c).clockHeld = (s.core c).clockHeld) ∧
      (∀ c' sl', ¬(c' = c ∧ sl' = sl) → SameOrAgain s t c' sl')

end Sys2Proof.Claims

/-! ### Local time -/

/-- R227 to R229 and R375: an event leaves its core with its stamp, the next sequence number and 32 bytes while its receiver has a place
of the quota for the core; else it waits for one. A place that comes back is free, or goes to the event that has waited longest, which
is log 45 (DEDUCED). That a mesh port withholds acceptance, and how an event waits for it, is log 88 (DESIGN CHOICE). -/
def Sys2Proof.Claims.TimeEventsHold : Prop :=
  (∀ s x a b p st dst l, Issues s (.vtsend a b) x → EventReady x a b p st dst l →
    Launches s x (.vtsend a b) dst (st + l) ((upFrom 0 4).map (fun j => x.locNum (p + 8 * j) 8))) ∧
  (∀ s x a b da db o why since dst stamp words, Issues s (.vtsend a b) x → Operand x a isInt da → Operand x b isInt db → x.th.op = some o →
    o.args = [why, dst, stamp, since] ++ words → Launches s x (.vtsend a b) dst stamp words) ∧
  (∀ s c dst, PlaceGoesOn s c dst) ∧
  (∀ s c dst, s.args = [c, dst] → (s.core c).firstSender dst = none →
    exec .vtEventArrive s = .next (onCore s c (fun k => { k with quota := put k.quota dst (lookD k.quota dst 0 - 1) }))) ∧
  (∀ s c dst seq stamp words vc, s.args = [c, dst, seq, stamp] ++ words ++ packClock vc → words.length = 4 → (s.core dst).vtWait = [] →
    exec .vtEventArrive s = .next (noTimers (onCore s dst (fun k => { k with events := k.events ++ [
      { stamp := stamp, sender := c, seq := seq, payload := packWords 8 words, vc := unpackClock (packClock vc) }] })) .vtNullCountExpire [dst])) ∧
  (∀ s c dst v, s.args = [c, dst, v] → (s.core dst).vtWait = [] →
    exec .vtMilestoneArrive s = .next (noTimers (onCore s dst (fun k => { k with
      inNbrs := k.inNbrs.map (fun l => l.map (fun n => if n.core = c then { n with pub := max n.pub v } else n)) })) .vtNullCountExpire [dst]))

/-- R229, R230 and R376: `vtrecv` takes the least event below the horizon by stamp, sender and sequence number: its payload goes into
the buffer, its numbers into the name, and the clock rises to its stamp; with none it waits. -/
def Sys2Proof.Claims.TimeReceiveHold : Prop :=
  (∀ k e, Core.admissible k = some e → e ∈ k.events ∧ e.stamp < k.horizon ∧ ∀ f ∈ k.events, f.stamp < k.horizon → e.before f = true) ∧
  (∀ s x d a da dd p, Issues s (.vtrecv d a) x → Operand x a isInt da → Dest x d isInt dd → 3 ≤ dd.lanes → p = (val x a).headD 0 →
    p % 32 = 0 → x.inRun p 32 = true →
    (∀ e v0 v1 v2, x.k.vtWait = [] → x.k.admissible = some e → e.payload.length = 32 → x.runRace p 32 true false = .ok () →
      fitInt dd e.stamp = some v0 → fitInt dd e.sender = some v1 → fitInt dd e.seq = some v2 → s.loc.wf → x.c < 512 →
      x.runBase + p + 32 ≤ 2097152 →
      let key := locKey x.c (x.runBase + p)
      let th := x.th.setLanes d ([v0, v1, v2] ++ (val x d).drop 3)
      ∃ t u, exec (.vtrecv d a) s = .next t ∧ t.thread? x.c x.sl = some u ∧ u.pc = x.th.pc + 4 ∧ u.status = .ready ∧ u.names = th.names ∧
        u.lk = th.lk ∧ u.ws = th.ws ∧ u.st = th.st ∧ (t.core x.c).events = x.k.events.filter (fun f => decide (f ≠ e)) ∧
        (t.core x.c).vt = BitVec.ofNat 64 (max x.k.vt.toNat e.stamp) ∧ t.loc.bytes key 32 = e.payload ∧
        (∀ k, k < key ∨ key + 32 ≤ k → t.loc.get k = s.loc.get k) ∧ OthersWake s t x.c x.sl ∧
        t = { s with
          loc := t.loc, cores := t.cores, bad := t.bad, pending := t.pending, links := t.links, unsent := t.unsent }) ∧
    ((x.k.vtWait ≠ [] ∨ x.k.admissible = none) → exec (.vtrecv d a) s =
      .next (onClock (noTimers (onCore (withThread s x.c x.sl (x.th.wait (.vtrecv d a) x.hint .blocked [p])) x.c (fun k => { k with
        vtWait := k.vtWait ++ [x.sl] })) .vtNullCountExpire [x.c]) (dieOf x.c) 1024 .vtNullCountExpire [x.c])))

/-- R226, R228, R231, R377 and R378: the clock and its milestones, null events, the horizon, and the declaration of in-neighbours with
its answers. -/
def Sys2Proof.Claims.TimeGraphHold : Prop :=
  (∀ s x a da, Issues s (.vtadv a) x → Operand x a isInt da →
    exec (.vtadv a) s = .next (clockRaised (retired s x x.th) x.c ((val x a).headD 0))) ∧
  (∀ s x, Issues s .vtnull x → exec .vtnull s = .next (clocksSent (retired s x x.th) x.c)) ∧
  (∀ s x d dd r, Issues s (.vthor d) x → Dest x d isInt dd → PerLane dd.lanes r (fun _ v => fitInt dd x.k.horizon = some v) →
    exec (.vthor d) s = .next (retired s x (x.th.setLanes d r))) ∧
  (∀ s x a b da db p n, Issues s (.vtann a b) x → Operand x a isInt da → Operand x b isInt db → p = (val x a).headD 0 → n = (val x b).headD 0 →
    p % 8 = 0 → n ≤ 8 → (n ≠ 0 → x.inRun p (8 * n : Nat) = true) → x.runRace p (8 * n) false false = .ok () →
    x.runEcc p (8 * n) = .ok () →
    let ws := (upFrom 0 n).map (fun j => x.locNum (p + 8 * j) 8)
    let l := ws.map nbrOf
    (∀ m, x.k.inNbrs = some m → m.map (fun q => (q.core, q.look)) = l.map (fun q => (q.core, q.look)) →
      ∃ t, exec (.vtann a b) s = .next t ∧ ReadsOnly s t x.c x.sl (x.th.retire (x.th.pc + 4))) ∧
    (∀ m, x.k.inNbrs = some m → m.map (fun q => (q.core, q.look)) ≠ l.map (fun q => (q.core, q.look)) →
      exec (.vtann a b) s = .next (trapped s x ZLA 0xFE)) ∧
    (∀ v, x.k.inNbrs = none → x.annFault 0 ws = some v → exec (.vtann a b) s = .next (trapped s x ZLA v)) ∧
    (x.k.inNbrs = none → x.annFault 0 ws = none → ∃ t, exec (.vtann a b) s = .next t ∧ (t.core x.c).inNbrs = some l ∧
      t.thread? x.c x.sl = some (if n = 0 then x.th.retire (x.th.pc + 4) else x.th.wait (.vtann a b) x.hint .inFlight [n]) ∧
      (t.pending, t.links, t.unsent) =
        (l.foldl (fun u q => sent u (dieOf x.c) (dieOf q.core) .vtNeighbourRegister [x.c, x.sl, q.core, q.look]) s |>
          fun u => (u.pending, u.links, u.unsent)) ∧
      (∀ c sl, ¬(c = x.c ∧ sl = x.sl) → t.thread? c sl = s.thread? c sl) ∧
      t = { s with cores := t.cores, pending := t.pending, links := t.links, unsent := t.unsent })) ∧
  (∀ s c sl nbr l, s.args = [c, sl, nbr, l] → exec .vtNeighbourRegister s =
    .next (sent (onCore s nbr (fun k => { k with outNbrs := put k.outNbrs c l })) (dieOf nbr) (dieOf c) .vtNeighbourRegister [c, sl])) ∧
  (∀ s c sl x a b n, s.args = [c, sl] → s.opCtx? c sl = some (x, [n]) → x.i = .vtann a b →
    Answered s .vtNeighbourRegister c sl (if n ≤ 1 then x.th.retire (x.th.pc + 4)
      else x.th.wait (.vtann a b) x.hint .inFlight [n - 1])) ∧
  (∀ s c, s.args = [c] → (s.core c).vtWait ≠ [] →
    let b := (s.core c).events.foldl (fun b e => min b e.stamp) (s.core c).horizon
    exec .vtNullCountExpire s = .next (onClock (noTimers (clocksSent (if (s.core c).vt.toNat < b
      then onCore s c (fun k => { k with vt := BitVec.ofNat 64 b }) else s) c) .vtNullCountExpire [c]) (dieOf c) 1024 .vtNullCountExpire [c]))

/-- R117, R118 and R347 to R349: messages, sent and received. -/
def Obligations.Messages : Prop :=
  Claims.MessagesHold ∧ Claims.ReceivingHold

/-- R226 to R231 and R374 to R378: the virtual-time instructions, events and clocks. -/
def Obligations.VirtualTime : Prop :=
  Claims.TimeEventsHold ∧ Claims.TimeReceiveHold ∧ Claims.TimeGraphHold

namespace Sys2Proof.Claims

open Sys2Proof.Machine

/-! ### Tasks, leases and the system -/

def onTask (s : State) (n : Nat) (f : Machine.Task → Machine.Task) : State :=
  match s.task? n with
  | some x => { s with tasks := put s.tasks n (f x) }
  | none => s

def onDie (s : State) (d : Nat) (f : Die → Die) : State := { s with dies := put s.dies d (f (s.die d)) }

def onPkg (s : State) (f : Pkg → Pkg) : State := { s with pkg := f s.pkg }

/-- A timer more, at a time of a die's `cw.etime`. -/
def onTime (s : State) (d n : Nat) (i : Instr) (args : List Nat) : State :=
  { s with timers := s.timers ++ [{ ev := ⟨i, args⟩, die := d, onCyc := false, due := (s.die d).etime.toNat + n }] }

/-- What `tidq` reads of the task n of the thread (R373). -/
def TaskWord (s : State) (x : Ctx) (n : Machine.Task) (b w : Nat) : Prop :=
  (b = 0 ∧ w = n.threads) ∨ (b = 1 ∧ ∃ p m, s.part? n.part = some p ∧ look p.live n.app = some m ∧ w = m.index) ∨
    (b = 2 ∧ w = n.app) ∨ (b = 3 ∧ w = n.hw) ∨
    (b = 4 ∧ w = maskOf ((s.core n.core).threads.filterMap (fun p =>
      if p.2.task = x.th.task ∧ p.2.status ≠ .finished then some p.2.tid.toNat else none))) ∨
    (5 ≤ b ∧ w = n.localBase)

/-- A `spawn` that has reached the lead dispatcher: of a thread of task k, whose node m is live in partition p. -/
structure Spawning (s : State) (x : Ctx) (va phys : Nat) (k : Machine.Task) (p : Part) (m : Node) : Prop where
  args : s.args = [x.c, x.sl]
  op : s.opCtx? x.c x.sl = some (x, [va, phys])
  spawn : ∃ a, x.i = .spawn a
  task : x.task = some k
  part : s.part? k.part = some p
  node : look p.live k.app = some m

/-- A task that nothing keeps: its posted stores are performed and its courier jobs are done. -/
structure Quits (s : State) (k : Nat) (n : Machine.Task) : Prop where
  args : s.args = [k]
  task : s.task? k = some n
  stores : ∀ p ∈ (s.core n.core).posted, p.task ≠ k
  jobs : ∀ j ∈ s.jobs, j.2.task ≠ k
  untraced : ∀ sl ∈ n.slots, Untraced s n.core sl
  tables : s.tasks.wf

/-- The same of a request for which a die has read memory: what it read counts in its pages, and may give notices (R77). -/
def AnsweredReading (s : State) (i : Instr) (c sl : Nat) (th : Thread) : Prop :=
  ∃ t, exec i s = .next t ∧ t.thread? c sl = some th ∧ ThreadsOnly s t (fun c' sl' => c' = c ∧ sl' = sl) ∧
    t = { s with cores := t.cores, pages := t.pages, notices := t.notices, pending := t.pending }

/-- The partition of a core is halted. -/
def HaltedCore (s : State) (c : Nat) : Prop := ∃ n p, s.partOfCore c = some n ∧ s.part? n = some p ∧ p.halted = true

end Sys2Proof.Claims

/-- R75, R83, R171, R196, R370 to R373: `spawn` and the append of its node, `tidq`, `done`, `yield`, and the end of a task. -/
def Obligations.Tasks : Prop :=
  (∀ s x a da e va, Issues s (.spawn a) x → Operand x a isInt da → va = (val x a).headD 0 →
    (va % 64 ≠ 0 → exec (.spawn a) s = .next (trapped s x ALIGN va)) ∧
    (va % 64 = 0 → x.findExtent va 192 extRd = some e → x.recordRace va e = .ok () → x.drained = true →
      exec (.spawn a) s = .next (sent (withThread s x.c x.sl (x.th.wait (.spawn a) x.hint .inFlight [va, e.2.pbase + (va - e.2.vbase)]))
        (dieOf x.c) (match x.part with | some n => dieOfCluster n | none => dieOf x.c) .spawnAppend [x.c, x.sl]))) ∧
  (∀ s x va phys k p m, Spawning s x va phys k p m →
    let r := s.mem.read phys 192
    let bad := nodeOk r = false ∨ field r 33 1 ≠ 0 ∨ field r 35 1 = 1
    (bad → AnsweredReading s .spawnAppend x.c x.sl ((x.th.replied 1 0).retire (x.th.pc + 4))) ∧
    (¬bad → 4096 ≤ p.live.length → p.mode ≠ 1 → p.mode ≠ 2 →
      AnsweredReading s .spawnAppend x.c x.sl ((x.th.replied 2 0).retire (x.th.pc + 4))) ∧
    (∀ g, ¬bad → p.live.length < 4096 → p.mode ≠ 1 → p.mode ≠ 2 → look p.graphs m.graph = some g → g.aborted = false →
      ∃ t q, exec .spawnAppend s = .next t ∧
        t.thread? x.c x.sl = some ((x.th.released.replied 0 (p.append + 1).toNat).retire (x.th.pc + 4)) ∧
        t.part? k.part = some q ∧ q.append = p.append + 1 ∧ (∃ nd, look q.live (p.append + 1).toNat = some nd) ∧
        (∀ c sl, ¬(c = x.c ∧ sl = x.sl) → SameOrAgain s t c sl) ∧ t.mem = s.mem ∧ t.loc = s.loc)) ∧
  (∀ s x d b dd n w r, Issues s (.tidq d b) x → Dest x d isInt dd → x.task = some n → TaskWord s x n b w →
    PerLane dd.lanes r (fun _ v => fitInt dd w = some v) → exec (.tidq d b) s = .next (retired s x (x.th.setLanes d r))) ∧
  (∀ s x, Issues s .done x →
    Answered s .done x.c x.sl { ({ x.th with relFence := none } : Thread).retire (x.th.pc + 4) with status := .finished }) ∧
  (∀ s x, Issues s .yield x → exec .yield s =
    .next (onClock (noTimers (withThread s x.c x.sl { x.th.retire (x.th.pc + 4) with status := .yielding }) .yieldEnd [x.c, x.sl])
      (dieOf x.c) (x.th.busy + 16) .yieldEnd [x.c, x.sl])) ∧
  (∀ s c sl, s.args = [c, sl] → ¬HaltedCore s c → exec .yieldEnd s =
    .next (onThread s c sl (fun th => if th.status = .yielding ∧ th.stopped = false then { th with status := .ready } else th))) ∧
  (∀ s c sl, s.args = [c, sl] → HaltedCore s c → exec .yieldEnd s = .next (onThread s c sl id)) ∧
  (∀ s k n, Quits s k n → n.ending = none → (∀ p ∈ (s.core n.core).threads, p.2.task = k → p.2.status = .finished) →
    ∃ t, exec .taskEnd s = .next t ∧ t.task? k = none ∧ t.pending.head? = some ⟨.taskEnd, [k, n.part, n.app, n.core]⟩ ∧
      t.mem = s.mem ∧ t.loc = s.loc) ∧
  (∀ s k n e, Quits s k n → n.ending = some e →
    (∀ p ∈ (s.core n.core).threads, p.2.task = k → p.2.abandonable = false ∧ p.2.atBoundary = true) →
    ∃ t, exec .taskExtentEnd s = .next t ∧ t.task? k = none ∧
      t.pending.head? = some ⟨.taskEnd, [k, n.part, n.app, n.core, e.thread, e.lane, e.reason, e.adr]⟩ ∧ t.mem = s.mem ∧ t.loc = s.loc)

namespace Sys2Proof.Claims

open Sys2Proof.Machine

/-- A `lease` of a task k, whose node m is live in partition p, at the porter of its cluster (R76). -/
structure Leasing (s : State) (x : Ctx) (base len mode : Nat) (k : Machine.Task) (p : Part) (m : Node) : Prop where
  args : s.args = [x.c, x.sl]
  op : s.opCtx? x.c x.sl = some (x, [base, len, mode])
  lease : ∃ a b, x.i = .lease a b
  task : x.task = some k
  part : s.part? k.part = some p
  node : look p.live k.app = some m
  runs : p.halted = false
  quiet : p.mode ≠ 1 ∧ p.mode ≠ 2

/-- The leaves of a lease's range. -/
def leaseLeaves (s : State) (x : Ctx) (base len : Nat) (p : Part) (m : Node) : Option (List (Nat × Leaf)) :=
  s.leavesOf (dieOfCluster (clusterOf x.c)) (p.space m.graph) base len

/-- What making the pages of a lease's range resident, in order, would come to. -/
def leaseTrial (s : State) (x : Ctx) (k : Machine.Task) (p : Part) (m : Node) (ls : List (Nat × Leaf)) : Trail s × Served :=
  Trail.residentAll k.part (dieOfCluster (clusterOf x.c)) (p.space m.graph) ls (begin s)

/-- The porter's code for a range whose pages are resident in u. -/
def leaseCodeIn (u : State) (x : Ctx) (base len mode : Nat) (k : Machine.Task) (p : Part) (m : Node) : Nat :=
  let ready := (leaseLeaves u x base len p m).getD []
  u.leaseCode k.part p k (p.space m.graph) base len mode ready (physRuns base len ready)

/-- The thread of a `lease` has its reply in `st`. -/
def Replied (s t : State) (x : Ctx) (code data : Nat) : Prop :=
  t.thread? x.c x.sl = some ((x.th.replied code data).retire (x.th.pc + 4)) ∧
    (∀ c sl, ¬(c = x.c ∧ sl = x.sl) → SameOrAgain s t c sl) ∧ t.mem = s.mem ∧ t.loc = s.loc

end Sys2Proof.Claims

/-- R76, R350 and R351: a lease is denied at once, or asked for; the porter answers with the code of its first failing check, which it
makes of what residency would give and which changes nothing else, or fills a free entry with the run of the range; and what `lease.rel`
takes back. The order of the porter's checks is log 44 (DEDUCED). -/
def Obligations.Leases : Prop :=
  (∀ s x a b da base len, Issues s (.lease a b) x → Operand x a isInt da → 2 ≤ da.lanes → base = (val x a).getD 0 0 → len = (val x a).getD 1 0 →
    let bad := b = 1 ∨ b = 2 ∨ len = 0 ∨ base % 64 ≠ 0 ∨ len % 64 ≠ 0
    (bad → exec (.lease a b) s = .next (trapped s x LEASEDENY 0)) ∧
    (¬bad → exec (.lease a b) s =
      .next (due (withThread s x.c x.sl (x.th.wait (.lease a b) x.hint .blocked [base, len, b])) .leaseServe [x.c, x.sl]))) ∧
  (∀ s x base len mode k p m, Leasing s x base len mode k p m →
    (leaseLeaves s x base len p m = none → Answered s .leaseServe x.c x.sl ((x.th.replied 1 0).retire (x.th.pc + 4))) ∧
    (∀ ls u r, leaseLeaves s x base len p m = some ls → leaseTrial s x k p m ls = (u, .fails r) →
      Answered s .leaseServe x.c x.sl ((x.th.replied r 0).retire (x.th.pc + 4))) ∧
    (∀ ls u, leaseLeaves s x base len p m = some ls → leaseTrial s x k p m ls = (u, .waits) →
      Answered s .leaseServe x.c x.sl x.th) ∧
    (∀ ls u, leaseLeaves s x base len p m = some ls → leaseTrial s x k p m ls = (u, .done) →
      leaseCodeIn u.1 x base len mode k p m ≠ 0 →
      Answered s .leaseServe x.c x.sl ((x.th.replied (leaseCodeIn u.1 x base len mode k p m) 0).retire (x.th.pc + 4))) ∧
    (∀ ls r, leaseLeaves s x base len p m = some ls → leaseCodeIn s x base len mode k p m = 0 →
      (∀ q ∈ ls, q.2.res = true) → s.leaseWaits (leafPages ls) = false → physRuns base len ls = [r] → k.freeEntries ≠ [] →
      ∃ t q, exec .leaseServe s = .next t ∧ Replied s t x 0 (k.freeEntries.headD 0 + 16) ∧ t.task? x.th.task = some q ∧
        look q.ext (k.freeEntries.headD 0) = some (extentOf mode 0 base len true r) ∧
        (∀ i, i ≠ k.freeEntries.headD 0 → look q.ext i = look k.ext i))) ∧
  (∀ s x b n e, Issues s (.leaseRel b) x → x.task = some n → look n.ext b = some e → x.entryEcc b = .ok () →
    (e.leased = false → exec (.leaseRel b) s = .next (trapped s x LEASEDENY b)) ∧
    (e.leased = true → x.entryBusy b e = true → exec (.leaseRel b) s =
      .next (withThread s x.c x.sl (x.th.wait (.leaseRel b) x.hint .inFlight []))) ∧
    (e.leased = true → x.entryBusy b e = false → Unlogged s x →
      ∃ t, exec (.leaseRel b) s = .next t ∧ t.thread? x.c x.sl = some (x.th.retire (x.th.pc + 4)) ∧
        t.task? x.th.task = some { n with ext := del n.ext b, leases := n.leases.filter (fun q => decide (q.2 ≠ b)) } ∧
        (∀ c sl, ¬(c = x.c ∧ sl = x.sl) → SameOrAgain s t c sl) ∧ t.mem = s.mem ∧ t.loc = s.loc))

namespace Sys2Proof.Claims

open Sys2Proof.Machine

/-- A trap leaves the queue of its core. -/
def unqueued (s : State) (c sl : Nat) : State := onCore s c (fun k => { k with trapQ := k.trapQ.filter (fun q => decide (q ≠ sl)) })

/-- A partition stops by a fatal fault: it halts, and its dump is due (R38, R200); no memory changes but the status words of the
queues of its fault domain (R38, R42). -/
def Stopped (s t : State) (n : Nat) : Prop :=
  (∃ q, t.part? n = some q ∧ q.halted = true ∧ q.ladder = .dump) ∧ ⟨.dumpBegin, [n]⟩ ∈ t.pending ∧ t.loc = s.loc ∧
    ∀ a, (∀ m p p' i q, s.part? n = some p → s.part? m = some p' → p'.fdom = p.fdom → look p'.queues i = some q →
      a < q.header + 16 ∨ q.header + 24 ≤ a) → t.mem.get a = s.mem.get a

/-- A thread in handler state goes on at an address, out of handler state (R193). -/
def resumes (s : State) (x : Ctx) (pc : Nat) : State :=
  withThread s x.c x.sl ((x.th.resumeAt pc false).retire (pc % 2 ^ 56))

/-- The one trap of a core's queue: a thread of task n of partition p, in no dump and not in handler state. -/
structure OneTrap (s : State) (c sl : Nat) (th : Thread) (n : Machine.Task) (p : Part) : Prop where
  args : s.args = [c]
  queue : (s.core c).trapQ = [sl]
  thread : s.thread? c sl = some th
  task : s.task? th.task = some n
  part : s.part? n.part = some p
  runs : p.halted = false
  boot : (s.die (dieOf c)).restart = false
  first : th.inh = false
  alone : p.dumps = []
  untraced : Untraced s c sl

end Sys2Proof.Claims

/-- R192 to R194, R239, R380 to R382, R386: `trap`, the services of `scall`, `brk`, `eret` and `halt`; the steward takes the head of the
trap queue to the task's handler, to the debugger, or to a fatal fault; and the stewards' heartbeat. That a `halt` with traps queued goes
on at once, and that the `brk` a thread stopped at retires when it goes on, are log 46 (DEDUCED). -/
def Obligations.SystemInstructions : Prop :=
  (∀ s x a b da, Issues s (.trap a b) x → Operand x a isInt da → exec (.trap a b) s = .next (trapped s x b ((val x a).headD 0))) ∧
  (∀ s x a da n, Issues s (.scall a 1) x → Operand x a isInt da → 2 ≤ da.lanes → x.task = some n →
    let off := (val x a).getD 0 0
    let mask := (val x a).getD 1 0
    (off % 4 ≠ 0 ∨ n.codelen ≤ off → exec (.scall a 1) s = .next (retired s x (x.th.replied 1 0))) ∧
    (off % 4 = 0 → off < n.codelen → exec (.scall a 1) s = .next (onTask (retired s x (x.th.replied 0 0)) x.th.task (fun n =>
      { n with handler := if mask = 0 then none else some (off, takeable mask) })))) ∧
  (∀ s x a b, Issues s (.scall a b) x → b ≠ 1 →
    (x.th.inh = false → exec (.scall a b) s = .next (trapped s x ILL x.word)) ∧
    (x.th.inh = true → Untraced s x.c x.sl → b = 2 → exec (.scall a b) s = .next (resumes s x x.th.epc.toNat)) ∧
    (x.th.inh = true → Untraced s x.c x.sl → b = 3 → exec (.scall a b) s =
      .next (resumes s x (x.th.epc.toNat + (if bit x.th.cause.toNat 16 then 8 else 4)))) ∧
    (∀ n p, x.th.inh = true → b = 4 → x.part = some n → s.part? n = some p → p.ladder ≠ .dump →
      s.parts.wf → ∃ t, exec (.scall a b) s = .next t ∧ Stopped s t n ∧
        t.thread? x.c x.sl = some { x.th with trapped := true, status := .ready, hint := none })) ∧
  (∀ s x b, Issues s (.brk b) x →
    let goes := x.th.suppress = true ∧ x.th.cause.toNat % 256 = BRK ∧ 0x40 ≤ x.th.eval.toNat ∧ (s.die (dieOf x.c)).dbg.enable = true
    (goes → exec (.brk b) s = .next (retired s x x.th)) ∧ (¬goes → exec (.brk b) s = .next (trapped s x BRK (0x40 + b)))) ∧
  (∀ s x a da sl th, Issues s (.eret a) x → Operand x a isInt da → sl = (val x a).headD 0 % 16 → sl ≠ x.sl →
    (val x a).headD 0 / 16 % 16 = 0 → (val x a).headD 0 < 1024 → sl ∈ x.k.trapQ → s.thread? x.c sl = some th → Untraced s x.c sl →
    let u := unqueued (retired s x x.th) x.c sl
    let v := bits ((val x a).headD 0) 9 8
    (v = 0 → exec (.eret a) s = .next (onThread u x.c sl (fun th => th.resumeAt th.epc.toNat th.inh))) ∧
    (v = 1 → exec (.eret a) s =
      .next (onThread u x.c sl (fun th => th.resumeAt (th.epc.toNat + (if bit th.cause.toNat 16 then 8 else 4)) th.inh))) ∧
    (∀ n h, v = 2 → s.task? th.task = some n → n.handler = some h → exec (.eret a) s =
      .next (onThread u x.c sl (fun th => th.resumeAt (n.code + h.1) true)))) ∧
  (∀ s x, Issues s .halt x →
    (x.k.trapQ = [] → exec .halt s = .next (withThread s x.c x.sl (x.th.wait .halt x.hint .blocked []))) ∧
    (x.k.trapQ ≠ [] → exec .halt s = .next (retired s x x.th))) ∧
  (∀ s c sl th n p, OneTrap s c sl th n p →
    let cause := th.cause.toNat % 256
    let u := unqueued s c sl
    (∀ off mask, n.handler = some (off, mask) → handlerMay cause = true → bit mask cause = true →
      exec .trapService s = .next (onThread u c sl (fun th => th.resumeAt (n.code + off) true))) ∧
    (cause = BRK → 0x40 ≤ th.eval.toNat → (s.die (dieOf c)).dbg.enable = true → exec .trapService s =
      .next (onThread u c sl (fun th => { th with trapped := false, stopped := true, stepping := false, suppress := true }))) ∧
    (n.handler = none → cause ≠ BRK → cause ≠ WATCH → p.ladder ≠ .dump → s.parts.wf →
      ∃ t, exec .trapService s = .next t ∧ Stopped s t n.part ∧ (t.core c).trapQ = [])) ∧
  (∀ s d, s.args = [d] → (∀ c th, s.thread? c 15 = some th → th.inHalt = false) →
    exec .stewardHeartbeatDue s = .next (onTime s d 144000000 .stewardHeartbeatDue [d])) ∧
  (∀ s d c th, s.args = [d] → dieOf c = d → s.thread? c 15 = some th → th.inHalt = true →
    ∃ t, exec .stewardHeartbeatDue s = .next t ∧
      t.thread? c 15 = some { th with pc := th.pc + 4, status := .ready, op := none, hint := none })

namespace Sys2Proof.Claims

open Sys2Proof.Machine

/-- The control words that a thread reads of itself and of its core and die (R274). -/
def ControlWord (s : State) (x : Ctx) (b w : Nat) : Prop :=
  let d := s.die (dieOf x.c)
  (b = 0 ∧ w = x.th.cause.toNat) ∨ (b = 1 ∧ w = x.th.epc.toNat) ∨ (b = 2 ∧ w = x.th.eval.toNat) ∨ (b = 3 ∧ w = x.th.mapWord) ∨
    (b = 4 ∧ w = d.cyc.toNat) ∨ (b = 5 ∧ w = d.etime.toNat) ∨ (b = 6 ∧ w = bitAt d.relocking 23 + d.step * 65536 + stepMhz d.step) ∨
    (b = 7 ∧ w = x.k.vt.toNat) ∨ (b = 8 ∧ w = x.k.horizon) ∨ (b = 9 ∧ w = x.th.race.toNat) ∨ (b = 11 ∧ w = 0x081020) ∨
    (b = 12 ∧ w = x.th.clsVacant.toNat * 2 ^ 48 + x.th.clsMessage.toNat * 2 ^ 32 + x.th.clsMemory.toNat * 2 ^ 16 + x.th.clsIssued.toNat) ∨
    (b = 13 ∧ w = x.k.readyFour.toNat * 2 ^ 48 + x.k.readyTwo.toNat * 2 ^ 32 + x.k.readyOne.toNat * 2 ^ 16 + x.k.readyNone.toNat)

end Sys2Proof.Claims

/-- R274, R383: reading a control word, one's own or another slot's, and the steward's writes of them; R55 and R385: `snap` waits for the
firing that its request joins and reads its number. That the blocks of a die latch together, the dies one after another, is log 86
(DESIGN CHOICE). -/
def Obligations.ControlWords : Prop :=
  (∀ s x d a b dd (w : Nat) r, Issues s (.cwr d a b) x → Dest x d isAny dd → (timeWord b = false ∨ Quiet s x.part) →
    PerLane dd.lanes r (fun l v => Gives x dd w l v) →
    (a = 0 → ControlWord s x b w → exec (.cwr d a b) s = .next (retired s x (drawnFor x dd (x.th.setLanes d r)))) ∧
    (∀ th y, a ≠ 0 → look x.k.threads (a - 1) = some th → y = { x with th := th } → (b ≤ 3 ∨ b = 9 ∨ b = 12) → ControlWord s y b w →
      exec (.cwr d a b) s = .next (retired s x (drawnFor x dd (x.th.setLanes d r))))) ∧
  (∀ s x d a b dd, Issues s (.cwr d a b) x → Dest x d isAny dd → (timeWord b = false ∨ Quiet s x.part) → dd.pol ≠ .trap →
    a ≠ 0 → look x.k.threads (a - 1) = none → (b ≤ 3 ∨ b = 9 ∨ b = 12) →
    ∃ (w : Nat) (r : List Nat), PerLane dd.lanes r (fun l v => Gives x dd w l v) ∧
      exec (.cwr d a b) s = .next (retired s x (drawnFor x dd (x.th.setLanes d r)))) ∧
  (∀ s x d a b da, Issues s (.cww d a b) x → Operand x a isInt da →
    let v := (val x a).headD 0
    let D := s.die (dieOf x.c)
    (b ≤ 2 → d = 0 → exec (.cww d a b) s = .next (retired s x (x.th.withWord b v))) ∧
    (b ≤ 2 → d ≠ 0 → exec (.cww d a b) s = .next (onThread (retired s x x.th) x.c (d - 1) (fun th => th.withWord b v))) ∧
    (2 < b → b ≠ 6 → exec (.cww d a b) s = .next (retired s x x.th)) ∧
    (b = 6 → (4 < bits v 18 16 ∨ (D.change = .none ∧ bits v 18 16 = D.step)) → exec (.cww d a b) s = .next (retired s x x.th)) ∧
    (b = 6 → bits v 18 16 ≤ 4 → D.change ≠ .none →
      exec (.cww d a b) s = .next (onDie (retired s x x.th) (dieOf x.c) (fun y => { y with target := bits v 18 16 }))) ∧
    (b = 6 → bits v 18 16 ≤ 4 → D.change = .none → D.step < bits v 18 16 → D.held = false →
      exec (.cww d a b) s = .next (onTime (onDie (retired s x x.th) (dieOf x.c) (fun y =>
        { y with target := bits v 18 16, change := .rampUp (bits v 18 16) })) (dieOf x.c) (rampTime D.step (bits v 18 16))
          .supplyRampUpDone [dieOf x.c]))) ∧
  (∀ s x d dd, Issues s (.snap d) x → Dest x d isAny dd →
    let u := { withThread s x.c x.sl (x.th.wait (.snap d) x.hint .inFlight [s.pkg.snapshot + 1]) with
      pkg := { s.pkg with snapWait := s.pkg.snapWait ++ [(x.c, x.sl)], firing := true } }
    exec (.snap d) s = .next (if s.pkg.firing = true then u
      else { u with pending := u.pending ++ [0, 1, 2, 3].map (fun d => ⟨.snapshotFiringComplete, [d]⟩) })) ∧
  (∀ s d, s.args = [d] → d < 4 → s.pkg.firing = true →
    let u := onDie s d (fun x => { x with latched := s.pkg.snapshot + 1 })
    ((∃ e, e < 4 ∧ (u.die e).latched ≠ s.pkg.snapshot + 1) → exec .snapshotFiringComplete s = .next u) ∧
    ((∀ e, e < 4 → (u.die e).latched = s.pkg.snapshot + 1) → exec .snapshotFiringComplete s =
      .next (s.pkg.snapWait.foldl (fun t w => due t .snapshotFiringComplete [w.1, w.2])
        (onPkg u (fun p => { p with firing := false, snapshot := p.snapshot + 1, snapWait := [] }))))) ∧
  (∀ s x d dd (n : Nat) r, s.args = [x.c, x.sl] → n ≤ s.pkg.snapshot → s.opCtx? x.c x.sl = some (x, [n]) → x.i = .snap d →
    Dest x d isAny dd → PerLane dd.lanes r (fun l v => Gives x dd n l v) →
    Answered s .snapshotFiringComplete x.c x.sl ((drawnFor x dd (x.th.setLanes d r)).retire (x.th.pc + 4)))

namespace Sys2Proof.Claims

open Sys2Proof.Machine

/-! ### The matrix engine -/

/-- A matrix instruction that passes its checks leaves the rotation with the operands it has read, and joins its core's engine queue
(R120). -/
def Enters (s : State) (x : Ctx) (i : Instr) (args : List Nat) : Prop :=
  ∃ t, exec i s = .next t ∧ t.thread? x.c x.sl = some (x.th.wait i x.hint .out args) ∧
    (t.core x.c).matrixQ = (s.core x.c).matrixQ ++
      [{ slot := x.sl, op := { instr := i, pc := x.th.pc, hint := x.hint, args := args }, started := false, retried := false }] ∧
    t.pending = s.pending ++ (if (s.core x.c).matrixQ = [] then [⟨.matrixStart, [x.c]⟩] else []) ∧
    (∀ c sl, ¬(c = x.c ∧ sl = x.sl) → t.thread? c sl = s.thread? c sl) ∧ t = { s with cores := t.cores, pending := t.pending }

/-- No access of an engine instruction races: those it reads, those it writes (R174). -/
def Clear (x : Ctx) (reads writes : List Loc) : Prop :=
  x.sl = 15 ∨ ((∀ l ∈ reads, x.race l false false = none) ∧ ∀ l ∈ writes, x.race l true false = none)

/-- `mma` and `mmas` at issue: the descriptor, then the checks of R123 in their order, then the slots' in-use flags. -/
def MmaIssues (mk : Nat → Nat → Nat → Nat → Instr) (sparse : Bool) : Prop :=
  ∀ s x a b tile zi da db, Issues s (mk a b tile zi) x → Operand x a isInt da → Operand x b isInt db →
    let base := (val x a).headD 0
    let desc := (val x b).headD 0
    let stride := x.hintStride.getD (32 * bits desc 31 17)
    let m := mmaOf base desc stride tile sparse (zi == 1)
    let go := exec (mk a b tile zi) s
    let fits := m.row0 + m.rows ≤ 128 ∧ m.col0 + m.cols ≤ 64
    (badDesc desc sparse = true → go = .next (trapped s x KIND desc)) ∧
    (badDesc desc sparse = false → base % 32 ≠ 0 → go = .next (trapped s x ALIGN base)) ∧
    (badDesc desc sparse = false → base % 32 = 0 → ¬fits → go = .next (trapped s x ACCR (m.row0 * 64 + m.col0))) ∧
    (badDesc desc sparse = false → base % 32 = 0 → fits → m.fusion = 3 → 15 < m.slot + 3 → go = .next (trapped s x WBUF m.slot)) ∧
    (badDesc desc sparse = false → base % 32 = 0 → fits → (m.fusion = 3 → m.slot + 3 ≤ 15) →
      (∀ r, r < m.rows → x.inRun (m.rowAddr r) m.kext = true) →
      (∀ p n q, m.slots = p ++ n :: q → (∀ k ∈ p, (x.k.wslot k).inUse = true) → (x.k.wslot n).inUse = false →
        go = .next (trapped s x WBUF n)) ∧
      ((∀ n ∈ m.slots, (x.k.wslot n).inUse = true) → Clear x (x.rowGranules m) (m.tiles.map .tile) →
        Enters s x (mk a b tile zi) [base, desc, stride]))

/-- `mldb` and `mldm` at issue (R360). -/
def LoadIssues (mk : Nat → Nat → Nat → Instr) (limit : Nat) : Prop :=
  ∀ s x a b slot da db, Issues s (mk a b slot) x → Operand x a isInt da → Operand x b isInt db →
    let p := (val x a).headD 0
    let n := (val x b).headD 0
    (p % 64 ≠ 0 → exec (mk a b slot) s = .next (trapped s x ALIGN p)) ∧
    (p % 64 = 0 → (n = 0 ∨ n % 64 ≠ 0 ∨ limit < n) → exec (mk a b slot) s = .next (trapped s x WBUF slot)) ∧
    (p % 64 = 0 → n ≠ 0 → n % 64 = 0 → n ≤ limit → x.inRun p n = true → Clear x ((granules (x.runBase + p) n).map .gran) [] →
      Enters s x (mk a b slot) [p, n])

/-- The instruction in the engine of a core, with the operands it has read; no operand of it has a soft error, and a load of it fits. -/
structure Engaged (s : State) (x : Ctx) (args : List Nat) : Prop where
  core : s.args = [x.c]
  head : ∃ e r, (s.core x.c).matrixQ = e :: r ∧ e.started = true ∧ e.slot = x.sl
  op : s.opCtx? x.c x.sl = some (x, args)
  sound : x.accBad (x.operands args) = none ∧ x.fetchBad (x.operands args) = none
  fits : x.loadBad args = none

/-- The instruction in the engine completes: its core changes by f, its thread goes on, the engine goes to the next one, and the words
written anew have no error any more. -/
def Completes (s : State) (x : Ctx) (th : Thread) (bad : List (Nat × Nat × Nat)) (f : Core → Core) : Prop :=
  let u := { onCore s x.c (fun k => { f k with matrixQ := k.matrixQ.drop 1 }) with bad := bad }
  ∃ t, exec .matrixComplete s = .next t ∧ t.thread? x.c x.sl = some (th.retire (x.th.pc + 4)) ∧
    ThreadsOnly u t (fun c sl => c = x.c ∧ sl = x.sl) ∧ t = { u with cores := t.cores, pending := t.pending }

/-- The words of a core's accumulator store that are not in some tiles, of those with an error. -/
def outsideTiles (s : State) (x : Ctx) (tiles : List Nat) : List (Nat × Nat × Nat) :=
  s.bad.filter (fun q => !(decide (q.1 = 5) && decide (q.2.1 = x.c) && decide (tileOf q.2.2 ∈ tiles)))

end Sys2Proof.Claims

/-- R120, R123, R352 to R360: the matrix instructions at issue, and MATRIX_START. -/
def Obligations.MatrixIssues : Prop :=
  MmaIssues .mma false ∧ MmaIssues .mmas true ∧
  (∀ s x tile, Issues s (.mzero tile) x → Clear x [] [.tile tile] → Enters s x (.mzero tile) []) ∧
  (∀ s x a tile d, Issues s (.maccrd a tile) x → Dest x a isAny d →
    (tileName d = true → Clear x [.tile tile] [] → Enters s x (.maccrd a tile) []) ∧
    (tileName d = false → exec (.maccrd a tile) s = .next (trapped s x KIND a))) ∧
  (∀ s x a tile d, Issues s (.maccwr a tile) x → Operand x a isAny d →
    (tileName d = true → Clear x [] [.tile tile] → Enters s x (.maccwr a tile) (val x a)) ∧
    (tileName d = false → exec (.maccwr a tile) s = .next (trapped s x KIND a))) ∧
  (∀ s x a tile src d, Issues s (.scacc a tile src) x → Operand x a isAny d → d.lanes = 16 → (d.kind = .f32 ∨ d.kind = .f64) →
    let f := if d.kind = .f32 then fmtF32 else fmtF64
    (∀ j, j < 16 → (∀ i, i < j → badScale f ((val x a).getD i 0) = false) → badScale f ((val x a).getD j 0) = true →
      exec (.scacc a tile src) s = .next (trapped s x SCALE j)) ∧
    ((∀ j, j < 16 → badScale f ((val x a).getD j 0) = false) → Clear x (if src = tile then [] else [.tile src]) [.tile tile] →
      Enters s x (.scacc a tile src) ((if d.kind = .f32 then 1 else 0) :: val x a))) ∧
  LoadIssues .mldb 32768 ∧ LoadIssues .mldm 4096 ∧
  (∀ s c e r x args, s.args = [c] → (s.core c).matrixQ = e :: r → e.started = false → s.opCtx? c e.slot = some (x, args) →
    x.loadBad args = none → exec .matrixStart s =
      .next (due (onCore s c (fun k => { k with matrixQ := { e with started := true } :: r })) .matrixComplete [c]))

/-- R124 to R131, R353 to R361: what each matrix instruction writes as it completes, and what a soft error makes of it. -/
def Obligations.MatrixCompletes : Prop :=
  (∀ s x args m, Engaged s x args → ((∃ a b t z, x.i = .mma a b t z) ∨ ∃ a b t z, x.i = .mmas a b t z) → x.mma? args = some m →
    Completes s x x.th (outsideTiles s x m.tiles) (fun k => k.writeMma m (m.outputs x k))) ∧
  (∀ s x args tile, Engaged s x args → x.i = .mzero tile →
    Completes s x x.th (outsideTiles s x [tile]) (fun k => ((k.setTile tile (List.replicate 64 0)).setDirty tile false).setSat tile false)) ∧
  (∀ s x args a tile, Engaged s x args → x.i = .maccrd a tile →
    Completes s x ((x.th.setLanes a (x.k.tile tile)).replied (if tile ∈ x.k.sat then 1 else 0) 0) s.bad id) ∧
  (∀ s x args a tile, Engaged s x args → x.i = .maccwr a tile →
    Completes s x x.th (outsideTiles s x [tile]) (fun k => ((k.setTile tile args).setDirty tile true).setSat tile false)) ∧
  (∀ s x single scales a dst src, Engaged s x (single :: scales) → x.i = .scacc a dst src →
    Completes s x x.th s.bad (fun k => (k.setTile dst (scaccTile k dst src (single == 1) scales)).setDirty dst true)) ∧
  (∀ s x p n a b slot, Engaged s x [p, n] → x.i = .mldb a b slot →
    Completes s x x.th (s.bad.filter (fun q => !(decide (q.1 = 3) && decide (q.2.1 = x.c) && decide (q.2.2 / 512 = slot)))) (fun k =>
      { k with wbuf := put k.wbuf slot { image := x.locBytes p n, inUse := true, adr := x.runBase + p, len := n } })) ∧
  (∀ s x p n a b slot, Engaged s x [p, n] → x.i = .mldm a b slot →
    let first := slot % 4 * 64
    Completes s x x.th (s.bad.filter (fun q => !(decide (q.1 = 4) && decide (q.2.1 = x.c) && (decide (first ≤ q.2.2) &&
        decide (q.2.2 < first + (x.locBytes p n).length / 64))))) (fun k => { k with
      side := ((upFrom 0 (x.locBytes p n).length).zip (x.locBytes p n)).foldl (fun m q => Mem.set m (first * 64 + q.1) q.2) k.side
      sideSrc := k.sideSrc.filter (fun r => decide (r.1 ≠ first)) ++ [(first, x.runBase + p, n)] })) ∧
  (∀ s c e r x args v, s.args = [c] → (s.core c).matrixQ = e :: r → e.started = true → s.opCtx? c e.slot = some (x, args) →
    x.accBad (x.operands args) = none → x.fetchBad (x.operands args) = some v → e.retried = false →
    exec .matrixComplete s = .next (due s .matrixSoftErrorRetry [c])) ∧
  (∀ s c e r x args, s.args = [c] → (s.core c).matrixQ = e :: r → e.started = true → e.retried = false →
    s.opCtx? c e.slot = some (x, args) →
    ∃ t, exec .matrixSoftErrorRetry s = .next t ∧ (t.core c).matrixQ = { e with retried := true } :: r ∧
      ⟨.matrixComplete, [c]⟩ ∈ t.pending ∧ (∀ c sl, t.thread? c sl = s.thread? c sl) ∧ (∀ c, (t.core c).acc = (s.core c).acc) ∧
      t.mem = s.mem ∧ t.loc = s.loc)

/-- R129, R130, R357: where the elements of a tile stand, and that a write of tiles changes their elements and no other element. -/
def Sys2Proof.Claims.AccumulatorElementsHold : Prop :=
  (∀ (k : Core) tile vs row col, vs.length = 64 → col < 64 → (k.setTile tile vs).accAt row col =
    if row / 8 = tile / 8 ∧ col / 8 = tile % 8 then vs.getD (row % 8 * 8 + col % 8) 0 else k.accAt row col) ∧
  (∀ (k : Core) (x : Ctx) (m : Mma) row col, m.col0 + m.cols ≤ 64 → col < 64 → (k.writeMma m (m.outputs x k)).accAt row col =
    if m.row0 ≤ row ∧ row < m.row0 + m.rows ∧ m.col0 ≤ col ∧ col < m.col0 + m.cols
    then (m.element x k (row - m.row0) (col - m.col0)).1 else k.accAt row col) ∧
  (∀ (k : Core) (x : Ctx) (m : Mma) n, n ∈ (k.writeMma m (m.outputs x k)).dirty ↔ n ∈ m.tiles ∨ n ∈ k.dirty) ∧
  (∀ (k : Core) tile on n, (n ∈ (k.setSat tile on).sat ↔ (on = true ∧ n = tile) ∨ (n ≠ tile ∧ n ∈ k.sat)))

/-- R121, R128, R129, R160 to R163: an integer element is the exact sum of products over the K extent, added to the old element unless
zi is set, and held at the ends of the 64-bit range; a float element is rounded once, and added once; a sum of finite products is exact
outside the window, and inside it H with a half unit of the sign of the rest. -/
def Sys2Proof.Claims.MatrixSumsHold : Prop :=
  (∀ (m : Mma) (x : Ctx) (k : Core) r n, m.pair = 0 →
    let ps := m.places k (m.slotOf r) n
    let v := (∑ i ∈ Finset.range ps.length, extInt .sgn 8 (m.rowBits x r (ps.getD i 0)) *
      extInt .sgn 8 (m.colBits (k.wslot (m.slotOf r)) n i)) + (if m.zi then 0 else extInt .sgn 64 (k.accAt (m.row0 + r) (m.col0 + n)))
    (-2 ^ 63 ≤ v → v < 2 ^ 63 → m.element x k r n = (bitsOf 64 v, false)) ∧
    (v < -2 ^ 63 → m.element x k r n = (2 ^ 63, true)) ∧ (2 ^ 63 ≤ v → m.element x k r n = (2 ^ 63 - 1, true))) ∧
  (∀ (m : Mma) (x : Ctx) (k : Core) r n, 2 ≤ m.pair →
    let sum := rne64 (blockSum (decide (6 ≤ m.pair)) (m.products x k r n))
    m.element x k r n = (bits64 (if m.zi then sum else FVal.add false (fmtF64.value (k.accAt (m.row0 + r) (m.col0 + n))) sum), false)) ∧
  (∀ w ps, ((∃ p ∈ ps, p = .nan) ∨ (.inf true ∈ ps ∧ .inf false ∈ ps)) → blockSum w ps = .nan) ∧
  (∀ w ps b, FVal.nan ∉ ps → .inf b ∈ ps → FVal.inf (!b) ∉ ps → blockSum w ps = .inf b) ∧
  (∀ ps, (∀ p ∈ ps, IsFin p) → IsFin (blockSum false ps) ∧ ratOf (blockSum false ps) = (ps.map ratOf).sum) ∧
  (∀ ps, ps ≠ [] → (∀ p ∈ ps, IsFin p ∧ p.isZero = false) → ∀ q : Int,
    q = (ps.foldl (fun m p => max m p.exponent) (ps.headD .nan).exponent) - 149 →
    ∃ (hs : List Int) (ls : List ℚ), hs.length = ps.length ∧ ls.length = ps.length ∧
      (∀ i, i < ps.length → ratOf (ps.getD i .nan) = (hs.getD i 0 : ℚ) * 2 ^ q + ls.getD i 0 ∧ |ls.getD i 0| < 2 ^ q ∧
        0 ≤ ls.getD i 0 * ratOf (ps.getD i .nan) ∧ |(hs.getD i 0 : ℚ)| * 2 ^ q ≤ |ratOf (ps.getD i .nan)|) ∧
      ratOf (blockSum true ps) = (hs.sum : ℚ) * 2 ^ q + (if 0 < ls.sum then 2 ^ (q - 1) else if ls.sum < 0 then -2 ^ (q - 1) else 0))

/-- R129, R130, R357: where the elements of a tile stand, and that a write of tiles changes their elements and no other
element. R121, R128, R129, R160 to R163: an integer element is the exact sum of products over the K extent, added to the old
element unless zi is set, and held at the ends of the 64-bit range; a float element is rounded once, and added once; a sum of
finite products is exact outside the window, and inside it H with a half unit of the sign of the rest. -/
def Obligations.MatrixSums : Prop :=
  Claims.AccumulatorElementsHold ∧ Claims.MatrixSumsHold

namespace Sys2Proof.Claims

open Sys2Proof.Machine

/-! ### The courier -/

/-- A card buffer that can be read (R365 steps 1 to 3). -/
structure CardBuffer (x : Ctx) (a p : Nat) : Prop where
  adr : ∃ da, Operand x a isInt da ∧ p = (val x a).headD 0
  aligned : p % 64 = 0
  run : x.inRun p 64 = true
  clear : x.runRace p 64 false false = .ok ()
  sound : x.localBad (x.runBase + p) 64 = none

/-- The ranges of a card, its ring block and its completion word are its task's, and race with nothing (R365 steps 5 and 6). -/
structure CardRanges (x : Ctx) (c : Card) : Prop where
  ranges : ∀ r ∈ c.ranges (x.ringOf c), ∃ u, x.cardRun r = .ok u
  ring : c.kind = 3 → x.inRun c.dst 64 = true
  word : x.inRun c.cw 8 = true
  clear : ∀ r ∈ c.ranges (x.ringOf c), x.cardRace r = .ok ()
  free : x.runRace c.cw 8 true true = .ok ()

/-- A card-issuing instruction: the lowest field or relation that fails, else the card is offered to the port once the thread's stores
are performed (R365). -/
def CardIssues (mk : Nat → Instr) (kind : Nat) : Prop :=
  ∀ s x a p, Issues s (mk a) x → CardBuffer x a p →
    let w := x.locNum p 64
    let c := Card.ofNat kind w
    (∀ off r, c.fieldFails w = off :: r → exec (mk a) s = .next (trapped s x KIND (0x200 + off))) ∧
    (∀ v, c.fieldFails w = [] → kind = 3 → x.inRun c.dst 64 = true → x.localBad (x.runBase + c.dst) 8 = some v →
      exec (mk a) s = .next (trapped s x ECCU v)) ∧
    (∀ off r, c.fieldFails w = [] → x.ringEcc c = .ok () → c.relationFails (x.ringOf c) = off :: r →
      exec (mk a) s = .next (trapped s x KIND (0x200 + off))) ∧
    (c.fieldFails w = [] → x.ringEcc c = .ok () → c.relationFails (x.ringOf c) = [] → CardRanges x c →
      (x.drained = false → exec (mk a) s = .next (withThread s x.c x.sl (x.th.wait (mk a) x.hint .inFlight []))) ∧
      (x.drained = true → ∃ t, exec (mk a) s = .next t ∧
        ReadsOnly (due s .cardAccept [x.c, x.sl]) t x.c x.sl (x.th.wait (mk a) x.hint .inFlight [w])))

/-- A card that a thread offers to its port. -/
structure Offers (s : State) (x : Ctx) (kind w : Nat) : Prop where
  args : s.args = [x.c, x.sl]
  op : s.opCtx? x.c x.sl = some (x, [w])
  kind : cardKind x.i = some kind

/-- Where the local run of a job's task begins. -/
def baseOf (s : State) (j : Job) : Nat := match s.task? j.task with | some x => x.localBase | none => 0

/-- A copy job in progress whose every block can be read and written, and that overlaps neither itself nor its completion word. -/
structure CopyJob (s : State) (n : Nat) (j : Job) (src dst : Run) : Prop where
  args : s.args = [n]
  job : look s.jobs n = some j
  runs : j.state = 2 ∧ j.kind = 0 ∧ j.cancel = false
  ranges : j.reads = [src] ∧ j.writes = [dst]
  goes : s.jobHalted j = false ∧ s.jobCutOff j = false ∧ Quiet s (s.jobPart j) ∧ Quiet s (s.partOfCore j.core)
  blocks : ∀ off len, 0 < len → off + len ≤ j.len → s.blockFail j src dst off len = none
  apart : src.virt ≠ dst.virt ∨ src.phys + j.len ≤ dst.phys ∨ dst.phys + j.len ≤ src.phys
  word : dst.virt = true ∨ baseOf s j + j.cw + 8 ≤ dst.phys ∨ dst.phys + j.len ≤ baseOf s j + j.cw
  stores : s.mem.wf ∧ s.loc.wf ∧ j.core < 512 ∧ baseOf s j + j.cw + 8 ≤ 2097152
  place : if dst.virt then ∀ k, k < j.len → backed (dst.phys + k) = true else dst.phys + j.len ≤ 2097152

/-- A job in progress that goes on to its end: nothing stops it, nothing of it is recorded, and its word lies in its local store. -/
structure Finishing (s : State) (n : Nat) (j : Job) : Prop where
  args : s.args = [n]
  job : look s.jobs n = some j
  runs : j.state = 2 ∧ j.cancel = false
  goes : s.jobHalted j = false ∧ s.jobCutOff j = false ∧ Quiet s (s.jobPart j) ∧ Quiet s (s.partOfCore j.core)
  stores : s.mem.wf ∧ s.loc.wf ∧ j.core < 512 ∧ baseOf s j + j.cw + 8 ≤ 2097152

/-- A run lies in backed memory or in the local store, and holds no byte of the job's completion word. -/
structure Holds (s : State) (j : Job) (r : Run) (len : Nat) : Prop where
  place : if r.virt then ∀ k, k < len → backed (r.phys + k) = true else r.phys + len ≤ 2097152
  word : r.virt = true ∨ baseOf s j + j.cw + 8 ≤ r.phys ∨ r.phys + len ≤ baseOf s j + j.cw

/-- Two runs share no byte. -/
def Apart (a : Run) (la : Nat) (b : Run) (lb : Nat) : Prop := a.virt ≠ b.virt ∨ a.phys + la ≤ b.phys ∨ b.phys + lb ≤ a.phys

/-- A quantising job whose every block can be read and written, with its destination and its scale vector. -/
structure QuantJob (s : State) (n : Nat) (j : Job) (dst scales : Run) : Prop extends Finishing s n j where
  kind : j.kind = 1
  writes : j.writes = [dst, scales]
  shape : j.card.row ≠ 0 ∧ j.card.row % 64 = 0 ∧ (j.card.planar = true → j.card.row ≤ 512)
  sound : ∀ i, i < j.unitCount → s.quantFail j j.card i = none
  holds : Holds s j dst (j.card.rows * if j.card.planar then 512 else j.card.row) ∧ Holds s j scales (4 * j.unitCount)
  apart : Apart dst (j.card.rows * if j.card.planar then 512 else j.card.row) scales (4 * j.unitCount)

/-- Block i of the tile holds finite values only. -/
def FiniteBlock (s : State) (j : Job) (i : Nat) : Prop := ∀ v ∈ s.tile j j.card i, ∃ a b c, v = .num a b c

/-- Block i of the tile, as the job leaves it in t: its values in the card's layout and its scale, rounded as R138 has it. -/
def BlockWritten (s t : State) (j : Job) (dst scales : Run) (i : Nat) : Prop :=
  let b := blockScale j.card.planes (s.tile j j.card i)
  let ws := if b.2.1 then List.replicate 64 0 else blockValues j.card.planes b.1 (s.tile j j.card i)
  (∀ k, k < (j.card.pieces i).length → t.runBytes j dst ((j.card.pieces i).getD k 0) ((j.card.pieceBytes ws).getD k []).length =
    (j.card.pieceBytes ws).getD k []) ∧ t.runBytes j scales (4 * i) 4 = leBytes b.1 4

/-- Block i is left as it was, values and scale. -/
def BlockLeft (s t : State) (j : Job) (dst scales : Run) (i : Nat) : Prop :=
  (∀ k, k < (j.card.pieces i).length → t.runBytes j dst ((j.card.pieces i).getD k 0) (if j.card.planar then 8 else 64) =
    s.runBytes j dst ((j.card.pieces i).getD k 0) (if j.card.planar then 8 else 64)) ∧
    t.runBytes j scales (4 * i) 4 = s.runBytes j scales (4 * i) 4

/-- A compressing job whose every block can be read, from a source apart from its buffer, and whose whole buffer can be written. -/
structure PackJob (s : State) (n : Nat) (j : Job) (src dst : Run) : Prop extends Finishing s n j where
  kind : j.kind = 2
  ranges : j.reads = [src] ∧ j.writes = [dst]
  size : 0 < j.len ∧ codedRange j.len ≤ 2 ^ 32
  reads : ∀ off len, 0 < len → off + len ≤ j.len → s.compAt j src off len = false ∧ s.readFail j src off len = none
  coded : ∀ off len, 0 < len → off + len ≤ codedRange j.len → s.compAll j dst off len = true ∧ s.writeFail j dst off len = none
  holds : Holds s j dst (codedRange j.len)
  apart : Apart src j.len dst (codedRange j.len)

/-- Chunk i of a buffer of a job in t holds what the source held in s: raw, or in the LZ4 block format (R140). -/
def ChunkCoded (s t : State) (j : Job) (src dst : Run) (i : Nat) : Prop :=
  let e := leNat (t.runBytes j dst (64 + 8 * i) 8)
  let stored := t.runBytes j dst (e % 2 ^ 32) (bits e 45 32)
  let data := s.runBytes j src (8192 * i) (min 8192 (j.len - 8192 * i))
  e % 2 ^ 32 % 64 = 0 ∧ bits e 62 46 = 0 ∧ (if bit e 63 then stored = data else lz4Decode stored = some data ∧ stored.length ≤ 8192)

/-- An expansion job in progress whose ring block and buffer header are sound. -/
structure Expands (s : State) (n : Nat) (j : Job) : Prop where
  args : s.args = [n]
  job : look s.jobs n = some j
  runs : j.state = 2 ∧ j.kind = 3 ∧ j.cancel = false ∧ j.failed = none
  goes : s.jobHalted j = false ∧ s.jobCutOff j = false ∧ Quiet s (s.jobPart j) ∧ Quiet s (s.partOfCore j.core)
  ring : s.ringNum j 4 1 ≠ 0 ∧ s.ringNum j 4 1 ≤ 64 ∧ s.ringNum j 5 3 = 0 ∧ s.ringNum j 28 36 = 0 ∧ s.ringNum j 0 4 % 64 = 0
  chunks : j.firstChunk ≤ s.bufferChunks j
  sound : ∀ b ∈ s.bad, ¬(b.1 = 2 ∧ b.2.1 = j.core ∧ s.ringBlock j / 8 ≤ b.2.2 ∧ b.2.2 < s.ringBlock j / 8 + 8)
  place : s.loc.wf ∧ j.core < 512 ∧ s.ringBlock j + 64 ≤ 2097152

end Sys2Proof.Claims

/-- R133, R135, R362 to R365: the courier's instructions at issue, and acceptance at the port: the job with its tag, its write ranges
tagged, the reply and the next tag; a full port makes the thread wait. -/
def Obligations.CourierCards : Prop :=
  CardIssues .cpy 0 ∧ CardIssues .qcpy 1 ∧ CardIssues .zcpy 2 ∧ CardIssues .xcpy 3 ∧
  (∀ s x kind w, Offers s x kind w → x.k.portQ.length < 8 → (∀ n p, x.part = some n → s.part? n = some p → p.halted = false) →
    let c := Card.ofNat kind w
    let n := s.jobCount + 1
    (∀ r ∈ c.ranges (x.ringOf c), ∃ u, x.cardRun r = .ok u) →
    ∃ t j, exec .cardAccept s = .next t ∧ look t.jobs n = some j ∧ j.state = 1 ∧ j.cancel = false ∧ j.tag = x.k.nextTag ∧
      (j.core, j.slot, j.task) = (x.c, x.sl, x.th.task) ∧ (j.kind, j.src, j.dst, j.len, j.cw, j.cval) = (kind, c.src, c.dst, c.len, c.cw, c.cval) ∧
      t.thread? x.c x.sl = some ((x.th.released.replied 0 x.k.nextTag).retire (x.th.pc + 4)) ∧
      (∀ c sl, ¬(c = x.c ∧ sl = x.sl) → SameOrAgain s t c sl) ∧ (t.core x.c).portQ = x.k.portQ ++ [n] ∧
      (t.core x.c).nextTag = (if x.k.nextTag = 0xFFFF then 1 else x.k.nextTag + 1) ∧
      (kind ≠ 3 → ∀ r u g, r ∈ c.ranges (x.ringOf c) → r.write = true → r.virt = false → x.cardRun r = .ok u → g ∈ granules u.phys u.len →
        ∃ y ∈ (t.core x.c).tags, y.job = n ∧ y.write = true ∧ y.first ≤ g ∧ g < y.first + y.count) ∧
      ⟨.courierJobStart, [clusterOf x.c]⟩ ∈ t.pending ∧ t.mem = s.mem ∧ t.loc = s.loc) ∧
  (∀ s x kind w, Offers s x kind w → 8 ≤ x.k.portQ.length → Answered s .cardAccept x.c x.sl x.th)

/-- R133, R136, R145, R367 and R368: a free channel takes the first eligible card of its cluster; a copy moves its bytes, writes its
completion word and no other byte; R138, R139: a quantising copy writes the values and the scale of every block of finite values, leaves
the others and ends with code 5 for the lowest of them; R140: a compressed buffer has its header, its directory, and chunks that decode to
the source; a cancelled job ends with code 7; the status word, and cancelling. That a job moves all its bytes in the step that completes
it is log 42 (DESIGN CHOICE). -/
def Sys2Proof.Claims.CourierJobsHold : Prop :=
  (∀ s cl, s.args = [cl] → (4 ≤ s.running cl ∨ s.jobs.find? (fun j => decide (clusterOf j.2.core = cl) && s.eligible j.1 j.2) = none) →
    exec .courierJobStart s = .next s) ∧
  (∀ s cl n j, s.args = [cl] → s.running cl < 4 → (∀ q ∈ s.jobs, Quiet s (s.jobPart q.2)) →
    s.jobs.find? (fun j => decide (clusterOf j.2.core = cl) && s.eligible j.1 j.2) = some (n, j) →
    ∃ t q, exec .courierJobStart s = .next t ∧ look t.jobs n = some q ∧ q.state = 2 ∧ ⟨jobStep j, [n]⟩ ∈ t.pending ∧
      n ∉ (t.core j.core).portQ ∧ (∀ c sl, t.thread? c sl = s.thread? c sl) ∧ t.mem = s.mem ∧ t.loc = s.loc) ∧
  (∀ s n j src dst, CopyJob s n j src dst →
    ∃ t q, exec .courierJobComplete s = .next t ∧ look t.jobs n = some q ∧ q.state = 3 ∧ q.code = 0 ∧
      t.runBytes j dst 0 j.len = s.runBytes j src 0 j.len ∧ t.loc.bytes (locKey j.core (baseOf s j + j.cw)) 8 = leBytes j.cval 8 ∧
      (∀ y ∈ (t.core j.core).tags, y.job ≠ n) ∧
      (∀ k, (dst.virt = false ∨ k < dst.phys ∨ dst.phys + j.len ≤ k) → t.mem.get k = s.mem.get k) ∧
      (∀ k, (k < locKey j.core (baseOf s j + j.cw) ∨ locKey j.core (baseOf s j + j.cw) + 8 ≤ k) →
        (dst.virt = true ∨ k < locKey j.core dst.phys ∨ locKey j.core dst.phys + j.len ≤ k) → t.loc.get k = s.loc.get k)) ∧
  (∀ s n j dst scales, QuantJob s n j dst scales →
    ∃ t q, exec .courierJobComplete s = .next t ∧ look t.jobs n = some q ∧ q.state = 3 ∧
      (∀ i, i < j.unitCount → (FiniteBlock s j i → BlockWritten s t j dst scales i) ∧ (¬FiniteBlock s j i → BlockLeft s t j dst scales i)) ∧
      ((∀ i, i < j.unitCount → FiniteBlock s j i) → q.code = 0 ∧
        t.loc.bytes (locKey j.core (baseOf s j + j.cw)) 8 = leBytes j.cval 8) ∧
      (∀ i, i < j.unitCount → ¬FiniteBlock s j i → (∀ k, k < i → FiniteBlock s j k) → q.code = 5 ∧
        t.loc.bytes (locKey j.core (baseOf s j + j.cw)) 8 = leBytes (2 ^ 63 + 5 * 2 ^ 56 + i % 2 ^ 48) 8)) ∧
  (∀ s n j src dst, PackJob s n j src dst →
    let chunks := (j.len + 8191) / 8192
    ∃ t q, exec .courierJobComplete s = .next t ∧ look t.jobs n = some q ∧ q.state = 3 ∧ q.code = 0 ∧
      t.runBytes j dst 0 64 = leBytes j.len 8 ++ leBytes chunks 4 ++ List.replicate 52 0 ∧
      (∀ i, i < chunks → ChunkCoded s t j src dst i) ∧
      t.loc.bytes (locKey j.core (baseOf s j + j.cw)) 8 = leBytes j.cval 8) ∧
  (∀ s n j, s.args.headD 0 = n → look s.jobs n = some j → j.state = 2 → j.kind ≠ 3 → j.cancel = true → s.jobHalted j = false →
    s.jobCutOff j = false → Quiet s (s.jobPart j) → Quiet s (s.partOfCore j.core) →
    ∃ t q, exec .courierJobComplete s = .next t ∧ look t.jobs n = some q ∧ q.state = 3 ∧ q.code = 7) ∧
  (∀ s n j, s.args = [n] → look s.jobs n = some j → j.state = 1 → j.cancel = true → s.jobHalted j = false → Quiet s (s.jobPart j) →
    Quiet s (s.partOfCore j.core) → s.loc.wf → j.core < 512 → baseOf s j + j.cw + 8 ≤ 2097152 →
    ∃ t q, exec .courierJobComplete s = .next t ∧ look t.jobs n = some q ∧ q.state = 3 ∧ q.code = 7 ∧
      t.loc.bytes (locKey j.core (baseOf s j + j.cw)) 8 = leBytes (2 ^ 63 + 7 * 2 ^ 56) 8 ∧ t.mem = s.mem) ∧
  (∀ s x d a da dd v, Issues s (.jstat d a) x → Operand x a isInt da → Dest x d isInt dd →
    let tag := (val x a).headD 0 % 65536
    fitInt dd (tag * 2 ^ 48 + (match x.jobOf ((val x a).headD 0) with
      | some (_, j) => j.state * 2 ^ 40 + (if j.state = 3 then j.code * 2 ^ 32 else 0) + bitAt j.rawc 2 + bitAt j.tiny 1 + bitAt j.zblk 0
      | none => 0) : Nat) = some v →
    exec (.jstat d a) s = .next (retired s x (x.th.setLane0 x.k.vt d v))) ∧
  (∀ s x a da, Issues s (.jcancel a) x → Operand x a isInt da →
    (x.jobOf ((val x a).headD 0) = none → exec (.jcancel a) s = .next (retired s x (x.th.replied 1 0))) ∧
    (∀ n j, x.jobOf ((val x a).headD 0) = some (n, j) → j.state = 3 → exec (.jcancel a) s = .next (retired s x (x.th.replied 1 0))) ∧
    (∀ n j, x.jobOf ((val x a).headD 0) = some (n, j) → j.state ≠ 3 → exec (.jcancel a) s =
      .next (dueOnce { retired s x (x.th.replied 0 0) with jobs := put s.jobs n { j with cancel := true } }
        (if j.state = 1 then .courierJobComplete else jobStep j) [n])))

/-- What an expansion does next where it has no bits to set (R142): it may take a further permit. -/
def Sys2Proof.Claims.MayTake (s : State) (j : Job) : Prop :=
  j.taken < s.wanted j ∧ j.taken - j.delivered < s.ringNum j 4 1 ∧ j.lanes.length < 4 ∧ 0 < s.ringNum j 8 8

/-- R140 to R143: an expansion waits for a permit, takes it, takes a slot for the chunk, writes a chunk into its slot as its lane
finishes, sets the valid bits of all chunks that are intact in order at once, marks a chunk that fails, and completes when it has
delivered what its card asks for; and a chunk that is compressed expands to itself. Which of several lanes finishes next, and that the
acts come in this order, is log 42 (DESIGN CHOICE). -/
def Sys2Proof.Claims.ExpansionHold : Prop :=
  (∀ data, lz4Decode (lz4Encode data) = some data) ∧
  (∀ s n j, Expands s n j → j.intact = 0 → j.given = j.taken →
    (j.delivered ≠ s.wanted j → j.lanes = [] → ¬Claims.MayTake s j → exec .xcpyChunkDeliver s = .next s) ∧
    (Claims.MayTake s j → ∃ t q, exec .xcpyChunkDeliver s = .next t ∧ t.ringNum j 8 8 = s.ringNum j 8 8 - 1 ∧
      look t.jobs n = some q ∧ q.taken = j.taken + 1 ∧ q.given = j.given ∧ q.delivered = j.delivered ∧ q.state = 2 ∧
      ⟨.xcpyChunkDeliver, [n]⟩ ∈ t.pending ∧ t.mem = s.mem ∧
      (∀ k, (k < locKey j.core (s.ringBlock j + 8) ∨ locKey j.core (s.ringBlock j + 8) + 8 ≤ k) → t.loc.get k = s.loc.get k))) ∧
  (∀ s n j, Expands s n j → j.intact = 0 → j.given < j.taken →
    let slot := s.ringNum j 24 4 % s.ringNum j 4 1
    ∃ t q, exec .xcpyChunkDeliver s = .next t ∧ t.ringNum j 24 4 = (if s.ringNum j 4 1 ≤ slot + 1 then 0 else slot + 1) ∧
      look t.jobs n = some q ∧ q.given = j.given + 1 ∧ q.firstSlot = (if j.given = 0 then slot else j.firstSlot) ∧
      ⟨.xcpyChunkDeliver, [n]⟩ ∈ t.pending ∧ t.mem = s.mem) ∧
  (∀ s n j k, Expands s n j → j.intact = 0 → j.given = j.taken → ¬Claims.MayTake s j → s.nextLane n j = some k →
    let slot := j.slotOf (s.ringNum j 4 1) k
    let place := locKey j.core (j.dst!.phys + 8192 * slot)
    (∀ d, s.expand j (j.firstChunk + k) = .ok d → j.dst!.virt = false → j.dst!.phys + 8192 * slot + 8192 ≤ 2097152 →
      ∃ t q, exec .xcpyChunkDeliver s = .next t ∧ t.loc.bytes place d.length = d ∧
        (∀ a, (a < place ∨ place + d.length ≤ a) → t.loc.get a = s.loc.get a) ∧ look t.jobs n = some q ∧
        q.written = j.written ++ [k] ∧ q.delivered = j.delivered ∧ ⟨.xcpyChunkDeliver, [n]⟩ ∈ t.pending ∧ t.mem = s.mem) ∧
    (∀ code, s.expand j (j.firstChunk + k) = .error code →
      exec .xcpyChunkDeliver s = .next (due { s with jobs := put s.jobs n { j with
        written := j.written ++ [k], failed := some (j.firstChunk + k, code) } } .xcpyChunkDeliver [n]))) ∧
  (∀ s n j, Expands s n j → 0 < j.intact →
    let slots := (upFrom j.delivered j.intact).map (j.slotOf (s.ringNum j 4 1))
    ∃ t q, exec .xcpyChunkDeliver s = .next t ∧
      t.ringNum j 16 8 = Nat.lor (s.ringNum j 16 8) (slots.foldl (fun v k => Nat.lor v (2 ^ k)) 0) ∧ look t.jobs n = some q ∧
      q.delivered = j.delivered + j.intact ∧ ⟨.xcpyChunkDeliver, [n]⟩ ∈ t.pending ∧ t.mem = s.mem) ∧
  (∀ s n j, Expands s n j → j.delivered = s.wanted j → j.given = j.delivered → j.taken = j.delivered → baseOf s j + j.cw + 8 ≤ 2097152 →
    ∃ t q, exec .xcpyChunkDeliver s = .next t ∧ look t.jobs n = some q ∧ q.state = 3 ∧ q.code = 0 ∧
      t.loc.bytes (locKey j.core (baseOf s j + j.cw)) 8 = leBytes j.cval 8 ∧ t.mem = s.mem)

/-- R133, R136 to R140, R145, R367 and R368: jobs, from a free channel to their completion words; R140 to R143: expansions, act by act. That a
job that is no expansion moves its bytes in the step that completes it, and in which order the acts of an expansion come, is log 42
(DESIGN CHOICE). -/
def Obligations.CourierJobs : Prop :=
  Claims.CourierJobsHold ∧ Claims.ExpansionHold

namespace Sys2Proof.Claims

open Sys2Proof.Machine

/-! ### The host and the package -/

def onHost (s : State) (f : HostSt → HostSt) : State := { s with host := f s.host }

/-- A request that is rejected: die 0's reject count rises, and stays at its highest value (R32, R49). -/
def rejected (s : State) (d : Nat) : State := onDie s d (fun x => { x with rejects := if x.rejects = 0xFFFFFFFF then x.rejects else x.rejects + 1 })

/-- A host function reaches the register page: the link is up, and the page's table grants it wr (R20, R32, R50). -/
structure Reaches (s : State) (fn : Nat) : Prop where
  master : s.args.head? = some fn
  link : s.host.linkUp = true
  granted : s.grants (hostTable s.pkg.num) (fnMaster s.pkg.num fn) none permWr = true

/-- The stewards of a die that wait in `halt` go on at their next word (R382). -/
def woken (s : State) (d : Nat) : State :=
  ((s.cores.filter (fun k => decide (dieOf k.1 = d))).map (·.1)).foldl (fun t c => onThread t c 15 (fun th =>
    if th.inHalt then { th with pc := th.pc + 4, status := .ready, op := none, hint := none } else th)) s

/-- No steward of a die waits in `halt`. -/
def NoHalt (s : State) (d : Nat) : Prop := ∀ c th, dieOf c = d → s.thread? c 15 = some th → th.inHalt = false

/-- Stewards of a die carry out what comes: boot has ended, nothing is frozen, no restart is under way (R45, R56). -/
structure Serves (s : State) (d : Nat) : Prop where
  boot : 3 ≤ s.pkg.stage ∧ s.pkg.bootFailed = false ∧ s.pkg.fatal = false
  free : s.pkg.frozen = false ∧ (s.die d).restart = false
  awake : NoHalt s 0 ∧ NoHalt s d

/-- The steps that a host function's write of the register page is. -/
def pageSteps : List Instr :=
  [.submissionWrite, .queuePreempt, .queueResume, .queueAbort, .queueCommandBadOp, .regionActivate, .regionDeactivate, .regionCommandBadOp,
    .snapshotTrigger, .attestationRequest, .powerLimitWrite, .migrationThresholdWrite, .stewardRestartCommand]

/-- A firing of the trigger network has begun, unless one spreads already (R55). -/
def fired (s : State) : State :=
  if s.pkg.firing = true then s
  else { onPkg s (fun p => { p with firing := true }) with
    pending := s.pending ++ [0, 1, 2, 3].map (fun d => ⟨.snapshotFiringComplete, [d]⟩) }

/-- The head of a die's FIFO is gone, and the next ring is due (R44). -/
def popped (s : State) (d : Nat) : State :=
  let u := onDie s d (fun x => { x with fifo := x.fifo.drop 1 })
  if (s.die d).fifo.length ≤ 1 then u else dueOnce u .submissionHandle [d]

end Sys2Proof.Claims

/-- R20, R32, R33, R43, R49, R55 and R57: the register page. Without a link a write does nothing, without wr it is counted; PF0 alone
sets the power limit, in its range, for the next sample, and the migration threshold; a ring enters its die's FIFO or is counted as
dropped; a trigger fires; an attestation reply; and the host link. A write that the page takes wakes the stewards of die 0 (R382). -/
def Obligations.RegisterPage : Prop :=
  (∀ s i, i ∈ pageSteps → s.host.linkUp = false → exec i s = .next s) ∧
  (∀ s i, i ∈ pageSteps → s.host.linkUp = true → s.grants (hostTable s.pkg.num) (fnMaster s.pkg.num (s.args.headD 0)) none permWr = false →
    exec i s = .next (rejected s 0)) ∧
  (∀ s fn i, fn ≠ 0 → Reaches s fn → i ∈ [.powerLimitWrite, .migrationThresholdWrite, .regionActivate, .regionDeactivate,
    .regionCommandBadOp, .stewardRestartCommand] → exec i s = .next (rejected (woken s 0) 0)) ∧
  (∀ s v, s.args = [0, v] → Reaches s 0 →
    (300 ≤ v % 65536 ∧ v % 65536 ≤ 2200 → exec .powerLimitWrite s =
      .next (onHost (woken s 0) (fun h => { h with powerNext := some (v % 65536) }))) ∧
    (v % 65536 < 300 ∨ 2200 < v % 65536 → exec .powerLimitWrite s = .next (woken s 0)) ∧
    exec .migrationThresholdWrite s = .next (onHost (woken s 0) (fun h => { h with migThreshold := v % 65536 }))) ∧
  (∀ s fn, Reaches s fn → exec .snapshotTrigger s = .next (fired (woken s 0))) ∧
  (∀ s fn nonce, s.args = [fn, nonce] → Reaches s fn → s.pkg.bootFailed = false → ∃ sig, exec .attestationRequest s =
    .next (onHost (woken s 0) (fun h => { h with reply := put h.reply fn (s.pkg.measure ++ [nonce, s.pkg.version, sig]) }))) ∧
  (∀ s fn d v, s.args = [fn, d, v] → d < 4 → v < 2 ^ 64 → Reaches s fn →
    (64 ≤ (s.die d).fifo.length → exec .submissionWrite s =
      .next (onDie (woken s 0) d (fun x => { x with drops := if x.drops = 0xFFFFFFFF then x.drops else x.drops + 1 }))) ∧
    ((s.die d).fifo.length < 64 → exec .submissionWrite s =
      .next (woken (dueOnce (onDie (woken s 0) d (fun x => { x with fifo := x.fifo ++ [(fn, v)] })) .submissionHandle [d]) d))) ∧
  (∀ s, exec .hostLinkDown s = .next (onHost s (fun h => { h with linkUp := false })) ∧
    exec .hostLinkRetrain s = .next (onHost s (fun h => { h with linkUp := true })))

/-- R14, R16, R48 to R50, R235: device memory from the host, access tables and the debug block's registers: what is granted, and what
a denial leaves. -/
def Obligations.HostAccess : Prop :=
  (∀ s fn a len, s.args = [fn, a, len] → s.host.linkUp = true → s.hostMay fn a len permRd = true →
    exec .hostMemoryRead s = .next (onHost s (fun h => { h with
      lastRead := some ((s.mem.bytes a len).map (·.toNat)), lastPoison := (s.memBad a len).isSome }))) ∧
  (∀ s fn a len, s.args = [fn, a, len] → s.host.linkUp = true → s.hostMay fn a len permRd = false → len ≠ 8 →
    exec .hostMemoryRead s = .next (onHost s (fun h => { h with lastRead := none, lastPoison := false }))) ∧
  (∀ s fn a (bs : List Byte), s.args = [fn, a] ++ bs.map (·.toNat) → s.host.linkUp = true → s.mem.wf → s.hostMay fn a bs.length permWr = true →
    (∀ k, k < bs.length → backed (a + k) = true) →
    ∃ t, exec .hostMemoryWrite s = .next t ∧ t.mem.bytes a bs.length = bs ∧
      (∀ k, k < a ∨ a + bs.length ≤ k → t.mem.get k = s.mem.get k) ∧ t.loc = s.loc) ∧
  (∀ s fn a (bs : List Byte), s.args = [fn, a] ++ bs.map (·.toNat) → s.host.linkUp = true → s.hostMay fn a bs.length permWr = false →
    bs.length ≠ 8 → exec .hostMemoryWrite s = .next (rejected s 0)) ∧
  (∀ s m a v base ranged, s.args = [m, a, v] → a % 8 = 0 → s.control a = .table base ranged →
    (s.mayControl m a permCtrl = true → ∃ d, exec .accessTableEdit s = .next { s with
      acl := put s.acl a (if a % 16 = 0 then bitAt (bit v 63) 63 + bits v 55 52 * 2 ^ 52 + v % 2 ^ 16 else v % 2 ^ 32)
      pkg := { s.pkg with measure := setAt s.pkg.measure 3 d } }) ∧
    (s.mayControl m a permCtrl = false → exec .accessTableEdit s = .next (if m / 2 ^ 14 = 1 then rejected s 0 else s))) ∧
  (∀ s m a v d off, s.args = [m, a, v] → a % 8 = 0 → s.control a = .debug d off →
    (s.mayControl m a permCtrl = true → exec .registerWriteOther s = .next (onDie s d (fun x => { x with dbg := x.dbg.write off v }))) ∧
    (s.mayControl m a permCtrl = false → exec .registerWriteOther s = .next (if m / 2 ^ 14 = 1 then rejected s 0 else s))) ∧
  (∀ s m a v off, s.args = [m, a, v] → a % 8 = 0 → v < 2 ^ 64 → s.control a = .page off → s.mayControl m a permWr = true →
    (0x500 ≤ off ∧ off < 0x600 → exec .registerWriteOther s =
      .next (onHost s (fun h => { h with mailbox := put h.mailbox (m % 256 * 256 + (off - 0x500)) v }))) ∧
    (off < 0x500 ∨ 0x600 ≤ off → exec .registerWriteOther s = .next s))

/-- R43 and R44: a die's stewards handle the head of its FIFO: a ring of no queue of theirs is rejected, a ring of nothing new is
dropped, one beyond the ring overruns, and one with a record offers it. -/
def Obligations.Rings : Prop :=
  (∀ s d, s.args = [d] → (s.die d).fifo = [] → exec .submissionHandle s = .next s) ∧
  (∀ s d fn v r, s.args = [d] → Serves s d → (s.die d).fifo = (fn, v) :: r →
    (s.queue? (v % 65536) = none → exec .submissionHandle s = .next (popped (rejected s d) d)) ∧
    (∀ n p i q, s.queue? (v % 65536) = some (n, p, i, q) →
      ((bits v 31 16 ≠ 0 ∨ dieOfCluster n ≠ d ∨ q.state = 4 ∨ q.owner ≠ fn) → exec .submissionHandle s = .next (popped (rejected s d) d)) ∧
      (bits v 31 16 = 0 → dieOfCluster n = d → q.state ≠ 4 → q.owner = fn →
        let k := (v / 2 ^ 32 + 2 ^ 32 - q.taken) % 2 ^ 32
        (k = 0 ∨ 2 ^ 31 ≤ k → exec .submissionHandle s = .next (popped s d)) ∧
        (k ≠ 0 → k < 2 ^ 31 → q.entries < k → s.part? n = some p → look p.queues i = some q →
          ∃ t p' q', exec .submissionHandle s = .next t ∧ t.part? n = some p' ∧ look p'.queues i = some q' ∧
            q' = { q with overrun := true } ∧ (t.die d).fifo = r) ∧
        (k ≠ 0 → k < 2 ^ 31 → k ≤ q.entries → (s.nextLaunch q).seq = (q.taken + 1) % 2 ^ 32 →
          exec .submissionHandle s = .next (dueOnce s .recordAccept [n, i])))))

/-- R36 and R37: a region command answers with the code of its first failing check and does nothing else; one that passes makes the
node active with its effective values, or takes it away; a partition begins with its clusters and its queues, and ends. -/
def Obligations.RegionCommands : Prop :=
  (∀ s v, s.args = [0, v] → Reaches s 0 → Serves s 0 →
    exec .regionCommandBadOp s = .next (onHost s (fun h => { h with regionResult := 2 ^ 63 + 9 }))) ∧
  (∀ s a, s.args = [0, a] → Reaches s 0 → Serves s 0 →
    (s.activateCode a ≠ 0 → exec .regionActivate s = .next (onHost s (fun h => { h with regionResult := 2 ^ 63 + s.activateCode a }))) ∧
    (s.deactivateCode a ≠ 0 → exec .regionDeactivate s = .next (onHost s (fun h => { h with regionResult := 2 ^ 63 + s.deactivateCode a }))) ∧
    (s.activateCode a = 0 →
      let r := s.rcbAt a
      let e := r.effective ((s.parentOf r).getD rootRegion)
      (e.part = false → s.mem.wf → (∀ k, k < 8 → backed (a + 8 + k) = true) → ∃ t, exec .regionActivate s = .next t ∧
        look t.regions a = some e ∧ t.host.regionResult = 2 ^ 63 ∧ bit (t.mem.read (a + 8) 8) 31 = true ∧ t.parts = s.parts ∧
        (∀ k, k < a + 8 ∨ a + 16 ≤ k → t.mem.get k = s.mem.get k)) ∧
      (e.part = true → s.mem.wf → ∃ t p, exec .regionActivate s = .next t ∧ look t.regions a = some e ∧ t.host.regionResult = 2 ^ 63 ∧
        t.part? (e.grant.headD 0) = some p ∧ p.rcb = a ∧ p.clusters = e.grant ∧ p.mode = r.mode ∧ p.fdom = e.fdom ∧ p.prio = e.prio ∧
        p.append = 0 ∧ p.live = [] ∧ p.halted = false ∧ p.queues.map (·.1) = (s.queuesAt r.queues).map (·.1))) ∧
    (s.deactivateCode a = 0 → s.regions.wf → s.parts.wf →
      (∀ p ∈ s.parts, p.2.rcb ≠ a) → ∃ t, exec .regionDeactivate s = .next t ∧ look t.regions a = none ∧ t.host.regionResult = 2 ^ 63 ∧
        t.parts = s.parts) ∧
    (∀ n p, s.deactivateCode a = 0 → s.regions.wf → s.parts.wf → s.parts.find? (fun p => decide (p.2.rcb = a)) = some (n, p) →
      ∃ t, exec .regionDeactivate s = .next t ∧ look t.regions a = none ∧ t.host.regionResult = 2 ^ 63 ∧ t.part? n = none)) ∧
  (∀ (s : State) a n p, look s.regions a ≠ none → s.children a = [] → s.parts.find? (fun p => decide (p.2.rcb = a)) = some (n, p) →
    (s.deactivateCode a = 8 ↔ ∃ q ∈ p.queues, q.2.state ≠ 0 ∧ q.2.state ≠ 3 ∧ q.2.state ≠ 4)) ∧
  (∀ (s : State) a, look s.regions a = none → s.deactivateCode a = 13)

namespace Sys2Proof.Claims

open Sys2Proof.Machine

/-! ### Queue commands, the pre-emption ladder and dumps -/

/-- The result of a function's queue command (R46). -/
def resulted (s : State) (fn code : Nat) : State := onHost s (fun h => { h with queueResult := put h.queueResult fn (2 ^ 63 + code) })

/-- A queue command of a function that reaches queue x, of index i, of partition n. -/
structure Commands (s : State) (fn q n : Nat) (p : Part) (i : Nat) (x : Queue) : Prop where
  args : s.args = [fn, q]
  page : Reaches s fn
  queue : s.queue? q = some (n, p, i, x)
  serves : Serves s (dieOfCluster n)

/-- The three queue commands with their operation codes (R46). -/
def IsCommand (i : Instr) (op : Nat) : Prop := (i = .queuePreempt ∧ op = 1) ∨ (i = .queueResume ∧ op = 2) ∨ (i = .queueAbort ∧ op = 3)

/-- Every queue of a partition that is not in error has a property. -/
def EachQueue (p : Part) (f : Queue → Prop) : Prop := ∀ i q, look p.queues i = some q → q.state ≠ 4 → f q

/-- A partition stands reset at rung 3: its ladder has ended, its queues are stopped, no task, saved context, save area or dump of it is
left, and the accumulators of its cores are zero and clean (R47). -/
def AtRung3 (t : State) (n : Nat) : Prop :=
  ∃ q, t.part? n = some q ∧ q.ladder = .stopped ∧ q.halted = true ∧ q.saved = none ∧ q.shadow = [] ∧ q.dumps = [] ∧
    EachQueue q (fun x => x.state = 3 ∧ x.rung = 3) ∧ (∀ x ∈ t.tasks, x.2.part ≠ n) ∧
    ∀ c ∈ q.cores, (t.core c).acc = [] ∧ (t.core c).dirty = [] ∧ (t.core c).sat = [] ∧ (t.core c).matrixQ = [] ∧ (t.core c).streamQ = []

/-- A partition as a stop finds it: its user threads have settled, and none stands between a hint and the instruction that it binds. -/
structure AtBoundary (s : State) (p : Part) : Prop where
  settled : s.settled p = true
  unhinted : ∀ c ∈ p.cores, ∀ q ∈ (s.core c).threads, q.1 ≠ 15 → q.2.hint = none

/-- A user thread as a resume leaves it: its names are those of the shadow copy k, and one that was Yielding is Ready (R208, R372). -/
def resumedThread (k : Core) (sl : Nat) (th : Thread) : Thread :=
  { th with
    names := (match look k.threads sl with | some x => x.names | none => th.names)
    status := if th.status = .yielding then .ready else th.status }

/-- What a resume restores of a saved partition (R132, R208): of each core the names of its user threads that wait for nothing, the tiles
whose dirty bits are set and no other, and of each task its local store. -/
structure Restores (s t : State) (x : Saved) : Prop where
  threads : ∀ q ∈ x.cores, ∀ sl th, sl ≠ 15 → s.thread? q.1 sl = some th → th.status ∈ [.ready, .yielding, .finished] → th.op = none →
    t.thread? q.1 sl = some (resumedThread q.2 sl th)
  tiles : ∀ q ∈ x.cores, (t.core q.1).acc = q.2.acc.filter (fun a => (s.core q.1).dirty.contains (a.1 / 64 / 8 * 8 + a.1 % 64 / 8)) ∧
    (t.core q.1).dirty = (s.core q.1).dirty
  local_ : ∀ b ∈ x.loc, t.loc.get b.1 = b.2

/-- No event waits for a thread of a partition that would take it at once. -/
def NoEventWaits (s : State) (p : Part) : Prop := ∀ c ∈ p.cores, (s.core c).vtWait = [] ∨ (s.core c).admissible = none

/-- A saved partition that a resume restores whole: its copies stand once each, and none of its cores has an uncorrectable word
of shadow storage. -/
structure Restorable (s : State) (p : Part) (x : Saved) : Prop where
  saved : p.saved = some x
  once : x.cores.wf ∧ x.loc.wf
  ungranted : p.log.granted = []
  good : ∀ b ∈ s.bad, ¬(b.1 = 7 ∧ b.2.1 ∈ p.cores)

/-- A dump that waits: its partition stands still, its die's stewards run, and no other dump of the partition is under way. -/
structure DumpDue (s : State) (n : Nat) (p : Part) (d : Dump) : Prop where
  args : s.args = [n]
  part : s.part? n = some p
  stopped : p.ladder = .dump
  first : p.dumps.find? (fun d => !d.done) = some d
  alone : p.dumps.any Dump.active = false
  still : s.settled p = true
  boot : (s.die (dieOf d.core)).restart = false
  stores : s.mem.wf ∧ ∀ k, k < 2 ^ 23 → backed (p.dumpBase + k) = true

end Sys2Proof.Claims

/-- R46: what a queue command answers, and what it leaves alone when it is refused. -/
def Obligations.QueueCommands : Prop :=
  (∀ s fn v, s.args = [fn, v] → Reaches s fn → Serves s 0 → exec .queueCommandBadOp s = .next (resulted s fn 1)) ∧
  (∀ s fn q i op, IsCommand i op → s.args = [fn, q] → Reaches s fn → Serves s 0 → s.queue? q = none → exec i s = .next (resulted s fn 2)) ∧
  (∀ s fn q n p j x i op, Commands s fn q n p j x → IsCommand i op →
    let foreign := fn ≠ 0 ∧ ∃ y ∈ p.queues, y.2.owner ≠ fn
    let busy := p.ladder ≠ .none ∧ p.ladder ≠ .stopped
    (foreign → exec i s = .next (resulted s fn 5)) ∧ (¬foreign → busy → exec i s = .next (resulted s fn 3)) ∧
    (¬foreign → ¬busy → op = 2 → p.ladder ≠ .stopped → exec i s = .next (resulted s fn 4)) ∧
    (¬foreign → ¬busy → op = 1 → p.ladder = .stopped → exec i s = .next (resulted s fn 0)) ∧
    (¬foreign → ¬busy → op = 3 → p.atReset = true → exec i s = .next (resulted s fn 0)))

/-- R46, R47, R206 to R208 and R277: the ladder. A pre-emption drains, and ends at rung 1 when nothing runs; at T1 the partition halts
and saves, with no thread between a hint and the word that it binds; a save that ends in time is rung 2, one that does not, and an abort,
rung 3; a resume lets the queues run again and restores what a save kept, a bad word of shadow storage being a fatal fault. That T2 runs
from the stand-still of the cores, how long a save takes and when the budget holds it are log 78, that a save keeps copies of whole
cores log 35 (both DEDUCED). -/
def Obligations.Ladder : Prop :=
  (∀ s fn q n p i x, Commands s fn q n p i x → commandCode fn 1 p = 0 → p.ladder = .none →
    (x.t1 = 0 → x.t2 ≠ 0 → ∃ t p', exec .queuePreempt s = .next t ∧ t.part? n = some p' ∧ p'.ladder = .save ∧ p'.halted = true ∧
      look t.host.queueResult fn = some (2 ^ 63)) ∧
    (x.t1 ≠ 0 → (∃ m ∈ p.live, m.2.st.unstarted = false) → ∃ t p', exec .queuePreempt s = .next t ∧ t.part? n = some p' ∧ p'.ladder = .drain ∧
      p'.t2 = x.t2 ∧ p'.halted = p.halted ∧ EachQueue p' (fun y => y.state = 2) ∧ look t.host.queueResult fn = some (2 ^ 63) ∧
      (∃ y ∈ t.timers, y.ev = ⟨.preemptT1Expire, [n]⟩ ∧ y.onCyc = false ∧ y.die = dieOfCluster n ∧
        y.due = (s.die (dieOfCluster n)).etime.toNat + x.t1 * 14400)) ∧
    (x.t1 ≠ 0 → (∀ m ∈ p.live, m.2.st.unstarted = true) → ∃ t p', exec .queuePreempt s = .next t ∧ t.part? n = some p' ∧ p'.ladder = .stopped ∧
      p'.halted = true ∧ EachQueue p' (fun y => y.state = 3 ∧ y.rung = 1) ∧ look t.host.queueResult fn = some (2 ^ 63))) ∧
  (∀ s n p, s.args = [n] → s.part? n = some p →
    (p.ladder ≠ .drain → exec .preemptT1Expire s = .next s) ∧
    (p.ladder = .drain → p.t2 ≠ 0 → ∃ t p', exec .preemptT1Expire s = .next t ∧ t.part? n = some p' ∧ p'.ladder = .save ∧ p'.halted = true ∧
      ⟨.saveComplete, [n]⟩ ∈ t.pending ∧ t.mem = s.mem) ∧
    (p.ladder = .drain → p.t2 = 0 → s.tasks.wf → ∃ t, exec .preemptT1Expire s = .next t ∧ AtRung3 t n)) ∧
  (∀ s n p, s.args = [n] → s.part? n = some p → p.ladder = .save → (∀ y ∈ s.timers, y.ev ≠ ⟨.preemptT2Expire, [n]⟩) →
    (s.settled p = false → exec .saveComplete s = .next s) ∧
    (AtBoundary s p →
      let u := onTime s (dieOfCluster n) (p.t2 * 14400) .preemptT2Expire [n]
      exec .saveComplete s = .next (if s.saveFits n p
        then onTime { u with parts := put s.parts n { p with shadow := s.saveArea n } } (dieOfCluster n) (s.saveTime n p) .saveComplete [n, 1]
        else u)) ∧
    (s.settled p = true → ∃ t, exec .saveComplete s = .next t ∧
      ∀ c ∈ p.cores, ∀ sl th, sl ≠ 15 → s.thread? c sl = some th → th.hint ≠ none →
        ∃ th', t.thread? c sl = some th' ∧ th'.hint = none ∧ th'.pc = th.pc - 4)) ∧
  (∀ s n p, s.args = [n, 1] → s.part? n = some p → p.ladder = .save → ∃ t p' x, exec .saveComplete s = .next t ∧ t.part? n = some p' ∧
    p'.ladder = .stopped ∧ p'.halted = true ∧ p'.saved = some x ∧ x.cores = s.cores.filter (fun k => p.cores.contains k.1) ∧
    EachQueue p' (fun y => y.state = 3 ∧ y.rung = 2) ∧ t.tasks = s.tasks) ∧
  (∀ s n p, s.args = [n] → s.part? n = some p → (p.ladder ≠ .save → exec .preemptT2Expire s = .next s) ∧
    (p.ladder = .save → s.tasks.wf → ∃ t, exec .preemptT2Expire s = .next t ∧ AtRung3 t n)) ∧
  (∀ s fn q n p i x, Commands s fn q n p i x → commandCode fn 3 p = 0 → p.atReset = false → s.tasks.wf →
    ∃ t, exec .queueAbort s = .next t ∧ AtRung3 t n ∧ look t.host.queueResult fn = some (2 ^ 63)) ∧
  (∀ s fn q n p i x, Commands s fn q n p i x → commandCode fn 2 p = 0 → NoEventWaits s p →
    p.saved = none ∨ (∃ y, Restorable s p y) →
    ∃ t p', exec .queueResume s = .next t ∧ t.part? n = some p' ∧ p'.ladder = .none ∧ p'.halted = false ∧ p'.saved = none ∧
      EachQueue p' (fun y => y.state = (if y.done = y.count then 0 else 1) ∧ y.fault = false) ∧ look t.host.queueResult fn = some (2 ^ 63) ∧
      ∀ y, p.saved = some y → p'.shadow = [] ∧ Restores s t y) ∧
  (∀ s fn q n p i x y, Commands s fn q n p i x → commandCode fn 2 p = 0 → NoEventWaits s p → p.saved = some y → p.dumps = [] →
    (∃ b ∈ s.bad, b.1 = 7 ∧ b.2.1 ∈ p.cores ∧ ∃ k ∈ s.tasks, k.2.part = n ∧ k.2.core = b.2.1) →
    ∃ t p', exec .queueResume s = .next t ∧ t.part? n = some p' ∧ p'.ladder = .dump ∧ p'.halted = true ∧ ∃ e ∈ p'.dumps, e.cause = ECCU)

/-- R200 to R205, R398 and R399: a dump takes the lowest free slot of its area, is written whole in the step that completes it, and leads
to the next one or to the reset; a steward's fault as it dumps stops the device. The points at which a dump begins and ends, and that the
device-fatal stop is at once, are log 41 (DEDUCED). -/
def Obligations.Dumps : Prop :=
  (∀ s n p d k, DumpDue s n p d → s.freeDumpSlot p.dumpBase = some k →
    let count := (s.mem.read p.dumpBase 4 + 1) % 2 ^ 32
    ∃ t q, exec .dumpBegin s = .next t ∧ t.part? n = some q ∧ (∃ e ∈ q.dumps, e.dslot = some k ∧ e.task = d.task ∧ e.core = d.core ∧
      e.cause = d.cause ∧ e.done = false) ∧ t.mem.read p.dumpBase 4 = count ∧ t.mem.get (p.dumpBase + 8) = 1 ∧
      t.mem.get (dumpSlotAt p.dumpBase k + 26) = 16 ∧ ⟨.dumpComplete, [n]⟩ ∈ t.pending) ∧
  (∀ s n p d e r k, s.args = [n] → s.part? n = some p → p.ladder = .dump → p.dumps = d :: e :: r → d.dslot = some k → d.done = false →
    e.done = false → k < 3 → (∀ x, s.task? d.task = some x → x.hw ≤ 512) → s.mem.wf → (∀ j, j < 2 ^ 23 → backed (p.dumpBase + j) = true) →
    let place := dumpSlotAt p.dumpBase k
    ∃ t q, exec .dumpComplete s = .next t ∧ t.part? n = some q ∧ q.dumps = { d with done := true } :: e :: r ∧
      ⟨.dumpBegin, [n]⟩ ∈ t.pending ∧ t.mem.bytes place (s.dumpHeader d).length = s.dumpHeader d ∧
      t.mem.bytes (place + 0x100) 960 = packWords 8 ((upFrom 0 15).flatMap (slotRecord p d (s.core d.core))) ∧
      t.mem.bytes (place + 0x10000) 63488 = packWords 8 (s.rowWords d.core) ∧
      t.mem.bytes (place + 0x20000) 65536 = packWords 8 (s.accWords d.core) ∧
      (∀ r, r = (s.core d.core).dumpRegion (match s.dumpTask d with | some x => x.ext | none => []) →
        t.mem.bytes (place + 0x30000) r.length = r) ∧
      (∀ x, d.task ≠ 0 → s.task? d.task = some x → t.mem.bytes (place + 0x80000) 0x200000 =
        s.loc.bytes (locKey d.core x.localBase) (x.hw * 4096) ++ List.replicate (0x200000 - x.hw * 4096) 0) ∧
      (∀ a, a < place ∨ place + 0x280000 ≤ a → t.mem.get a = s.mem.get a)) ∧
  (∀ s n p, s.args = [n] → s.part? n = some p → p.ladder = .dump → p.dumps = [] → s.tasks.wf →
    ∃ t, exec .dumpComplete s = .next t ∧ AtRung3 t n) ∧
  (∀ s c cause n p d, s.args = [c, cause] → s.parts = [(n, p)] → p.dumps = [d] → d.active = true → d.core = c → s.tasks.wf →
    ∃ t, exec .deviceFatalFault s = .next t ∧ t.pkg.fatal = true ∧ AtRung3 t n)

namespace Sys2Proof.Claims

open Sys2Proof.Machine

/-! ### Dispatch -/

/-- A partition that works: no stop, no ladder, and its log neither records nor replays (R47, R210). -/
structure Works (s : State) (n : Nat) (p : Part) : Prop where
  part : s.part? n = some p
  dispatches : p.ladder = .none ∧ p.halted = false
  unlogged : p.mode ≠ 1 ∧ p.mode ≠ 2

/-- A node that its dispatcher prepares at once: it stands alone in the pool of the cluster, every page it needs is mapped and resident,
within the budget and free to lease, and its ranges fit its extent table (R67, R68). -/
structure Prepares (s : State) (cl n : Nat) (p : Part) (app : Nat) (m : Node) (g : Graph) (ls : List (List (Nat × Leaf))) : Prop where
  args : s.args = [cl]
  grant : s.partOfCluster cl = some n
  works : Works s n p
  table : p.live.wf
  pool : p.pool cl = [(app, m)]
  idle : ∀ q ∈ p.live, q.2.st ≠ .preparing cl ∧ q.2.st ≠ .prepared cl
  node : look p.live app = some m
  graph : look p.graphs m.graph = some g
  mapped : s.spanLeaves (dieOfCluster cl) g.space (m.desc.spans g.arg) = some ls
  granted : ∀ q ∈ eachLeaf ls, q.2.res = true ∧ ∀ a ∈ q.2.path, s.mayAccess (sysMaster s.pkg.num) a permRd = true
  budget : ((eachLeaf ls).map (fun q => q.2.size)).sum ≤ p.mem - 2 ^ 23
  runs : let rs := ((m.desc.spans g.arg).zip ls).map (fun q => physRuns q.1.1 q.1.2 q.2)
    (rs.getD 0 []).length ≤ 1 ∧ (rs.getD 1 []).length ≤ 1 ∧ ((rs.drop 2).map (·.length)).sum ≤ 14
  free : s.leaseWaits (leafPages (eachLeaf ls)) = false

/-- A record that a queue takes next: it is offered, and no fence and no held record stands before it (R40, R44). -/
structure TakesRecord (s : State) (n i : Nat) (p : Part) (q : Queue) (l : Launch) : Prop where
  args : s.args = [n, i]
  works : Works s n p
  queue : look p.queues i = some q
  alone : q.fence = none ∧ q.hold = []
  offered : s.offered n i q = true
  launch : l = s.nextLaunch q
  settled : q.state ≤ 1

/-- A graph in memory lies apart from the status word of its queue: its header, and its nodes. -/
def GraphApart (s : State) (q : Queue) (l : Launch) : Prop :=
  (q.header + 24 ≤ l.graph ∨ l.graph + 64 ≤ q.header + 16) ∧
    (q.header + 24 ≤ field (s.mem.read l.graph 64) 16 8 ∨
      field (s.mem.read l.graph 64) 16 8 + 192 * field (s.mem.read l.graph 64) 0 4 ≤ q.header + 16)

/-- A record of a queue has completed: one more is done, and its owner has a RECORD event (R40, R53). -/
def RecordEnds (s t : State) (n i : Nat) (q : Queue) (seq : Nat) (e : Option RecError) : Prop :=
  (∃ p' q', t.part? n = some p' ∧ look p'.queues i = some q' ∧ q'.done = q.done + 1) ∧
    t.host.ring q.owner = (s.host.ring q.owner).post (queueSource n i) 1 (recordPayload e seq)

/-- A ready repeat node whose predicate word can be read (R82). -/
structure Decides (s : State) (n app : Nat) (p : Part) (m : Node) (g : Graph) (l : Leaf) : Prop where
  args : s.args = [n, app]
  works : Works s n p
  node : look p.live app = some m
  graph : look p.graphs m.graph = some g
  ready : p.isReady app m = true
  kind : m.desc.kind = 1
  leaf : s.translate (dieOfCluster n) g.space m.desc.code = some l
  resident : l.res = true
  granted : ∀ a ∈ l.path, s.mayAccess (sysMaster s.pkg.num) a permRd = true
  reads : s.mayAccess (partMaster s.pkg.num n) (l.frame + m.desc.code % l.size) permRd = true

/-- A page cannot be made resident for a node: it is not mapped, or a table denies the porter (R68, R73). -/
def NoResidence (s : State) (cl : Nat) (r : Residency) (reason : Nat) : Prop :=
  (s.translate (dieOfCluster cl) r.space r.va = none ∧ reason = 1) ∨
  (∃ l, s.translate (dieOfCluster cl) r.space r.va = some l ∧ l.res = false ∧ reason = 2 ∧
    (s.mayAccess (sysMaster s.pkg.num) l.at_ permWr = false ∨
      (l.zfill = false ∧ s.mayReachRun (sysMaster s.pkg.num) l.back l.size permRd = false)))

/-- A page that a porter makes resident in the frame f: its backing copy is readable and its leaf writable, the budget has room, the frame
is writable, and leaf, frame and backing copy lie apart (R68, R73). -/
structure MakesResident (s : State) (cl : Nat) (p : Part) (r : Residency) (l : Leaf) (f : Nat) : Prop where
  leaf : s.translate (dieOfCluster cl) r.space r.va = some l ∧ l.res = false
  granted : s.mayAccess (sysMaster s.pkg.num) l.at_ permWr = true ∧
    (l.zfill = false → s.mayReachRun (sysMaster s.pkg.num) l.back l.size permRd = true) ∧
    s.mayAccessRun (sysMaster s.pkg.num) f l.size permWr = true
  budget : p.spent + l.size ≤ p.mem
  frame : s.chooseFrame (dieOfCluster cl) l.size = some f
  stores : s.mem.wf ∧ (∀ k, k < l.size → backed (f + k) = true) ∧ ∀ k, k < 16 → backed (l.at_ + k) = true
  apart : (l.at_ + 16 ≤ f ∨ f + l.size ≤ l.at_) ∧ (l.back + l.size ≤ f ∨ f + l.size ≤ l.back)

/-- The graph of a repeat node goes round again: its iteration rises and all its nodes are appended anew (R82). -/
def Rearmed (t : State) (n : Nat) (p : Part) (m : Node) (g : Graph) : Prop :=
  ∃ p' g', t.part? n = some p' ∧ look p'.graphs m.graph = some g' ∧ g'.iter = g.iter + 1 ∧
    p'.append = p.append + BitVec.ofNat 32 g.nodes.length ∧
    ∀ j, j < g.nodes.length → ∃ nd, look p'.live (p.append + BitVec.ofNat 32 (j + 1)).toNat = some nd ∧ nd.graph = m.graph ∧ nd.index = j ∧
      g.nodes[j]? = some nd.desc

end Sys2Proof.Claims

/-- R66 to R69, R80, R85: a ready node enters its pool when there is room and no earlier node waits for it, and waits for it otherwise; a dispatcher
prepares it, and it starts on the first core that
fits, with one thread per slot. -/
def Obligations.NodesStart : Prop :=
  (∀ s n app p m cl, s.args = [n, app] → s.part? n = some p → look p.live app = some m → m.wants.or (p.placeFor m) = some cl →
    let full := 256 ≤ (p.pool cl).length ∨ ∃ q ∈ p.live, q.2.st = .ready ∧ q.2.wants = some cl ∧ appendLt q.1 app = true
    (m.st = .ready → ¬full → ∃ t, exec .poolPlace s = .next t ∧
      t = { s with parts := put s.parts n { p with live := put p.live app { m with st := .pooled cl, wants := none, returned := false } }
                   pending := t.pending } ∧
      ⟨.nodeTake, [cl]⟩ ∈ t.pending) ∧
    (m.st = .ready → full → exec .poolPlace s =
      .next { s with parts := put s.parts n { p with live := put p.live app { m with wants := some cl } } }) ∧
    (m.st ≠ .ready → exec .poolPlace s = .next s)) ∧
  (∀ (p : Part) m, (m.desc.aff ∈ p.clusters → p.placeFor m = some m.desc.aff) ∧
    (∀ cl, m.desc.aff ∉ p.clusters → p.placeFor m = some cl → cl ∈ p.clusters ∧ ∀ d ∈ p.clusters, p.load cl < p.load d ∨
      (p.load cl = p.load d ∧ cl ≤ d))) ∧
  (∀ s cl n p app m g ls, Prepares s cl n p app m g ls → ∃ t p' m', exec .nodeTake s = .next t ∧ t.part? n = some p' ∧
    look p'.live app = some m' ∧ m'.st = .prepared cl ∧ m'.leases = (leafPages (eachLeaf ls)).map (fun a => (a, 0)) ∧
    m'.ext = fillTable m.desc (m.desc.spans g.arg) (((m.desc.spans g.arg).zip ls).map (fun q => physRuns q.1.1 q.1.2 q.2)) ∧
    ⟨.nodeStart, [cl, app]⟩ ∈ t.pending ∧ t.mem = s.mem) ∧
  (∀ s cl n p app m g c base, s.args = [cl, app] → s.partOfCluster cl = some n → Works s n p → look p.live app = some m →
    look p.graphs m.graph = some g → m.st = .prepared cl → s.coreFor cl m.desc none = some (c, base) →
    let k := s.taskCount + 1
    let slots := (s.core c).freeSlots.take m.desc.threads
    (∀ sl ∈ slots, Untraced s c sl) →
    ∃ t x p' m', exec .nodeStart s = .next t ∧ t.task? k = some x ∧ x.part = n ∧ x.core = c ∧ x.app = app ∧ x.localBase = base ∧
      x.hw = m.desc.hw ∧ x.ta = (g.arg + m.desc.argoff) % 2 ^ 64 ∧ x.code = m.desc.code ∧ x.codelen = m.desc.codelen ∧ x.ext = m.ext ∧
      x.slots = slots ∧ t.part? n = some p' ∧ look p'.live app = some m' ∧ m'.st = .running k ∧
      (∀ (i sl : Nat), slots[i]? = some sl → ∃ th, t.thread? c sl = some th ∧ th.task = k ∧ th.pc = m.desc.code + m.desc.entry ∧
        th.status = .ready ∧ th.names = [] ∧ th.tid = BitVec.ofNat 64 i ∧ th.ta = BitVec.ofNat 64 x.ta ∧ th.lk = 0 ∧ th.st = 0 ∧
        th.ws = BitVec.ofNat 64 (m.desc.hw * 4096) ∧ th.depth = 0 ∧ th.rmode = .rne ∧ th.cid = BitVec.ofNat 64 (c + s.pkg.num * 65536)) ∧
      t.mem = s.mem ∧ t.loc = s.loc) ∧
  (∀ s cl n p, s.args = [cl] → s.partOfCluster cl = some n → s.part? n = some p → (s.die (dieOfCluster cl)).restart = false →
    ((∀ c ∈ meshNext cl, c ∈ p.clusters → p.load cl ≤ p.load c + 4) → (∀ m ∈ p.live, m.2.st ≠ .ready) →
      exec .loadBalance s = .next (onTime s (dieOfCluster cl) 288000 .loadBalance [cl])) ∧
    (∀ dst app m, (meshNext cl).filter (fun c => p.clusters.contains c && decide (p.load c + 4 < p.load cl)) = [dst] →
      (p.load cl - p.load dst) / 4 = 1 → (p.pool dst).length < 256 → p.lastIn cl = some (app, m) → look p.live app = some m →
      ∃ t p', exec .loadBalance s = .next t ∧ t.part? n = some p' ∧ p'.live = put p.live app { m with st := .pooled dst, wants := none, returned := false } ∧
        ⟨.nodeTake, [dst]⟩ ∈ t.pending))

/-- R17, R68 and R73: a porter serves the first request of its cluster. A page that is resident is served; one that is not mapped, or
whose leaf or backing copy a table denies the porter, removes the node that asked and aborts its graph; one for which no frame is free waits; and one that is mapped and
absent comes into a frame from its backing copy, poison and all, or zero. The choice of the frame is log 10, the units that a copy
poisons log 36 (both DESIGN CHOICE). -/
def Obligations.Residency : Prop :=
  ∀ s cl n p r, s.args = [cl] → s.partOfCluster cl = some n → s.part? n = some p → p.residency.find? (fun r => decide (p.porterOf n r = cl)) = some r →
    (∀ l, s.translate (dieOfCluster cl) r.space r.va = some l → l.res = true → ∃ t p', exec .porterResidency s = .next t ∧
      t.part? n = some p' ∧ p'.residency = p.residency.filter (fun q => decide (q ≠ r)) ∧ t.mem = s.mem ∧
      ⟨.porterResidency, [cl]⟩ ∈ t.pending) ∧
    (∀ reason m g, NoResidence s cl r reason → p.live.wf → look p.live r.app = some m → look p.graphs m.graph = some g →
      let e : RecError := { kind := 3, node := m.index, thread := 0, lane := 0, reason := reason, adr := 0 }
      ∃ t p', exec .porterResidency s = .next t ∧ t.part? n = some p' ∧ r ∉ p'.residency ∧ look p'.live r.app = none ∧
        ((∃ q ∈ p.live, q.1 ≠ r.app ∧ q.2.graph = m.graph ∧ q.2.st.unstarted = false) →
          ∃ g', look p'.graphs m.graph = some g' ∧ g'.aborted = true ∧ g'.err = some (g.err.getD e)) ∧
        ((∀ q ∈ p.live, q.1 ≠ r.app → q.2.graph = m.graph → q.2.st.unstarted = true) →
          look p'.graphs m.graph = none ∧ ∀ q, look p.queues g.queue = some q → RecordEnds s t n g.queue q g.seq (some (g.err.getD e)))) ∧
    (∀ l f, MakesResident s cl p r l f →
      ∃ t p' y, exec .porterResidency s = .next t ∧ t.part? n = some p' ∧ look p'.frames f = some y ∧ y.leaf = l.at_ ∧ y.size = l.size ∧
        p'.residency = p.residency.filter (fun q => decide (q ≠ r)) ∧
        t.mem.bytes f l.size = (if l.zfill = true then List.replicate l.size 0 else s.mem.bytes l.back l.size) ∧
        (l.zfill = false → ∀ b ∈ s.bad, b.1 = 0 → l.back < b.2.2 * 32 + 32 → b.2.2 * 32 < l.back + l.size →
          (0, b.2.1, (b.2.2 * 32 + f - l.back) / 32) ∈ t.bad) ∧
        t.mem.read l.at_ 8 = residentWord l.word0 f % 2 ^ 64 ∧
        (∀ a, (a < f ∨ f + l.size ≤ a) → (a < l.at_ ∨ l.at_ + 16 ≤ a) → t.mem.get a = s.mem.get a)) ∧
    (∀ l, s.translate (dieOfCluster cl) r.space r.va = some l → l.res = false → ¬(∃ reason, NoResidence s cl r reason) →
      (p.mem < p.spent + l.size ∧ s.victim p = none) ∨ (p.spent + l.size ≤ p.mem ∧ s.chooseFrame (dieOfCluster cl) l.size = none) →
      exec .porterResidency s = .next s)

/-- R40, R44, R58, R61 to R63: a marker completes at once, a record of no known kind fails, a graph enters with its nodes in order or
fails as a whole, a fence waits for the graphs before it. That a record behind a fence is taken, and held, when the live table has room
for it is log 69 (DESIGN CHOICE). -/
def Sys2Proof.Claims.RecordsHold : Prop :=
  (∀ s n i p q l, TakesRecord s n i p q l → s.mem.wf →
    (l.bad = false → l.kind = 2 → ∃ t, exec .recordAccept s = .next t ∧ RecordEnds s t n i q l.seq none) ∧
    ((l.bad = true ∨ l.kind = 0 ∨ 3 < l.kind) → ∃ t, exec .recordAccept s = .next t ∧
      RecordEnds s t n i q l.seq (some { kind := 1, node := 0, thread := 0, lane := 0, reason := 0, adr := 0 })) ∧
    (l.bad = false → l.kind = 3 → (∃ g ∈ p.graphs, g.2.queue = i) → ∃ t p' q', exec .recordAccept s = .next t ∧ t.part? n = some p' ∧
      look p'.queues i = some q' ∧ q'.fence = some l ∧ q'.done = q.done ∧ q'.count = q.count + 1 ∧
      q'.taken = (q.taken + 1) % 2 ^ 32 ∧ q'.state = 1) ∧
    (l.bad = false → l.kind = 1 → s.graphRoom p l.graph = false → exec .recordAccept s = .next s)) ∧
  (∀ s n i p q l f, TakesRecord s n i p q l → s.mem.wf → l.bad = false → l.kind = 1 → s.graphRoom p l.graph = true →
    GraphApart s q l → s.graphFault l.graph = some f →
    ∃ t, exec .recordAccept s = .next t ∧ RecordEnds s t n i q l.seq (some { kind := 2, node := f, thread := 0, lane := 0, reason := 0, adr := 0 })) ∧
  (∀ s n i p q l, TakesRecord s n i p q l → s.mem.wf → p.live.wf → l.bad = false → l.kind = 1 → s.graphRoom p l.graph = true →
    GraphApart s q l → s.graphFault l.graph = none →
    let h := s.mem.read l.graph 64
    let count := field h 0 4
    ∃ t p' g, exec .recordAccept s = .next t ∧ t.part? n = some p' ∧ look p'.graphs (s.graphCount + 1) = some g ∧ g.queue = i ∧
      g.seq = l.seq ∧ g.space = field h 8 8 ∧ g.nnodes = count ∧ g.arg = l.arg ∧ g.cword = l.cword ∧ g.cval = l.cval ∧ g.iter = 1 ∧
      p'.append = p.append + BitVec.ofNat 32 count ∧
      ∀ j, j < count → ∃ nd, look p'.live (p.append + BitVec.ofNat 32 (j + 1)).toNat = some nd ∧ nd.graph = s.graphCount + 1 ∧ nd.index = j ∧
        nd.desc = nodeOf (s.mem.read (field h 16 8 + 192 * j) 192) ∧
        nd.preds = nd.desc.preds.map (fun k => (p.append + BitVec.ofNat 32 (k + 1)).toNat)) ∧
  (∀ s n i p q l, s.args = [n, i] → Works s n p → look p.queues i = some q → q.fence = some l → q.state ≤ 1 →
    ((∃ g ∈ p.graphs, g.2.queue = i) → exec .fenceRecordRelease s = .next s) ∧
    ((∀ g ∈ p.graphs, g.2.queue ≠ i) → ∃ t p' q', exec .fenceRecordRelease s = .next t ∧ t.part? n = some p' ∧ look p'.queues i = some q' ∧
      q'.fence = none ∧ RecordEnds s t n i q l.seq none ∧ ⟨.recordAccept, [n, i]⟩ ∈ t.pending)) ∧
  (∀ s n i p q l x, s.args = [n, i] → Works s n p → look p.queues i = some q → q.fence = some x → s.offered n i q = true →
    l = s.nextLaunch q →
    (l.isGraph = true → s.roomBehind p l.graph = false → exec .recordAccept s = .next s) ∧
    (l.isGraph = false ∨ s.roomBehind p l.graph = true → ∃ t p' q', exec .recordAccept s = .next t ∧ t.part? n = some p' ∧
      look p'.queues i = some q' ∧ q'.fence = some x ∧ q'.hold = q.hold ++ [l] ∧ q'.taken = (q.taken + 1) % 2 ^ 32 ∧ q'.done = q.done))

/-- R82 and R47: a repeat node leases its predicate's page; one whose predicate is zero, or that has gone its number of rounds, goes;
another re-arms its graph, once the live table has room and no drain is under way. -/
def Sys2Proof.Claims.RepeatsHold : Prop :=
  (∀ s n app p m g l, Decides s n app p m g l → p.live.wf →
    let v := s.mem.read (l.frame + m.desc.code % l.size) 8
    let again := v ≠ 0 ∧ (m.desc.codelen = 0 ∨ g.iter < m.desc.codelen)
    let waits := s.leaseWaits (leafPages [(m.desc.code, l)])
    (waits = true → exec .repeatDecide s = .next s) ∧
    (waits = false → ¬again → ∃ t p', exec .repeatDecide s = .next t ∧ t.part? n = some p' ∧ look p'.live app = none ∧ p'.append = p.append) ∧
    (waits = false → again → 4096 < p.live.length - 1 + g.nnodes → ∃ t p' m', exec .repeatDecide s = .next t ∧ t.part? n = some p' ∧
      look p'.live app = some m' ∧ m'.st = .rearm v ∧ p'.append = p.append) ∧
    (waits = false → again → p.live.length - 1 + g.nnodes ≤ 4096 → g.nodes.length < 4096 → ∃ t, exec .repeatDecide s = .next t ∧ Rearmed t n p m g)) ∧
  (∀ s n app p m g v, s.args = [n, app] → Works s n p → p.live.wf → look p.live app = some m → look p.graphs m.graph = some g → m.st = .rearm v →
    v ≠ 0 → (m.desc.codelen = 0 ∨ g.iter < m.desc.codelen) →
    (4096 < p.live.length - 1 + g.nnodes → ∃ t p' m', exec .repeatRearm s = .next t ∧ t.part? n = some p' ∧ look p'.live app = some m' ∧
      m'.st = .rearm v) ∧
    (p.live.length - 1 + g.nnodes ≤ 4096 → g.nodes.length < 4096 → ∃ t, exec .repeatRearm s = .next t ∧ Rearmed t n p m g)) ∧
  (∀ s n app p m v, s.args = [n, app] → s.part? n = some p → p.dispatching = false → look p.live app = some m → m.st = .rearm v →
    exec .repeatRearm s = .next s)

/-- R40, R44, R58, R61 to R63: a marker completes at once, a record of no known kind fails, a graph enters with its nodes in
order or fails as a whole, a fence waits for the graphs before it. R82: a repeat node whose predicate is zero, or that has
gone its number of rounds, goes; another re-arms its graph, once the live table has room. -/
def Obligations.Records : Prop :=
  Claims.RecordsHold ∧ Claims.RepeatsHold

namespace Sys2Proof.Claims

open Sys2Proof.Machine

/-! ### Debug, boot, links, power and migration -/

/-- A debug command that its master may give: ctrl at the die's debug block (R235, R240). -/
structure Debugs (s : State) (master die : Nat) (rest : List Nat) : Prop where
  args : s.args = [master, die] ++ rest
  granted : s.grants (debugTable s.pkg.num die) master none permCtrl = true
  awake : NoHalt s die

def ports (s : State) (p : Nat) (f : Port → Port) : State :=
  onPkg s (fun q => { q with ports := put q.ports p (f (lookD q.ports p { up := false, retries := 0, frames := [] })) })

/-- An event for a function's ring (R51). -/
def posted (s : State) (f src kind : Nat) (payload : List Nat) : State :=
  onHost s (fun h => { h with rings := put h.rings f ((h.ring f).post src kind payload) })

/-- A POWER event of a die, with its step and its admission limit (R53). -/
def powered (s : State) (d code : Nat) : State := posted s 0 (8192 + d) 5 [code, (s.die d).step, (s.die d).admission]

/-- A change of step begins (R28). -/
def changing (s : State) (d v : Nat) : State :=
  if (s.die d).step < v then onTime (onDie s d (fun x => { x with change := .rampUp v })) d (rampTime (s.die d).step v) .supplyRampUpDone [d]
  else onTime (onDie s d (fun x => { x with change := .relock v })) d 31680 .relockDone [d]

/-- The power limit that PF0 has written last is in use (R33). -/
def limited (s : State) : State := onHost s (fun h => { h with powerLimit := h.powerNext.getD h.powerLimit, powerNext := none })

/-- The oldest flit that a sender holds enters the FIFO, where the link has an allowance for it (R25). -/
def unheld (s : State) (src hop : Nat) : State :=
  match lookD s.unsent (src * 4 + hop) [] with
  | [] => s
  | q :: r =>
    if s.linkAllows src hop = true then
      { s with unsent := put s.unsent (src * 4 + hop) r, links := put s.links (src * 4 + hop) (lookD s.links (src * 4 + hop) [] ++ [q]) }
    else s

/-- A sample of cool dies none of which is held: each below 105 °C. -/
structure Cool (s : State) (watts projected : Nat) (temps : List Nat) : Prop where
  args : s.args = [watts, projected] ++ temps
  four : temps.length = 4
  cool : ∀ t ∈ temps, t < 105
  image : 3 ∈ s.pkg.verified
  free : ∀ d, d < 4 → (s.die d).thermalHold = false ∧ (s.die d).powerHold = false ∧ (s.die d).change = .none

end Sys2Proof.Claims

/-- R240 to R242: a freeze stops the package and fires the trigger network, a thaw lets it and what came meanwhile go on; a thread is
stopped at its boundary, never between a hint and the instruction that it binds (R277), released, and stepped. That a waiting or hinted
thread stops before the word it waits in is log 64 (DEDUCED). -/
def Obligations.DebugCommands : Prop :=
  (∀ s m d i rest, s.args = m :: d :: rest → i ∈ [.debugFreeze, .debugThaw, .debugStop, .debugGo, .debugStep] →
    s.grants (debugTable s.pkg.num d) m none permCtrl = false → exec i s = .next (if m / 2 ^ 14 = 1 then rejected s 0 else s)) ∧
  (∀ s m d, Debugs s m d [] → s.pkg.firing = false →
    let w := (s.pkg.snapshot + 1) % 2 ^ 32 * 2 ^ 32 + 2 ^ 30 + d * 2 ^ 28
    exec .debugFreeze s = .next ([0, 1, 2, 3].foldl (fun u d => onDie u d (fun x => { x with dbg := { x.dbg with freezeRec := w } }))
      (fired (onPkg s (fun p => { p with frozen := true }))))) ∧
  (∀ s m d, Debugs s m d [] → (∀ d, (s.die d).restart = false) → exec .debugThaw s =
    .next { onPkg s (fun p => { p with frozen := false, parked := [] }) with inputs := s.pkg.parked.map (·.2) ++ s.inputs }) ∧
  (∀ s m d c sl th, Debugs s m d [c, sl] → sl ≠ 15 → s.thread? c sl = some th → Untraced s c sl →
    (th.stopped = false → th.trapped = false → th.hint = none → (th.status = .ready ∨ th.status = .blocked ∨ th.status = .yielding) →
      exec .debugStop s = .next (withThread s c sl { th with stopped := true, stepping := false })) ∧
    (th.stopped = false → th.trapped = false → th.hint ≠ none →
      th.status = .ready ∨ th.status = .blocked ∨ (th.status = .inFlight ∧ s.moving c sl = false) →
      ∃ t, exec .debugStop s = .next t ∧ t.thread? c sl = some { th with
        pc := th.pc - 4, status := .ready, op := none, hint := none, logWait := false, saw := [], stopped := true, stepping := false }) ∧
    (th.stopped = false → th.trapped = false →
      (th.status = .inFlight ∧ (th.hint = none ∨ s.moving c sl = true)) ∨ th.status = .out ∨ th.status = .held →
      exec .debugStop s = .next (withThread s c sl { th with stepping := true })) ∧
    (th.stopped = true ∨ th.trapped = true ∨ th.status = .finished → exec .debugStop s = .next s) ∧
    (th.stopped = true → exec .debugGo s = .next (withThread s c sl { th with
      stopped := false, stepping := false, status := if th.status = .yielding then .ready else th.status })) ∧
    (th.stopped = true → exec .debugStep s = .next (withThread s c sl { th with
      stopped := false, stepping := true, status := if th.status = .yielding then .ready else th.status })) ∧
    (th.stopped = false → exec .debugGo s = .next s ∧ exec .debugStep s = .next s))

/-- R4, R45, R56, R57 and R199: package reset, the boot images and what refuses them, and steward restarts. The places of
stage and reason in the mailbox are log 19, PF0's restart command as a page write log 95 (both DESIGN CHOICE). -/
def Obligations.BootAndRestart : Prop :=
  (∀ s, ∃ t, exec .packageReset s = .next t ∧ t.cores = [] ∧ t.tasks = [] ∧ t.parts = [] ∧ t.regions = [] ∧ t.dies = [] ∧ t.acl = [] ∧
    t.pkg.stage = 1 ∧ t.pkg.verified = [] ∧ t.pkg.fused = s.pkg.fused ∧ t.mem = s.mem) ∧
  (∀ s image version sig limit bytes, s.args = [image, version, sig, limit] ++ bytes → s.pkg.bootFailed = false → image ≤ 3 →
    s.pkg.stage = (if image = 0 then 1 else 2) → image ∉ s.pkg.verified →
    (sig ≠ 1 ∨ version < s.pkg.fused → ∃ reason, exec .firmwareImageVerify s = .next (onHost (onPkg s (fun p => { p with bootFailed := true }))
      (fun h => { h with mailbox := put (put h.mailbox 0 s.pkg.stage) 8 reason }))) ∧
    (sig = 1 → s.pkg.fused ≤ version → ∃ t, exec .firmwareImageVerify s = .next t ∧ image ∈ t.pkg.verified ∧ t.pkg.version = version ∧
      (image = 0 → s.pkg.verified = [] → t.pkg.stage = 2) ∧ (image ≠ 0 → (∀ k, 1 ≤ k → k ≤ 3 → k = image ∨ k ∈ s.pkg.verified) → t.pkg.stage = 3) ∧
      (image ≠ 0 → (∃ k, 1 ≤ k ∧ k ≤ 3 ∧ k ≠ image ∧ k ∉ s.pkg.verified) → t.pkg.stage = 2) ∧ t.mem = s.mem ∧ t.cores = s.cores)) ∧
  (∀ s d, s.args = [d] → 3 ≤ s.pkg.stage → s.pkg.bootFailed = false → s.pkg.fatal = false →
    ∃ t, exec .stewardHeartbeatMiss s = .next t ∧ (t.die d).restart = true ∧
      (∀ c sl, sl ≠ 15 → t.thread? c sl = s.thread? c sl) ∧
      ((s.die d).restart = false → (∀ c, dieOf c = d → t.thread? c 15 = none) ∧ ⟨.stewardRestartDone, [d]⟩ ∈ t.pending)) ∧
  (∀ s d, s.args = [0, d] → Reaches s 0 → 3 ≤ s.pkg.stage → s.pkg.bootFailed = false → s.pkg.fatal = false →
    ∃ t, exec .stewardRestartCommand s = .next t ∧ (t.die d).restart = true ∧ (∀ c sl, sl ≠ 15 → t.thread? c sl = s.thread? c sl) ∧
      ((s.die d).restart = false → ⟨.stewardRestartDone, [d]⟩ ∈ t.pending)) ∧
  (∀ s d, s.args = [d] → (s.die d).restart = true → ∃ t, exec .stewardRestartDone s = .next t ∧ (t.die d).restart = false ∧
    t.cores = s.cores ∧ t.mem = s.mem ∧ (∀ b ∈ t.bad, ¬(b.1 = 1 ∧ dieOf b.2.1 = d ∧ 7936 ≤ b.2.2)) ∧
    ((s.die d).fifo ≠ [] → ⟨.submissionHandle, [d]⟩ ∈ t.pending) ∧
    (∀ k ∈ s.cores, dieOf k.1 = d → k.2.trapQ ≠ [] → ⟨.trapService, [k.1]⟩ ∈ t.pending)) ∧
  (∀ s d, s.args = [d] → (s.die d).restart = false → exec .stewardRestartDone s = .next s)

/-- R12, R18, R21 to R23 and R25: CXL ports, bring-up of a domain, frames and fabric ports, and the die-crossing FIFOs, which
deliver in order and take a flit only with an allowance for it; when a link has one is log 88 (DESIGN CHOICE). -/
def Obligations.Links : Prop :=
  (∀ s port rate width, s.args = [port, rate, width] → port < 8 →
    ((rate = 64 ∨ rate = 32 ∨ rate = 16) → (width = 16 ∨ width = 8 ∨ width = 4) →
      exec .cxlPortTrain s = .next (onPkg s (fun p => { p with cxl := put p.cxl port (rate, width) }))) ∧
    (¬((rate = 64 ∨ rate = 32 ∨ rate = 16) ∧ (width = 16 ∨ width = 8 ∨ width = 4)) → exec .cxlPortTrain s = .next s)) ∧
  (∀ s a b d e dest first second, s.args = [3, a * 64 + b, b * 64 + d, d * 64 + e, dest * 256 + first * 16 + second] → a = s.pkg.num → a < b →
    b < d → d < e → e < 64 → exec .domainBringup s = .next (onPkg s (fun p => { p with offending := some (a, e) }))) ∧
  (∀ s a b first second, s.args = [1, a * 64 + b, b * 256 + first * 16 + second] → a = s.pkg.num → a ≠ b → a < 64 → b < 64 → first < 16 →
    second < 16 → exec .domainBringup s = .next (onPkg s (fun p => { p with offending := none, routes := [(b, (first, second))] }))) ∧
  (∀ s port crc (bytes : List Nat), s.args = port :: crc :: bytes →
    (s.portUp port = false → exec .fabricFrameReceive s = .next s) ∧
    (s.portUp port = true → bytes.length = 128 → crc32c (bytes.map (BitVec.ofNat 8)) = crc →
      exec .fabricFrameReceive s = .next (ports s port (fun x => { x with frames := bytes :: x.frames }))) ∧
    (s.portUp port = true → crc32c (bytes.map (BitVec.ofNat 8)) ≠ crc →
      exec .fabricFrameReceive s = .next (ports s port (fun x => { x with retries := x.retries + 1 })))) ∧
  (∀ s port, s.args = [port] → port < 12 →
    (s.portUp port = true → exec .fabricPortUp s = .next s) ∧
    (s.portUp port = false → exec .fabricPortUp s = .next (posted (ports s port (fun x => { x with up := true })) 0 (12288 + port) 6 [2, 0])) ∧
    (s.portUp port = true → s.lost = [] → (ports s port (fun x => { x with up := false })).lost = [] →
      exec .fabricLaneLoss s = .next (posted (ports s port (fun x => { x with up := false })) 0 (12288 + port) 6 [1, 0])) ∧
    (s.portUp port = false → s.lost = [] → exec .fabricLaneLoss s = .next s)) ∧
  (∀ s src hop, s.args = [src, hop] →
    (lookD s.links (src * 4 + hop) [] = [] → lookD s.unsent (src * 4 + hop) [] = [] → exec .dieLinkFlitDeliver s = .next s) ∧
    (lookD s.links (src * 4 + hop) [] = [] → lookD s.unsent (src * 4 + hop) [] ≠ [] → exec .dieLinkFlitDeliver s =
      .next (due (unheld s src hop) .dieLinkFlitDeliver [src, hop])) ∧
    (∀ dst d r, lookD s.links (src * 4 + hop) [] = (dst, d) :: r → exec .dieLinkFlitDeliver s =
      .next (sent (unheld { s with links := put s.links (src * 4 + hop) r } src hop) hop dst d.step d.args)))

/-- R28 to R30, R33, R81 and R198: the course of a change of step, the thermal trip, what a power sample, which puts a newly written limit
in use, does to the dies and their admission, and what the patrol scrub finds. Which die a sample picks is log 58, what trips the package
log 57 and what each POWER event reports log 59 (all DEDUCED); what corrected errors are counted under is logs 36 and 37. -/
def Obligations.Power : Prop :=
  (∀ s d, s.args = [d] →
    (∀ v, (s.die d).change = .rampUp v → exec .supplyRampUpDone s =
      .next (onTime (onDie s d (fun x => { x with change := .relock v })) d 31680 .relockDone [d])) ∧
    (∀ v, (s.die d).change = .relock v → v < (s.die d).step → exec .relockDone s =
      .next (onTime (onDie s d (fun x => { x with step := v, change := .rampDown })) d (rampTime (s.die d).step v) .supplyRampDownDone [d])) ∧
    (∀ v, (s.die d).change = .relock v → (s.die d).step ≤ v → (s.die d).target = v → ∃ t, exec .relockDone s = .next t ∧
      t.die d = { s.die d with step := v, change := .none } ∧ (∀ e, e ≠ d → t.die e = s.die e) ∧ t.timers = s.timers) ∧
    ((s.die d).change = .rampDown → (s.die d).target = (s.die d).step →
      exec .supplyRampDownDone s = .next (onDie s d (fun x => { x with change := .none }))) ∧
    ((s.die d).change = .rampDown → (s.die d).target ≠ (s.die d).step → (s.die d).powerHold = false → (s.die d).thermalHold = false →
      ∃ t, exec .supplyRampDownDone s = .next t ∧ t = changing (onDie s d (fun x => { x with change := .none })) d (s.die d).target)) ∧
  (∀ s d, s.args = [d] →
    (s.pkg.tripped = true → exec .thermalTrip s = .next s) ∧
    (s.pkg.tripped = false → exec .thermalTrip s = .next (onPkg (powered s d 5) (fun p => { p with tripped := true })))) ∧
  (∀ s, 3 ∉ s.pkg.verified → exec .powerSample s = .next s) ∧
  (∀ s watts projected temps d, s.args = [watts, projected] ++ temps → 3 ∈ s.pkg.verified → s.pkg.tripped = false →
    temps.findIdx? (fun t => decide (115 ≤ t)) = some d → temps.length = 4 →
    exec .powerSample s = .next (onPkg (powered (limited s) d 5) (fun p => { p with tripped := true }))) ∧
  (∀ s watts projected temps, Cool s watts projected temps →
    let limit := s.host.powerNext.getD s.host.powerLimit
    (watts ≤ limit → limit * 95 ≤ projected * 100 → exec .powerSample s = .next (limited s)) ∧
    (limit < watts → (∀ d, d < 4 → (s.die d).step = 0) → ∃ t, exec .powerSample s = .next t ∧
      ∀ d, d < 4 → t.die d = { s.die d with admission := (s.die d).admission - 8 }) ∧
    (∀ d, limit < watts → d < 4 → (s.die d).step ≠ 0 → (∀ e, e < 4 → e ≠ d → (s.die e).step < (s.die d).step ∧ (s.die e).step ≠ 0) →
      exec .powerSample s =
        .next (changing (powered (onDie (limited s) d (fun x => { x with powerHold := true })) d 1) d ((s.die d).step - 1))) ∧
    (watts ≤ limit → projected * 100 < limit * 95 → ∃ t, exec .powerSample s = .next t ∧
      ∀ d, d < 4 → t.die d = { s.die d with admission := min 128 ((s.die d).admission + 8) })) ∧
  (∀ s unit core place found, s.args = [unit, core, place, found] →
    (found = 1 → let key := errorKey unit core place
      exec .patrolScrub s = .next { s with corrected := put s.corrected key (lookD s.corrected key 0 + 1) }) ∧
    (found = 2 → (unit, core, place) ∉ s.bad → ¬(unit = 1 ∧ 7936 ≤ place) →
      exec .patrolScrub s = .next { s with bad := s.bad ++ [(unit, core, place)] }) ∧
    (found = 2 → unit = 1 → 7936 ≤ place → ∃ t, exec .patrolScrub s = .next t ∧ (t.die (dieOf core)).restart = true ∧
      (unit, core, place) ∈ t.bad) ∧
    (found = 2 → (unit, core, place) ∈ s.bad → ¬(unit = 1 ∧ 7936 ≤ place) → exec .patrolScrub s = .next s) ∧
    (found ≠ 1 → found ≠ 2 → exec .patrolScrub s = .next s))

/-- R74, R77 to R79: a notice of a page that stands leased, or in no frame, leaves it there with its counts halved; another begins to move;
a move takes the frame's bytes to the requesting die and its leaf with them; and the halving of the counters. R211, R218 and R223: freed
places of the log go to what waits, of which the first goes on (log 91, DEDUCED), and an operation that has waited too long under replay stops its thread. -/
def Obligations.MovesAndWaits : Prop :=
  (∀ s cl a die r, s.args = [cl] → (s.noticesOf cl).entries = (a, die) :: r → s.pages.wf → (∀ p ∈ s.pages, p.2.overflow = false) →
    ((s.frameOf (pageOf a) = none ∨ ∃ p base f, s.frameOf (pageOf a) = some (p, base, f) ∧ s.frameLeased base f.size = true) →
      exec .porterNoticeHandle s = .next { s with
        notices := put s.notices cl { s.noticesOf cl with entries := r, head := ((s.noticesOf cl).head + 1) % 256 }
        pages := put s.pages (pageOf a) { s.page (pageOf a) with
          counts := (s.page (pageOf a)).counts.map (· / 2), queued := false } }) ∧
    (∀ p base f, s.frameOf (pageOf a) = some (p, base, f) → s.frameLeased base f.size = false → ∃ t, exec .porterNoticeHandle s = .next t ∧
      (t.noticesOf cl).entries = r ∧ ⟨.migrationCopyDone, [pageOf a]⟩ ∈ t.pending ∧
      (∀ k ∈ framePages base f, (t.page k).moving = true ∧ (t.page k).dest = die) ∧ t.mem = s.mem)) ∧
  (∀ s n p base f g part, s.args = [n] → (s.page n).moving = true → s.frameOf n = some (part, base, f) → s.part? part = some p →
    p.spent + f.size ≤ p.mem → s.chooseFrame (s.page n).dest f.size = some g →
    s.mayAccessRun (sysMaster s.pkg.num) base f.size permRd = true → s.mayAccessRun (sysMaster s.pkg.num) g f.size permWr = true → s.mayAccess (sysMaster s.pkg.num) f.leaf permWr = true →
    s.memBad base f.size = none → s.mem.wf → (∀ k, k < f.size → backed (g + k) = true) → (∀ k, k < 16 → backed (f.leaf + k) = true) →
    (f.leaf + 16 ≤ g ∨ g + f.size ≤ f.leaf) → n ∈ framePages base f → s.pages.wf →
    ∃ t q, exec .migrationCopyDone s = .next t ∧ t.mem.bytes g f.size = s.mem.bytes base f.size ∧
      t.mem.read f.leaf 8 = residentWord (s.mem.read f.leaf 8) g % 2 ^ 64 ∧ t.part? part = some q ∧ look q.frames g = some f ∧
      (t.page n).moving = false ∧ (t.page n).queued = false ∧ (t.page n).counts = [0, 0, 0, 0, 0]) ∧
  (∀ s d, s.args = [d] → s.pages.wf → ∃ t, exec .counterHalve s = .next t ∧
    (∀ p ∈ s.pages, memDie (p.1 * 65536) = some d → (t.page p.1).counts = p.2.counts.map (· / 2)) ∧
    (∀ p ∈ s.pages, memDie (p.1 * 65536) ≠ some d → t.page p.1 = p.2) ∧ t = { s with pages := t.pages, timers := t.timers } ∧
    t.timers = s.timers ++ [{ ev := ⟨.counterHalve, [d]⟩, die := d, onCyc := false, due := (s.die d).etime.toNat + 14400000 }]) ∧
  (∀ s n p, s.args = [n] → s.part? n = some p → p.log.held = [] → bit p.log.flags flagStalled = false →
    exec .logRdPoll s = .next { s with parts := put s.parts n p }) ∧
  (∀ s n p c sl th, s.args = [n] → s.part? n = some p → p.log.held = [.thread c sl] →
    p.log.wr + p.log.granted.length - s.readRd p < Log.cap p → s.thread? c sl = some th → th.logWait = true → ∃ t q, exec .logRdPoll s = .next t ∧
      t.part? n = some q ∧ q.log.held = [] ∧ q.log.granted = p.log.granted ++ [.thread c sl] ∧
      (p.log.granted = [] → t.thread? c sl = some { th with status := .ready, logWait := false })) ∧
  (∀ s n p src c sl th, s.args = [n, src, c, sl] → s.part? n = some p → p.log.turns = [(src, .thread c sl)] → s.thread? c sl = some th →
    sl ≠ 15 → Untraced s c sl → ∃ t th', exec .replayTimeout s = .next t ∧ t.thread? c sl = some th' ∧ th'.trapped = true ∧
      th'.cause.toNat % 256 = DIVERGE ∧ (∃ q, t.part? n = some q ∧ q.log.turns = [])) ∧
  (∀ s n p src key, s.args = n :: src :: key → s.part? n = some p → (∀ w ∈ p.log.turns, w.1 = src → w.2.key ≠ key) →
    exec .replayTimeout s = .next s)

namespace Sys2Proof.Claims

open Sys2Proof.Machine

/-! ### The whole machine -/

/-- The state in which a step chooses its move: time has passed, and debug steps that have ended have stopped their threads. -/
def upNext (s : State) : State := (stepsEnd (passTime s)).1

/-- A slot's step runs: for a thread that goes on with an instruction it has issued, nothing else. For one that issues, it is the slot that
issued last (R87), and its instruction's clocks begin (R88); where a thread of its core waits in `vtrecv` and the slot is a user thread's,
the 1,024 quiet clocks of the core count again (R231). -/
def issued (u : State) (c sl : Nat) (th : Thread) (i : Instr) : State :=
  let v := { u with cur := some (c, sl), args := [], turn := c }
  let w := onCore v c (fun k => { k with last := sl, threads := put k.threads sl { th with busy := th.clocksOf i, fresh := true } })
  if th.op.isSome then v
  else if sl = 15 ∨ (u.core c).vtWait = [] then w
  else onClock (noTimers w .vtNullCountExpire [c]) (dieOf c) 1024 .vtNullCountExpire [c]

/-- Threads issue: no input is due, the package is neither stopped nor frozen, and it is their turn. -/
structure ThreadsTurn (u : State) : Prop where
  inputs : u.inputs = []
  runs : u.pkg.tripped = false ∧ u.pkg.fatal = false ∧ u.pkg.frozen = false
  turn : u.nextDue = none ∨ Config.threadFirst u.tick = true

/-- The thread whose move is next. -/
structure NextThread (u : State) (c sl : Nat) (th : Thread) : Prop extends ThreadsTurn u where
  picked : u.pickThread = some (c, sl)
  thread : u.thread? c sl = some th

/-- The thread that fetches next, at no breakpoint. -/
structure Fetches (u : State) (c sl : Nat) (th : Thread) : Prop extends NextThread u c sl th where
  fresh : th.op = none
  free : u.breakpoint c sl th = none

/-- The step of another agent, and not an instruction of a thread; the clocks of a `resz` or a `mapld` end in such a step too. -/
def IsEvent (d : Due) : Prop :=
  encode d.step = none ∨ (d.args.length = 2 ∧ ((∃ n kind wd, d.step = .resz n kind wd) ∨ ∃ a imm, d.step = .mapld a imm))

/-- The 16 bytes of a trace record of a thread of core c that lies at an address (R244). -/
def TraceWords (s : State) (c sl kind word1 adr : Nat) (m : Mem) : Prop :=
  m.read adr 8 = kind * 2 ^ 60 + c % 128 * 2 ^ 53 + sl * 2 ^ 49 + (s.die (dieOf c)).etime.toNat % 2 ^ 48 ∧ m.read (adr + 8) 8 = word1

/-- A traced thread's record, written whole to its die's ring, and counted; the record's bytes apart, memory is as it was. Or it
finds the trace queue full and is counted as lost. -/
def Recorded (s t : State) (c sl kind word1 : Nat) : Prop :=
  let g := (s.die (dieOf c)).dbg
  let adr := g.traceBase + g.written % (g.traceSize / 16) * 16
  s.mem.wf → s.traced c sl = true → 16 ≤ g.traceSize → (∀ k, k < 16 → backed (adr + k) = true) → word1 < 2 ^ 64 →
    if Config.traceFull s.tick (dieOf c) (g.written + g.lost) then (t.die (dieOf c)).dbg = { g with lost := g.lost + 1 } ∧ t.mem = s.mem
    else TraceWords s c sl kind word1 adr t.mem ∧ (t.die (dieOf c)).dbg = { g with written := g.written + 1 } ∧
      ∀ k, k < adr ∨ adr + 16 ≤ k → t.mem.get k = s.mem.get k

/-- Under record a place is free for one record more, and no operation waits for one (R210, R218). -/
structure Recording (s : State) (x : Ctx) (n : Nat) (p : Part) : Prop where
  ofThread : x.part = some n
  part : s.part? n = some p
  mode : p.mode = 1
  open_ : bit p.log.flags flagMarked = false
  none_ : p.log.held = [] ∧ p.log.granted = []
  canonical : s.mem.wf
  room : p.log.rd ≤ p.log.wr ∧ p.log.wr + 1 < p.log.rd + Log.cap p ∧ (p.logpol = 1 → p.log.wr + 2 < p.log.rd + Log.cap p)
  memory : ∀ k, k < p.logbytes → backed (p.logbase + k) = true

end Sys2Proof.Claims

/-! ### The whole machine -/

/-- R27, R29, R33, R39, R48, R56, R57, R87, R93, R111, R129, R228 and R365: the machine right after reset, with the values that
the spec states. Every access table holds two entries, all rights for the package's system master, and rd, wr and ctrl for PF0, over
the whole package. What the spec states no value for is the model's choice and is not said here, but for memory, which lists nothing; memory
and every table are in canonical form. -/
def Obligations.ResetMachine : Prop :=
  let s := State.reset
  (∀ d, (s.die d).step = 2 ∧ (s.die d).cyc = 0 ∧ (s.die d).etime = 0 ∧ (s.die d).change = .none ∧ (s.die d).drops = 0 ∧
    (s.die d).rejects = 0 ∧ (s.die d).fifo = [] ∧ (s.die d).dbg.enable = false) ∧
  s.pkg.stage = 1 ∧ s.pkg.measure = [0, 0, 0, 0] ∧ s.pkg.snapshot = 0 ∧ s.host.powerLimit = 2200 ∧ s.host.migThreshold = 1024 ∧
  (∀ c, (s.core c).threads = [] ∧ (s.core c).vt = 0 ∧ (s.core c).nextTag = 1 ∧ (s.core c).dirty = [] ∧ (s.core c).sat = [] ∧
    (s.core c).trapQ = []) ∧
  Canonical s ∧ s.tasks = [] ∧ s.parts = [] ∧ s.regions = [] ∧ s.mem = [] ∧ s.bad = [] ∧
  (∀ base i w, s.tableWord base i w = if w = 1 then (if i < 2 then 0xFFFF0000 else 0)
    else if i = 0 then 0x80F0000000000000 + (2 ^ 15 + pkgOf base * 256) else if i = 1 then 0x80B0000000000000 + (2 ^ 14 + pkgOf base * 256) else 0)

/-- Every step keeps memory and every table in canonical form: equal contents stay equal data. -/
def Obligations.StepKeepsCanonical : Prop := ∀ s t, Canonical s → step s = .next t → Canonical t

/-- No step refuses or faults, whatever stands in memory, unless something other than another agent's step has been made due; and no
step writes an address that no memory backs (R16). -/
def Obligations.StepsAnswer : Prop :=
  (∀ s, (∀ i ∈ s.inputs, IsEvent i) → (∀ i ∈ s.pending, IsEvent i) → (∀ x ∈ s.timers, IsEvent x.ev) → ∃ t, step s = .next t) ∧
  (∀ s t a, backed a = false → step s = .next t → t.mem.get a = s.mem.get a)

/-- A step runs what is next: an input, a step of another agent that is due, or the instruction that the next thread's bytes decode
to, in the state in which that thread issues; a thread that waits in an instruction goes on with that one, which it does not fetch again;
a word that is no instruction traps ILL, one with an uncorrectable error ECCU, a breakpoint stops the thread by BRK, and a fetch outside
the code ends its task (R17, R87, R237, R267, R273). An input for a die that relocks waits (R26). Which of a due step and a thread comes
first is left open. -/
def Obligations.StepRunsDecodedInstruction : Prop :=
  ∀ s, let u := upNext s
    (∀ i r, u.inputs = i :: r → (u.pkg.tripped = false ∨ i.step = .packageReset) → u.runnable i = true →
      step s = exec i.step { u with cur := none, args := i.args, inputs := r }) ∧
    (∀ i r, u.inputs = i :: r → (u.pkg.tripped = false ∨ i.step = .packageReset) → u.runnable i = false →
      step s = .next { u with inputs := r, pending := u.pending ++ [i] }) ∧
    (∀ i r, u.inputs = i :: r → u.pkg.tripped = true → i.step ≠ .packageReset → step s = .next { u with inputs := r }) ∧
    (∀ i p x, u.inputs = [] → u.pkg.tripped = false → u.pkg.fatal = false → (u.pickThread = none ∨ u.pkg.frozen = true ∨ Config.threadFirst u.tick = false) →
      u.nextDue = some (i, p, x) → step s = exec i.step { u with cur := none, args := i.args, pending := p, timers := x }) ∧
    (∀ c sl th a i r, Fetches u c sl th → u.fetchAddr sl th = some a → u.memBad a 4 = none → decode (u.mem.bytes a 4) = .ok (i, r) →
      step s = exec i (issued u c sl th i)) ∧
    (∀ c sl th o, NextThread u c sl th → th.op = some o → step s = exec o.instr (issued u c sl th o.instr)) ∧
    (∀ c sl th a b, Fetches u c sl th → u.fetchAddr sl th = some a → u.memBad a 4 = some b →
      ∃ t th', step s = .next t ∧ t.thread? c sl = some th' ∧ th'.trapped = true ∧ th'.cause.toNat % 256 = ECCU ∧ th'.names = th.names) ∧
    (∀ c sl th a e, Fetches u c sl th → u.fetchAddr sl th = some a → u.memBad a 4 = none → decode (u.mem.bytes a 4) = .error e →
      ∃ t th', step s = .next t ∧ t.thread? c sl = some th' ∧ th'.trapped = true ∧ th'.cause.toNat % 256 = ILL ∧
        th'.eval = BitVec.ofNat 64 (u.mem.read a 4) ∧ th'.names = th.names) ∧
    (∀ c sl th, Fetches u c sl th → u.fetchAddr sl th = none → ∃ t th', step s = .next t ∧ t.thread? c sl = some th' ∧
      th'.status = .blocked ∧ th'.names = th.names ∧ ∀ n, u.task? th.task = some n → ∃ n', t.task? th.task = some n' ∧ n'.ending.isSome) ∧
    (∀ c sl th n, NextThread u c sl th → th.op = none → u.breakpoint c sl th = some n →
      ∃ t th', step s = .next t ∧ t.thread? c sl = some th' ∧ th'.trapped = true ∧ th'.cause.toNat % 256 = BRK ∧
        th'.eval = BitVec.ofNat 64 n ∧ th'.names = th.names) ∧
    (ThreadsTurn u → u.nextDue = none → u.pickThread = none → step s = .next u)

/-- R27, R28, R30, R242, R245 and R246: what passes on each die while n clocks do, n being left open: `cw.cyc` counts clocks and
`cw.etime` their time at the die's step; through a relock `cw.cyc` holds and `cw.etime` counts 144 on each of n ticks; a freeze holds
`cw.cyc`; and after a thermal trip nothing passes. Memory, tasks and partitions do not change by it. A core counts each clock in one
of its four ready buckets, by the threads that issue in it or could, and a thread that is not Finished counts each in one of its four
classes, those of its instruction's own steps as issued; while its partition is halted its classes hold. -/
def Obligations.TimePasses : Prop :=
  (∀ s d, d < 4 →
    let n := Config.clocks s.tick d
    let x := s.die d
    (s.pkg.tripped = true → (passTime s).1.die d = x) ∧
    (s.pkg.tripped = false → x.relocking = true → (passTime s).1.die d = { x with etime := x.etime + BitVec.ofNat 64 (144 * n) }) ∧
    (s.pkg.tripped = false → x.relocking = false → s.pkg.frozen = true →
      (passTime s).1.die d = { x with etime := x.etime + BitVec.ofNat 64 (etimeStep x.step * n) }) ∧
    (s.pkg.tripped = false → x.relocking = false → s.pkg.frozen = false →
      (passTime s).1.die d = { x with cyc := x.cyc + BitVec.ofNat 64 n, etime := x.etime + BitVec.ofNat 64 (etimeStep x.step * n) })) ∧
  (∀ s, (passTime s).1 = { s with
    tick := s.tick + 1, dies := (passTime s).1.dies, cores := (passTime s).1.cores, timers := (passTime s).1.timers }) ∧
  (∀ v, v < 5 → etimeStep v * stepMhz v = 14400) ∧
  (∀ (s : State) (c n : Nat) (cyc : Word64) (k : Core),
    let k' := s.clockCore c n cyc k
    k' = { k with readyNone := k'.readyNone, readyOne := k'.readyOne, readyTwo := k'.readyTwo, readyFour := k'.readyFour, threads := k'.threads } ∧
    k'.readyNone + k'.readyOne + k'.readyTwo + k'.readyFour = cyc.setWidth 16 ∧
    (∃ one two four, one + two + four ≤ n ∧ k'.readyOne = k.readyOne + BitVec.ofNat 16 one ∧
      k'.readyTwo = k.readyTwo + BitVec.ofNat 16 two ∧ k'.readyFour = k.readyFour + BitVec.ofNat 16 four)) ∧
  (∀ (s : State) (c : Nat) (cyc : Word64) (k : Core),
    k.readyNone + k.readyOne + k.readyTwo + k.readyFour = (cyc - 1).setWidth 16 →
    let r := (k.threads.filter (fun t => decide (t.1 < 15) &&
      (t.2.fresh || (t.2.op.isNone && s.couldIssue c t.1 t.2 && decide (t.2.busy = 0))))).length
    let k' := s.clockCore c 1 cyc k
    k'.readyNone = k.readyNone + (if r = 0 then 1 else 0) ∧ k'.readyOne = k.readyOne + (if r = 1 then 1 else 0) ∧
    k'.readyTwo = k.readyTwo + (if r = 2 ∨ r = 3 then 1 else 0) ∧ k'.readyFour = k.readyFour + (if 4 ≤ r then 1 else 0)) ∧
  (∀ (s : State) (c n : Nat) (cyc : Word64) (k : Core) (sl : Nat) (th : Thread), sl < 15 → look k.threads sl = some th →
    ∃ th', look (s.clockCore c n cyc k).threads sl = some th' ∧ th'.pc = th.pc ∧ th'.names = th.names ∧ th'.status = th.status ∧
      th'.busy = th.busy - n ∧
      (((s.partOfCore c).bind s.part?).any (·.halted) = true → th'.clsIssued = th.clsIssued ∧ th'.clsMemory = th.clsMemory ∧
        th'.clsMessage = th.clsMessage ∧ th'.clsVacant = th.clsVacant) ∧
      (((s.partOfCore c).bind s.part?).any (·.halted) = false → th.status ≠ .finished →
        th'.clsIssued + th'.clsMemory + th'.clsMessage + th'.clsVacant =
          th.clsIssued + th.clsMemory + th.clsMessage + th.clsVacant + BitVec.ofNat 16 n)) ∧
  (∀ (th : Thread) (cls n : Nat), cls < 4 →
    let m := BitVec.ofNat 16 n
    th.clocked cls n = { th with
      clsIssued := th.clsIssued + (if cls = 0 then m else 0), clsMemory := th.clsMemory + (if cls = 1 then m else 0)
      clsMessage := th.clsMessage + (if cls = 2 then m else 0), clsVacant := th.clsVacant + (if cls = 3 then m else 0) }) ∧
  (∀ busy log th, log ∈ [none, some 1, some 2] → (slotClass busy log th = 4 ↔ th.status = .finished) ∧ slotClass busy log th ≤ 4)

/-- Words decode to the instructions they stand for, one or more of every major of the map (R273): the words are those of the spec's own
examples, but for majors 0x04, 0x06, 0x08, 0x09, 0x0B and 0x1F, of which the spec writes none, or one form only: theirs are laid out by the
field tables of R268 and R270. -/
def Obligations.DecodedWords : Prop :=
  ∀ e ∈ ([(0x04310500, .add 3 4 5), (0x482FFFFE, .bt 2 524286), (0x00880000, .hintMod 1 0), (0x30104100, .fadd 1 1 1),
      (0x00523456, .hintImm 0x123456), (0x0830C789, .addi 3 3 0x789), (0x54080000, .ret), (0x57940000, .callr 57), (0x4C000006, .call 6),
      (0x544FFFFD, .dbnz 4 262141), (0x280E0000, .mapld 56 0), (0x28001009, .resz 0 0 9), (0x28003002, .pol 0 2), (0x2C518402, .unpk 5 6 4),
      (0xA0105010, .mma 4 5 0 1), (0xA1105100, .mmas 4 5 8 0), (0xA4000000, .mzero 0), (0xB0928004, .jstat 9 10), (0xC0C00203, .tidq 12 2),
      (0xC4034E00, .vtsend 13 14), (0xC8054400, .trap 21 4), (0xC8000007, .halt), (0x0FFEC002, .shli 63 59 2), (0x10108300, .ceq 1 2 3), (0x1420203F, .clti 2 0 63),
      (0x18108300, .mul 1 2 3), (0x1F940000, .sethi 57 0x40000), (0x20100005, .addpc 1 5), (0x24108000, .clz 1 2), (0x2C108000, .cvt 1 2),
      (0x34414600, .fma 4 5 6), (0x38720001, .flog2 7 8), (0x3C20C009, .rfmaxi 2 3), (0x40928B00, .vtopk 9 10 11),
      (0x40F28B03, .vsamp 15 10 11), (0x44C34E00, .rng 12 13 14), (0x50000003, .jmp 3), (0x57900000, .jr 57), (0x60311003, .ld 3 4 2 3),
      (0x67FE1801, .st 63 56 3 1), (0x6C614FE0, .stv 6 5 1 0x7E0), (0x70417808, .ldxv 4 5 3 8), (0x73FE5800, .ldx 63 57 3 0),
      (0x740FC000, .stx 0 63 0 0), (0x78721800, .ldg 7 8 3 0), (0x7C721800, .stg 7 8 3 0), (0x83FE4002, .amoAdd 63 57 0 0 2),
      (0x8031059E, .amoCas 3 4 5 3 2), (0x8400000A, .fence 2 2), (0x84000010, .aliasf), (0x84000020, .fencec), (0x88024403, .barCfg 9 4),
      (0x88000402, .barSync 4), (0x88000A04, .acqs 10), (0x88700207, .qget 7 2), (0x8C028B00, .send 10 11), (0x8CC28D03, .recvt 12 10 13),
      (0x90E3D001, .waitwX 14 15 16), (0x94050400, .lease 20 4), (0x94000901, .leaseRel 9), (0xA5180000, .maccrd 6 0),
      (0xA71C0800, .scacc 7 1 0), (0xA8105300, .mldb 4 5 3), (0xB0020000, .cpy 8), (0xC002C000, .spawn 11), (0xC8058101, .scall 22 1),
      (0xC9800403, .cwr 24 0 4), (0xC8064604, .cww 0 25 6), (0xC9A00005, .snap 26)] : List (Nat × Instr)),
    decode (wordBytes e.1) = .ok (e.2, [])

/-- Every well-formed instruction of a thread is read back from its word, every operand at every value that its field admits (R268 to
R273). -/
def Obligations.RoundTrip : Prop := ∀ i, Laws.RoundTrip.Statement i

/-- Every word that the decoder accepts is the word of the instruction it stands for, which is well formed: no two words decode to
one instruction, and no reserved bit is passed over (R272). -/
def Obligations.DecodeInverse : Prop := ∀ w i, w < 2 ^ 32 → decodeWord w = .ok i → i.wf ∧ encode i = some w

/-- R93, R95 and R106: a name reads what was last written to it; writes to zr are discarded and it reads zero; no write of a name
changes another name, tid, ta or cid, and a windowed name is written in its own frame alone. -/
def Obligations.NamesHold : Prop :=
  ∀ (th : Thread) (vt : Word64) (n : Nat) (v : List Nat),
    (∀ f, n < 56 → th.field? n = some f → (th.setLanes n v).lanes vt n = v) ∧
    (n < 56 → (th.setLanes n v).desc? n = th.desc? n) ∧
    (∀ m, m ≠ n → (th.setLanes n v).lanes vt m = th.lanes vt m ∧ (th.setLanes n v).desc? m = th.desc? m) ∧
    (∀ e j, look th.names n = some e → e.desc.win = true → j ≠ th.depth % 4 → ∃ e', look (th.setLanes n v).names n = some e' ∧ e'.fields[j]? = e.fields[j]?) ∧
    (n = 57 ∨ n = 58 ∨ n = 63 → (th.setLanes n v).lanes vt n = [v.headD 0 % 2 ^ 64]) ∧
    th.lanes vt 56 = [0] ∧ th.setLanes 56 v = th ∧ th.lanes vt 59 = [th.tid.toNat] ∧ th.lanes vt 60 = [th.ta.toNat] ∧
    th.lanes vt 61 = [th.cid.toNat] ∧ th.lanes vt 62 = [vt.toNat] ∧
    (th.setLanes n v).tid = th.tid ∧ (th.setLanes n v).ta = th.ta ∧ (th.setLanes n v).cid = th.cid ∧ (th.setLanes n v).pc = th.pc ∧
    (56 ≤ n → n ≤ 63 → th.desc? n = some { width := 64, lanes := 1, kind := .uns, pol := .wrap, win := false })

/-- R380: `trap` raises its cause with lane 0 of a; a cause that no handler may take raises ILL with the word, before any other
check and whatever a is. -/
def Obligations.TrapInstruction : Prop :=
  let takes := fun b : Nat => (1 ≤ b ∧ b ≤ 19) ∧ b ≠ DIVERGE ∧ b ≠ BRK ∧ b ≠ WATCH
  (∀ s x a b da, Issues s (.trap a b) x → takes b → Operand x a isInt da →
    exec (.trap a b) s = .next (trapped s x b ((val x a).headD 0))) ∧
  (∀ (s : State) (x : Ctx) a b, s.cur = some (x.c, x.sl) → s.ctx? x.c x.sl (.trap a b) = some x → ¬takes b →
    exec (.trap a b) s = .next (trapped s x ILL x.word))

/-- R303: `dbnz` takes one from lane 0 of its counter by fit(), leaves the other lanes, and is taken while the result is not zero;
a counter whose policy admits no result traps OVF at lane 0, and a target outside the code ends the task with the counter as it was. -/
def Obligations.CountedLoops : Prop :=
  ∀ s x c disp d, Issues s (.dbnz c disp) x → Operand x c isInt d →
    let v := fitInt d (rdS d ((val x c).headD 0) - 1)
    let goal : Int := x.th.pc + 4 * signed 18 disp
    (∀ n pc, Untraced s x.c x.sl → v = some n → n ≠ 0 → x.target goal = .ok pc →
      exec (.dbnz c disp) s = .next (withThread s x.c x.sl ((x.th.setLanes c (n :: (val x c).drop 1)).retire pc))) ∧
    (∀ n pc, s.traced x.c x.sl = true → v = some n → n ≠ 0 → x.target goal = .ok pc → ∃ t, exec (.dbnz c disp) s = .next t ∧
      t.thread? x.c x.sl = some ((x.th.setLanes c (n :: (val x c).drop 1)).retire pc) ∧ t.loc = s.loc) ∧
    (v = some 0 → exec (.dbnz c disp) s = .next (retired s x (x.th.setLanes c (0 :: (val x c).drop 1)))) ∧
    (v = none → exec (.dbnz c disp) s = .next (trapped s x OVF 0)) ∧
    (∀ n lane adr reason, v = some n → n ≠ 0 → x.target goal = extent reason lane adr → ∃ t, exec (.dbnz c disp) s = .next t ∧
      t.thread? x.c x.sl = some { x.th with status := .blocked, op := none, hint := none, logWait := false, saw := [] } ∧
      (∀ k, s.task? x.th.task = some k → k.ending = none → ⟨.taskExtentEnd, [x.th.task]⟩ ∈ t.pending ∧ t.task? x.th.task =
        some { k with ending := some { thread := x.th.tid.toNat, lane := lane, reason := reason, adr := adr } }) ∧
      t.mem = s.mem ∧ t.loc = s.loc) ∧
    (x.th.pc % 4 = 0 → ∀ a, x.target goal ≠ trap ALIGN a)

/-- R243 and R244: the records of a traced thread: kind 2 of a taken branch or `dbnz`, 3 of a jump by name, a call by name and a return,
also of one that was held for its frame, 4 of a trap, at the hint where one binds the word; each is written whole at the ring's next place, or is lost where it finds the trace queue full. -/
def Obligations.TraceRecords : Prop :=
  (∀ s x c disp d pc t, Issues s (.bt c disp) x → Operand x c isPred d → (val x c).headD 0 = 1 →
    x.target (x.th.pc + 4 * signed 19 disp) = .ok pc → exec (.bt c disp) s = .next t → Recorded s t x.c x.sl 2 (x.th.pc % 2 ^ 56)) ∧
  (∀ s x c disp d pc t, Issues s (.bf c disp) x → Operand x c isPred d → (val x c).headD 0 = 0 →
    x.target (x.th.pc + 4 * signed 19 disp) = .ok pc → exec (.bf c disp) s = .next t → Recorded s t x.c x.sl 2 (x.th.pc % 2 ^ 56)) ∧
  (∀ s x c disp d n pc t, Issues s (.dbnz c disp) x → Operand x c isInt d → fitInt d (rdS d ((val x c).headD 0) - 1) = some n → n ≠ 0 →
    x.target (x.th.pc + 4 * signed 18 disp) = .ok pc → exec (.dbnz c disp) s = .next t → Recorded s t x.c x.sl 2 (x.th.pc % 2 ^ 56)) ∧
  (∀ s x c d pc t, Issues s (.jr c) x → Operand x c isInt d → x.target ((val x c).headD 0) = .ok pc → exec (.jr c) s = .next t →
    Recorded s t x.c x.sl 3 (pc % 2 ^ 56)) ∧
  (∀ s x c d pc t, Issues s (.callr c) x → Operand x c isInt d → x.target ((val x c).headD 0) = .ok pc → x.th.depth ≠ 65535 → NoSpill x →
    exec (.callr c) s = .next t → Recorded s t x.c x.sl 3 (pc % 2 ^ 56)) ∧
  (∀ s x pc t, Issues s .ret x → x.target x.th.lk.toNat = .ok pc → x.th.depth = 0 → exec .ret s = .next t →
    Recorded s t x.c x.sl 3 (pc % 2 ^ 56)) ∧
  (∀ s x pc t, Issues s .ret x → x.target x.th.lk.toNat = .ok pc → x.th.depth ≠ 0 → x.th.depth - 1 ∉ x.th.spilled →
    (x.th.depth < 4 ∨ x.th.depth - 4 ∉ x.th.spilled ∨
      (let a := x.th.ws.toNat + 8 * x.th.frameLanes * x.th.fill.length
       a % 8 = 0 ∧ x.inRun a (8 * x.th.frameLanes) = true ∧ x.runRace a (8 * x.th.frameLanes) false false = .ok () ∧
         x.runEcc a (8 * x.th.frameLanes) = .ok ())) →
    exec .ret s = .next t → Recorded s t x.c x.sl 3 (pc % 2 ^ 56)) ∧
  (∀ s c sl x pc t, s.args = [c, sl] → s.opCtx? c sl = some (x, [pc]) → (∃ n, x.i = .callr n) → x.th.status = .held →
    x.frameEcc ((x.th.depth - 3) % 4) = .ok () → exec .frameSpillDone s = .next t → Recorded s t c sl 3 (pc % 2 ^ 56)) ∧
  (∀ s c sl x a pc t, s.args = [c, sl] → s.opCtx? c sl = some (x, [pc]) → x.i = .ret → x.th.status = .held →
    x.th.fill = [(x.th.depth - 1, a)] → (x.th.depth < 4 ∨ x.th.depth - 4 ∉ x.th.spilled) → exec .frameFillDone s = .next t →
    Recorded s t c sl 3 (pc % 2 ^ 56)) ∧
  (∀ s i x cause eval, Issues s i x → cause < 256 →
    Recorded s (trapped s x cause eval) x.c x.sl 4 (cause * 2 ^ 56 + (if x.th.hint.isSome then x.th.pc - 4 else x.th.pc) % 2 ^ 56)) ∧
  (∀ s c sl, Untraced s c sl → ∀ k w, ((begin s).trace c sl k w).1 = s)

/-- R210, R212 to R216, R221 and R222, by the `qtry` of an empty queue: under record its record stands in the ring's next slot, and
then wr advances; under replay it waits while the next record of its core is another agent's, passes its own, and stops by DIVERGE, with
the record's number and nothing else changed, where the two differ or no record is left. -/
def Obligations.LoggedOperations : Prop :=
  ∀ s x d b dd n p, Issues s (.qtry d b) x → Dest x d isAny dd → x.syncBad (0x500 + 8 * b) = .ok () → (x.k.queue b).vals = [] →
    x.c < 512 → x.sl < 15 → b < 32 → s.core x.c = x.k →
    let hash := crc32c (leBytes b 1 ++ leBytes 0 8) % 65536
    let after := match x.th.lastRec with | some (a, q) => a * 2 ^ 52 + q * 2 ^ 20 | none => 0xFFF * 2 ^ 52
    let seq := lookD p.log.seqs x.c 0 + 1
    let at_ := p.logbase + 64 + p.log.wr % Log.cap p * 16
    (Recording s x n p → seq < 2 ^ 32 → p.log.wr + 1 < 2 ^ 64 → (∀ a q, x.th.lastRec = some (a, q) → a < 4096 ∧ q < 2 ^ 32) →
      ∃ t q, exec (.qtry d b) s = .next t ∧
        t.thread? x.c x.sl = some { (x.th.replied 1 0).retire (x.th.pc + 4) with lastRec := some (x.c, seq) } ∧
        t.mem.read at_ 8 = 5 * 2 ^ 60 + x.c * 2 ^ 48 + seq * 2 ^ 16 + x.c * 16 + x.sl ∧
        t.mem.read (at_ + 8) 8 = after + 2 * 65536 + hash ∧ t.mem.read p.logbase 8 = p.log.wr + 1 ∧
        t.part? n = some q ∧ q.log.wr = p.log.wr + 1 ∧ lookD q.log.seqs x.c 0 = seq ∧
        ∀ k, ¬(at_ ≤ k ∧ k < at_ + 16) → ¬(p.logbase ≤ k ∧ k < p.logbase + 8) → t.mem.get k = s.mem.get k) ∧
    (x.part = some n → s.part? n = some p → p.mode = 2 →
      (∀ q w0 w1, s.nextRecord p x.c = some (q, w0, w1) → bits w1 63 52 = 0xFFF →
        ((bits w0 15 13 ≠ 0 ∨ bits w0 12 4 ≠ x.c ∨ bits w0 3 0 ≠ x.sl) →
          ∃ t, exec (.qtry d b) s = .next t ∧ t.thread? x.c x.sl = some { x.th.wait (.qtry d b) x.hint .blocked [] with logWait := true } ∧
            t.mem = s.mem ∧ t.loc = s.loc) ∧
        (bits w0 15 13 = 0 → bits w0 12 4 = x.c → bits w0 3 0 = x.sl →
          (bits w0 63 60 = 5 → bits w1 19 16 = 2 → bits w1 15 0 = hash →
            ∃ t g, exec (.qtry d b) s = .next t ∧
              t.thread? x.c x.sl = some { (x.th.replied 1 0).retire (x.th.pc + 4) with lastRec := some (x.c, q) } ∧
              t.part? n = some g ∧ lookD g.log.seqs x.c 0 = q ∧ t.mem = s.mem ∧ t.loc = s.loc) ∧
          (bits w0 63 60 ≠ 5 ∨ bits w1 19 16 ≠ 2 ∨ bits w1 15 0 ≠ hash → Untraced s x.c x.sl →
            ∃ t th, exec (.qtry d b) s = .next t ∧ t.thread? x.c x.sl = some th ∧ th.trapped = true ∧ th.cause.toNat % 256 = DIVERGE ∧
              th.eval = BitVec.ofNat 64 q ∧ th.names = x.th.names ∧ th.st = x.th.st))) ∧
      (s.nextRecord p x.c = none → bit (s.mem.read (p.logbase + 20) 4) flagMarked = false → Untraced s x.c x.sl →
        ∃ t th, exec (.qtry d b) s = .next t ∧ t.thread? x.c x.sl = some th ∧ th.trapped = true ∧ th.cause.toNat % 256 = DIVERGE ∧
          th.eval = BitVec.ofNat 64 (s.recordCount p x.c + 1)))
end

