-- ==== Sys2Proof/Laws/State.lean ====
section
/-!
SUPPORT. What each update of the state and of a thread leaves in each field: one lemma per field per update, so that no
later proof unfolds a record update.
-/

namespace Sys2Proof.Machine

/-! ### The acts -/

@[simp] theorem Act.apply_mem (s : State) (a b) :
    Act.apply s (.mem a b) = { s with mem := if backed a then s.mem.set a b else s.mem } := rfl
@[simp] theorem Act.apply_loc (s : State) (a b) :
    Act.apply s (.loc a b) = { s with loc := if inLocal a then s.loc.set a b else s.loc } := rfl
@[simp] theorem Act.apply_core (s : State) (c k) : Act.apply s (.core c k) = { s with cores := put s.cores c k } := rfl
@[simp] theorem Act.apply_task (s : State) (n x) :
    Act.apply s (.task n x) = { s with tasks := putOrDel s.tasks n x } := rfl
@[simp] theorem Act.apply_part (s : State) (n x) :
    Act.apply s (.part n x) = { s with parts := putOrDel s.parts n x } := rfl
@[simp] theorem Act.apply_region (s : State) (a x) :
    Act.apply s (.region a x) = { s with regions := putOrDel s.regions a x } := rfl
@[simp] theorem Act.apply_page (s : State) (n x) : Act.apply s (.page n x) = { s with pages := put s.pages n x } := rfl
@[simp] theorem Act.apply_job (s : State) (n x) : Act.apply s (.job n x) = { s with jobs := putOrDel s.jobs n x } := rfl
@[simp] theorem Act.apply_barUnit (s : State) (n x) :
    Act.apply s (.barUnit n x) = { s with barUnits := put s.barUnits n x } := rfl
@[simp] theorem Act.apply_die (s : State) (d x) : Act.apply s (.die d x) = { s with dies := put s.dies d x } := rfl
@[simp] theorem Act.apply_notices (s : State) (c x) :
    Act.apply s (.notices c x) = { s with notices := put s.notices c x } := rfl
@[simp] theorem Act.apply_link (s : State) (n x) : Act.apply s (.link n x) = { s with links := put s.links n x } := rfl
@[simp] theorem Act.apply_unsent (s : State) (n x) :
    Act.apply s (.unsent n x) = { s with unsent := put s.unsent n x } := rfl
@[simp] theorem Act.apply_pkg (s : State) (x) : Act.apply s (.pkg x) = { s with pkg := x } := rfl
@[simp] theorem Act.apply_host (s : State) (x) : Act.apply s (.host x) = { s with host := x } := rfl
@[simp] theorem Act.apply_acl (s : State) (o v) : Act.apply s (.acl o v) = { s with acl := put s.acl o v } := rfl
@[simp] theorem Act.apply_heads (s : State) (a x) :
    Act.apply s (.heads a x) = { s with heads := put s.heads a x } := rfl
@[simp] theorem Act.apply_errors (s : State) (b c) :
    Act.apply s (.errors b c) = { s with bad := b, corrected := c } := rfl
@[simp] theorem Act.apply_cur (s : State) (x a n) :
    Act.apply s (.cur x a n) = { s with cur := x, args := a, turn := n } := rfl
@[simp] theorem Act.apply_counts (s : State) (a t j g r) :
    Act.apply s (.counts a t j g r) = { s with agents := a, taskCount := t, jobCount := j, graphCount := g, releases := r } := rfl
@[simp] theorem Act.apply_agenda (s : State) (n i p t) :
    Act.apply s (.agenda n i p t) = { s with tick := n, inputs := i, pending := p, timers := t } := rfl
@[simp] theorem Act.apply_frameChoice (s : State) (x) :
    Act.apply s (.frameChoice x) = { s with frameChoice := x } := rfl
@[simp] theorem Act.apply_reset (s : State) : Act.apply s (.reset) = s.packageReset := rfl

@[simp] theorem begin_val (s : State) : (begin s).1 = s := rfl
@[simp] theorem Trail.act_val {s : State} (t : Trail s) (a : Act) : (t.act a).1 = a.apply t.1 := rfl
@[simp] theorem done_eq {s : State} (t : Trail s) : done t = .next t.1 := rfl

/-! ### A core, a thread and the agenda -/

@[simp] theorem Trail.setCore_cores {s : State} (t : Trail s) (c : Nat) (k : Core) :
    (t.setCore c k).1.cores = put t.1.cores c k := rfl
@[simp] theorem Trail.setCore_mem {s : State} (t : Trail s) (c : Nat) (k : Core) :
    (t.setCore c k).1.mem = t.1.mem := rfl
@[simp] theorem Trail.setCore_loc {s : State} (t : Trail s) (c : Nat) (k : Core) :
    (t.setCore c k).1.loc = t.1.loc := rfl
@[simp] theorem Trail.setCore_tasks {s : State} (t : Trail s) (c : Nat) (k : Core) :
    (t.setCore c k).1.tasks = t.1.tasks := rfl
@[simp] theorem Trail.setCore_parts {s : State} (t : Trail s) (c : Nat) (k : Core) :
    (t.setCore c k).1.parts = t.1.parts := rfl
@[simp] theorem Trail.setCore_regions {s : State} (t : Trail s) (c : Nat) (k : Core) :
    (t.setCore c k).1.regions = t.1.regions := rfl
@[simp] theorem Trail.setCore_pages {s : State} (t : Trail s) (c : Nat) (k : Core) :
    (t.setCore c k).1.pages = t.1.pages := rfl
@[simp] theorem Trail.setCore_jobs {s : State} (t : Trail s) (c : Nat) (k : Core) :
    (t.setCore c k).1.jobs = t.1.jobs := rfl
@[simp] theorem Trail.setCore_barUnits {s : State} (t : Trail s) (c : Nat) (k : Core) :
    (t.setCore c k).1.barUnits = t.1.barUnits := rfl
@[simp] theorem Trail.setCore_dies {s : State} (t : Trail s) (c : Nat) (k : Core) :
    (t.setCore c k).1.dies = t.1.dies := rfl
@[simp] theorem Trail.setCore_notices {s : State} (t : Trail s) (c : Nat) (k : Core) :
    (t.setCore c k).1.notices = t.1.notices := rfl
@[simp] theorem Trail.setCore_links {s : State} (t : Trail s) (c : Nat) (k : Core) :
    (t.setCore c k).1.links = t.1.links := rfl
@[simp] theorem Trail.setCore_unsent {s : State} (t : Trail s) (c : Nat) (k : Core) :
    (t.setCore c k).1.unsent = t.1.unsent := rfl
@[simp] theorem Trail.setCore_pkg {s : State} (t : Trail s) (c : Nat) (k : Core) :
    (t.setCore c k).1.pkg = t.1.pkg := rfl
@[simp] theorem Trail.setCore_host {s : State} (t : Trail s) (c : Nat) (k : Core) :
    (t.setCore c k).1.host = t.1.host := rfl
@[simp] theorem Trail.setCore_acl {s : State} (t : Trail s) (c : Nat) (k : Core) :
    (t.setCore c k).1.acl = t.1.acl := rfl
@[simp] theorem Trail.setCore_heads {s : State} (t : Trail s) (c : Nat) (k : Core) :
    (t.setCore c k).1.heads = t.1.heads := rfl
@[simp] theorem Trail.setCore_bad {s : State} (t : Trail s) (c : Nat) (k : Core) :
    (t.setCore c k).1.bad = t.1.bad := rfl
@[simp] theorem Trail.setCore_corrected {s : State} (t : Trail s) (c : Nat) (k : Core) :
    (t.setCore c k).1.corrected = t.1.corrected := rfl
@[simp] theorem Trail.setCore_cur {s : State} (t : Trail s) (c : Nat) (k : Core) :
    (t.setCore c k).1.cur = t.1.cur := rfl
@[simp] theorem Trail.setCore_args {s : State} (t : Trail s) (c : Nat) (k : Core) :
    (t.setCore c k).1.args = t.1.args := rfl
@[simp] theorem Trail.setCore_turn {s : State} (t : Trail s) (c : Nat) (k : Core) :
    (t.setCore c k).1.turn = t.1.turn := rfl
@[simp] theorem Trail.setCore_agents {s : State} (t : Trail s) (c : Nat) (k : Core) :
    (t.setCore c k).1.agents = t.1.agents := rfl
@[simp] theorem Trail.setCore_taskCount {s : State} (t : Trail s) (c : Nat) (k : Core) :
    (t.setCore c k).1.taskCount = t.1.taskCount := rfl
@[simp] theorem Trail.setCore_jobCount {s : State} (t : Trail s) (c : Nat) (k : Core) :
    (t.setCore c k).1.jobCount = t.1.jobCount := rfl
@[simp] theorem Trail.setCore_graphCount {s : State} (t : Trail s) (c : Nat) (k : Core) :
    (t.setCore c k).1.graphCount = t.1.graphCount := rfl
@[simp] theorem Trail.setCore_releases {s : State} (t : Trail s) (c : Nat) (k : Core) :
    (t.setCore c k).1.releases = t.1.releases := rfl
@[simp] theorem Trail.setCore_tick {s : State} (t : Trail s) (c : Nat) (k : Core) :
    (t.setCore c k).1.tick = t.1.tick := rfl
@[simp] theorem Trail.setCore_inputs {s : State} (t : Trail s) (c : Nat) (k : Core) :
    (t.setCore c k).1.inputs = t.1.inputs := rfl
@[simp] theorem Trail.setCore_pending {s : State} (t : Trail s) (c : Nat) (k : Core) :
    (t.setCore c k).1.pending = t.1.pending := rfl
@[simp] theorem Trail.setCore_timers {s : State} (t : Trail s) (c : Nat) (k : Core) :
    (t.setCore c k).1.timers = t.1.timers := rfl
@[simp] theorem Trail.setCore_frameChoice {s : State} (t : Trail s) (c : Nat) (k : Core) :
    (t.setCore c k).1.frameChoice = t.1.frameChoice := rfl

@[simp] theorem Trail.setThread_cores {s : State} (t : Trail s) (c sl : Nat) (th : Thread) :
    (t.setThread c sl th).1.cores = put t.1.cores c { t.1.core c with threads := put (t.1.core c).threads sl th } := rfl
@[simp] theorem Trail.setThread_mem {s : State} (t : Trail s) (c sl : Nat) (th : Thread) :
    (t.setThread c sl th).1.mem = t.1.mem := rfl
@[simp] theorem Trail.setThread_loc {s : State} (t : Trail s) (c sl : Nat) (th : Thread) :
    (t.setThread c sl th).1.loc = t.1.loc := rfl
@[simp] theorem Trail.setThread_tasks {s : State} (t : Trail s) (c sl : Nat) (th : Thread) :
    (t.setThread c sl th).1.tasks = t.1.tasks := rfl
@[simp] theorem Trail.setThread_parts {s : State} (t : Trail s) (c sl : Nat) (th : Thread) :
    (t.setThread c sl th).1.parts = t.1.parts := rfl
@[simp] theorem Trail.setThread_regions {s : State} (t : Trail s) (c sl : Nat) (th : Thread) :
    (t.setThread c sl th).1.regions = t.1.regions := rfl
@[simp] theorem Trail.setThread_pages {s : State} (t : Trail s) (c sl : Nat) (th : Thread) :
    (t.setThread c sl th).1.pages = t.1.pages := rfl
@[simp] theorem Trail.setThread_jobs {s : State} (t : Trail s) (c sl : Nat) (th : Thread) :
    (t.setThread c sl th).1.jobs = t.1.jobs := rfl
@[simp] theorem Trail.setThread_barUnits {s : State} (t : Trail s) (c sl : Nat) (th : Thread) :
    (t.setThread c sl th).1.barUnits = t.1.barUnits := rfl
@[simp] theorem Trail.setThread_dies {s : State} (t : Trail s) (c sl : Nat) (th : Thread) :
    (t.setThread c sl th).1.dies = t.1.dies := rfl
@[simp] theorem Trail.setThread_notices {s : State} (t : Trail s) (c sl : Nat) (th : Thread) :
    (t.setThread c sl th).1.notices = t.1.notices := rfl
@[simp] theorem Trail.setThread_links {s : State} (t : Trail s) (c sl : Nat) (th : Thread) :
    (t.setThread c sl th).1.links = t.1.links := rfl
@[simp] theorem Trail.setThread_unsent {s : State} (t : Trail s) (c sl : Nat) (th : Thread) :
    (t.setThread c sl th).1.unsent = t.1.unsent := rfl
@[simp] theorem Trail.setThread_pkg {s : State} (t : Trail s) (c sl : Nat) (th : Thread) :
    (t.setThread c sl th).1.pkg = t.1.pkg := rfl
@[simp] theorem Trail.setThread_host {s : State} (t : Trail s) (c sl : Nat) (th : Thread) :
    (t.setThread c sl th).1.host = t.1.host := rfl
@[simp] theorem Trail.setThread_acl {s : State} (t : Trail s) (c sl : Nat) (th : Thread) :
    (t.setThread c sl th).1.acl = t.1.acl := rfl
@[simp] theorem Trail.setThread_heads {s : State} (t : Trail s) (c sl : Nat) (th : Thread) :
    (t.setThread c sl th).1.heads = t.1.heads := rfl
@[simp] theorem Trail.setThread_bad {s : State} (t : Trail s) (c sl : Nat) (th : Thread) :
    (t.setThread c sl th).1.bad = t.1.bad := rfl
@[simp] theorem Trail.setThread_corrected {s : State} (t : Trail s) (c sl : Nat) (th : Thread) :
    (t.setThread c sl th).1.corrected = t.1.corrected := rfl
@[simp] theorem Trail.setThread_cur {s : State} (t : Trail s) (c sl : Nat) (th : Thread) :
    (t.setThread c sl th).1.cur = t.1.cur := rfl
@[simp] theorem Trail.setThread_args {s : State} (t : Trail s) (c sl : Nat) (th : Thread) :
    (t.setThread c sl th).1.args = t.1.args := rfl
@[simp] theorem Trail.setThread_turn {s : State} (t : Trail s) (c sl : Nat) (th : Thread) :
    (t.setThread c sl th).1.turn = t.1.turn := rfl
@[simp] theorem Trail.setThread_agents {s : State} (t : Trail s) (c sl : Nat) (th : Thread) :
    (t.setThread c sl th).1.agents = t.1.agents := rfl
@[simp] theorem Trail.setThread_taskCount {s : State} (t : Trail s) (c sl : Nat) (th : Thread) :
    (t.setThread c sl th).1.taskCount = t.1.taskCount := rfl
@[simp] theorem Trail.setThread_jobCount {s : State} (t : Trail s) (c sl : Nat) (th : Thread) :
    (t.setThread c sl th).1.jobCount = t.1.jobCount := rfl
@[simp] theorem Trail.setThread_graphCount {s : State} (t : Trail s) (c sl : Nat) (th : Thread) :
    (t.setThread c sl th).1.graphCount = t.1.graphCount := rfl
@[simp] theorem Trail.setThread_releases {s : State} (t : Trail s) (c sl : Nat) (th : Thread) :
    (t.setThread c sl th).1.releases = t.1.releases := rfl
@[simp] theorem Trail.setThread_tick {s : State} (t : Trail s) (c sl : Nat) (th : Thread) :
    (t.setThread c sl th).1.tick = t.1.tick := rfl
@[simp] theorem Trail.setThread_inputs {s : State} (t : Trail s) (c sl : Nat) (th : Thread) :
    (t.setThread c sl th).1.inputs = t.1.inputs := rfl
@[simp] theorem Trail.setThread_pending {s : State} (t : Trail s) (c sl : Nat) (th : Thread) :
    (t.setThread c sl th).1.pending = t.1.pending := rfl
@[simp] theorem Trail.setThread_timers {s : State} (t : Trail s) (c sl : Nat) (th : Thread) :
    (t.setThread c sl th).1.timers = t.1.timers := rfl
@[simp] theorem Trail.setThread_frameChoice {s : State} (t : Trail s) (c sl : Nat) (th : Thread) :
    (t.setThread c sl th).1.frameChoice = t.1.frameChoice := rfl

@[simp] theorem Trail.pend_pending {s : State} (t : Trail s) (i : Instr) (l : List Nat) :
    (t.pend i l).1.pending = t.1.pending ++ [⟨i, l⟩] := rfl
@[simp] theorem Trail.pend_mem {s : State} (t : Trail s) (i : Instr) (l : List Nat) :
    (t.pend i l).1.mem = t.1.mem := rfl
@[simp] theorem Trail.pend_loc {s : State} (t : Trail s) (i : Instr) (l : List Nat) :
    (t.pend i l).1.loc = t.1.loc := rfl
@[simp] theorem Trail.pend_cores {s : State} (t : Trail s) (i : Instr) (l : List Nat) :
    (t.pend i l).1.cores = t.1.cores := rfl
@[simp] theorem Trail.pend_tasks {s : State} (t : Trail s) (i : Instr) (l : List Nat) :
    (t.pend i l).1.tasks = t.1.tasks := rfl
@[simp] theorem Trail.pend_parts {s : State} (t : Trail s) (i : Instr) (l : List Nat) :
    (t.pend i l).1.parts = t.1.parts := rfl
@[simp] theorem Trail.pend_regions {s : State} (t : Trail s) (i : Instr) (l : List Nat) :
    (t.pend i l).1.regions = t.1.regions := rfl
@[simp] theorem Trail.pend_pages {s : State} (t : Trail s) (i : Instr) (l : List Nat) :
    (t.pend i l).1.pages = t.1.pages := rfl
@[simp] theorem Trail.pend_jobs {s : State} (t : Trail s) (i : Instr) (l : List Nat) :
    (t.pend i l).1.jobs = t.1.jobs := rfl
@[simp] theorem Trail.pend_barUnits {s : State} (t : Trail s) (i : Instr) (l : List Nat) :
    (t.pend i l).1.barUnits = t.1.barUnits := rfl
@[simp] theorem Trail.pend_dies {s : State} (t : Trail s) (i : Instr) (l : List Nat) :
    (t.pend i l).1.dies = t.1.dies := rfl
@[simp] theorem Trail.pend_notices {s : State} (t : Trail s) (i : Instr) (l : List Nat) :
    (t.pend i l).1.notices = t.1.notices := rfl
@[simp] theorem Trail.pend_links {s : State} (t : Trail s) (i : Instr) (l : List Nat) :
    (t.pend i l).1.links = t.1.links := rfl
@[simp] theorem Trail.pend_unsent {s : State} (t : Trail s) (i : Instr) (l : List Nat) :
    (t.pend i l).1.unsent = t.1.unsent := rfl
@[simp] theorem Trail.pend_pkg {s : State} (t : Trail s) (i : Instr) (l : List Nat) :
    (t.pend i l).1.pkg = t.1.pkg := rfl
@[simp] theorem Trail.pend_host {s : State} (t : Trail s) (i : Instr) (l : List Nat) :
    (t.pend i l).1.host = t.1.host := rfl
@[simp] theorem Trail.pend_acl {s : State} (t : Trail s) (i : Instr) (l : List Nat) :
    (t.pend i l).1.acl = t.1.acl := rfl
@[simp] theorem Trail.pend_heads {s : State} (t : Trail s) (i : Instr) (l : List Nat) :
    (t.pend i l).1.heads = t.1.heads := rfl
@[simp] theorem Trail.pend_bad {s : State} (t : Trail s) (i : Instr) (l : List Nat) :
    (t.pend i l).1.bad = t.1.bad := rfl
@[simp] theorem Trail.pend_corrected {s : State} (t : Trail s) (i : Instr) (l : List Nat) :
    (t.pend i l).1.corrected = t.1.corrected := rfl
@[simp] theorem Trail.pend_cur {s : State} (t : Trail s) (i : Instr) (l : List Nat) :
    (t.pend i l).1.cur = t.1.cur := rfl
@[simp] theorem Trail.pend_args {s : State} (t : Trail s) (i : Instr) (l : List Nat) :
    (t.pend i l).1.args = t.1.args := rfl
@[simp] theorem Trail.pend_turn {s : State} (t : Trail s) (i : Instr) (l : List Nat) :
    (t.pend i l).1.turn = t.1.turn := rfl
@[simp] theorem Trail.pend_agents {s : State} (t : Trail s) (i : Instr) (l : List Nat) :
    (t.pend i l).1.agents = t.1.agents := rfl
@[simp] theorem Trail.pend_taskCount {s : State} (t : Trail s) (i : Instr) (l : List Nat) :
    (t.pend i l).1.taskCount = t.1.taskCount := rfl
@[simp] theorem Trail.pend_jobCount {s : State} (t : Trail s) (i : Instr) (l : List Nat) :
    (t.pend i l).1.jobCount = t.1.jobCount := rfl
@[simp] theorem Trail.pend_graphCount {s : State} (t : Trail s) (i : Instr) (l : List Nat) :
    (t.pend i l).1.graphCount = t.1.graphCount := rfl
@[simp] theorem Trail.pend_releases {s : State} (t : Trail s) (i : Instr) (l : List Nat) :
    (t.pend i l).1.releases = t.1.releases := rfl
@[simp] theorem Trail.pend_tick {s : State} (t : Trail s) (i : Instr) (l : List Nat) :
    (t.pend i l).1.tick = t.1.tick := rfl
@[simp] theorem Trail.pend_inputs {s : State} (t : Trail s) (i : Instr) (l : List Nat) :
    (t.pend i l).1.inputs = t.1.inputs := rfl
@[simp] theorem Trail.pend_timers {s : State} (t : Trail s) (i : Instr) (l : List Nat) :
    (t.pend i l).1.timers = t.1.timers := rfl
@[simp] theorem Trail.pend_frameChoice {s : State} (t : Trail s) (i : Instr) (l : List Nat) :
    (t.pend i l).1.frameChoice = t.1.frameChoice := rfl

/-! ### Fields of a thread -/

@[simp] theorem Thread.retire_task (th : Thread) (p : Nat) : (th.retire p).task = th.task := rfl
@[simp] theorem Thread.retire_agent (th : Thread) (p : Nat) : (th.retire p).agent = th.agent := rfl
@[simp] theorem Thread.retire_pc (th : Thread) (p : Nat) : (th.retire p).pc = p := rfl
@[simp] theorem Thread.retire_names (th : Thread) (p : Nat) : (th.retire p).names = th.names := rfl
@[simp] theorem Thread.retire_lk (th : Thread) (p : Nat) : (th.retire p).lk = th.lk := rfl
@[simp] theorem Thread.retire_ws (th : Thread) (p : Nat) : (th.retire p).ws = th.ws := rfl
@[simp] theorem Thread.retire_tid (th : Thread) (p : Nat) : (th.retire p).tid = th.tid := rfl
@[simp] theorem Thread.retire_ta (th : Thread) (p : Nat) : (th.retire p).ta = th.ta := rfl
@[simp] theorem Thread.retire_cid (th : Thread) (p : Nat) : (th.retire p).cid = th.cid := rfl
@[simp] theorem Thread.retire_st (th : Thread) (p : Nat) : (th.retire p).st = th.st := rfl
@[simp] theorem Thread.retire_rmode (th : Thread) (p : Nat) : (th.retire p).rmode = th.rmode := rfl
@[simp] theorem Thread.retire_rsn (th : Thread) (p : Nat) : (th.retire p).rsn = th.rsn := rfl
@[simp] theorem Thread.retire_depth (th : Thread) (p : Nat) : (th.retire p).depth = th.depth := rfl
@[simp] theorem Thread.retire_spilled (th : Thread) (p : Nat) : (th.retire p).spilled = th.spilled := rfl
@[simp] theorem Thread.retire_fill (th : Thread) (p : Nat) : (th.retire p).fill = th.fill := rfl
@[simp] theorem Thread.retire_hint (th : Thread) (p : Nat) : (th.retire p).hint = none := rfl
@[simp] theorem Thread.retire_status (th : Thread) (p : Nat) : (th.retire p).status = .ready := rfl
@[simp] theorem Thread.retire_op (th : Thread) (p : Nat) : (th.retire p).op = none := rfl
@[simp] theorem Thread.retire_trapped (th : Thread) (p : Nat) : (th.retire p).trapped = th.trapped := rfl
@[simp] theorem Thread.retire_stopped (th : Thread) (p : Nat) :
    (th.retire p).stopped = (th.stopped || th.stepping) := rfl
@[simp] theorem Thread.retire_stepping (th : Thread) (p : Nat) : (th.retire p).stepping = th.stepping := rfl
@[simp] theorem Thread.retire_suppress (th : Thread) (p : Nat) : (th.retire p).suppress = false := rfl
@[simp] theorem Thread.retire_logWait (th : Thread) (p : Nat) : (th.retire p).logWait = false := rfl
@[simp] theorem Thread.retire_cause (th : Thread) (p : Nat) : (th.retire p).cause = th.cause := rfl
@[simp] theorem Thread.retire_epc (th : Thread) (p : Nat) : (th.retire p).epc = th.epc := rfl
@[simp] theorem Thread.retire_eval (th : Thread) (p : Nat) : (th.retire p).eval = th.eval := rfl
@[simp] theorem Thread.retire_race (th : Thread) (p : Nat) : (th.retire p).race = th.race := rfl
@[simp] theorem Thread.retire_prior (th : Thread) (p : Nat) : (th.retire p).prior = th.prior := rfl
@[simp] theorem Thread.retire_mapGen (th : Thread) (p : Nat) : (th.retire p).mapGen = th.mapGen := rfl
@[simp] theorem Thread.retire_mapMoves (th : Thread) (p : Nat) : (th.retire p).mapMoves = th.mapMoves := rfl
@[simp] theorem Thread.retire_clsIssued (th : Thread) (p : Nat) : (th.retire p).clsIssued = th.clsIssued := rfl
@[simp] theorem Thread.retire_clsMemory (th : Thread) (p : Nat) : (th.retire p).clsMemory = th.clsMemory := rfl
@[simp] theorem Thread.retire_clsMessage (th : Thread) (p : Nat) : (th.retire p).clsMessage = th.clsMessage := rfl
@[simp] theorem Thread.retire_clsVacant (th : Thread) (p : Nat) : (th.retire p).clsVacant = th.clsVacant := rfl
@[simp] theorem Thread.retire_relFence (th : Thread) (p : Nat) : (th.retire p).relFence = th.relFence := rfl
@[simp] theorem Thread.retire_lastRead (th : Thread) (p : Nat) : (th.retire p).lastRead = th.lastRead := rfl
@[simp] theorem Thread.retire_lastRec (th : Thread) (p : Nat) : (th.retire p).lastRec = th.lastRec := rfl
@[simp] theorem Thread.retire_saw (th : Thread) (p : Nat) : (th.retire p).saw = [] := rfl
@[simp] theorem Thread.retire_busy (th : Thread) (p : Nat) : (th.retire p).busy = th.busy := rfl
@[simp] theorem Thread.retire_fresh (th : Thread) (p : Nat) : (th.retire p).fresh = th.fresh := rfl
@[simp] theorem Thread.retire_vc (th : Thread) (p : Nat) : (th.retire p).vc = th.vc := rfl

@[simp] theorem Thread.wait_task (th : Thread) (i : Instr) (h : Option Nat) (st : Status) (l : List Nat) :
    (th.wait i h st l).task = th.task := rfl
@[simp] theorem Thread.wait_agent (th : Thread) (i : Instr) (h : Option Nat) (st : Status) (l : List Nat) :
    (th.wait i h st l).agent = th.agent := rfl
@[simp] theorem Thread.wait_pc (th : Thread) (i : Instr) (h : Option Nat) (st : Status) (l : List Nat) :
    (th.wait i h st l).pc = th.pc := rfl
@[simp] theorem Thread.wait_names (th : Thread) (i : Instr) (h : Option Nat) (st : Status) (l : List Nat) :
    (th.wait i h st l).names = th.names := rfl
@[simp] theorem Thread.wait_lk (th : Thread) (i : Instr) (h : Option Nat) (st : Status) (l : List Nat) :
    (th.wait i h st l).lk = th.lk := rfl
@[simp] theorem Thread.wait_ws (th : Thread) (i : Instr) (h : Option Nat) (st : Status) (l : List Nat) :
    (th.wait i h st l).ws = th.ws := rfl
@[simp] theorem Thread.wait_tid (th : Thread) (i : Instr) (h : Option Nat) (st : Status) (l : List Nat) :
    (th.wait i h st l).tid = th.tid := rfl
@[simp] theorem Thread.wait_ta (th : Thread) (i : Instr) (h : Option Nat) (st : Status) (l : List Nat) :
    (th.wait i h st l).ta = th.ta := rfl
@[simp] theorem Thread.wait_cid (th : Thread) (i : Instr) (h : Option Nat) (st : Status) (l : List Nat) :
    (th.wait i h st l).cid = th.cid := rfl
@[simp] theorem Thread.wait_st (th : Thread) (i : Instr) (h : Option Nat) (st : Status) (l : List Nat) :
    (th.wait i h st l).st = th.st := rfl
@[simp] theorem Thread.wait_rmode (th : Thread) (i : Instr) (h : Option Nat) (st : Status) (l : List Nat) :
    (th.wait i h st l).rmode = th.rmode := rfl
@[simp] theorem Thread.wait_rsn (th : Thread) (i : Instr) (h : Option Nat) (st : Status) (l : List Nat) :
    (th.wait i h st l).rsn = th.rsn := rfl
@[simp] theorem Thread.wait_depth (th : Thread) (i : Instr) (h : Option Nat) (st : Status) (l : List Nat) :
    (th.wait i h st l).depth = th.depth := rfl
@[simp] theorem Thread.wait_spilled (th : Thread) (i : Instr) (h : Option Nat) (st : Status) (l : List Nat) :
    (th.wait i h st l).spilled = th.spilled := rfl
@[simp] theorem Thread.wait_fill (th : Thread) (i : Instr) (h : Option Nat) (st : Status) (l : List Nat) :
    (th.wait i h st l).fill = th.fill := rfl
@[simp] theorem Thread.wait_hint (th : Thread) (i : Instr) (h : Option Nat) (st : Status) (l : List Nat) :
    (th.wait i h st l).hint = th.hint := rfl
@[simp] theorem Thread.wait_status (th : Thread) (i : Instr) (h : Option Nat) (st : Status) (l : List Nat) :
    (th.wait i h st l).status = st := rfl
@[simp] theorem Thread.wait_op (th : Thread) (i : Instr) (h : Option Nat) (st : Status) (l : List Nat) :
    (th.wait i h st l).op = some { instr := i, pc := th.pc, hint := h, args := l } := rfl
@[simp] theorem Thread.wait_trapped (th : Thread) (i : Instr) (h : Option Nat) (st : Status) (l : List Nat) :
    (th.wait i h st l).trapped = th.trapped := rfl
@[simp] theorem Thread.wait_stopped (th : Thread) (i : Instr) (h : Option Nat) (st : Status) (l : List Nat) :
    (th.wait i h st l).stopped = th.stopped := rfl
@[simp] theorem Thread.wait_stepping (th : Thread) (i : Instr) (h : Option Nat) (st : Status) (l : List Nat) :
    (th.wait i h st l).stepping = th.stepping := rfl
@[simp] theorem Thread.wait_suppress (th : Thread) (i : Instr) (h : Option Nat) (st : Status) (l : List Nat) :
    (th.wait i h st l).suppress = th.suppress := rfl
@[simp] theorem Thread.wait_logWait (th : Thread) (i : Instr) (h : Option Nat) (st : Status) (l : List Nat) :
    (th.wait i h st l).logWait = th.logWait := rfl
@[simp] theorem Thread.wait_cause (th : Thread) (i : Instr) (h : Option Nat) (st : Status) (l : List Nat) :
    (th.wait i h st l).cause = th.cause := rfl
@[simp] theorem Thread.wait_epc (th : Thread) (i : Instr) (h : Option Nat) (st : Status) (l : List Nat) :
    (th.wait i h st l).epc = th.epc := rfl
@[simp] theorem Thread.wait_eval (th : Thread) (i : Instr) (h : Option Nat) (st : Status) (l : List Nat) :
    (th.wait i h st l).eval = th.eval := rfl
@[simp] theorem Thread.wait_race (th : Thread) (i : Instr) (h : Option Nat) (st : Status) (l : List Nat) :
    (th.wait i h st l).race = th.race := rfl
@[simp] theorem Thread.wait_prior (th : Thread) (i : Instr) (h : Option Nat) (st : Status) (l : List Nat) :
    (th.wait i h st l).prior = th.prior := rfl
@[simp] theorem Thread.wait_mapGen (th : Thread) (i : Instr) (h : Option Nat) (st : Status) (l : List Nat) :
    (th.wait i h st l).mapGen = th.mapGen := rfl
@[simp] theorem Thread.wait_mapMoves (th : Thread) (i : Instr) (h : Option Nat) (st : Status) (l : List Nat) :
    (th.wait i h st l).mapMoves = th.mapMoves := rfl
@[simp] theorem Thread.wait_clsIssued (th : Thread) (i : Instr) (h : Option Nat) (st : Status) (l : List Nat) :
    (th.wait i h st l).clsIssued = th.clsIssued := rfl
@[simp] theorem Thread.wait_clsMemory (th : Thread) (i : Instr) (h : Option Nat) (st : Status) (l : List Nat) :
    (th.wait i h st l).clsMemory = th.clsMemory := rfl
@[simp] theorem Thread.wait_clsMessage (th : Thread) (i : Instr) (h : Option Nat) (st : Status) (l : List Nat) :
    (th.wait i h st l).clsMessage = th.clsMessage := rfl
@[simp] theorem Thread.wait_clsVacant (th : Thread) (i : Instr) (h : Option Nat) (st : Status) (l : List Nat) :
    (th.wait i h st l).clsVacant = th.clsVacant := rfl
@[simp] theorem Thread.wait_relFence (th : Thread) (i : Instr) (h : Option Nat) (st : Status) (l : List Nat) :
    (th.wait i h st l).relFence = th.relFence := rfl
@[simp] theorem Thread.wait_lastRead (th : Thread) (i : Instr) (h : Option Nat) (st : Status) (l : List Nat) :
    (th.wait i h st l).lastRead = th.lastRead := rfl
@[simp] theorem Thread.wait_lastRec (th : Thread) (i : Instr) (h : Option Nat) (st : Status) (l : List Nat) :
    (th.wait i h st l).lastRec = th.lastRec := rfl
@[simp] theorem Thread.wait_saw (th : Thread) (i : Instr) (h : Option Nat) (st : Status) (l : List Nat) :
    (th.wait i h st l).saw = th.saw := rfl
@[simp] theorem Thread.wait_busy (th : Thread) (i : Instr) (h : Option Nat) (st : Status) (l : List Nat) :
    (th.wait i h st l).busy = th.busy := rfl
@[simp] theorem Thread.wait_fresh (th : Thread) (i : Instr) (h : Option Nat) (st : Status) (l : List Nat) :
    (th.wait i h st l).fresh = th.fresh := rfl
@[simp] theorem Thread.wait_vc (th : Thread) (i : Instr) (h : Option Nat) (st : Status) (l : List Nat) :
    (th.wait i h st l).vc = th.vc := rfl

/-- A write to a name changes nothing of the thread but its declared names and the fixed names it may write. -/
theorem Thread.setLanes_shape (th : Thread) (n : Nat) (v : List Nat) :
    ∃ names lk ws st, th.setLanes n v = { th with names := names, lk := lk, ws := ws, st := st } := by
  unfold Thread.setLanes
  split
  · split
    · dsimp only
      split <;> exact ⟨_, _, _, _, rfl⟩
    · exact ⟨_, _, _, _, rfl⟩
  · split
    · exact ⟨_, _, _, _, rfl⟩
    · split
      · exact ⟨_, _, _, _, rfl⟩
      · split <;> exact ⟨_, _, _, _, rfl⟩

@[simp] theorem Thread.setLanes_task (th : Thread) (n : Nat) (v : List Nat) : (th.setLanes n v).task = th.task := by
  obtain ⟨_, _, _, _, h⟩ := th.setLanes_shape n v
  rw [h]
@[simp] theorem Thread.setLanes_agent (th : Thread) (n : Nat) (v : List Nat) : (th.setLanes n v).agent = th.agent := by
  obtain ⟨_, _, _, _, h⟩ := th.setLanes_shape n v
  rw [h]
@[simp] theorem Thread.setLanes_pc (th : Thread) (n : Nat) (v : List Nat) : (th.setLanes n v).pc = th.pc := by
  obtain ⟨_, _, _, _, h⟩ := th.setLanes_shape n v
  rw [h]
@[simp] theorem Thread.setLanes_tid (th : Thread) (n : Nat) (v : List Nat) : (th.setLanes n v).tid = th.tid := by
  obtain ⟨_, _, _, _, h⟩ := th.setLanes_shape n v
  rw [h]
@[simp] theorem Thread.setLanes_ta (th : Thread) (n : Nat) (v : List Nat) : (th.setLanes n v).ta = th.ta := by
  obtain ⟨_, _, _, _, h⟩ := th.setLanes_shape n v
  rw [h]
@[simp] theorem Thread.setLanes_cid (th : Thread) (n : Nat) (v : List Nat) : (th.setLanes n v).cid = th.cid := by
  obtain ⟨_, _, _, _, h⟩ := th.setLanes_shape n v
  rw [h]
@[simp] theorem Thread.setLanes_rmode (th : Thread) (n : Nat) (v : List Nat) : (th.setLanes n v).rmode = th.rmode := by
  obtain ⟨_, _, _, _, h⟩ := th.setLanes_shape n v
  rw [h]
@[simp] theorem Thread.setLanes_rsn (th : Thread) (n : Nat) (v : List Nat) : (th.setLanes n v).rsn = th.rsn := by
  obtain ⟨_, _, _, _, h⟩ := th.setLanes_shape n v
  rw [h]
@[simp] theorem Thread.setLanes_depth (th : Thread) (n : Nat) (v : List Nat) : (th.setLanes n v).depth = th.depth := by
  obtain ⟨_, _, _, _, h⟩ := th.setLanes_shape n v
  rw [h]
@[simp] theorem Thread.setLanes_spilled (th : Thread) (n : Nat) (v : List Nat) :
    (th.setLanes n v).spilled = th.spilled := by
  obtain ⟨_, _, _, _, h⟩ := th.setLanes_shape n v
  rw [h]
@[simp] theorem Thread.setLanes_fill (th : Thread) (n : Nat) (v : List Nat) : (th.setLanes n v).fill = th.fill := by
  obtain ⟨_, _, _, _, h⟩ := th.setLanes_shape n v
  rw [h]
@[simp] theorem Thread.setLanes_hint (th : Thread) (n : Nat) (v : List Nat) : (th.setLanes n v).hint = th.hint := by
  obtain ⟨_, _, _, _, h⟩ := th.setLanes_shape n v
  rw [h]
@[simp] theorem Thread.setLanes_status (th : Thread) (n : Nat) (v : List Nat) :
    (th.setLanes n v).status = th.status := by
  obtain ⟨_, _, _, _, h⟩ := th.setLanes_shape n v
  rw [h]
@[simp] theorem Thread.setLanes_op (th : Thread) (n : Nat) (v : List Nat) : (th.setLanes n v).op = th.op := by
  obtain ⟨_, _, _, _, h⟩ := th.setLanes_shape n v
  rw [h]
@[simp] theorem Thread.setLanes_trapped (th : Thread) (n : Nat) (v : List Nat) :
    (th.setLanes n v).trapped = th.trapped := by
  obtain ⟨_, _, _, _, h⟩ := th.setLanes_shape n v
  rw [h]
@[simp] theorem Thread.setLanes_stopped (th : Thread) (n : Nat) (v : List Nat) :
    (th.setLanes n v).stopped = th.stopped := by
  obtain ⟨_, _, _, _, h⟩ := th.setLanes_shape n v
  rw [h]
@[simp] theorem Thread.setLanes_stepping (th : Thread) (n : Nat) (v : List Nat) :
    (th.setLanes n v).stepping = th.stepping := by
  obtain ⟨_, _, _, _, h⟩ := th.setLanes_shape n v
  rw [h]
@[simp] theorem Thread.setLanes_suppress (th : Thread) (n : Nat) (v : List Nat) :
    (th.setLanes n v).suppress = th.suppress := by
  obtain ⟨_, _, _, _, h⟩ := th.setLanes_shape n v
  rw [h]
@[simp] theorem Thread.setLanes_logWait (th : Thread) (n : Nat) (v : List Nat) :
    (th.setLanes n v).logWait = th.logWait := by
  obtain ⟨_, _, _, _, h⟩ := th.setLanes_shape n v
  rw [h]
@[simp] theorem Thread.setLanes_cause (th : Thread) (n : Nat) (v : List Nat) : (th.setLanes n v).cause = th.cause := by
  obtain ⟨_, _, _, _, h⟩ := th.setLanes_shape n v
  rw [h]
@[simp] theorem Thread.setLanes_epc (th : Thread) (n : Nat) (v : List Nat) : (th.setLanes n v).epc = th.epc := by
  obtain ⟨_, _, _, _, h⟩ := th.setLanes_shape n v
  rw [h]
@[simp] theorem Thread.setLanes_eval (th : Thread) (n : Nat) (v : List Nat) : (th.setLanes n v).eval = th.eval := by
  obtain ⟨_, _, _, _, h⟩ := th.setLanes_shape n v
  rw [h]
@[simp] theorem Thread.setLanes_race (th : Thread) (n : Nat) (v : List Nat) : (th.setLanes n v).race = th.race := by
  obtain ⟨_, _, _, _, h⟩ := th.setLanes_shape n v
  rw [h]
@[simp] theorem Thread.setLanes_prior (th : Thread) (n : Nat) (v : List Nat) : (th.setLanes n v).prior = th.prior := by
  obtain ⟨_, _, _, _, h⟩ := th.setLanes_shape n v
  rw [h]
@[simp] theorem Thread.setLanes_mapGen (th : Thread) (n : Nat) (v : List Nat) :
    (th.setLanes n v).mapGen = th.mapGen := by
  obtain ⟨_, _, _, _, h⟩ := th.setLanes_shape n v
  rw [h]
@[simp] theorem Thread.setLanes_mapMoves (th : Thread) (n : Nat) (v : List Nat) :
    (th.setLanes n v).mapMoves = th.mapMoves := by
  obtain ⟨_, _, _, _, h⟩ := th.setLanes_shape n v
  rw [h]
@[simp] theorem Thread.setLanes_clsIssued (th : Thread) (n : Nat) (v : List Nat) :
    (th.setLanes n v).clsIssued = th.clsIssued := by
  obtain ⟨_, _, _, _, h⟩ := th.setLanes_shape n v
  rw [h]
@[simp] theorem Thread.setLanes_clsMemory (th : Thread) (n : Nat) (v : List Nat) :
    (th.setLanes n v).clsMemory = th.clsMemory := by
  obtain ⟨_, _, _, _, h⟩ := th.setLanes_shape n v
  rw [h]
@[simp] theorem Thread.setLanes_clsMessage (th : Thread) (n : Nat) (v : List Nat) :
    (th.setLanes n v).clsMessage = th.clsMessage := by
  obtain ⟨_, _, _, _, h⟩ := th.setLanes_shape n v
  rw [h]
@[simp] theorem Thread.setLanes_clsVacant (th : Thread) (n : Nat) (v : List Nat) :
    (th.setLanes n v).clsVacant = th.clsVacant := by
  obtain ⟨_, _, _, _, h⟩ := th.setLanes_shape n v
  rw [h]
@[simp] theorem Thread.setLanes_relFence (th : Thread) (n : Nat) (v : List Nat) :
    (th.setLanes n v).relFence = th.relFence := by
  obtain ⟨_, _, _, _, h⟩ := th.setLanes_shape n v
  rw [h]
@[simp] theorem Thread.setLanes_lastRead (th : Thread) (n : Nat) (v : List Nat) :
    (th.setLanes n v).lastRead = th.lastRead := by
  obtain ⟨_, _, _, _, h⟩ := th.setLanes_shape n v
  rw [h]
@[simp] theorem Thread.setLanes_lastRec (th : Thread) (n : Nat) (v : List Nat) :
    (th.setLanes n v).lastRec = th.lastRec := by
  obtain ⟨_, _, _, _, h⟩ := th.setLanes_shape n v
  rw [h]
@[simp] theorem Thread.setLanes_saw (th : Thread) (n : Nat) (v : List Nat) : (th.setLanes n v).saw = th.saw := by
  obtain ⟨_, _, _, _, h⟩ := th.setLanes_shape n v
  rw [h]
@[simp] theorem Thread.setLanes_busy (th : Thread) (n : Nat) (v : List Nat) : (th.setLanes n v).busy = th.busy := by
  obtain ⟨_, _, _, _, h⟩ := th.setLanes_shape n v
  rw [h]
@[simp] theorem Thread.setLanes_fresh (th : Thread) (n : Nat) (v : List Nat) : (th.setLanes n v).fresh = th.fresh := by
  obtain ⟨_, _, _, _, h⟩ := th.setLanes_shape n v
  rw [h]
@[simp] theorem Thread.setLanes_vc (th : Thread) (n : Nat) (v : List Nat) : (th.setLanes n v).vc = th.vc := by
  obtain ⟨_, _, _, _, h⟩ := th.setLanes_shape n v
  rw [h]

@[simp] theorem Thread.drawn_task (th : Thread) (m : RMode) (n : Nat) :
    (th.drawn m n).task = th.task := by unfold Thread.drawn; split <;> rfl
@[simp] theorem Thread.drawn_agent (th : Thread) (m : RMode) (n : Nat) :
    (th.drawn m n).agent = th.agent := by unfold Thread.drawn; split <;> rfl
@[simp] theorem Thread.drawn_pc (th : Thread) (m : RMode) (n : Nat) :
    (th.drawn m n).pc = th.pc := by unfold Thread.drawn; split <;> rfl
@[simp] theorem Thread.drawn_names (th : Thread) (m : RMode) (n : Nat) :
    (th.drawn m n).names = th.names := by unfold Thread.drawn; split <;> rfl
@[simp] theorem Thread.drawn_lk (th : Thread) (m : RMode) (n : Nat) :
    (th.drawn m n).lk = th.lk := by unfold Thread.drawn; split <;> rfl
@[simp] theorem Thread.drawn_ws (th : Thread) (m : RMode) (n : Nat) :
    (th.drawn m n).ws = th.ws := by unfold Thread.drawn; split <;> rfl
@[simp] theorem Thread.drawn_tid (th : Thread) (m : RMode) (n : Nat) :
    (th.drawn m n).tid = th.tid := by unfold Thread.drawn; split <;> rfl
@[simp] theorem Thread.drawn_ta (th : Thread) (m : RMode) (n : Nat) :
    (th.drawn m n).ta = th.ta := by unfold Thread.drawn; split <;> rfl
@[simp] theorem Thread.drawn_cid (th : Thread) (m : RMode) (n : Nat) :
    (th.drawn m n).cid = th.cid := by unfold Thread.drawn; split <;> rfl
@[simp] theorem Thread.drawn_st (th : Thread) (m : RMode) (n : Nat) :
    (th.drawn m n).st = th.st := by unfold Thread.drawn; split <;> rfl
@[simp] theorem Thread.drawn_rmode (th : Thread) (m : RMode) (n : Nat) :
    (th.drawn m n).rmode = th.rmode := by unfold Thread.drawn; split <;> rfl
@[simp] theorem Thread.drawn_depth (th : Thread) (m : RMode) (n : Nat) :
    (th.drawn m n).depth = th.depth := by unfold Thread.drawn; split <;> rfl
@[simp] theorem Thread.drawn_spilled (th : Thread) (m : RMode) (n : Nat) :
    (th.drawn m n).spilled = th.spilled := by unfold Thread.drawn; split <;> rfl
@[simp] theorem Thread.drawn_fill (th : Thread) (m : RMode) (n : Nat) :
    (th.drawn m n).fill = th.fill := by unfold Thread.drawn; split <;> rfl
@[simp] theorem Thread.drawn_hint (th : Thread) (m : RMode) (n : Nat) :
    (th.drawn m n).hint = th.hint := by unfold Thread.drawn; split <;> rfl
@[simp] theorem Thread.drawn_status (th : Thread) (m : RMode) (n : Nat) :
    (th.drawn m n).status = th.status := by unfold Thread.drawn; split <;> rfl
@[simp] theorem Thread.drawn_op (th : Thread) (m : RMode) (n : Nat) :
    (th.drawn m n).op = th.op := by unfold Thread.drawn; split <;> rfl
@[simp] theorem Thread.drawn_trapped (th : Thread) (m : RMode) (n : Nat) :
    (th.drawn m n).trapped = th.trapped := by unfold Thread.drawn; split <;> rfl
@[simp] theorem Thread.drawn_stopped (th : Thread) (m : RMode) (n : Nat) :
    (th.drawn m n).stopped = th.stopped := by unfold Thread.drawn; split <;> rfl
@[simp] theorem Thread.drawn_stepping (th : Thread) (m : RMode) (n : Nat) :
    (th.drawn m n).stepping = th.stepping := by unfold Thread.drawn; split <;> rfl
@[simp] theorem Thread.drawn_suppress (th : Thread) (m : RMode) (n : Nat) :
    (th.drawn m n).suppress = th.suppress := by unfold Thread.drawn; split <;> rfl
@[simp] theorem Thread.drawn_logWait (th : Thread) (m : RMode) (n : Nat) :
    (th.drawn m n).logWait = th.logWait := by unfold Thread.drawn; split <;> rfl
@[simp] theorem Thread.drawn_cause (th : Thread) (m : RMode) (n : Nat) :
    (th.drawn m n).cause = th.cause := by unfold Thread.drawn; split <;> rfl
@[simp] theorem Thread.drawn_epc (th : Thread) (m : RMode) (n : Nat) :
    (th.drawn m n).epc = th.epc := by unfold Thread.drawn; split <;> rfl
@[simp] theorem Thread.drawn_eval (th : Thread) (m : RMode) (n : Nat) :
    (th.drawn m n).eval = th.eval := by unfold Thread.drawn; split <;> rfl
@[simp] theorem Thread.drawn_race (th : Thread) (m : RMode) (n : Nat) :
    (th.drawn m n).race = th.race := by unfold Thread.drawn; split <;> rfl
@[simp] theorem Thread.drawn_prior (th : Thread) (m : RMode) (n : Nat) :
    (th.drawn m n).prior = th.prior := by unfold Thread.drawn; split <;> rfl
@[simp] theorem Thread.drawn_mapGen (th : Thread) (m : RMode) (n : Nat) :
    (th.drawn m n).mapGen = th.mapGen := by unfold Thread.drawn; split <;> rfl
@[simp] theorem Thread.drawn_mapMoves (th : Thread) (m : RMode) (n : Nat) :
    (th.drawn m n).mapMoves = th.mapMoves := by unfold Thread.drawn; split <;> rfl
@[simp] theorem Thread.drawn_clsIssued (th : Thread) (m : RMode) (n : Nat) :
    (th.drawn m n).clsIssued = th.clsIssued := by unfold Thread.drawn; split <;> rfl
@[simp] theorem Thread.drawn_clsMemory (th : Thread) (m : RMode) (n : Nat) :
    (th.drawn m n).clsMemory = th.clsMemory := by unfold Thread.drawn; split <;> rfl
@[simp] theorem Thread.drawn_clsMessage (th : Thread) (m : RMode) (n : Nat) :
    (th.drawn m n).clsMessage = th.clsMessage := by unfold Thread.drawn; split <;> rfl
@[simp] theorem Thread.drawn_clsVacant (th : Thread) (m : RMode) (n : Nat) :
    (th.drawn m n).clsVacant = th.clsVacant := by unfold Thread.drawn; split <;> rfl
@[simp] theorem Thread.drawn_relFence (th : Thread) (m : RMode) (n : Nat) :
    (th.drawn m n).relFence = th.relFence := by unfold Thread.drawn; split <;> rfl
@[simp] theorem Thread.drawn_lastRead (th : Thread) (m : RMode) (n : Nat) :
    (th.drawn m n).lastRead = th.lastRead := by unfold Thread.drawn; split <;> rfl
@[simp] theorem Thread.drawn_lastRec (th : Thread) (m : RMode) (n : Nat) :
    (th.drawn m n).lastRec = th.lastRec := by unfold Thread.drawn; split <;> rfl
@[simp] theorem Thread.drawn_saw (th : Thread) (m : RMode) (n : Nat) :
    (th.drawn m n).saw = th.saw := by unfold Thread.drawn; split <;> rfl
@[simp] theorem Thread.drawn_busy (th : Thread) (m : RMode) (n : Nat) :
    (th.drawn m n).busy = th.busy := by unfold Thread.drawn; split <;> rfl
@[simp] theorem Thread.drawn_fresh (th : Thread) (m : RMode) (n : Nat) :
    (th.drawn m n).fresh = th.fresh := by unfold Thread.drawn; split <;> rfl
@[simp] theorem Thread.drawn_vc (th : Thread) (m : RMode) (n : Nat) :
    (th.drawn m n).vc = th.vc := by unfold Thread.drawn; split <;> rfl

@[simp] theorem Thread.trapEntry_task (th : Thread) (c e : Nat) (r : Option Nat) (p m : Nat) (h : Bool) :
    (th.trapEntry c e r p m h).task = (th.task) := rfl
@[simp] theorem Thread.trapEntry_agent (th : Thread) (c e : Nat) (r : Option Nat) (p m : Nat) (h : Bool) :
    (th.trapEntry c e r p m h).agent = (th.agent) := rfl
@[simp] theorem Thread.trapEntry_pc (th : Thread) (c e : Nat) (r : Option Nat) (p m : Nat) (h : Bool) :
    (th.trapEntry c e r p m h).pc = (if h then p - 4 else p) := rfl
@[simp] theorem Thread.trapEntry_names (th : Thread) (c e : Nat) (r : Option Nat) (p m : Nat) (h : Bool) :
    (th.trapEntry c e r p m h).names = (th.names) := rfl
@[simp] theorem Thread.trapEntry_lk (th : Thread) (c e : Nat) (r : Option Nat) (p m : Nat) (h : Bool) :
    (th.trapEntry c e r p m h).lk = (th.lk) := rfl
@[simp] theorem Thread.trapEntry_ws (th : Thread) (c e : Nat) (r : Option Nat) (p m : Nat) (h : Bool) :
    (th.trapEntry c e r p m h).ws = (th.ws) := rfl
@[simp] theorem Thread.trapEntry_tid (th : Thread) (c e : Nat) (r : Option Nat) (p m : Nat) (h : Bool) :
    (th.trapEntry c e r p m h).tid = (th.tid) := rfl
@[simp] theorem Thread.trapEntry_ta (th : Thread) (c e : Nat) (r : Option Nat) (p m : Nat) (h : Bool) :
    (th.trapEntry c e r p m h).ta = (th.ta) := rfl
@[simp] theorem Thread.trapEntry_cid (th : Thread) (c e : Nat) (r : Option Nat) (p m : Nat) (h : Bool) :
    (th.trapEntry c e r p m h).cid = (th.cid) := rfl
@[simp] theorem Thread.trapEntry_st (th : Thread) (c e : Nat) (r : Option Nat) (p m : Nat) (h : Bool) :
    (th.trapEntry c e r p m h).st = (th.st) := rfl
@[simp] theorem Thread.trapEntry_rmode (th : Thread) (c e : Nat) (r : Option Nat) (p m : Nat) (h : Bool) :
    (th.trapEntry c e r p m h).rmode = (th.rmode) := rfl
@[simp] theorem Thread.trapEntry_rsn (th : Thread) (c e : Nat) (r : Option Nat) (p m : Nat) (h : Bool) :
    (th.trapEntry c e r p m h).rsn = (th.rsn) := rfl
@[simp] theorem Thread.trapEntry_depth (th : Thread) (c e : Nat) (r : Option Nat) (p m : Nat) (h : Bool) :
    (th.trapEntry c e r p m h).depth = (th.depth) := rfl
@[simp] theorem Thread.trapEntry_spilled (th : Thread) (c e : Nat) (r : Option Nat) (p m : Nat) (h : Bool) :
    (th.trapEntry c e r p m h).spilled = (th.spilled) := rfl
@[simp] theorem Thread.trapEntry_fill (th : Thread) (c e : Nat) (r : Option Nat) (p m : Nat) (h : Bool) :
    (th.trapEntry c e r p m h).fill = (th.fill) := rfl
@[simp] theorem Thread.trapEntry_hint (th : Thread) (c e : Nat) (r : Option Nat) (p m : Nat) (h : Bool) :
    (th.trapEntry c e r p m h).hint = (none) := rfl
@[simp] theorem Thread.trapEntry_status (th : Thread) (c e : Nat) (r : Option Nat) (p m : Nat) (h : Bool) :
    (th.trapEntry c e r p m h).status = (.ready) := rfl
@[simp] theorem Thread.trapEntry_op (th : Thread) (c e : Nat) (r : Option Nat) (p m : Nat) (h : Bool) :
    (th.trapEntry c e r p m h).op = (none) := rfl
@[simp] theorem Thread.trapEntry_trapped (th : Thread) (c e : Nat) (r : Option Nat) (p m : Nat) (h : Bool) :
    (th.trapEntry c e r p m h).trapped = (true) := rfl
@[simp] theorem Thread.trapEntry_stopped (th : Thread) (c e : Nat) (r : Option Nat) (p m : Nat) (h : Bool) :
    (th.trapEntry c e r p m h).stopped = (th.stopped) := rfl
@[simp] theorem Thread.trapEntry_stepping (th : Thread) (c e : Nat) (r : Option Nat) (p m : Nat) (h : Bool) :
    (th.trapEntry c e r p m h).stepping = (th.stepping) := rfl
@[simp] theorem Thread.trapEntry_suppress (th : Thread) (c e : Nat) (r : Option Nat) (p m : Nat) (h : Bool) :
    (th.trapEntry c e r p m h).suppress = (false) := rfl
@[simp] theorem Thread.trapEntry_logWait (th : Thread) (c e : Nat) (r : Option Nat) (p m : Nat) (h : Bool) :
    (th.trapEntry c e r p m h).logWait = (false) := rfl
@[simp] theorem Thread.trapEntry_cause (th : Thread) (c e : Nat) (r : Option Nat) (p m : Nat) (h : Bool) :
    (th.trapEntry c e r p m h).cause = (causeWord c m h th.inh) := rfl
@[simp] theorem Thread.trapEntry_epc (th : Thread) (c e : Nat) (r : Option Nat) (p m : Nat) (h : Bool) :
    (th.trapEntry c e r p m h).epc = (BitVec.ofNat 64 (if h then p - 4 else p)) := rfl
@[simp] theorem Thread.trapEntry_eval (th : Thread) (c e : Nat) (r : Option Nat) (p m : Nat) (h : Bool) :
    (th.trapEntry c e r p m h).eval = (BitVec.ofNat 64 e) := rfl
@[simp] theorem Thread.trapEntry_prior (th : Thread) (c e : Nat) (r : Option Nat) (p m : Nat) (h : Bool) :
    (th.trapEntry c e r p m h).prior = (if th.inh then some (th.cause.toNat % 256, th.epc.toNat) else none) := rfl
@[simp] theorem Thread.trapEntry_mapGen (th : Thread) (c e : Nat) (r : Option Nat) (p m : Nat) (h : Bool) :
    (th.trapEntry c e r p m h).mapGen = (th.mapGen) := rfl
@[simp] theorem Thread.trapEntry_mapMoves (th : Thread) (c e : Nat) (r : Option Nat) (p m : Nat) (h : Bool) :
    (th.trapEntry c e r p m h).mapMoves = (th.mapMoves) := rfl
@[simp] theorem Thread.trapEntry_clsIssued (th : Thread) (c e : Nat) (r : Option Nat) (p m : Nat) (h : Bool) :
    (th.trapEntry c e r p m h).clsIssued = (th.clsIssued) := rfl
@[simp] theorem Thread.trapEntry_clsMemory (th : Thread) (c e : Nat) (r : Option Nat) (p m : Nat) (h : Bool) :
    (th.trapEntry c e r p m h).clsMemory = (th.clsMemory) := rfl
@[simp] theorem Thread.trapEntry_clsMessage (th : Thread) (c e : Nat) (r : Option Nat) (p m : Nat) (h : Bool) :
    (th.trapEntry c e r p m h).clsMessage = (th.clsMessage) := rfl
@[simp] theorem Thread.trapEntry_clsVacant (th : Thread) (c e : Nat) (r : Option Nat) (p m : Nat) (h : Bool) :
    (th.trapEntry c e r p m h).clsVacant = (th.clsVacant) := rfl
@[simp] theorem Thread.trapEntry_relFence (th : Thread) (c e : Nat) (r : Option Nat) (p m : Nat) (h : Bool) :
    (th.trapEntry c e r p m h).relFence = (none) := rfl
@[simp] theorem Thread.trapEntry_lastRead (th : Thread) (c e : Nat) (r : Option Nat) (p m : Nat) (h : Bool) :
    (th.trapEntry c e r p m h).lastRead = (th.lastRead) := rfl
@[simp] theorem Thread.trapEntry_lastRec (th : Thread) (c e : Nat) (r : Option Nat) (p m : Nat) (h : Bool) :
    (th.trapEntry c e r p m h).lastRec = (th.lastRec) := rfl
@[simp] theorem Thread.trapEntry_saw (th : Thread) (c e : Nat) (r : Option Nat) (p m : Nat) (h : Bool) :
    (th.trapEntry c e r p m h).saw = ([]) := rfl
@[simp] theorem Thread.trapEntry_busy (th : Thread) (c e : Nat) (r : Option Nat) (p m : Nat) (h : Bool) :
    (th.trapEntry c e r p m h).busy = (th.busy) := rfl
@[simp] theorem Thread.trapEntry_fresh (th : Thread) (c e : Nat) (r : Option Nat) (p m : Nat) (h : Bool) :
    (th.trapEntry c e r p m h).fresh = (th.fresh) := rfl
@[simp] theorem Thread.trapEntry_vc (th : Thread) (c e : Nat) (r : Option Nat) (p m : Nat) (h : Bool) :
    (th.trapEntry c e r p m h).vc = (th.vc) := rfl

end Sys2Proof.Machine
end

