-- ==== Sys2Proof/Laws/Issue.lean ====
section
/-!
SUPPORT. The course of a thread's instruction, said once: what `issue` answers when the checks pass and when one fails,
what the operand checks answer, and the lanes that an element-wise operation gives.
-/

namespace Sys2Proof

open Sys2Proof.Machine

/-! ### The course -/

theorem ctx_eq {s : State} {c sl : Nat} {i : Instr} {x : Ctx} (h : s.ctx? c sl i = some x) :
    x = { s := s, c := c, sl := sl, k := s.core c, th := x.th, i := i, hint := x.th.hint } ∧ s.thread? c sl = some x.th := by
  unfold State.ctx? at h
  cases e : s.thread? c sl with
  | none => rw [e] at h; cases h
  | some th => rw [e] at h; cases h; exact ⟨rfl, rfl⟩

theorem Issues.s_eq {s : State} {i : Instr} {x : Ctx} (h : Issues s i x) : x.s = s := by rw [(ctx_eq h.ctx).1]
theorem Issues.k_eq {s : State} {i : Instr} {x : Ctx} (h : Issues s i x) : x.k = s.core x.c := by
  have e := (ctx_eq h.ctx).1; rw [e]
theorem Issues.i_eq {s : State} {i : Instr} {x : Ctx} (h : Issues s i x) : x.i = i := by rw [(ctx_eq h.ctx).1]
theorem Issues.hint_eq {s : State} {i : Instr} {x : Ctx} (h : Issues s i x) : x.hint = x.th.hint := by
  have e := (ctx_eq h.ctx).1; rw [e]
theorem Issues.thread {s : State} {i : Instr} {x : Ctx} (h : Issues s i x) : s.thread? x.c x.sl = some x.th :=
  (ctx_eq h.ctx).2

/-- The checks pass and the instruction's own course does: the next state is its effect's. -/
theorem issue_next {s : State} {i : Instr} {x : Ctx} {f : Ctx → Except Stop (Effect s)} {g : Effect s} (h : Issues s i x)
    (hf : f x = .ok g) : issue i s f = .next (g (begin s)).1 := by
  unfold issue
  rw [h.cur]
  simp only [h.ctx, h.checked, hf]
  rfl

/-- The checks pass and the instruction's own course stops. -/
theorem issue_stops {s : State} {i : Instr} {x : Ctx} {f : Ctx → Except Stop (Effect s)} {e : Stop} (h : Issues s i x)
    (hf : f x = .error e) :
    issue i s f = .next ((begin s).stop x.c x.sl x.th x.th.pc (x.word / 67108864) x.hint.isSome e).1 := by
  unfold issue
  rw [h.cur]
  simp only [h.ctx, h.checked, hf]
  rfl

/-- The instruction's own course traps. -/
theorem issue_traps {s : State} {i : Instr} {x : Ctx} {f : Ctx → Except Stop (Effect s)} {c v : Nat} (h : Issues s i x)
    (hf : f x = trap c v) : issue i s f = .next (trapped s x c v) := issue_stops h hf

/-- A check of R280 steps 1 to 3 fails: the instruction traps, whatever its own course says. -/
theorem issue_unchecked {s : State} {i : Instr} {x : Ctx} (f : Ctx → Except Stop (Effect s)) {e : Stop}
    (hc : s.cur = some (x.c, x.sl)) (hx : s.ctx? x.c x.sl i = some x) (hg : guard x = .error e) :
    issue i s f = .next ((begin s).stop x.c x.sl x.th x.th.pc (x.word / 67108864) x.hint.isSome e).1 := by
  unfold issue
  rw [hc]
  simp only [hx, hg]
  rfl

theorem own_val {s : State} (x : Ctx) (f : Thread → Thread) : (own x f (begin s)).1 = retired s x (f x.th) := rfl

theorem setThread_val {s : State} (t : Trail s) (c sl : Nat) (th : Thread) : (t.setThread c sl th).1 = withThread t.1 c sl th := rfl

/-! ### Operands -/

theorem Operand.read {x : Ctx} {n : Nat} {cls : Desc → Bool} {d : Desc} (h : Operand x n cls d) : x.read n = .ok (val x n) := by
  unfold Ctx.read
  rw [h.sound]
  rfl

theorem Operand.read0 {x : Ctx} {n : Nat} {cls : Desc → Bool} {d : Desc} (h : Operand x n cls d) :
    x.read0 n = .ok ((val x n).headD 0) := by
  simp only [Ctx.read0, h.read]
  rfl

theorem check_any {x : Ctx} {n : Nat} {cls : Desc → Bool} {d : Desc} (h : Dest x n cls d) : x.check n .any = .ok d := by
  simp only [Ctx.check, h.desc, if_true]

theorem check_int {x : Ctx} {n : Nat} {d : Desc} (h : Dest x n isInt d) : x.check n .int = .ok d := by
  have e : d.kind.isInt = true := h.fits
  simp only [Ctx.check, h.desc, e, if_true]

theorem check_flt {x : Ctx} {n : Nat} {d : Desc} (h : Dest x n isFlt d) : x.check n .flt = .ok d := by
  have e : d.kind.isFloat = true := h.fits
  simp only [Ctx.check, h.desc, e, if_true]

theorem check_pred {x : Ctx} {n : Nat} {d : Desc} (h : Dest x n isPred d) : x.check n .pred = .ok d := by
  have e : decide (d.width = 1) = true := h.fits
  simp only [Ctx.check, h.desc, e, if_true]

theorem Operand.dest {x : Ctx} {n : Nat} {cls : Desc → Bool} {d : Desc} (h : Operand x n cls d) : Dest x n cls d := ⟨h.desc, h.fits⟩

/-- The lane check of a source passes. -/
theorem checkSrc_of {x : Ctx} {n m : Nat} {cls : Cls} {d dd : Desc} {k : Desc → Bool} (hc : x.check n cls = .ok d)
    (hl : d.lanes = 1 ∨ d.lanes = dd.lanes) (hd : Dest x m k dd) : x.checkSrc n cls m = .ok d := by
  have e : (decide (d.lanes = 1) || decide (d.lanes = dd.lanes)) = true := by simpa using hl
  unfold Ctx.checkSrc
  rw [hc]
  simp only [bind, Except.bind, hd.desc]
  rw [if_pos (by simpa using hl)]

theorem Source.int {x : Ctx} {n m : Nat} {d dd : Desc} {k : Desc → Bool} (h : Source x n isInt d dd) (hd : Dest x m k dd) :
    x.checkSrc n .int m = .ok d := checkSrc_of (check_int h.toOperand.dest) h.lanes hd

theorem Source.flt {x : Ctx} {n m : Nat} {d dd : Desc} {k : Desc → Bool} (h : Source x n isFlt d dd) (hd : Dest x m k dd) :
    x.checkSrc n .flt m = .ok d := checkSrc_of (check_flt h.toOperand.dest) h.lanes hd

theorem Source.any {x : Ctx} {n m : Nat} {cls : Desc → Bool} {d dd : Desc} {k : Desc → Bool} (h : Source x n cls d dd)
    (hd : Dest x m k dd) : x.checkSrc n .any m = .ok d := checkSrc_of (check_any h.toOperand.dest) h.lanes hd

/-! ### Lanes -/

/-- Lane after lane is assigned: the list of the results. -/
theorem eachLane_ok {f : Nat → Except Stop Nat} : ∀ (n l : Nat) (r : List Nat), r.length = n →
    (∀ i, i < n → f (l + i) = .ok (r.getD i 0)) → eachLane f l n = .ok r
  | 0, _, [], _, _ => rfl
  | n + 1, l, v :: r, hr, h => by
    have h0 : f l = .ok v := by simpa using h 0 (by omega)
    have hs : eachLane f (l + 1) n = .ok r := eachLane_ok n (l + 1) r (by simpa using hr) (fun i hi => by
      have := h (i + 1) (by omega)
      rw [show l + 1 + i = l + (i + 1) by omega]
      simpa using this)
    simp only [eachLane, h0, hs, bind, Except.bind]
  | 0, _, _ :: _, hr, _ => by simp at hr
  | n + 1, _, [], hr, _ => by simp at hr

/-- The lowest lane that stops decides (R9). -/
theorem eachLane_error {f : Nat → Except Stop Nat} {e : Stop} : ∀ (n l k : Nat), k < n →
    (∀ i, i < k → ∃ v, f (l + i) = .ok v) → f (l + k) = .error e → eachLane f l n = .error e
  | 0, _, _, hk, _, _ => by omega
  | n + 1, l, 0, _, _, he => by
    have h0 : f l = .error e := by simpa using he
    simp only [eachLane, h0, bind, Except.bind]
  | n + 1, l, k + 1, hk, h, he => by
    obtain ⟨v, h0⟩ := h 0 (by omega)
    have h0 : f l = .ok v := by simpa using h0
    have hs : eachLane f (l + 1) n = .error e := eachLane_error n (l + 1) k (by omega)
      (fun i hi => by rw [show l + 1 + i = l + (i + 1) by omega]; exact h (i + 1) (by omega))
      (by rw [show l + 1 + k = l + (k + 1) by omega]; exact he)
    simp only [eachLane, h0, hs, bind, Except.bind]

theorem orTrap_some {c l v : Nat} {o : Option Nat} (h : o = some v) : orTrap c l o = .ok v := by rw [h]; rfl


end Sys2Proof
end

