-- ==== Sys2Proof/Laws/Tables.lean ====
section
/-!
SUPPORT. The laws of tables by key and of memory by address: a read after a write, what a write leaves alone, and that
every operation keeps the canonical form.
-/

namespace Sys2Proof.Machine

/-! ### Tables -/

@[simp] theorem look_put_same {α : Type} (t : Tab α) (k : Nat) (v : α) : look (put t k v) k = some v := by
  induction t with
  | nil => simp [put, look]
  | cons e r ih =>
    obtain ⟨a, x⟩ := e
    unfold put
    split
    · simp [look]
    · split
      · simp [look]
      · simp [look, *]

theorem look_put_other {α : Type} (t : Tab α) (k j : Nat) (v : α) (h : j ≠ k) : look (put t k v) j = look t j := by
  induction t with
  | nil => simp [put, look, Ne.symm h]
  | cons e r ih =>
    obtain ⟨a, x⟩ := e
    unfold put
    split
    · simp [look, Ne.symm h]
    · split
      · next h1 h2 => subst h2; simp [look, Ne.symm h]
      · simp [look, ih]

theorem look_put {α : Type} (t : Tab α) (k j : Nat) (v : α) : look (put t k v) j = if j = k then some v else look t j := by
  split
  · next h => subst h; exact look_put_same t j v
  · next h => exact look_put_other t k j v h

@[simp] theorem lookD_put_same {α : Type} (t : Tab α) (k : Nat) (v d : α) : lookD (put t k v) k d = v := by
  simp [lookD]

theorem lookD_put_other {α : Type} (t : Tab α) (k j : Nat) (v d : α) (h : j ≠ k) :
    lookD (put t k v) j d = lookD t j d := by
  simp [lookD, look_put_other t k j v h]

theorem mem_put {α : Type} (t : Tab α) (k : Nat) (v : α) (e : Nat × α) (h : e ∈ put t k v) : e = (k, v) ∨ e ∈ t := by
  induction t with
  | nil => left; simpa [put] using h
  | cons f r ih =>
    obtain ⟨a, x⟩ := f
    unfold put at h
    split at h
    · rcases List.mem_cons.mp h with h | h
      · exact .inl h
      · exact .inr h
    · split at h
      · rcases List.mem_cons.mp h with h | h
        · exact .inl h
        · exact .inr (List.mem_cons_of_mem _ h)
      · rcases List.mem_cons.mp h with h | h
        · exact .inr (h ▸ List.mem_cons_self)
        · rcases ih h with h | h
          · exact .inl h
          · exact .inr (List.mem_cons_of_mem _ h)

theorem put_wf {α : Type} (t : Tab α) (k : Nat) (v : α) (h : t.wf) : (put t k v).wf := by
  induction t with
  | nil => simp [put]
  | cons e r ih =>
    obtain ⟨a, x⟩ := e
    obtain ⟨h1, h2⟩ := List.pairwise_cons.mp h
    unfold put
    split
    · next hk =>
      refine List.pairwise_cons.mpr ⟨fun f hf => ?_, h⟩
      rcases List.mem_cons.mp hf with rfl | hf
      · exact hk
      · exact Nat.lt_trans hk (h1 f hf)
    · next hk =>
      split
      · next ha => subst ha; exact List.pairwise_cons.mpr ⟨h1, h2⟩
      · next ha =>
        refine List.pairwise_cons.mpr ⟨fun f hf => ?_, ih h2⟩
        rcases mem_put r k v f hf with rfl | hf
        · show a < k; omega
        · exact h1 f hf

theorem mem_del {α : Type} (t : Tab α) (k : Nat) (e : Nat × α) (h : e ∈ del t k) : e ∈ t := by
  induction t with
  | nil => simp [del] at h
  | cons f r ih =>
    obtain ⟨a, x⟩ := f
    unfold del at h
    split at h
    · exact List.mem_cons_of_mem _ (ih h)
    · rcases List.mem_cons.mp h with h | h
      · exact h ▸ List.mem_cons_self
      · exact List.mem_cons_of_mem _ (ih h)

theorem del_wf {α : Type} (t : Tab α) (k : Nat) (h : t.wf) : (del t k).wf := by
  induction t with
  | nil => simp [del]
  | cons e r ih =>
    obtain ⟨a, x⟩ := e
    obtain ⟨h1, h2⟩ := List.pairwise_cons.mp h
    unfold del
    split
    · exact ih h2
    · exact List.pairwise_cons.mpr ⟨fun f hf => h1 f (mem_del r k f hf), ih h2⟩

theorem look_del_other {α : Type} (t : Tab α) (k j : Nat) (h : j ≠ k) : look (del t k) j = look t j := by
  induction t with
  | nil => simp [del]
  | cons e r ih =>
    obtain ⟨a, x⟩ := e
    unfold del
    split
    · next ha => subst ha; simp [look, Ne.symm h, ih]
    · simp [look, ih]

theorem look_none_of_lt {α : Type} (t : Tab α) (k : Nat) (h : ∀ e ∈ t, k < e.1) : look t k = none := by
  induction t with
  | nil => rfl
  | cons e r ih =>
    obtain ⟨a, x⟩ := e
    have h1 : k < a := h (a, x) List.mem_cons_self
    simp only [look]
    rw [if_neg (by omega)]
    exact ih (fun f hf => h f (List.mem_cons_of_mem _ hf))

@[simp] theorem look_del_same {α : Type} (t : Tab α) (k : Nat) : look (del t k) k = none := by
  induction t with
  | nil => rfl
  | cons e r ih =>
    obtain ⟨a, x⟩ := e
    unfold del
    split
    · exact ih
    · next ha => simp [look, ha, ih]

/-! ### Memory -/

theorem Mem.mem_set (m : Mem) (k : Nat) (v : Byte) (e : Host.Cell) (h : e ∈ m.set k v) :
    (e = (k, v) ∧ v ≠ unlisted) ∨ e ∈ m := by
  induction m with
  | nil =>
    unfold Mem.set at h
    split at h
    · simp at h
    · next hv => left; exact ⟨by simpa using h, hv⟩
  | cons f r ih =>
    obtain ⟨a, b⟩ := f
    unfold Mem.set at h
    split at h
    · split at h
      · exact .inr h
      · next hv =>
        rcases List.mem_cons.mp h with h | h
        · exact .inl ⟨h, hv⟩
        · exact .inr h
    · split at h
      · split at h
        · exact .inr (List.mem_cons_of_mem _ h)
        · next hv =>
          rcases List.mem_cons.mp h with h | h
          · exact .inl ⟨h, hv⟩
          · exact .inr (List.mem_cons_of_mem _ h)
      · rcases List.mem_cons.mp h with h | h
        · exact .inr (h ▸ List.mem_cons_self)
        · rcases ih h with h | h
          · exact .inl h
          · exact .inr (List.mem_cons_of_mem _ h)

theorem Mem.set_rising (m : Mem) (k : Nat) (v : Byte) (h : m.Pairwise (fun x y => x.1 < y.1)) :
    (m.set k v).Pairwise (fun x y => x.1 < y.1) := by
  induction m with
  | nil => unfold Mem.set; split <;> simp
  | cons e r ih =>
    obtain ⟨a, b⟩ := e
    obtain ⟨h1, h2⟩ := List.pairwise_cons.mp h
    unfold Mem.set
    split
    · next hk =>
      split
      · exact h
      · refine List.pairwise_cons.mpr ⟨fun f hf => ?_, h⟩
        rcases List.mem_cons.mp hf with rfl | hf
        · exact hk
        · exact Nat.lt_trans hk (h1 f hf)
    · next hk =>
      split
      · next ha =>
        subst ha
        split
        · exact h2
        · exact List.pairwise_cons.mpr ⟨h1, h2⟩
      · next ha =>
        refine List.pairwise_cons.mpr ⟨fun f hf => ?_, ih h2⟩
        rcases Mem.mem_set r k v f hf with ⟨rfl, -⟩ | hf
        · show a < k; omega
        · exact h1 f hf

/-- A write keeps the canonical form. -/
theorem Mem.set_wf (m : Mem) (k : Nat) (v : Byte) (h : m.wf) : (m.set k v).wf := by
  refine ⟨Mem.set_rising m k v h.1, fun e he => ?_⟩
  rcases Mem.mem_set m k v e he with ⟨rfl, hv⟩ | he
  · exact hv
  · exact h.2 e he

theorem Mem.get_of_lt (m : Mem) (k : Nat) (h : ∀ e ∈ m, k < e.1) : m.get k = unlisted := by
  induction m with
  | nil => rfl
  | cons e r ih =>
    obtain ⟨a, b⟩ := e
    have h1 : k < a := h (a, b) List.mem_cons_self
    simp only [Mem.get]
    rw [if_neg (by omega)]
    exact ih (fun f hf => h f (List.mem_cons_of_mem _ hf))

/-- A read after a write to the same address gives the value written. -/
theorem Mem.get_set_same (m : Mem) (k : Nat) (v : Byte) (h : m.wf) : (m.set k v).get k = v := by
  induction m with
  | nil => unfold Mem.set; split <;> simp_all [Mem.get]
  | cons e r ih =>
    obtain ⟨a, b⟩ := e
    obtain ⟨h1, h2⟩ := List.pairwise_cons.mp h.1
    have hr : Mem.wf r := ⟨h2, fun f hf => h.2 f (List.mem_cons_of_mem _ hf)⟩
    unfold Mem.set
    split
    · next hk =>
      split
      · next hv =>
        subst hv
        refine Mem.get_of_lt _ k (fun f hf => ?_)
        rcases List.mem_cons.mp hf with rfl | hf
        · exact hk
        · exact Nat.lt_trans hk (h1 f hf)
      · simp [Mem.get]
    · next hk =>
      split
      · next ha =>
        subst ha
        split
        · next hv => subst hv; exact Mem.get_of_lt r a h1
        · simp [Mem.get]
      · next ha => simp [Mem.get, ha, ih hr]

/-- A write leaves every other address alone. -/
theorem Mem.get_set_other (m : Mem) (k j : Nat) (v : Byte) (h : j ≠ k) : (m.set k v).get j = m.get j := by
  induction m with
  | nil => unfold Mem.set; split <;> simp [Mem.get, Ne.symm h]
  | cons e r ih =>
    obtain ⟨a, b⟩ := e
    unfold Mem.set
    split
    · split <;> simp [Mem.get, Ne.symm h]
    · split
      · next ha => subst ha; split <;> simp [Mem.get, Ne.symm h]
      · simp [Mem.get, ih]

/-- Reads of runs of bytes depend on the bytes alone. -/
theorem Mem.bytes_congr (m m' : Mem) (a n : Nat) (h : ∀ j, a ≤ j → j < a + n → m'.get j = m.get j) :
    m'.bytes a n = m.bytes a n := by
  induction n generalizing a with
  | zero => rfl
  | succ n ih =>
    simp only [Mem.bytes]
    rw [h a (by omega) (by omega), ih (a + 1) (fun j h1 h2 => h j (by omega) (by omega))]

theorem Mem.read_congr (m m' : Mem) (a n : Nat) (h : ∀ j, a ≤ j → j < a + n → m'.get j = m.get j) :
    m'.read a n = m.read a n := by
  induction n generalizing a with
  | zero => rfl
  | succ n ih =>
    simp only [Mem.read]
    rw [h a (by omega) (by omega), ih (a + 1) (fun j h1 h2 => h j (by omega) (by omega))]

@[simp] theorem leBytes_length (v n : Nat) : (leBytes v n).length = n := by
  induction n generalizing v with
  | zero => rfl
  | succ n ih => simp [leBytes, ih]

@[simp] theorem Mem.bytes_length (m : Mem) (a n : Nat) : (m.bytes a n).length = n := by
  induction n generalizing a with
  | zero => rfl
  | succ n ih => simp [Mem.bytes, ih]

/-- A number read from the bytes written of it is the number (R2). -/
theorem leNat_leBytes (v n : Nat) : leNat (leBytes v n) = v % 256 ^ n := by
  induction n generalizing v with
  | zero => simp [leBytes, leNat, Nat.mod_one]
  | succ n ih =>
    have hp : 256 ^ (n + 1) = 256 * 256 ^ n := by rw [Nat.pow_succ, Nat.mul_comm]
    rw [hp, Nat.mod_mul]
    simp [leBytes, leNat, ih]

theorem Mem.read_eq_leNat (m : Mem) (a n : Nat) : m.read a n = leNat (m.bytes a n) := by
  induction n generalizing a with
  | zero => rfl
  | succ n ih => simp [Mem.read, Mem.bytes, leNat, ih]

/-! ### Counting up -/

@[simp] theorem upFrom_length (a n : Nat) : (upFrom a n).length = n := by
  induction n generalizing a with
  | zero => rfl
  | succ n ih => simp [upFrom, ih]

theorem mem_upFrom (a n k : Nat) : k ∈ upFrom a n ↔ a ≤ k ∧ k < a + n := by
  induction n generalizing a with
  | zero => simp [upFrom]
  | succ n ih => simp [upFrom, ih]; omega

theorem upFrom_getElem? (a n i : Nat) (h : i < n) : (upFrom a n)[i]? = some (a + i) := by
  induction n generalizing a i with
  | zero => omega
  | succ n ih =>
    cases i with
    | zero => simp [upFrom]
    | succ i => simp only [upFrom, List.getElem?_cons_succ]; rw [ih (a + 1) i (by omega)]; congr 1; omega

/-- The lanes that a function of the lane number gives. -/
theorem getD_map_upFrom {α : Type} (f : Nat → α) (n i : Nat) (d : α) (h : i < n) : ((upFrom 0 n).map f).getD i d = f i := by
  simp [List.getD, upFrom_getElem? 0 n i h]

end Sys2Proof.Machine
end

