-- ==== Sys2Proof/Laws/Reach.lean ====
section
/-!
SUPPORT. What a step can do, said once: every meaning answers a state that acts lead to, no meaning refuses, and a
property that every act keeps is kept by every step.
-/

namespace Sys2Proof.Machine

/-- A property that every act keeps is kept along acts. -/
theorem Reach.keeps {p : State → Prop} (hp : ∀ s a, p s → p (Act.apply s a)) {s t : State} (h : Reach s t) (hs : p s) : p t := by
  induction h with
  | refl => exact hs
  | act _ a ih => exact hp _ a ih

theorem Reach.trans {s t u : State} (h : Reach s t) (k : Reach t u) : Reach s u := by
  induction k with
  | refl => exact h
  | act _ a ih => exact .act ih a

theorem putOrDel_wf {α : Type} (t : Tab α) (k : Nat) (x : Option α) (h : t.wf) : (putOrDel t k x).wf := by
  cases x with
  | none => exact del_wf t k h
  | some v => exact put_wf t k v h

/-- Every act keeps memory and tables in canonical form. -/
theorem Act.apply_canonical (s : State) (a : Act) (h : Canonical s) : Canonical (a.apply s) := by
  obtain ⟨h1, h2, h3, h4, h5, h6, h7, h8, h9, h10, h11, h12, h13, h14, h15⟩ := h
  cases a with
  | mem a b =>
    refine ⟨?_, h2, h3, h4, h5, h6, h7, h8, h9, h10, h11, h12, h13, h14, h15⟩
    rw [Act.apply_mem]
    dsimp only
    split
    · exact Mem.set_wf _ a b h1
    · exact h1
  | loc a b =>
    refine ⟨h1, ?_, h3, h4, h5, h6, h7, h8, h9, h10, h11, h12, h13, h14, h15⟩
    rw [Act.apply_loc]
    dsimp only
    split
    · exact Mem.set_wf _ a b h2
    · exact h2
  | core c k => exact ⟨h1, h2, put_wf _ c k h3, h4, h5, h6, h7, h8, h9, h10, h11, h12, h13, h14, h15⟩
  | task n x => exact ⟨h1, h2, h3, putOrDel_wf _ n x h4, h5, h6, h7, h8, h9, h10, h11, h12, h13, h14, h15⟩
  | part n x => exact ⟨h1, h2, h3, h4, putOrDel_wf _ n x h5, h6, h7, h8, h9, h10, h11, h12, h13, h14, h15⟩
  | region a x => exact ⟨h1, h2, h3, h4, h5, putOrDel_wf _ a x h6, h7, h8, h9, h10, h11, h12, h13, h14, h15⟩
  | page n x => exact ⟨h1, h2, h3, h4, h5, h6, put_wf _ n x h7, h8, h9, h10, h11, h12, h13, h14, h15⟩
  | job n x => exact ⟨h1, h2, h3, h4, h5, h6, h7, putOrDel_wf _ n x h8, h9, h10, h11, h12, h13, h14, h15⟩
  | barUnit n x => exact ⟨h1, h2, h3, h4, h5, h6, h7, h8, put_wf _ n x h9, h10, h11, h12, h13, h14, h15⟩
  | die d x => exact ⟨h1, h2, h3, h4, h5, h6, h7, h8, h9, put_wf _ d x h10, h11, h12, h13, h14, h15⟩
  | notices c x => exact ⟨h1, h2, h3, h4, h5, h6, h7, h8, h9, h10, put_wf _ c x h11, h12, h13, h14, h15⟩
  | link n x => exact ⟨h1, h2, h3, h4, h5, h6, h7, h8, h9, h10, h11, put_wf _ n x h12, h13, h14, h15⟩
  | unsent n x => exact ⟨h1, h2, h3, h4, h5, h6, h7, h8, h9, h10, h11, h12, put_wf _ n x h13, h14, h15⟩
  | acl o v => exact ⟨h1, h2, h3, h4, h5, h6, h7, h8, h9, h10, h11, h12, h13, put_wf _ o v h14, h15⟩
  | heads a x => exact ⟨h1, h2, h3, h4, h5, h6, h7, h8, h9, h10, h11, h12, h13, h14, put_wf _ a x h15⟩
  | reset =>
    refine ⟨h1, h2, ?_, ?_, ?_, ?_, ?_, ?_, ?_, ?_, ?_, ?_, ?_, ?_, ?_⟩ <;> exact List.Pairwise.nil
  | _ => exact ⟨h1, h2, h3, h4, h5, h6, h7, h8, h9, h10, h11, h12, h13, h14, h15⟩

/-- A write to an address that no memory backs changes nothing (R16). -/
theorem Act.apply_unbacked (s : State) (a : Act) (k : Nat) (hk : backed k = false) : (a.apply s).mem.get k = s.mem.get k := by
  cases a with
  | mem a b =>
    rw [Act.apply_mem]
    dsimp only
    split
    · next hb => exact Mem.get_set_other s.mem a k b (fun e => by rw [e] at hk; simp [hk] at hb)
    · rfl
  | _ => rfl

/-! ### Meanings -/

/-- An outcome that is a next state which acts lead to. -/
def Goes (s : State) (o : Host.Outcome State Fault Refusal) : Prop := ∃ t, o = .next t ∧ Reach s t

theorem done_goes {s : State} (t : Trail s) : Goes s (done t) := ⟨t.1, rfl, t.2⟩

theorem event_goes (s : State) (f : Trail s → Trail s) : Goes s (event s f) := done_goes _

/-- An instruction of the current thread goes on or stops, whatever its checks say; with no thread it faults. -/
theorem issue_goes (i : Instr) (s : State) (f : Ctx → Except Stop (Effect s)) (c sl : Nat) (th : Thread)
    (hc : s.cur = some (c, sl)) (ht : s.thread? c sl = some th) : Goes s (issue i s f) := by
  unfold issue
  rw [hc]
  simp only [State.ctx?, ht, Option.map_some]
  split
  · exact done_goes _
  · exact done_goes _

/-- Outcomes of an instruction are next states that acts lead to, or the fault of having no thread. -/
theorem issue_reach (i : Instr) (s : State) (f : Ctx → Except Stop (Effect s)) (t : State) (h : issue i s f = .next t) :
    Reach s t := by
  unfold issue at h
  split at h
  · cases h
  · split at h
    · cases h
    · split at h
      · cases h; exact Subtype.property _
      · cases h; exact Subtype.property _

theorem event_reach (s : State) (f : Trail s → Trail s) (t : State) (h : event s f = .next t) : Reach s t := by
  cases h; exact Subtype.property _

end Sys2Proof.Machine
end

