-- ==== Sys2Proof/Laws/Meanings.lean ====
section
/-!
SUPPORT. What `exec` and `step` can do at all: an instruction of a thread goes through the one course of Operands, a step of
another agent through `event`; no meaning refuses; and what a step answers is a state that acts lead to.
-/

namespace Sys2Proof.Machine

set_option maxRecDepth 4000 in
/-- An instruction that has a word runs the common course of a thread's instruction; or, where no thread is current, it is the end of
the clocks of a `mapld` or a `resz`. -/
theorem exec_forms (i : Instr) (s : State) (h : (encode i).isSome = true) :
    (∃ f, exec i s = issue i s f) ∨ (s.cur = none ∧ ∃ f, exec i s = event s f) := by
  cases i with
  | hintImm hi => exact .inl ⟨_, rfl⟩
  | hintMod rm wsize => exact .inl ⟨_, rfl⟩
  | hintMma stride => exact .inl ⟨_, rfl⟩
  | hintScope scope ord keep => exact .inl ⟨_, rfl⟩
  | add d a b => exact .inl ⟨_, rfl⟩
  | sub d a b => exact .inl ⟨_, rfl⟩
  | and d a b => exact .inl ⟨_, rfl⟩
  | or d a b => exact .inl ⟨_, rfl⟩
  | xor d a b => exact .inl ⟨_, rfl⟩
  | andn d a b => exact .inl ⟨_, rfl⟩
  | orn d a b => exact .inl ⟨_, rfl⟩
  | shl d a b => exact .inl ⟨_, rfl⟩
  | shr d a b => exact .inl ⟨_, rfl⟩
  | sra d a b => exact .inl ⟨_, rfl⟩
  | rol d a b => exact .inl ⟨_, rfl⟩
  | min d a b => exact .inl ⟨_, rfl⟩
  | max d a b => exact .inl ⟨_, rfl⟩
  | minu d a b => exact .inl ⟨_, rfl⟩
  | maxu d a b => exact .inl ⟨_, rfl⟩
  | abs d a => exact .inl ⟨_, rfl⟩
  | neg d a => exact .inl ⟨_, rfl⟩
  | mov d a => exact .inl ⟨_, rfl⟩
  | cmov d a b => exact .inl ⟨_, rfl⟩
  | addi d a imm => exact .inl ⟨_, rfl⟩
  | andi d a imm => exact .inl ⟨_, rfl⟩
  | ori d a imm => exact .inl ⟨_, rfl⟩
  | xori d a imm => exact .inl ⟨_, rfl⟩
  | shli d a sh => exact .inl ⟨_, rfl⟩
  | shri d a sh => exact .inl ⟨_, rfl⟩
  | srai d a sh => exact .inl ⟨_, rfl⟩
  | roli d a sh => exact .inl ⟨_, rfl⟩
  | ceq d a b => exact .inl ⟨_, rfl⟩
  | cne d a b => exact .inl ⟨_, rfl⟩
  | clt d a b => exact .inl ⟨_, rfl⟩
  | cle d a b => exact .inl ⟨_, rfl⟩
  | cltu d a b => exact .inl ⟨_, rfl⟩
  | cleu d a b => exact .inl ⟨_, rfl⟩
  | ceqi d a imm => exact .inl ⟨_, rfl⟩
  | cnei d a imm => exact .inl ⟨_, rfl⟩
  | clti d a imm => exact .inl ⟨_, rfl⟩
  | cltui d a imm => exact .inl ⟨_, rfl⟩
  | mul d a b => exact .inl ⟨_, rfl⟩
  | mulh d a b => exact .inl ⟨_, rfl⟩
  | mulhu d a b => exact .inl ⟨_, rfl⟩
  | div d a b => exact .inl ⟨_, rfl⟩
  | divu d a b => exact .inl ⟨_, rfl⟩
  | rem d a b => exact .inl ⟨_, rfl⟩
  | remu d a b => exact .inl ⟨_, rfl⟩
  | sethi d imm => exact .inl ⟨_, rfl⟩
  | addpc d imm => exact .inl ⟨_, rfl⟩
  | clz d a => exact .inl ⟨_, rfl⟩
  | ctz d a => exact .inl ⟨_, rfl⟩
  | popc d a => exact .inl ⟨_, rfl⟩
  | brev d a => exact .inl ⟨_, rfl⟩
  | bext d a b => exact .inl ⟨_, rfl⟩
  | bins d a b => exact .inl ⟨_, rfl⟩
  | mapld a imm =>
    show (∃ f, execMapld a imm s = _) ∨ _ ∧ ∃ f, execMapld a imm s = _
    unfold execMapld
    split
    · next hc _ => exact .inr ⟨hc, _, rfl⟩
    · exact .inl ⟨_, rfl⟩
  | resz d kind wd =>
    show (∃ f, execResz d kind wd s = _) ∨ _ ∧ ∃ f, execResz d kind wd s = _
    unfold execResz
    split
    · next hc _ => exact .inr ⟨hc, _, rfl⟩
    · exact .inl ⟨_, rfl⟩
  | wqry d sel nm => exact .inl ⟨_, rfl⟩
  | pol d pcy => exact .inl ⟨_, rfl⟩
  | cvt d a => exact .inl ⟨_, rfl⟩
  | pack d a => exact .inl ⟨_, rfl⟩
  | unpk d a pl => exact .inl ⟨_, rfl⟩
  | fadd d a b => exact .inl ⟨_, rfl⟩
  | fsub d a b => exact .inl ⟨_, rfl⟩
  | fmul d a b => exact .inl ⟨_, rfl⟩
  | fmin d a b => exact .inl ⟨_, rfl⟩
  | fmax d a b => exact .inl ⟨_, rfl⟩
  | fabs d a => exact .inl ⟨_, rfl⟩
  | fneg d a => exact .inl ⟨_, rfl⟩
  | fceq d a b => exact .inl ⟨_, rfl⟩
  | fclt d a b => exact .inl ⟨_, rfl⟩
  | fcle d a b => exact .inl ⟨_, rfl⟩
  | fclass d a => exact .inl ⟨_, rfl⟩
  | fma d a b => exact .inl ⟨_, rfl⟩
  | fnma d a b => exact .inl ⟨_, rfl⟩
  | fexp2 d a => exact .inl ⟨_, rfl⟩
  | flog2 d a => exact .inl ⟨_, rfl⟩
  | frcp d a => exact .inl ⟨_, rfl⟩
  | frsq d a => exact .inl ⟨_, rfl⟩
  | fsqrt d a => exact .inl ⟨_, rfl⟩
  | rsum d a => exact .inl ⟨_, rfl⟩
  | rmax d a => exact .inl ⟨_, rfl⟩
  | rmin d a => exact .inl ⟨_, rfl⟩
  | rmaxi d a => exact .inl ⟨_, rfl⟩
  | rmini d a => exact .inl ⟨_, rfl⟩
  | rall d a => exact .inl ⟨_, rfl⟩
  | rany d a => exact .inl ⟨_, rfl⟩
  | rfsum d a => exact .inl ⟨_, rfl⟩
  | rfmax d a => exact .inl ⟨_, rfl⟩
  | rfmaxi d a => exact .inl ⟨_, rfl⟩
  | vperm d a b => exact .inl ⟨_, rfl⟩
  | vshuf d a b => exact .inl ⟨_, rfl⟩
  | vlane d a b => exact .inl ⟨_, rfl⟩
  | vins d a b => exact .inl ⟨_, rfl⟩
  | vidx d a => exact .inl ⟨_, rfl⟩
  | vcomp d a b => exact .inl ⟨_, rfl⟩
  | vtopk d a b => exact .inl ⟨_, rfl⟩
  | vsmax d a b => exact .inl ⟨_, rfl⟩
  | vsoft d a b => exact .inl ⟨_, rfl⟩
  | vsamp d a b => exact .inl ⟨_, rfl⟩
  | vscan d a b => exact .inl ⟨_, rfl⟩
  | rng d a b => exact .inl ⟨_, rfl⟩
  | bt c disp => exact .inl ⟨_, rfl⟩
  | bf c disp => exact .inl ⟨_, rfl⟩
  | call disp => exact .inl ⟨_, rfl⟩
  | jmp disp => exact .inl ⟨_, rfl⟩
  | jr c => exact .inl ⟨_, rfl⟩
  | callr c => exact .inl ⟨_, rfl⟩
  | ret => exact .inl ⟨_, rfl⟩
  | dbnz c disp => exact .inl ⟨_, rfl⟩
  | ld d a sz off => exact .inl ⟨_, rfl⟩
  | st d a sz off => exact .inl ⟨_, rfl⟩
  | ldv d a sz off => exact .inl ⟨_, rfl⟩
  | stv d a sz off => exact .inl ⟨_, rfl⟩
  | ldx d a sz off => exact .inl ⟨_, rfl⟩
  | ldxv d a sz off => exact .inl ⟨_, rfl⟩
  | stx d a sz off => exact .inl ⟨_, rfl⟩
  | stxv d a sz off => exact .inl ⟨_, rfl⟩
  | ldg d a sz off => exact .inl ⟨_, rfl⟩
  | stg d a sz off => exact .inl ⟨_, rfl⟩
  | amoAdd d a b ord scope => exact .inl ⟨_, rfl⟩
  | amoAnd d a b ord scope => exact .inl ⟨_, rfl⟩
  | amoOr d a b ord scope => exact .inl ⟨_, rfl⟩
  | amoXor d a b ord scope => exact .inl ⟨_, rfl⟩
  | amoMin d a b ord scope => exact .inl ⟨_, rfl⟩
  | amoMax d a b ord scope => exact .inl ⟨_, rfl⟩
  | amoMinu d a b ord scope => exact .inl ⟨_, rfl⟩
  | amoMaxu d a b ord scope => exact .inl ⟨_, rfl⟩
  | amoXchg d a b ord scope => exact .inl ⟨_, rfl⟩
  | amoCas d a b ord scope => exact .inl ⟨_, rfl⟩
  | amoIncw d a b ord scope => exact .inl ⟨_, rfl⟩
  | amoBfa d a b ord scope => exact .inl ⟨_, rfl⟩
  | amoLd d a ord scope => exact .inl ⟨_, rfl⟩
  | amoSt a b ord scope => exact .inl ⟨_, rfl⟩
  | fence ord scope => exact .inl ⟨_, rfl⟩
  | aliasf => exact .inl ⟨_, rfl⟩
  | fencec => exact .inl ⟨_, rfl⟩
  | barArr d b => exact .inl ⟨_, rfl⟩
  | barWait a b => exact .inl ⟨_, rfl⟩
  | barSync b => exact .inl ⟨_, rfl⟩
  | barCfg a b => exact .inl ⟨_, rfl⟩
  | acqs b => exact .inl ⟨_, rfl⟩
  | rels b => exact .inl ⟨_, rfl⟩
  | qput a b => exact .inl ⟨_, rfl⟩
  | qget d b => exact .inl ⟨_, rfl⟩
  | qtry d b => exact .inl ⟨_, rfl⟩
  | send a b => exact .inl ⟨_, rfl⟩
  | sendh a b => exact .inl ⟨_, rfl⟩
  | recv d a => exact .inl ⟨_, rfl⟩
  | recvt d a b => exact .inl ⟨_, rfl⟩
  | waitwL d a b => exact .inl ⟨_, rfl⟩
  | waitwX d a b => exact .inl ⟨_, rfl⟩
  | lease a b => exact .inl ⟨_, rfl⟩
  | leaseRel b => exact .inl ⟨_, rfl⟩
  | mma a b tile zi => exact .inl ⟨_, rfl⟩
  | mmas a b tile zi => exact .inl ⟨_, rfl⟩
  | mzero tile => exact .inl ⟨_, rfl⟩
  | maccrd a tile => exact .inl ⟨_, rfl⟩
  | maccwr a tile => exact .inl ⟨_, rfl⟩
  | scacc a tile src => exact .inl ⟨_, rfl⟩
  | mldb a b slot => exact .inl ⟨_, rfl⟩
  | mldm a b slot => exact .inl ⟨_, rfl⟩
  | cpy a => exact .inl ⟨_, rfl⟩
  | qcpy a => exact .inl ⟨_, rfl⟩
  | zcpy a => exact .inl ⟨_, rfl⟩
  | xcpy a => exact .inl ⟨_, rfl⟩
  | jstat d a => exact .inl ⟨_, rfl⟩
  | jcancel a => exact .inl ⟨_, rfl⟩
  | spawn a => exact .inl ⟨_, rfl⟩
  | done => exact .inl ⟨_, rfl⟩
  | yield => exact .inl ⟨_, rfl⟩
  | tidq d b => exact .inl ⟨_, rfl⟩
  | vtsend a b => exact .inl ⟨_, rfl⟩
  | vtrecv d a => exact .inl ⟨_, rfl⟩
  | vtadv a => exact .inl ⟨_, rfl⟩
  | vtann a b => exact .inl ⟨_, rfl⟩
  | vtnull => exact .inl ⟨_, rfl⟩
  | vthor d => exact .inl ⟨_, rfl⟩
  | trap a b => exact .inl ⟨_, rfl⟩
  | scall a b => exact .inl ⟨_, rfl⟩
  | eret a => exact .inl ⟨_, rfl⟩
  | cwr d a b => exact .inl ⟨_, rfl⟩
  | cww d a b => exact .inl ⟨_, rfl⟩
  | snap d => exact .inl ⟨_, rfl⟩
  | brk b => exact .inl ⟨_, rfl⟩
  | halt => exact .inl ⟨_, rfl⟩
  | submissionWrite => cases h
  | submissionHandle => cases h
  | queuePreempt => cases h
  | queueResume => cases h
  | queueAbort => cases h
  | queueCommandBadOp => cases h
  | regionActivate => cases h
  | regionDeactivate => cases h
  | regionCommandBadOp => cases h
  | snapshotTrigger => cases h
  | snapshotFiringComplete => cases h
  | attestationRequest => cases h
  | powerLimitWrite => cases h
  | migrationThresholdWrite => cases h
  | registerWriteOther => cases h
  | accessTableEdit => cases h
  | hostMemoryRead => cases h
  | hostMemoryWrite => cases h
  | debugFreeze => cases h
  | debugThaw => cases h
  | debugStop => cases h
  | debugGo => cases h
  | debugStep => cases h
  | packageReset => cases h
  | firmwareImageVerify => cases h
  | hostLinkDown => cases h
  | hostLinkRetrain => cases h
  | cxlPortTrain => cases h
  | domainBringup => cases h
  | fabricFrameReceive => cases h
  | fabricLaneLoss => cases h
  | fabricPortUp => cases h
  | dieLinkFlitDeliver => cases h
  | powerSample => cases h
  | thermalTrip => cases h
  | supplyRampUpDone => cases h
  | relockDone => cases h
  | supplyRampDownDone => cases h
  | stewardHeartbeatMiss => cases h
  | stewardRestartCommand => cases h
  | stewardRestartDone => cases h
  | patrolScrub => cases h
  | recordAccept => cases h
  | fenceRecordRelease => cases h
  | poolPlace => cases h
  | nodeTake => cases h
  | porterResidency => cases h
  | nodeStart => cases h
  | leaseServe => cases h
  | porterNoticeHandle => cases h
  | migrationCopyDone => cases h
  | counterHalve => cases h
  | loadBalance => cases h
  | repeatDecide => cases h
  | repeatRearm => cases h
  | spawnAppend => cases h
  | taskEnd => cases h
  | taskExtentEnd => cases h
  | trapService => cases h
  | dumpBegin => cases h
  | dumpComplete => cases h
  | deviceFatalFault => cases h
  | preemptT1Expire => cases h
  | saveComplete => cases h
  | preemptT2Expire => cases h
  | loadReturn => cases h
  | postedStorePerform => cases h
  | atomicPerform => cases h
  | logRdPoll => cases h
  | replayTimeout => cases h
  | matrixStart => cases h
  | matrixComplete => cases h
  | matrixSoftErrorRetry => cases h
  | streamStart => cases h
  | streamComplete => cases h
  | frameSpillDone => cases h
  | frameFillDone => cases h
  | yieldEnd => cases h
  | cardAccept => cases h
  | courierJobStart => cases h
  | courierJobComplete => cases h
  | xcpyChunkDeliver => cases h
  | messageArrive => cases h
  | sendReply => cases h
  | contextFreeNotice => cases h
  | refusalSelfNotice => cases h
  | recvtTimeout => cases h
  | barrierCountArrive => cases h
  | barrierUnitArrival => cases h
  | barrierLineRise => cases h
  | vtNeighbourRegister => cases h
  | vtEventArrive => cases h
  | vtMilestoneArrive => cases h
  | vtNullCountExpire => cases h
  | stewardHeartbeatDue => cases h

/-- An instruction of the current thread runs the common course. -/
theorem exec_issues (i : Instr) (s : State) (h : (encode i).isSome = true) (hc : s.cur ≠ none) : ∃ f, exec i s = issue i s f :=
  (exec_forms i s h).resolve_right (fun e => hc e.1)

theorem hostWrite_event (s : State) (go : Trail s → Trail s) : ∃ f, hostWrite s go = event s f := ⟨_, rfl⟩

theorem pfWrite_event (s : State) (go : Trail s → Trail s) : ∃ f, pfWrite s go = event s f := hostWrite_event s _

theorem debugCommand_event (s : State) (go : Trail s → Trail s) : ∃ f, debugCommand s go = event s f := ⟨_, rfl⟩

theorem debugThread_event (s : State) (may : Thread → Bool) (go : Nat → Nat → Thread → Trail s → Trail s) :
    ∃ f, debugThread s may go = event s f := debugCommand_event s _

theorem noticeAt_event (s : State) (i : Instr) : ∃ f, noticeAt s i = event s f := ⟨_, rfl⟩

theorem queueCommand_event (s : State) (op : Nat) (go : (t : Trail s) → Nat → Part → Queue → Trail s) :
    ∃ f, queueCommand s op go = event s f := hostWrite_event s _

set_option maxRecDepth 4000 in
/-- A step of another agent is an event. -/
theorem exec_event (i : Instr) (s : State) (h : encode i = none) : ∃ f, exec i s = event s f := by
  cases i with
  | hintImm _ => cases h
  | hintMod _ _ => cases h
  | hintMma _ => cases h
  | hintScope _ _ _ => cases h
  | add _ _ _ => cases h
  | sub _ _ _ => cases h
  | and _ _ _ => cases h
  | or _ _ _ => cases h
  | xor _ _ _ => cases h
  | andn _ _ _ => cases h
  | orn _ _ _ => cases h
  | shl _ _ _ => cases h
  | shr _ _ _ => cases h
  | sra _ _ _ => cases h
  | rol _ _ _ => cases h
  | min _ _ _ => cases h
  | max _ _ _ => cases h
  | minu _ _ _ => cases h
  | maxu _ _ _ => cases h
  | abs _ _ => cases h
  | neg _ _ => cases h
  | mov _ _ => cases h
  | cmov _ _ _ => cases h
  | addi _ _ _ => cases h
  | andi _ _ _ => cases h
  | ori _ _ _ => cases h
  | xori _ _ _ => cases h
  | shli _ _ _ => cases h
  | shri _ _ _ => cases h
  | srai _ _ _ => cases h
  | roli _ _ _ => cases h
  | ceq _ _ _ => cases h
  | cne _ _ _ => cases h
  | clt _ _ _ => cases h
  | cle _ _ _ => cases h
  | cltu _ _ _ => cases h
  | cleu _ _ _ => cases h
  | ceqi _ _ _ => cases h
  | cnei _ _ _ => cases h
  | clti _ _ _ => cases h
  | cltui _ _ _ => cases h
  | mul _ _ _ => cases h
  | mulh _ _ _ => cases h
  | mulhu _ _ _ => cases h
  | div _ _ _ => cases h
  | divu _ _ _ => cases h
  | rem _ _ _ => cases h
  | remu _ _ _ => cases h
  | sethi _ _ => cases h
  | addpc _ _ => cases h
  | clz _ _ => cases h
  | ctz _ _ => cases h
  | popc _ _ => cases h
  | brev _ _ => cases h
  | bext _ _ _ => cases h
  | bins _ _ _ => cases h
  | mapld _ _ => cases h
  | resz _ _ _ => cases h
  | wqry _ _ _ => cases h
  | pol _ _ => cases h
  | cvt _ _ => cases h
  | pack _ _ => cases h
  | unpk _ _ _ => cases h
  | fadd _ _ _ => cases h
  | fsub _ _ _ => cases h
  | fmul _ _ _ => cases h
  | fmin _ _ _ => cases h
  | fmax _ _ _ => cases h
  | fabs _ _ => cases h
  | fneg _ _ => cases h
  | fceq _ _ _ => cases h
  | fclt _ _ _ => cases h
  | fcle _ _ _ => cases h
  | fclass _ _ => cases h
  | fma _ _ _ => cases h
  | fnma _ _ _ => cases h
  | fexp2 _ _ => cases h
  | flog2 _ _ => cases h
  | frcp _ _ => cases h
  | frsq _ _ => cases h
  | fsqrt _ _ => cases h
  | rsum _ _ => cases h
  | rmax _ _ => cases h
  | rmin _ _ => cases h
  | rmaxi _ _ => cases h
  | rmini _ _ => cases h
  | rall _ _ => cases h
  | rany _ _ => cases h
  | rfsum _ _ => cases h
  | rfmax _ _ => cases h
  | rfmaxi _ _ => cases h
  | vperm _ _ _ => cases h
  | vshuf _ _ _ => cases h
  | vlane _ _ _ => cases h
  | vins _ _ _ => cases h
  | vidx _ _ => cases h
  | vcomp _ _ _ => cases h
  | vtopk _ _ _ => cases h
  | vsmax _ _ _ => cases h
  | vsoft _ _ _ => cases h
  | vsamp _ _ _ => cases h
  | vscan _ _ _ => cases h
  | rng _ _ _ => cases h
  | bt _ _ => cases h
  | bf _ _ => cases h
  | call _ => cases h
  | jmp _ => cases h
  | jr _ => cases h
  | callr _ => cases h
  | ret => cases h
  | dbnz _ _ => cases h
  | ld _ _ _ _ => cases h
  | st _ _ _ _ => cases h
  | ldv _ _ _ _ => cases h
  | stv _ _ _ _ => cases h
  | ldx _ _ _ _ => cases h
  | ldxv _ _ _ _ => cases h
  | stx _ _ _ _ => cases h
  | stxv _ _ _ _ => cases h
  | ldg _ _ _ _ => cases h
  | stg _ _ _ _ => cases h
  | amoAdd _ _ _ _ _ => cases h
  | amoAnd _ _ _ _ _ => cases h
  | amoOr _ _ _ _ _ => cases h
  | amoXor _ _ _ _ _ => cases h
  | amoMin _ _ _ _ _ => cases h
  | amoMax _ _ _ _ _ => cases h
  | amoMinu _ _ _ _ _ => cases h
  | amoMaxu _ _ _ _ _ => cases h
  | amoXchg _ _ _ _ _ => cases h
  | amoCas _ _ _ _ _ => cases h
  | amoIncw _ _ _ _ _ => cases h
  | amoBfa _ _ _ _ _ => cases h
  | amoLd _ _ _ _ => cases h
  | amoSt _ _ _ _ => cases h
  | fence _ _ => cases h
  | aliasf => cases h
  | fencec => cases h
  | barArr _ _ => cases h
  | barWait _ _ => cases h
  | barSync _ => cases h
  | barCfg _ _ => cases h
  | acqs _ => cases h
  | rels _ => cases h
  | qput _ _ => cases h
  | qget _ _ => cases h
  | qtry _ _ => cases h
  | send _ _ => cases h
  | sendh _ _ => cases h
  | recv _ _ => cases h
  | recvt _ _ _ => cases h
  | waitwL _ _ _ => cases h
  | waitwX _ _ _ => cases h
  | lease _ _ => cases h
  | leaseRel _ => cases h
  | mma _ _ _ _ => cases h
  | mmas _ _ _ _ => cases h
  | mzero _ => cases h
  | maccrd _ _ => cases h
  | maccwr _ _ => cases h
  | scacc _ _ _ => cases h
  | mldb _ _ _ => cases h
  | mldm _ _ _ => cases h
  | cpy _ => cases h
  | qcpy _ => cases h
  | zcpy _ => cases h
  | xcpy _ => cases h
  | jstat _ _ => cases h
  | jcancel _ => cases h
  | spawn _ => cases h
  | done => cases h
  | yield => cases h
  | tidq _ _ => cases h
  | vtsend _ _ => cases h
  | vtrecv _ _ => cases h
  | vtadv _ => cases h
  | vtann _ _ => cases h
  | vtnull => cases h
  | vthor _ => cases h
  | trap _ _ => cases h
  | scall _ _ => cases h
  | eret _ => cases h
  | cwr _ _ _ => cases h
  | cww _ _ _ => cases h
  | snap _ => cases h
  | brk _ => cases h
  | halt => cases h
  | submissionWrite => show ∃ f, execSubmissionWrite s = event s f; exact hostWrite_event s _
  | submissionHandle => show ∃ f, execSubmissionHandle s = event s f; exact ⟨_, rfl⟩
  | queuePreempt => show ∃ f, execQueuePreempt s = event s f; exact queueCommand_event s _ _
  | queueResume => show ∃ f, execQueueResume s = event s f; exact queueCommand_event s _ _
  | queueAbort => show ∃ f, execQueueAbort s = event s f; exact queueCommand_event s _ _
  | queueCommandBadOp => show ∃ f, execQueueCommandBadOp s = event s f; exact hostWrite_event s _
  | regionActivate => show ∃ f, execRegionActivate s = event s f; exact pfWrite_event s _
  | regionDeactivate => show ∃ f, execRegionDeactivate s = event s f; exact pfWrite_event s _
  | regionCommandBadOp => show ∃ f, execRegionCommandBadOp s = event s f; exact pfWrite_event s _
  | snapshotTrigger => show ∃ f, execSnapshotTrigger s = event s f; exact hostWrite_event s _
  | snapshotFiringComplete => show ∃ f, execSnapshotFiringComplete s = event s f; exact ⟨_, rfl⟩
  | attestationRequest => show ∃ f, execAttestationRequest s = event s f; exact hostWrite_event s _
  | powerLimitWrite => show ∃ f, execPowerLimitWrite s = event s f; exact pfWrite_event s _
  | migrationThresholdWrite => show ∃ f, execMigrationThresholdWrite s = event s f; exact pfWrite_event s _
  | registerWriteOther => show ∃ f, execRegisterWriteOther s = event s f; exact ⟨_, rfl⟩
  | accessTableEdit => show ∃ f, execAccessTableEdit s = event s f; exact ⟨_, rfl⟩
  | hostMemoryRead => show ∃ f, execHostMemoryRead s = event s f; exact ⟨_, rfl⟩
  | hostMemoryWrite => show ∃ f, execHostMemoryWrite s = event s f; exact ⟨_, rfl⟩
  | debugFreeze => show ∃ f, execDebugFreeze s = event s f; exact debugCommand_event s _
  | debugThaw => show ∃ f, execDebugThaw s = event s f; exact debugCommand_event s _
  | debugStop => show ∃ f, execDebugStop s = event s f; exact debugThread_event s _ _
  | debugGo => show ∃ f, execDebugGo s = event s f; exact debugThread_event s _ _
  | debugStep => show ∃ f, execDebugStep s = event s f; exact debugThread_event s _ _
  | packageReset => show ∃ f, execPackageReset s = event s f; exact ⟨_, rfl⟩
  | firmwareImageVerify => show ∃ f, execFirmwareImageVerify s = event s f; exact ⟨_, rfl⟩
  | hostLinkDown => show ∃ f, execHostLinkDown s = event s f; exact ⟨_, rfl⟩
  | hostLinkRetrain => show ∃ f, execHostLinkRetrain s = event s f; exact ⟨_, rfl⟩
  | cxlPortTrain => show ∃ f, execCxlPortTrain s = event s f; exact ⟨_, rfl⟩
  | domainBringup => show ∃ f, execDomainBringup s = event s f; exact ⟨_, rfl⟩
  | fabricFrameReceive => show ∃ f, execFabricFrameReceive s = event s f; exact ⟨_, rfl⟩
  | fabricLaneLoss => show ∃ f, execFabricLaneLoss s = event s f; exact ⟨_, rfl⟩
  | fabricPortUp => show ∃ f, execFabricPortUp s = event s f; exact ⟨_, rfl⟩
  | dieLinkFlitDeliver => show ∃ f, execDieLinkFlitDeliver s = event s f; exact ⟨_, rfl⟩
  | powerSample => show ∃ f, execPowerSample s = event s f; exact ⟨_, rfl⟩
  | thermalTrip => show ∃ f, execThermalTrip s = event s f; exact ⟨_, rfl⟩
  | supplyRampUpDone => show ∃ f, execSupplyRampUpDone s = event s f; exact ⟨_, rfl⟩
  | relockDone => show ∃ f, execRelockDone s = event s f; exact ⟨_, rfl⟩
  | supplyRampDownDone => show ∃ f, execSupplyRampDownDone s = event s f; exact ⟨_, rfl⟩
  | stewardHeartbeatMiss => show ∃ f, execStewardHeartbeatMiss s = event s f; exact ⟨_, rfl⟩
  | stewardRestartCommand => show ∃ f, execStewardRestartCommand s = event s f; exact pfWrite_event s _
  | stewardRestartDone => show ∃ f, execStewardRestartDone s = event s f; exact ⟨_, rfl⟩
  | patrolScrub => show ∃ f, execPatrolScrub s = event s f; exact ⟨_, rfl⟩
  | recordAccept => show ∃ f, execRecordAccept s = event s f; exact ⟨_, rfl⟩
  | fenceRecordRelease => show ∃ f, execFenceRecordRelease s = event s f; exact ⟨_, rfl⟩
  | poolPlace => show ∃ f, execPoolPlace s = event s f; exact ⟨_, rfl⟩
  | nodeTake => show ∃ f, execNodeTake s = event s f; exact ⟨_, rfl⟩
  | porterResidency => show ∃ f, execPorterResidency s = event s f; exact ⟨_, rfl⟩
  | nodeStart => show ∃ f, execNodeStart s = event s f; exact ⟨_, rfl⟩
  | leaseServe => show ∃ f, execLeaseServe s = event s f; exact ⟨_, rfl⟩
  | porterNoticeHandle => show ∃ f, execPorterNoticeHandle s = event s f; exact ⟨_, rfl⟩
  | migrationCopyDone => show ∃ f, execMigrationCopyDone s = event s f; exact ⟨_, rfl⟩
  | counterHalve => show ∃ f, execCounterHalve s = event s f; exact ⟨_, rfl⟩
  | loadBalance => show ∃ f, execLoadBalance s = event s f; exact ⟨_, rfl⟩
  | repeatDecide => show ∃ f, execRepeatDecide s = event s f; exact ⟨_, rfl⟩
  | repeatRearm => show ∃ f, execRepeatRearm s = event s f; exact ⟨_, rfl⟩
  | spawnAppend => show ∃ f, execSpawnAppend s = event s f; exact ⟨_, rfl⟩
  | taskEnd => show ∃ f, execTaskEnd s = event s f; exact ⟨_, rfl⟩
  | taskExtentEnd => show ∃ f, execTaskExtentEnd s = event s f; exact ⟨_, rfl⟩
  | trapService => show ∃ f, execTrapService s = event s f; exact ⟨_, rfl⟩
  | dumpBegin => show ∃ f, execDumpBegin s = event s f; exact ⟨_, rfl⟩
  | dumpComplete => show ∃ f, execDumpComplete s = event s f; exact ⟨_, rfl⟩
  | deviceFatalFault => show ∃ f, execDeviceFatalFault s = event s f; exact ⟨_, rfl⟩
  | preemptT1Expire => show ∃ f, execPreemptT1Expire s = event s f; exact ⟨_, rfl⟩
  | saveComplete => show ∃ f, execSaveComplete s = event s f; exact ⟨_, rfl⟩
  | preemptT2Expire => show ∃ f, execPreemptT2Expire s = event s f; exact ⟨_, rfl⟩
  | loadReturn => show ∃ f, execLoadReturn s = event s f; exact ⟨_, rfl⟩
  | postedStorePerform => show ∃ f, execPostedStorePerform s = event s f; exact ⟨_, rfl⟩
  | atomicPerform => show ∃ f, execAtomicPerform s = event s f; exact ⟨_, rfl⟩
  | logRdPoll => show ∃ f, execLogRdPoll s = event s f; exact ⟨_, rfl⟩
  | replayTimeout => show ∃ f, execReplayTimeout s = event s f; exact ⟨_, rfl⟩
  | matrixStart => show ∃ f, execMatrixStart s = event s f; exact ⟨_, rfl⟩
  | matrixComplete => show ∃ f, execMatrixComplete s = event s f; exact ⟨_, rfl⟩
  | matrixSoftErrorRetry => show ∃ f, execMatrixSoftErrorRetry s = event s f; exact ⟨_, rfl⟩
  | streamStart => show ∃ f, execStreamStart s = event s f; exact ⟨_, rfl⟩
  | streamComplete => show ∃ f, execStreamComplete s = event s f; exact ⟨_, rfl⟩
  | frameSpillDone => show ∃ f, execFrameSpillDone s = event s f; exact ⟨_, rfl⟩
  | frameFillDone => show ∃ f, execFrameFillDone s = event s f; exact ⟨_, rfl⟩
  | yieldEnd => show ∃ f, execYieldEnd s = event s f; exact ⟨_, rfl⟩
  | cardAccept => show ∃ f, execCardAccept s = event s f; exact ⟨_, rfl⟩
  | courierJobStart => show ∃ f, execCourierJobStart s = event s f; exact ⟨_, rfl⟩
  | courierJobComplete => show ∃ f, execCourierJobComplete s = event s f; exact ⟨_, rfl⟩
  | xcpyChunkDeliver => show ∃ f, execXcpyChunkDeliver s = event s f; exact ⟨_, rfl⟩
  | messageArrive => show ∃ f, execMessageArrive s = event s f; exact ⟨_, rfl⟩
  | sendReply => show ∃ f, execSendReply s = event s f; exact ⟨_, rfl⟩
  | contextFreeNotice => show ∃ f, execContextFreeNotice s = event s f; exact noticeAt_event s _
  | refusalSelfNotice => show ∃ f, execRefusalSelfNotice s = event s f; exact noticeAt_event s _
  | recvtTimeout => show ∃ f, execRecvtTimeout s = event s f; exact ⟨_, rfl⟩
  | barrierCountArrive => show ∃ f, execBarrierCountArrive s = event s f; exact ⟨_, rfl⟩
  | barrierUnitArrival => show ∃ f, execBarrierUnitArrival s = event s f; exact ⟨_, rfl⟩
  | barrierLineRise => show ∃ f, execBarrierLineRise s = event s f; exact ⟨_, rfl⟩
  | vtNeighbourRegister => show ∃ f, execVtNeighbourRegister s = event s f; exact ⟨_, rfl⟩
  | vtEventArrive => show ∃ f, execVtEventArrive s = event s f; exact ⟨_, rfl⟩
  | vtMilestoneArrive => show ∃ f, execVtMilestoneArrive s = event s f; exact ⟨_, rfl⟩
  | vtNullCountExpire => show ∃ f, execVtNullCountExpire s = event s f; exact ⟨_, rfl⟩
  | stewardHeartbeatDue => show ∃ f, execStewardHeartbeatDue s = event s f; exact ⟨_, rfl⟩

/-- What a meaning answers is a state that acts lead to. -/
theorem exec_reach (i : Instr) (s t : State) (h : exec i s = .next t) : Reach s t := by
  cases e : encode i with
  | none =>
    obtain ⟨f, hf⟩ := exec_event i s e
    rw [hf] at h
    exact event_reach s f t h
  | some w =>
    rcases exec_forms i s (by simp [e]) with ⟨f, hf⟩ | ⟨_, f, hf⟩
    · rw [hf] at h
      exact issue_reach i s f t h
    · rw [hf] at h
      exact event_reach s f t h

/-- A step of another agent always answers a next state. -/
theorem exec_event_goes (i : Instr) (s : State) (h : encode i = none) : Goes s (exec i s) := by
  obtain ⟨f, hf⟩ := exec_event i s h
  rw [hf]
  exact event_goes s f

/-- An instruction of the current thread always answers a next state. -/
theorem exec_issue_goes (i : Instr) (s : State) (c sl : Nat) (th : Thread) (h : (encode i).isSome = true)
    (hc : s.cur = some (c, sl)) (ht : s.thread? c sl = some th) : Goes s (exec i s) := by
  obtain ⟨f, hf⟩ := exec_issues i s h (by rw [hc]; simp)
  rw [hf]
  exact issue_goes i s f c sl th hc ht

/-- What a step answers is a state that acts lead to. -/
theorem step_reach (s t : State) (h : step s = .next t) : Reach s t := by
  unfold step at h
  split at h
  · next u i _ => exact Reach.trans u.2 (exec_reach _ _ _ h)
  · next u i _ => exact Reach.trans u.2 (exec_reach _ _ _ h)
  · next u _ => cases h; exact u.2

end Sys2Proof.Machine
end

