-- ==== Sys2Proof/Laws/Ops.lean ====
section
/-!
SUPPORT. What each shared operation can do, said once: which fields of the state it leaves as they were, and what the bytes,
threads and steps that it changes become.
-/

namespace Sys2Proof

open Sys2Proof.Machine

/-! ### Reading back -/

@[simp] theorem withThread_thread (s : State) (c sl : Nat) (th : Thread) : (withThread s c sl th).thread? c sl = some th := by
  simp [withThread, State.thread?, State.core]

theorem withThread_thread_other (s : State) (c sl c' sl' : Nat) (th : Thread) (h : c' ≠ c ∨ sl' ≠ sl) :
    (withThread s c sl th).thread? c' sl' = s.thread? c' sl' := by
  unfold withThread State.thread? State.core
  rcases eq_or_ne c' c with rfl | hc
  · have hs : sl' ≠ sl := h.resolve_left (fun e => e rfl)
    rw [lookD_put_same]
    exact look_put_other _ _ _ _ hs
  · rw [lookD_put_other _ _ _ _ _ hc]

@[simp] theorem withThread_core (s : State) (c sl : Nat) (th : Thread) :
    (withThread s c sl th).core c = { s.core c with threads := put (s.core c).threads sl th } := by
  simp [withThread, State.core]

theorem withThread_core_other (s : State) (c sl c' : Nat) (th : Thread) (h : c' ≠ c) : (withThread s c sl th).core c' = s.core c' := by
  unfold withThread State.core
  exact lookD_put_other _ _ _ _ _ h

theorem modThread_val {s : State} (t : Trail s) (c sl : Nat) (f : Thread → Thread) (th : Thread) (h : t.1.thread? c sl = some th) :
    (t.modThread c sl f).1 = withThread t.1 c sl (f th) := by
  unfold Trail.modThread
  rw [h]
  rfl

theorem modCore_val {s : State} (t : Trail s) (c : Nat) (f : Core → Core) :
    (t.modCore c f).1 = { t.1 with cores := put t.1.cores c (f (t.1.core c)) } := rfl

@[simp] theorem put_core (s : State) (c : Nat) (k : Core) : ({ s with cores := put s.cores c k } : State).core c = k := by
  simp [State.core]

theorem put_core_other (s : State) (c c' : Nat) (k : Core) (h : c' ≠ c) : ({ s with cores := put s.cores c k } : State).core c' = s.core c' := by
  unfold State.core
  exact lookD_put_other _ _ _ _ _ h

/-! ### What is due -/

/-- Steps are added to those due, and nothing else changes. -/
def AddsDue (s t : State) : Prop := ∃ p, t = { s with pending := p } ∧ ∀ i ∈ s.pending, i ∈ p

theorem AddsDue.refl (s : State) : AddsDue s s := ⟨s.pending, rfl, fun _ h => h⟩

theorem AddsDue.trans {s t u : State} (h : AddsDue s t) (k : AddsDue t u) : AddsDue s u := by
  obtain ⟨p, rfl, hp⟩ := h
  obtain ⟨q, rfl, hq⟩ := k
  exact ⟨q, rfl, fun i hi => hq i (hp i hi)⟩

theorem pend_adds {s : State} (t : Trail s) (i : Instr) (a : List Nat) : AddsDue t.1 (t.pend i a).1 :=
  ⟨t.1.pending ++ [⟨i, a⟩], rfl, fun _ h => List.mem_append_left _ h⟩

theorem pendOnce_adds {s : State} (t : Trail s) (i : Instr) (a : List Nat) : AddsDue t.1 (t.pendOnce i a).1 := by
  unfold Trail.pendOnce
  split
  · exact .refl _
  · exact pend_adds t i a

theorem pendOnce_due {s : State} (t : Trail s) (i : Instr) (a : List Nat) : ⟨i, a⟩ ∈ (t.pendOnce i a).1.pending := by
  unfold Trail.pendOnce
  split
  · next h => simpa using h
  · simp

/-- A list of operations that each add steps due. -/
theorem forEach_adds {s : State} {α : Type} (f : Trail s → α → Trail s) (h : ∀ t a, AddsDue t.1 (f t a).1) :
    ∀ (l : List α) (t : Trail s), AddsDue t.1 (forEach t l f).1
  | [], _ => .refl _
  | a :: r, t => (h t a).trans (forEach_adds f h r (f t a))

theorem wakeRing_adds {s : State} (t : Trail s) (c off len : Nat) : AddsDue t.1 (t.wakeRing c off len).1 :=
  forEach_adds _ (fun t _ => pendOnce_adds t _ _) _ t

theorem trace_untraced {s : State} (t : Trail s) (c sl k w : Nat) (h : t.1.traced c sl = false) : t.trace c sl k w = t := by
  unfold Trail.trace
  rw [h]
  rfl

/-! ### Bytes -/

/-- Memory after bytes are written where memory backs them (R16). -/
def writeBacked (m : Mem) (a : Nat) : List Byte → Mem
  | [] => m
  | b :: r => writeBacked (if backed a then m.set a b else m) (a + 1) r

theorem memWrite_val {s : State} : ∀ (bs : List Byte) (t : Trail s) (a : Nat),
    (t.memWrite a bs).1 = { t.1 with mem := writeBacked t.1.mem a bs }
  | [], _, _ => rfl
  | b :: r, t, a => by
    rw [Trail.memWrite, memWrite_val r]
    rfl

theorem writeBacked_other : ∀ (bs : List Byte) (m : Mem) (a k : Nat), (k < a ∨ a + bs.length ≤ k) → (writeBacked m a bs).get k = m.get k
  | [], _, _, _, _ => rfl
  | b :: r, m, a, k, h => by
    rw [writeBacked, writeBacked_other r _ (a + 1) k (by simp at h; omega)]
    split
    · exact Mem.get_set_other m a k b (by simp at h; omega)
    · rfl

theorem writeBacked_at : ∀ (bs : List Byte) (m : Mem) (a i : Nat), m.wf → i < bs.length → backed (a + i) = true →
    (writeBacked m a bs).get (a + i) = bs.getD i 0
  | b :: r, m, a, 0, hm, _, hb => by
    rw [writeBacked, writeBacked_other r _ (a + 1) (a + 0) (by omega)]
    have e : backed a = true := by simpa using hb
    rw [if_pos e]
    simpa using Mem.get_set_same m a b hm
  | b :: r, m, a, i + 1, hm, hi, hb => by
    rw [writeBacked, show a + (i + 1) = a + 1 + i by omega,
      writeBacked_at r _ (a + 1) i (by split; exact Mem.set_wf _ _ _ hm; exact hm) (by simpa using hi)
        (by rw [show a + 1 + i = a + (i + 1) by omega]; exact hb)]
    simp
  | [], _, _, i, _, hi, _ => by simp at hi

/-- Local store after bytes are written from a key up. -/
def writeLocal (m : Mem) (k : Nat) : List Byte → Mem
  | [] => m
  | b :: r => writeLocal (if inLocal k then m.set k b else m) (k + 1) r

theorem locKey_succ (c off : Nat) : locKey c (off + 1) = locKey c off + 1 := (Nat.add_assoc _ _ _).symm

theorem locWrite_val {s : State} : ∀ (bs : List Byte) (t : Trail s) (c off : Nat),
    (t.locWrite c off bs).1 = { t.1 with loc := writeLocal t.1.loc (locKey c off) bs }
  | [], _, _, _ => rfl
  | b :: r, t, c, off => by
    rw [Trail.locWrite, locWrite_val r, writeLocal, ← locKey_succ, Trail.act_val, Act.apply_loc]

theorem writeLocal_other : ∀ (bs : List Byte) (m : Mem) (a k : Nat), (k < a ∨ a + bs.length ≤ k) → (writeLocal m a bs).get k = m.get k
  | [], _, _, _, _ => rfl
  | b :: r, m, a, k, h => by
    rw [writeLocal, writeLocal_other r _ (a + 1) k (by simp at h; omega)]
    split
    · exact Mem.get_set_other m a k b (by simp at h; omega)
    · rfl

theorem writeLocal_at : ∀ (bs : List Byte) (m : Mem) (a i : Nat), m.wf → i < bs.length → inLocal (a + i) = true →
    (writeLocal m a bs).get (a + i) = bs.getD i 0
  | b :: r, m, a, 0, hm, _, hb => by
    rw [writeLocal, writeLocal_other r _ (a + 1) (a + 0) (by omega)]
    have e : inLocal a = true := hb
    rw [if_pos e]
    simpa using Mem.get_set_same m a b hm
  | b :: r, m, a, i + 1, hm, hi, hb => by
    rw [writeLocal, show a + (i + 1) = a + 1 + i by omega,
      writeLocal_at r _ (a + 1) i (by split; exact Mem.set_wf _ _ _ hm; exact hm) (by simpa using hi)
        (by rw [show a + 1 + i = a + (i + 1) by omega]; exact hb)]
    simp
  | [], _, _, i, _, hi, _ => by simp at hi

/-! ### Threads that wait -/

/-- Some threads that wait in an instruction are made to look again, or have seen a value; nothing else of them changes, no other
thread and no other field of a core. -/
structure Wakes (s t : State) : Prop where
  rest : t = { s with cores := t.cores }
  core : ∀ c, { t.core c with threads := [] } = { s.core c with threads := [] }
  thread : ∀ c sl, t.thread? c sl = s.thread? c sl ∨
    ∃ th st saw w, s.thread? c sl = some th ∧ (th.op.isSome = true ∨ th.logWait = true) ∧
      t.thread? c sl = some { th with status := st, saw := saw, logWait := w }

theorem Wakes.refl (s : State) : Wakes s s := ⟨rfl, fun _ => rfl, fun _ _ => .inl rfl⟩

theorem Wakes.trans {s t u : State} (h : Wakes s t) (k : Wakes t u) : Wakes s u := by
  refine ⟨by rw [k.rest, h.rest], fun c => (k.core c).trans (h.core c), fun c sl => ?_⟩
  rcases k.thread c sl with e | ⟨th, st, saw, w, e1, e2, e3⟩
  · rw [e]; exact h.thread c sl
  · rcases h.thread c sl with f | ⟨th', st', saw', w', f1, f2, f3⟩
    · exact .inr ⟨th, st, saw, w, by rw [← f]; exact e1, e2, e3⟩
    · rw [f3] at e1
      cases e1
      exact .inr ⟨th', st, saw, w, f1, f2, e3⟩

/-- A thread with no instruction in progress and no wait at the log is as it was. -/
theorem Wakes.keeps {s t : State} (h : Wakes s t) {c sl : Nat} {th : Thread} (e : s.thread? c sl = some th) (ho : th.op = none)
    (hw : th.logWait = false) : t.thread? c sl = some th := by
  rcases h.thread c sl with f | ⟨th', _, _, _, f1, f2, _⟩
  · rw [f, e]
  · rw [f1] at e
    cases e
    rw [ho, hw] at f2
    simp at f2

/-- What an update of a waiting thread is. -/
def WokenBy (f : Thread → Thread) : Prop :=
  ∀ th, f th = th ∨ ((th.op.isSome = true ∨ th.logWait = true) ∧ ∃ st saw w, f th = { th with status := st, saw := saw, logWait := w })

theorem modThread_wakes {s : State} (t : Trail s) (c sl : Nat) (f : Thread → Thread) (hf : WokenBy f) :
    Wakes t.1 (t.modThread c sl f).1 := by
  cases h : t.1.thread? c sl with
  | none =>
    unfold Trail.modThread
    rw [h]
    exact .refl _
  | some th =>
    rw [modThread_val t c sl _ th h]
    refine ⟨rfl, fun c' => ?_, fun c' sl' => ?_⟩
    · rcases eq_or_ne c' c with rfl | hc
      · simp
      · rw [withThread_core_other _ _ _ _ _ hc]
    · by_cases e : c' = c ∧ sl' = sl
      · obtain ⟨rfl, rfl⟩ := e
        rw [withThread_thread, h]
        rcases hf th with e | ⟨e1, st, saw, w, e2⟩
        · rw [e]; exact .inl rfl
        · rw [e2]; exact .inr ⟨th, st, saw, w, rfl, e1, rfl⟩
      · exact .inl (withThread_thread_other _ _ _ _ _ _ (by by_contra q; push Not at q; exact e q))

theorem waitsOn_op {th : Thread} {loc : Bool} {a len : Nat} (h : th.waitsOn loc a len = true) : th.op.isSome = true := by
  unfold Thread.waitsOn at h
  cases e : th.op with
  | none => simp [e] at h
  | some o => rfl

theorem waitsRelease_op {th : Thread} (h : th.waitsRelease = true) : th.op.isSome = true := by
  unfold Thread.waitsRelease at h
  cases e : th.op with
  | none => simp [e] at h
  | some o => rfl

theorem sees_form (v : Nat) (hs : List Head) (bad : Bool) (th : Thread) :
    ∃ st saw w, th.sees v hs bad = { th with status := st, saw := saw, logWait := w } := by
  unfold Thread.sees Thread.again
  dsimp only
  split
  · split <;> exact ⟨_, _, _, rfl⟩
  · split
    · exact ⟨_, _, _, rfl⟩
    · split <;> exact ⟨_, _, _, rfl⟩

theorem sees_woken (loc : Bool) (a len v : Nat) (hs : List Head) (bad : Bool) :
    WokenBy (fun th => if th.waitsOn loc a len then th.sees v hs bad else th) := fun th => by
  dsimp only
  split
  · next h => exact .inr ⟨.inl (waitsOn_op h), sees_form v hs bad th⟩
  · exact .inl rfl

theorem forEach_wakes {s : State} {α : Type} (f : Trail s → α → Trail s) (h : ∀ t a, Wakes t.1 (f t a).1) :
    ∀ (l : List α) (t : Trail s), Wakes t.1 (forEach t l f).1
  | [], _ => .refl _
  | a :: r, t => (h t a).trans (forEach_wakes f h r (f t a))

theorem wakeWord_wakes {s : State} (t : Trail s) (c : Nat) (loc : Bool) (a len : Nat) : Wakes t.1 (t.wakeWord c loc a len).1 :=
  forEach_wakes _ (fun t (p : Nat × Thread) => modThread_wakes t c p.1 _ (sees_woken loc a len _ _ _)) _ t

theorem wakeReleases_wakes {s : State} (t : Trail s) (c : Nat) : Wakes t.1 (t.wakeReleases c).1 :=
  forEach_wakes _ (fun t (p : Nat × Thread) => modThread_wakes t c p.1 _ fun th => by
    split
    · next h => exact .inr ⟨.inl (waitsRelease_op h), _, _, _, rfl⟩
    · exact .inl rfl) _ t

/-- An instruction's end: threads of its core that wait for accesses to end look again, and steps are added to those due. -/
theorem settle_spec {s : State} (t : Trail s) (c sl : Nat) : ∃ v, Wakes t.1 v ∧ AddsDue v (t.settle c sl).1 := by
  unfold Trail.settle
  cases ht : t.1.thread? c sl with
  | none => exact ⟨_, .refl _, .refl _⟩
  | some th =>
    dsimp only
    cases hx : t.1.task? th.task with
    | none => exact ⟨_, .refl _, .refl _⟩
    | some x =>
      dsimp only
      refine ⟨_, wakeReleases_wakes t c, ?_⟩
      have h1 : AddsDue (t.wakeReleases c).1 (if x.ending.isSome then (t.wakeReleases c).pendOnce .taskExtentEnd [th.task] else t.wakeReleases c).1 := by
        split
        · exact pendOnce_adds _ _ _
        · exact .refl _
      revert h1
      generalize (if x.ending.isSome then (t.wakeReleases c).pendOnce .taskExtentEnd [th.task] else t.wakeReleases c) = u
      intro h1
      split
      · split
        · exact h1.trans (pendOnce_adds _ _ _)
        · split
          · exact h1.trans (pendOnce_adds _ _ _)
          · exact h1
      · exact h1

/-! ### Stores -/

theorem setHeads_val {s : State} (t : Trail s) (a len : Nat) (hs : List Head) :
    ∃ h, (t.setHeads a len hs).1 = { t.1 with heads := h } := by
  unfold Trail.setHeads
  generalize upFrom (a / 4) ((a + len + 3) / 4 - a / 4) = l
  induction l generalizing t with
  | nil => exact ⟨t.1.heads, rfl⟩
  | cons w r ih =>
    obtain ⟨h, e⟩ := ih (if t.1.headsAt w = hs then t else t.act (.heads w hs))
    unfold forEach at e ⊢
    rw [List.foldl_cons, e]
    split
    · exact ⟨h, rfl⟩
    · exact ⟨h, rfl⟩

/-- What a store to device memory does: the bytes, where memory backs them, whose errors are mended; and threads that wait on them
see them. -/
theorem memPut_spec {s : State} (t : Trail s) (a : Nat) (bs : List Byte) (hs : List Head) :
    ∃ h b u, u = ({ t.1 with mem := writeBacked t.1.mem a bs, heads := h, bad := b } : State) ∧ Wakes u (t.memPut a bs hs).1 := by
  obtain ⟨h, e⟩ := setHeads_val (t.memWrite a bs) a bs.length hs
  refine ⟨h, (((t.memWrite a bs).setHeads a bs.length hs).mendRun none a bs.length).1.bad, _, rfl, ?_⟩
  have e2 : (((t.memWrite a bs).setHeads a bs.length hs).mendRun none a bs.length).1 =
      { t.1 with mem := writeBacked t.1.mem a bs, heads := h, bad := (((t.memWrite a bs).setHeads a bs.length hs).mendRun none a bs.length).1.bad } := by
    unfold Trail.mendRun
    rw [Trail.act_val, Act.apply_errors, e, memWrite_val]
  rw [← e2]
  exact forEach_wakes _ (fun t (k : Nat × Core) => wakeWord_wakes t k.1 false a bs.length) _ _

/-- What a store to a core's local store does. -/
theorem localWrite_spec {s : State} (t : Trail s) (c off : Nat) (bs : List Byte) (hs : List Head) :
    ∃ b u v, u = ({ t.1 with
        loc := writeLocal t.1.loc (locKey c off) bs, cores := put t.1.cores c ((t.1.core c).setHeads off bs.length hs), bad := b } : State) ∧
      Wakes u v ∧ AddsDue v (t.localWrite c off bs hs).1 := by
  refine ⟨(((t.locWrite c off bs).modCore c (fun k => k.setHeads off bs.length hs)).mendRun (some c) off bs.length).1.bad, _, _, rfl, ?_,
    wakeRing_adds _ c off bs.length⟩
  have e : (((t.locWrite c off bs).modCore c (fun k => k.setHeads off bs.length hs)).mendRun (some c) off bs.length).1 =
      { t.1 with
        loc := writeLocal t.1.loc (locKey c off) bs, cores := put t.1.cores c ((t.1.core c).setHeads off bs.length hs)
        bad := (((t.locWrite c off bs).modCore c (fun k => k.setHeads off bs.length hs)).mendRun (some c) off bs.length).1.bad } := by
    unfold Trail.mendRun
    rw [Trail.act_val, Act.apply_errors, modCore_val, locWrite_val]
    rfl
  rw [← e]
  exact wakeWord_wakes _ c true off bs.length

@[simp] theorem setHeads_threads (k : Core) (off len : Nat) (hs : List Head) : (k.setHeads off len hs).threads = k.threads := by
  unfold Core.setHeads
  dsimp only
  split <;> rfl

/-! ### What other shared operations leave -/

theorem wakeWaiter_spec {s : State} (t : Trail s) (w : Waiter) : ∃ v, Wakes t.1 v ∧ AddsDue v (t.wakeWaiter w).1 := by
  unfold Trail.wakeWaiter
  split
  · refine ⟨_, modThread_wakes t _ _ _ fun th => ?_, .refl _⟩
    dsimp only
    split
    · next h => exact .inr ⟨.inr h, _, _, _, rfl⟩
    · exact .inl rfl
  · exact ⟨_, .refl _, pendOnce_adds _ _ _⟩

theorem nextGranted_spec {s : State} (t : Trail s) (n : Nat) : ∃ v, Wakes t.1 v ∧ AddsDue v (t.nextGranted n).1 := by
  unfold Trail.nextGranted
  split
  · exact wakeWaiter_spec t _
  · exact ⟨_, .refl _, .refl _⟩

theorem modPart_val {s : State} (t : Trail s) (n : Nat) (f : Part → Part) : ∃ ps, (t.modPart n f).1 = { t.1 with parts := ps } := by
  unfold Trail.modPart
  split
  · exact ⟨_, rfl⟩
  · exact ⟨_, rfl⟩

theorem modPart_nextGranted {s : State} (t : Trail s) (n : Nat) (f : Part → Part) :
    ∃ ps v, Wakes { t.1 with parts := ps } v ∧ AddsDue v ((t.modPart n f).nextGranted n).1 := by
  obtain ⟨ps, e⟩ := modPart_val t n f
  obtain ⟨v, h, k⟩ := nextGranted_spec (t.modPart n f) n
  rw [e] at h
  exact ⟨ps, v, h, k⟩

/-- A thread waits for nothing at the order log any more: its partition's log and timers change, and what was granted its place
after it goes on. -/
theorem dropWaits_spec {s : State} (t : Trail s) (c sl : Nat) :
    ∃ ps ts v, Wakes { t.1 with parts := ps, timers := ts } v ∧ AddsDue v (t.dropWaits c sl).1 := by
  unfold Trail.dropWaits
  generalize hu : (t.noTimer .recvtTimeout [c, sl]) = u
  have e1 : u.1 = { t.1 with timers := u.1.timers } := by rw [← hu]; rfl
  dsimp only
  generalize hw : (u.act (.agenda u.1.tick u.1.inputs u.1.pending (u.1.timers.filter _))) = w
  have e2 : w.1 = { t.1 with timers := w.1.timers } := by rw [← hw, Trail.act_val, Act.apply_agenda, e1]
  split
  · obtain ⟨ps, v, h, k⟩ := modPart_nextGranted w _ _
    rw [e2] at h
    exact ⟨ps, _, v, h, k⟩
  · rw [e2]
    exact ⟨_, _, _, .refl _, .refl _⟩

/-- A steward is woken: its own thread alone changes. -/
theorem wakeSteward_val {s : State} (t : Trail s) (c : Nat) : ∃ cs, (t.wakeSteward c).1 = { t.1 with cores := cs } ∧
    (∀ c' sl, ¬(c' = c ∧ sl = 15) → (t.wakeSteward c).1.thread? c' sl = t.1.thread? c' sl) ∧
    (∀ c', { (t.wakeSteward c).1.core c' with threads := [] } = { t.1.core c' with threads := [] }) := by
  unfold Trail.wakeSteward
  split
  · split
    · refine ⟨_, rfl, fun c' sl h => ?_, fun c' => ?_⟩
      · rw [setThread_val]; exact withThread_thread_other _ _ _ _ _ _ (by by_contra q; push Not at q; exact h q)
      · rw [setThread_val]
        rcases eq_or_ne c' c with rfl | hc
        · simp
        · rw [withThread_core_other _ _ _ _ _ hc]
    · exact ⟨_, rfl, fun _ _ _ => rfl, fun _ => rfl⟩
  · exact ⟨_, rfl, fun _ _ _ => rfl, fun _ => rfl⟩

theorem retireAt_val {s : State} {i : Instr} {x : Ctx} (hi : Issues s i x) (pc : Nat) :
    (retireAt x pc (begin s)).1 = withThread s x.c x.sl (x.th.retire pc) := modThread_val _ _ _ _ _ hi.thread

theorem opCtx_eq {s : State} {c sl : Nat} {x : Ctx} {a : List Nat} (h : s.opCtx? c sl = some (x, a)) :
    ∃ th o, s.thread? c sl = some th ∧ th.op = some o ∧ x = { s := s, c := c, sl := sl, k := s.core c, th := th, i := o.instr, hint := o.hint } ∧ a = o.args := by
  unfold State.opCtx? at h
  cases e : s.thread? c sl with
  | none => rw [e] at h; cases h
  | some th =>
    rw [e] at h
    cases eo : th.op with
    | none => simp only [eo] at h; cases h
    | some o => simp only [eo] at h; cases h; exact ⟨th, o, rfl, eo, rfl, rfl⟩

/-- An instruction in progress passes its checks: its effect, and what waited for its thread to stand still looks again. -/
theorem resume_ok {s : State} (t : Trail s) {c sl : Nat} {x : Ctx} {a : List Nat} {f : Ctx → List Nat → Except Stop (Effect s)} {g : Effect s}
    (h : t.1.opCtx? c sl = some (x, a)) (hf : f x a = .ok g) : t.resume c sl f = (g t).settle c sl := by
  unfold Trail.resume; rw [h]; dsimp only; rw [hf]

theorem enterAll_fields (k : Core) (th : Thread) (sl : Nat) (w a : Bool) (ls : List Loc) :
    (k.enterAll th sl w a ls).threads = k.threads ∧ (k.enterAll th sl w a ls).refusals = k.refusals := by
  induction ls generalizing k with
  | nil => exact ⟨rfl, rfl⟩
  | cons l r ih =>
    unfold Core.enterAll at ih ⊢
    rw [List.foldl_cons]
    have := ih (k.setHistory l (enter (k.history l) (th.access sl w a) th.vc))
    rw [this.1, this.2]
    cases l <;> exact ⟨rfl, rfl⟩

/-- Accesses enter the histories: no thread changes, and nothing but the cores. -/
theorem enterAll_val {s : State} (t : Trail s) (x : Ctx) (w a : Bool) (ls : List Loc) :
    ∃ cs, (t.enterAll x w a ls).1 = { t.1 with cores := cs } ∧ (∀ c sl, ({ t.1 with cores := cs } : State).thread? c sl = t.1.thread? c sl) ∧
      (∀ c, (({ t.1 with cores := cs } : State).core c).refusals = (t.1.core c).refusals) := by
  unfold Trail.enterAll
  split
  · exact ⟨_, rfl, fun _ _ => rfl, fun _ => rfl⟩
  · refine ⟨_, rfl, fun c sl => ?_, fun c => ?_⟩
    · unfold State.thread?
      rcases eq_or_ne c x.c with rfl | h
      · rw [put_core, (enterAll_fields _ _ _ _ _ _).1]
      · rw [put_core_other _ _ _ _ h]
    · rcases eq_or_ne c x.c with rfl | h
      · rw [put_core, (enterAll_fields _ _ _ _ _ _).2]
      · rw [put_core_other _ _ _ _ h]

theorem contextFree_none {s : State} (t : Trail s) (c : Nat) (h : (t.1.core c).refusals = []) : t.contextFree c = t := by
  unfold Trail.contextFree; rw [h]; rfl

/-- Which threads are traced is the dies' to say: a change of threads changes none of it. -/
theorem traced_of_dies {s t : State} (c sl : Nat) (h : t.dies = s.dies) : t.traced c sl = s.traced c sl := by
  unfold State.traced State.die
  rw [h]

theorem not_and_pair {c c' sl sl' : Nat} (h : ¬(c' = c ∧ sl' = sl)) : c' ≠ c ∨ sl' ≠ sl := by
  by_contra q
  push Not at q
  exact h q

end Sys2Proof
end

