-- ==== Sys2Proof/Tests/Slice0.lean ====
section
/-!
SUPPORT. Tests. Words decoded as the spec writes them out, ill-formed terms refused, results of single steps worked by hand from
the spec, and for each statement with hypotheses a state and operands that meet them, at the ends of a range where a clause has
one.
-/

namespace Sys2Proof.Tests

open Sys2Proof.Machine Sys2Proof.Claims

section

set_option Elab.async false
set_option maxRecDepth 8000

/-! ### A small machine -/

def desc (k : Kind) (w l : Nat) (p : Policy) : Desc := { width := w, lanes := l, kind := k, pol := p, win := false }
def u64 : Desc := desc .uns 64 1 .wrap
def u8x4 : Desc := desc .uns 8 4 .wrap
def t8x4 : Desc := desc .uns 8 4 .trap
def bit1 : Desc := desc .uns 1 1 .wrap
def f32 : Desc := desc .f32 32 1 .wrap
def f16 : Desc := desc .f16 16 1 .wrap

def name (n : Nat) (d : Desc) (row : Nat) (v : List Nat) : Nat × NameSt := (n, { desc := d, fields := [⟨row, 0, v⟩] })

/-- Names of the small machine: words, short lanes, predicates and floats. -/
def names0 : Tab NameSt :=
  [name 0 u64 0 [5], name 1 u64 1 [3], name 2 u64 2 [0], name 3 u8x4 3 [250, 10, 0, 7], name 4 t8x4 4 [10, 1, 1, 1],
    name 5 bit1 5 [1], name 6 bit1 6 [0], name 7 f32 7 [0x3F800000], name 8 f32 8 [0x40000000], name 9 f16 9 [0x3C00],
    name 10 u64 10 [0x1000], name 11 (desc .sgn 6 1 .trap) 11 [31]]

def th0 : Thread := { Thread.start 1 1 0x100000 512 0 0 0 0 [] none with names := names0 }

def task0 : Machine.Task := { placedTask with part := 0 }

def log0 : Log :=
  { wr := 0, rd := 0, flags := 0, stalls := 0, seqs := [], held := [], granted := [], turns := [], diverged := false }

/-- A partition of cluster 0 in a mode. -/
def part0 (mode : Nat) : Part :=
  { rcb := 0, mode := mode, logpol := 0, fdom := 0, prio := 0, clusters := [0], mem := 0x1000000, logbase := 0x800000, logbytes := 1024,
    courier := 8, queues := [], append := 0, live := [], graphs := [], dumpBase := 0x900000, dumps := [], ladder := .none, halted := false,
    t2 := 0, reason := 0, saved := none, log := log0, frames := [], residency := []
    entries := [], shadow := [], found := [] }

/-- One thread in slot 0 of core 0, whose task is of partition 0. -/
def bench (th : Thread) (mode : Nat) : State :=
  { State.reset with
    cores := [(0, { Core.reset with threads := [(0, th)] })], tasks := [(1, task0)], parts := [(0, part0 mode)], taskCount := 1
    agents := 1, cur := some (0, 0) }

def s0 : State := bench th0 0

/-- The context in which slot 0 of core 0 issues an instruction. -/
def ctx (s : State) (th : Thread) (i : Instr) : Ctx := { s := s, c := 0, sl := 0, k := s.core 0, th := th, i := i, hint := th.hint }

def x0 (i : Instr) : Ctx := ctx s0 th0 i


/-! ### Well-formed terms (R268, R270) -/

/-- Every field at the highest value that its bits hold. -/
theorem test_wf_fits_1 : ([.hintImm 4194303, .hintMod 7 1, .hintMma 32767, .hintScope 3 3 3, .add 63 63 63, .sub 63 63 63, .and 63 63 63, .or 63 63 63, .xor 63 63 63,
      .andn 63 63 63, .orn 63 63 63, .shl 63 63 63, .shr 63 63 63, .sra 63 63 63, .rol 63 63 63, .min 63 63 63, .max 63 63 63, .minu 63 63 63,
      .maxu 63 63 63, .abs 63 63, .neg 63 63, .mov 63 63, .cmov 63 63 63, .addi 63 63 4095, .andi 63 63 4095, .ori 63 63 4095, .xori 63 63 4095,
      .shli 63 63 63, .shri 63 63 63, .srai 63 63 63, .roli 63 63 63, .ceq 63 63 63, .cne 63 63 63, .clt 63 63 63, .cle 63 63 63, .cltu 63 63 63,
      .cleu 63 63 63, .ceqi 63 63 4095, .cnei 63 63 4095, .clti 63 63 4095, .cltui 63 63 4095, .mul 63 63 63, .mulh 63 63 63, .mulhu 63 63 63,
      .div 63 63 63, .divu 63 63 63, .rem 63 63 63, .remu 63 63 63, .sethi 63 1048575, .addpc 63 1048575, .clz 63 63, .ctz 63 63, .popc 63 63,
      .brev 63 63, .bext 63 63 63, .bins 63 63 63, .mapld 63 4095, .resz 63 15 63, .wqry 63 3 63, .pol 63 3] : List Instr).all (fun i => i.fieldsFit) = true := by decide

theorem test_wf_fits_2 : ([.cvt 63 63, .pack 63 63, .unpk 63 63 63, .fadd 63 63 63, .fsub 63 63 63, .fmul 63 63 63, .fmin 63 63 63, .fmax 63 63 63, .fabs 63 63,
      .fneg 63 63, .fceq 63 63 63, .fclt 63 63 63, .fcle 63 63 63, .fclass 63 63, .fma 63 63 63, .fnma 63 63 63, .fexp2 63 63, .flog2 63 63,
      .frcp 63 63, .frsq 63 63, .fsqrt 63 63, .rsum 63 63, .rmax 63 63, .rmin 63 63, .rmaxi 63 63, .rmini 63 63, .rall 63 63, .rany 63 63,
      .rfsum 63 63, .rfmax 63 63, .rfmaxi 63 63, .vperm 63 63 63, .vshuf 63 63 63, .vlane 63 63 63, .vins 63 63 63, .vidx 63 63, .vcomp 63 63 63,
      .vtopk 63 63 63, .vsmax 63 63 63, .vsoft 63 63 63, .vsamp 63 63 63, .vscan 63 63 63, .rng 63 63 63, .bt 63 524287, .bf 63 524287,
      .call 67108863, .jmp 67108863, .jr 63, .callr 63, .dbnz 63 262143, .ld 63 63 3 2047, .st 63 63 3 2047, .ldv 63 63 3 2047,
      .stv 63 63 3 2047, .ldx 63 63 3 2047, .ldxv 63 63 3 2047, .stx 63 63 3 2047, .stxv 63 63 3 2047, .ldg 63 63 3 2047, .stg 63 63 3 2047] : List Instr).all (fun i => i.fieldsFit) = true := by decide

theorem test_wf_fits_3 : ([.amoAdd 63 63 63 3 3, .amoAnd 63 63 63 3 3, .amoOr 63 63 63 3 3, .amoXor 63 63 63 3 3, .amoMin 63 63 63 3 3, .amoMax 63 63 63 3 3,
      .amoMinu 63 63 63 3 3, .amoMaxu 63 63 63 3 3, .amoXchg 63 63 63 3 3, .amoCas 63 63 63 3 3, .amoIncw 63 63 63 3 3, .amoBfa 63 63 63 3 3,
      .amoLd 63 63 3 3, .amoSt 63 63 3 3, .fence 3 3, .barArr 63 63, .barWait 63 63, .barSync 63, .barCfg 63 63, .acqs 63, .rels 63, .qput 63 63,
      .qget 63 63, .qtry 63 63, .send 63 63, .sendh 63 63, .recv 63 63, .recvt 63 63 63, .waitwL 63 63 63, .waitwX 63 63 63, .lease 63 63,
      .leaseRel 63, .mma 63 63 127 1, .mmas 63 63 127 1, .mzero 127, .maccrd 63 127, .maccwr 63 127, .scacc 63 127 127, .mldb 63 63 15,
      .mldm 63 63 15, .cpy 63, .qcpy 63, .zcpy 63, .xcpy 63, .jstat 63 63, .jcancel 63, .spawn 63, .tidq 63 63, .vtsend 63 63, .vtrecv 63 63,
      .vtadv 63, .vtann 63 63, .vthor 63, .trap 63 63, .scall 63 63, .eret 63, .cwr 63 63 63, .cww 63 63 63, .snap 63, .brk 63] : List Instr).all (fun i => i.fieldsFit) = true := by decide

/-- Each field in turn one beyond, the others zero. -/
theorem test_wf_refuses_1 : ([.hintImm 4194304, .hintMod 8 0, .hintMod 0 2, .hintMma 32768, .hintScope 4 0 0, .hintScope 0 4 0, .hintScope 0 0 4, .add 64 0 0,
      .add 0 64 0, .add 0 0 64, .sub 64 0 0, .sub 0 64 0, .sub 0 0 64, .and 64 0 0, .and 0 64 0, .and 0 0 64, .or 64 0 0, .or 0 64 0, .or 0 0 64,
      .xor 64 0 0, .xor 0 64 0, .xor 0 0 64, .andn 64 0 0, .andn 0 64 0, .andn 0 0 64, .orn 64 0 0, .orn 0 64 0, .orn 0 0 64, .shl 64 0 0,
      .shl 0 64 0, .shl 0 0 64, .shr 64 0 0, .shr 0 64 0, .shr 0 0 64, .sra 64 0 0, .sra 0 64 0, .sra 0 0 64, .rol 64 0 0, .rol 0 64 0,
      .rol 0 0 64, .min 64 0 0, .min 0 64 0, .min 0 0 64, .max 64 0 0, .max 0 64 0, .max 0 0 64, .minu 64 0 0, .minu 0 64 0, .minu 0 0 64,
      .maxu 64 0 0, .maxu 0 64 0, .maxu 0 0 64, .abs 64 0, .abs 0 64, .neg 64 0, .neg 0 64, .mov 64 0, .mov 0 64, .cmov 64 0 0, .cmov 0 64 0] : List Instr).all (fun i => !i.fieldsFit) = true := by decide

theorem test_wf_refuses_2 : ([.cmov 0 0 64, .addi 64 0 0, .addi 0 64 0, .addi 0 0 4096, .andi 64 0 0, .andi 0 64 0, .andi 0 0 4096, .ori 64 0 0, .ori 0 64 0,
      .ori 0 0 4096, .xori 64 0 0, .xori 0 64 0, .xori 0 0 4096, .shli 64 0 0, .shli 0 64 0, .shli 0 0 64, .shri 64 0 0, .shri 0 64 0,
      .shri 0 0 64, .srai 64 0 0, .srai 0 64 0, .srai 0 0 64, .roli 64 0 0, .roli 0 64 0, .roli 0 0 64, .ceq 64 0 0, .ceq 0 64 0, .ceq 0 0 64,
      .cne 64 0 0, .cne 0 64 0, .cne 0 0 64, .clt 64 0 0, .clt 0 64 0, .clt 0 0 64, .cle 64 0 0, .cle 0 64 0, .cle 0 0 64, .cltu 64 0 0,
      .cltu 0 64 0, .cltu 0 0 64, .cleu 64 0 0, .cleu 0 64 0, .cleu 0 0 64, .ceqi 64 0 0, .ceqi 0 64 0, .ceqi 0 0 4096, .cnei 64 0 0,
      .cnei 0 64 0, .cnei 0 0 4096, .clti 64 0 0, .clti 0 64 0, .clti 0 0 4096, .cltui 64 0 0, .cltui 0 64 0, .cltui 0 0 4096, .mul 64 0 0,
      .mul 0 64 0, .mul 0 0 64, .mulh 64 0 0, .mulh 0 64 0] : List Instr).all (fun i => !i.fieldsFit) = true := by decide

theorem test_wf_refuses_3 : ([.mulh 0 0 64, .mulhu 64 0 0, .mulhu 0 64 0, .mulhu 0 0 64, .div 64 0 0, .div 0 64 0, .div 0 0 64, .divu 64 0 0, .divu 0 64 0, .divu 0 0 64,
      .rem 64 0 0, .rem 0 64 0, .rem 0 0 64, .remu 64 0 0, .remu 0 64 0, .remu 0 0 64, .sethi 64 0, .sethi 0 1048576, .addpc 64 0,
      .addpc 0 1048576, .clz 64 0, .clz 0 64, .ctz 64 0, .ctz 0 64, .popc 64 0, .popc 0 64, .brev 64 0, .brev 0 64, .bext 64 0 0, .bext 0 64 0,
      .bext 0 0 64, .bins 64 0 0, .bins 0 64 0, .bins 0 0 64, .mapld 64 0, .mapld 0 4096, .resz 64 0 0, .resz 0 16 0, .resz 0 0 64, .wqry 64 0 0,
      .wqry 0 4 0, .wqry 0 0 64, .pol 64 0, .pol 0 4, .cvt 64 0, .cvt 0 64, .pack 64 0, .pack 0 64, .unpk 64 0 0, .unpk 0 64 0, .unpk 0 0 64,
      .fadd 64 0 0, .fadd 0 64 0, .fadd 0 0 64, .fsub 64 0 0, .fsub 0 64 0, .fsub 0 0 64, .fmul 64 0 0, .fmul 0 64 0, .fmul 0 0 64] : List Instr).all (fun i => !i.fieldsFit) = true := by decide

theorem test_wf_refuses_4 : ([.fmin 64 0 0, .fmin 0 64 0, .fmin 0 0 64, .fmax 64 0 0, .fmax 0 64 0, .fmax 0 0 64, .fabs 64 0, .fabs 0 64, .fneg 64 0, .fneg 0 64,
      .fceq 64 0 0, .fceq 0 64 0, .fceq 0 0 64, .fclt 64 0 0, .fclt 0 64 0, .fclt 0 0 64, .fcle 64 0 0, .fcle 0 64 0, .fcle 0 0 64, .fclass 64 0,
      .fclass 0 64, .fma 64 0 0, .fma 0 64 0, .fma 0 0 64, .fnma 64 0 0, .fnma 0 64 0, .fnma 0 0 64, .fexp2 64 0, .fexp2 0 64, .flog2 64 0,
      .flog2 0 64, .frcp 64 0, .frcp 0 64, .frsq 64 0, .frsq 0 64, .fsqrt 64 0, .fsqrt 0 64, .rsum 64 0, .rsum 0 64, .rmax 64 0, .rmax 0 64,
      .rmin 64 0, .rmin 0 64, .rmaxi 64 0, .rmaxi 0 64, .rmini 64 0, .rmini 0 64, .rall 64 0, .rall 0 64, .rany 64 0, .rany 0 64, .rfsum 64 0,
      .rfsum 0 64, .rfmax 64 0, .rfmax 0 64, .rfmaxi 64 0, .rfmaxi 0 64, .vperm 64 0 0, .vperm 0 64 0, .vperm 0 0 64] : List Instr).all (fun i => !i.fieldsFit) = true := by decide

theorem test_wf_refuses_5 : ([.vshuf 64 0 0, .vshuf 0 64 0, .vshuf 0 0 64, .vlane 64 0 0, .vlane 0 64 0, .vlane 0 0 64, .vins 64 0 0, .vins 0 64 0, .vins 0 0 64,
      .vidx 64 0, .vidx 0 64, .vcomp 64 0 0, .vcomp 0 64 0, .vcomp 0 0 64, .vtopk 64 0 0, .vtopk 0 64 0, .vtopk 0 0 64, .vsmax 64 0 0,
      .vsmax 0 64 0, .vsmax 0 0 64, .vsoft 64 0 0, .vsoft 0 64 0, .vsoft 0 0 64, .vsamp 64 0 0, .vsamp 0 64 0, .vsamp 0 0 64, .vscan 64 0 0,
      .vscan 0 64 0, .vscan 0 0 64, .rng 64 0 0, .rng 0 64 0, .rng 0 0 64, .bt 64 0, .bt 0 524288, .bf 64 0, .bf 0 524288, .call 67108864,
      .jmp 67108864, .jr 64, .callr 64, .dbnz 64 0, .dbnz 0 262144, .ld 64 0 0 0, .ld 0 64 0 0, .ld 0 0 4 0, .ld 0 0 0 2048, .st 64 0 0 0,
      .st 0 64 0 0, .st 0 0 4 0, .st 0 0 0 2048, .ldv 64 0 0 0, .ldv 0 64 0 0, .ldv 0 0 4 0, .ldv 0 0 0 2048, .stv 64 0 0 0, .stv 0 64 0 0,
      .stv 0 0 4 0, .stv 0 0 0 2048, .ldx 64 0 0 0, .ldx 0 64 0 0] : List Instr).all (fun i => !i.fieldsFit) = true := by decide

theorem test_wf_refuses_6 : ([.ldx 0 0 4 0, .ldx 0 0 0 2048, .ldxv 64 0 0 0, .ldxv 0 64 0 0, .ldxv 0 0 4 0, .ldxv 0 0 0 2048, .stx 64 0 0 0, .stx 0 64 0 0, .stx 0 0 4 0,
      .stx 0 0 0 2048, .stxv 64 0 0 0, .stxv 0 64 0 0, .stxv 0 0 4 0, .stxv 0 0 0 2048, .ldg 64 0 0 0, .ldg 0 64 0 0, .ldg 0 0 4 0,
      .ldg 0 0 0 2048, .stg 64 0 0 0, .stg 0 64 0 0, .stg 0 0 4 0, .stg 0 0 0 2048, .amoAdd 64 0 0 0 0, .amoAdd 0 64 0 0 0, .amoAdd 0 0 64 0 0,
      .amoAdd 0 0 0 4 0, .amoAdd 0 0 0 0 4, .amoAnd 64 0 0 0 0, .amoAnd 0 64 0 0 0, .amoAnd 0 0 64 0 0, .amoAnd 0 0 0 4 0, .amoAnd 0 0 0 0 4,
      .amoOr 64 0 0 0 0, .amoOr 0 64 0 0 0, .amoOr 0 0 64 0 0, .amoOr 0 0 0 4 0, .amoOr 0 0 0 0 4, .amoXor 64 0 0 0 0, .amoXor 0 64 0 0 0,
      .amoXor 0 0 64 0 0, .amoXor 0 0 0 4 0, .amoXor 0 0 0 0 4, .amoMin 64 0 0 0 0, .amoMin 0 64 0 0 0, .amoMin 0 0 64 0 0, .amoMin 0 0 0 4 0,
      .amoMin 0 0 0 0 4, .amoMax 64 0 0 0 0, .amoMax 0 64 0 0 0, .amoMax 0 0 64 0 0, .amoMax 0 0 0 4 0, .amoMax 0 0 0 0 4, .amoMinu 64 0 0 0 0,
      .amoMinu 0 64 0 0 0, .amoMinu 0 0 64 0 0, .amoMinu 0 0 0 4 0, .amoMinu 0 0 0 0 4, .amoMaxu 64 0 0 0 0, .amoMaxu 0 64 0 0 0,
      .amoMaxu 0 0 64 0 0] : List Instr).all (fun i => !i.fieldsFit) = true := by decide

theorem test_wf_refuses_7 : ([.amoMaxu 0 0 0 4 0, .amoMaxu 0 0 0 0 4, .amoXchg 64 0 0 0 0, .amoXchg 0 64 0 0 0, .amoXchg 0 0 64 0 0, .amoXchg 0 0 0 4 0,
      .amoXchg 0 0 0 0 4, .amoCas 64 0 0 0 0, .amoCas 0 64 0 0 0, .amoCas 0 0 64 0 0, .amoCas 0 0 0 4 0, .amoCas 0 0 0 0 4, .amoIncw 64 0 0 0 0,
      .amoIncw 0 64 0 0 0, .amoIncw 0 0 64 0 0, .amoIncw 0 0 0 4 0, .amoIncw 0 0 0 0 4, .amoBfa 64 0 0 0 0, .amoBfa 0 64 0 0 0,
      .amoBfa 0 0 64 0 0, .amoBfa 0 0 0 4 0, .amoBfa 0 0 0 0 4, .amoLd 64 0 0 0, .amoLd 0 64 0 0, .amoLd 0 0 4 0, .amoLd 0 0 0 4,
      .amoSt 64 0 0 0, .amoSt 0 64 0 0, .amoSt 0 0 4 0, .amoSt 0 0 0 4, .fence 4 0, .fence 0 4, .barArr 64 0, .barArr 0 64, .barWait 64 0,
      .barWait 0 64, .barSync 64, .barCfg 64 0, .barCfg 0 64, .acqs 64, .rels 64, .qput 64 0, .qput 0 64, .qget 64 0, .qget 0 64, .qtry 64 0,
      .qtry 0 64, .send 64 0, .send 0 64, .sendh 64 0, .sendh 0 64, .recv 64 0, .recv 0 64, .recvt 64 0 0, .recvt 0 64 0, .recvt 0 0 64,
      .waitwL 64 0 0, .waitwL 0 64 0, .waitwL 0 0 64, .waitwX 64 0 0] : List Instr).all (fun i => !i.fieldsFit) = true := by decide

theorem test_wf_refuses_8 : ([.waitwX 0 64 0, .waitwX 0 0 64, .lease 64 0, .lease 0 64, .leaseRel 64, .mma 64 0 0 0, .mma 0 64 0 0, .mma 0 0 128 0, .mma 0 0 0 2,
      .mmas 64 0 0 0, .mmas 0 64 0 0, .mmas 0 0 128 0, .mmas 0 0 0 2, .mzero 128, .maccrd 64 0, .maccrd 0 128, .maccwr 64 0, .maccwr 0 128,
      .scacc 64 0 0, .scacc 0 128 0, .scacc 0 0 128, .mldb 64 0 0, .mldb 0 64 0, .mldb 0 0 16, .mldm 64 0 0, .mldm 0 64 0, .mldm 0 0 16, .cpy 64,
      .qcpy 64, .zcpy 64, .xcpy 64, .jstat 64 0, .jstat 0 64, .jcancel 64, .spawn 64, .tidq 64 0, .tidq 0 64, .vtsend 64 0, .vtsend 0 64,
      .vtrecv 64 0, .vtrecv 0 64, .vtadv 64, .vtann 64 0, .vtann 0 64, .vthor 64, .trap 64 0, .trap 0 64, .scall 64 0, .scall 0 64, .eret 64,
      .cwr 64 0 0, .cwr 0 64 0, .cwr 0 0 64, .cww 64 0 0, .cww 0 64 0, .cww 0 0 64, .snap 64, .brk 64] : List Instr).all (fun i => !i.fieldsFit) = true := by decide

/-! ### Words that the spec writes out (R269 to R404) -/

def reads (l : List (Nat × Instr)) : Bool := l.all (fun e => decide (decodeTableWord 32 e.1 = some e.2) && decide (encode e.2 = some e.1))

/-- R269: the worked encodings of the opcode map. -/
theorem test_words_map : reads [(0x04310500, .add 3 4 5), (0x482FFFFE, .bt 2 0x7FFFE), (0x00880000, .hintMod 1 0), (0x30104100, .fadd 1 1 1),
    (0x83FE4002, .amoAdd 63 57 0 0 2), (0x00BC0000, .hintMod 7 1), (0x00523456, .hintImm 0x123456), (0x0830C789, .addi 3 3 0x789),
    (0xA0105280, .mma 4 5 20 0), (0x00900000, .hintMod 2 0)] = true := by decide +kernel

/-- The integer, pattern and control words of chapter 13, and those of the program of chapter 17. -/
theorem test_words_integer : reads [(0x080E003C, .addi 0 56 60), (0x1420203F, .clti 2 0 63), (0x1F940000, .sethi 57 0x40000), (0x0830CFF9, .addi 3 3 0xFF9),
    (0x280E0000, .mapld 56 0), (0x28001009, .resz 0 0 9), (0x2810110F, .resz 1 4 15), (0x28003002, .pol 0 2), (0x2C518402, .unpk 5 6 4),
    (0x0FFEC002, .shli 63 59 2), (0x079E7F00, .add 57 57 63), (0x28101043, .resz 1 1 3), (0x28103001, .pol 1 1)] = true := by decide +kernel

theorem test_words_control : reads [(0x4C000006, .call 6), (0x57940000, .callr 57), (0x54080000, .ret), (0x544FFFFD, .dbnz 4 0x3FFFD), (0x57900000, .jr 57),
    (0x50000003, .jmp 3), (0x50000023, .jmp 0x23), (0x5000002A, .jmp 0x2A)] = true := by decide +kernel

theorem test_words_float : reads [(0x34414600, .fma 4 5 6), (0x38720001, .flog2 7 8), (0x3C20C009, .rfmaxi 2 3), (0x40928B00, .vtopk 9 10 11),
    (0x40F28B03, .vsamp 15 10 11), (0x44C34E00, .rng 12 13 14)] = true := by decide +kernel

theorem test_words_memory : reads [(0x73FE5800, .ldx 63 57 3 0), (0x73FE5801, .ldx 63 57 3 1), (0x67FE1801, .st 63 56 3 1), (0x740FC000, .stx 0 63 0 0),
    (0x60311003, .ld 3 4 2 3), (0x6C614FE0, .stv 6 5 1 0x7E0), (0x70417808, .ldxv 4 5 3 8), (0x78721800, .ldg 7 8 3 0),
    (0x8031059E, .amoCas 3 4 5 3 2), (0x803105B1, .amoBfa 3 4 5 0 1), (0x703E700E, .ldxv 3 57 2 14)] = true := by decide +kernel

theorem test_words_sync : reads [(0x8400000A, .fence 2 2), (0x84000010, .aliasf), (0x84000020, .fencec), (0x88700207, .qget 7 2), (0x88024403, .barCfg 9 4),
    (0x88000402, .barSync 4), (0x88000A04, .acqs 10), (0x8C028B00, .send 10 11), (0x8CC28D03, .recvt 12 10 13), (0x90E3D001, .waitwX 14 15 16),
    (0x94050400, .lease 20 4), (0x94000901, .leaseRel 9), (0x880E0006, .qput 56 0), (0x8B800007, .qget 56 0), (0x880FC003, .barCfg 63 0)] = true := by
  decide +kernel

theorem test_words_matrix : reads [(0xA0105010, .mma 4 5 0 1), (0xA1105100, .mmas 4 5 8 0), (0xA4000000, .mzero 0), (0xA5180000, .maccrd 6 0),
    (0xA6184800, .maccwr 6 9), (0xA71C0800, .scacc 7 1 0), (0xA8105300, .mldb 4 5 3), (0xA9105300, .mldm 4 5 3), (0xB0020000, .cpy 8), (0xB0020001, .qcpy 8),
    (0xB0020002, .zcpy 8), (0xB0020003, .xcpy 8), (0xB0928004, .jstat 9 10), (0xB0028005, .jcancel 10)] = true := by decide +kernel

theorem test_words_system : reads [(0xC002C000, .spawn 11), (0xC0000001, .done), (0xC0000002, .yield), (0xC0C00203, .tidq 12 2), (0xC4034E00, .vtsend 13 14),
    (0xC4F40001, .vtrecv 15 16), (0xC4044002, .vtadv 17), (0xC4049303, .vtann 18 19), (0xC4000004, .vtnull), (0xC5400005, .vthor 20),
    (0xC8054400, .trap 21 4), (0xC8058101, .scall 22 1), (0xC805C002, .eret 23), (0xC9800403, .cwr 24 0 4), (0xC8064604, .cww 0 25 6),
    (0xC9A00005, .snap 26), (0xC8000706, .brk 7), (0xC8000007, .halt), (0xC800C101, .scall 3 1), (0xC8000201, .scall 0 2)] = true := by decide +kernel

/-- R272, R273: the word of zeros, the pad word, a reserved major and reserved fields that are not zero stand for nothing. -/
theorem test_words_refused : ([0, 0xFFFFFFFF, 0x58000000, 0x0C000040, 0x54080001, 0x44000001, 0xC8000107, 0xA0105011, 0x80000F00 + 0xF0] : List Nat).all
    (fun w => decide (decodeTableWord 32 w = none)) = true := by decide +kernel
/-! ### Integer instructions -/

theorem wit_integer_range : u64.kind = .uns ∧ 1 ≤ (desc .uns 1 1 .wrap).width ∧ (2 : Int) ^ 64 - 1 ≤ rangeHi .uns 64 ∧
    ¬(2 ^ 64 ≤ rangeHi .uns 64) ∧ rangeLo .sgn 64 ≤ -(2 ^ 63) ∧ ¬(rangeLo .sgn 64 ≤ -(2 ^ 63) - 1) := by decide

theorem wit_binary : Issues s0 (.add 2 0 1) (x0 (.add 2 0 1)) ∧ Source (x0 (.add 2 0 1)) 0 isInt u64 u64 ∧
    Source (x0 (.add 2 0 1)) 1 isInt u64 u64 ∧ Dest (x0 (.add 2 0 1)) 2 isInt u64 ∧
    PerLane u64.lanes [8] (fun l v => fitInt u64 (rdS u64 (lane (val (x0 (.add 2 0 1)) 0) l) + rdS u64 (lane (val (x0 (.add 2 0 1)) 1) l)) = some v) :=
  ⟨⟨rfl, rfl, rfl⟩, ⟨⟨rfl, rfl, rfl⟩, .inl rfl⟩, ⟨⟨rfl, rfl, rfl⟩, .inl rfl⟩, ⟨rfl, rfl⟩, rfl, by decide⟩

/-- R9: 250 + 10 leaves an 8-bit name at lane 0, and no lane is below it. -/
theorem wit_overflow : Issues s0 (.add 4 3 4) (x0 (.add 4 3 4)) ∧ Source (x0 (.add 4 3 4)) 3 isInt u8x4 t8x4 ∧
    Source (x0 (.add 4 3 4)) 4 isInt t8x4 t8x4 ∧ Dest (x0 (.add 4 3 4)) 4 isInt t8x4 ∧ 0 < t8x4.lanes ∧
    fitInt t8x4 (rdS u8x4 (lane (val (x0 (.add 4 3 4)) 3) 0) + rdS t8x4 (lane (val (x0 (.add 4 3 4)) 4) 0)) = none :=
  ⟨⟨rfl, rfl, rfl⟩, ⟨⟨rfl, rfl, rfl⟩, .inr rfl⟩, ⟨⟨rfl, rfl, rfl⟩, .inr rfl⟩, ⟨rfl, rfl⟩, by decide, rfl⟩

theorem wit_immediate : Issues s0 (.addi 2 0 4095) (x0 (.addi 2 0 4095)) ∧ Source (x0 (.addi 2 0 4095)) 0 isInt u64 u64 ∧
    Dest (x0 (.addi 2 0 4095)) 2 isInt u64 ∧
    PerLane u64.lanes [4] (fun l v => fitInt u64 (rdS u64 (lane (val (x0 (.addi 2 0 4095)) 0) l) + (x0 (.addi 2 0 4095)).immI 4095) = some v) :=
  ⟨⟨rfl, rfl, rfl⟩, ⟨⟨rfl, rfl, rfl⟩, .inl rfl⟩, ⟨rfl, rfl⟩, rfl, by decide⟩

theorem wit_immediate_values : (x0 (.addi 2 0 2048)).hint = none ∧ (x0 (.addi 2 0 2048)).immI 2047 = 2047 ∧
    (x0 (.addi 2 0 2048)).immI 2048 = -2048 ∧
    (ctx s0 { th0 with hint := some (4194304 + 2097152) } (.addi 2 0 0)).immI 0 = -8589934592 := by decide

theorem wit_string_range : -(2 ^ 100) ≤ (-1 : Int) ∧ (-1 : Int) < 2 ^ 100 ∧ u64.width ≤ 64 ∧ -(2 ^ 64) ≤ (2 ^ 64 - 1 : Int) ∧
    (2 ^ 64 - 1 : Int) < 2 ^ 64 := by decide

theorem wit_compare : Issues s0 (.clt 5 0 1) (x0 (.clt 5 0 1)) ∧ Source (x0 (.clt 5 0 1)) 0 isInt u64 bit1 ∧
    Source (x0 (.clt 5 0 1)) 1 isInt u64 bit1 ∧ Dest (x0 (.clt 5 0 1)) 5 isInt bit1 :=
  ⟨⟨rfl, rfl, rfl⟩, ⟨⟨rfl, rfl, rfl⟩, .inl rfl⟩, ⟨⟨rfl, rfl, rfl⟩, .inl rfl⟩, ⟨rfl, rfl⟩⟩

theorem wit_compare_immediate : Issues s0 (.cltui 5 0 4095) (x0 (.cltui 5 0 4095)) ∧ Source (x0 (.cltui 5 0 4095)) 0 isInt u64 bit1 ∧
    Dest (x0 (.cltui 5 0 4095)) 5 isInt bit1 := ⟨⟨rfl, rfl, rfl⟩, ⟨⟨rfl, rfl, rfl⟩, .inl rfl⟩, ⟨rfl, rfl⟩⟩

/-- A source of another class, one of two lanes too few, and a destination of another class. -/
theorem wit_kinds : Issues s0 (.add 3 7 0) (x0 (.add 3 7 0)) ∧ (∀ da, th0.desc? 7 = some da → isInt da = false) ∧
    (∀ da, th0.desc? 20 = some da → isInt da = false) ∧
    (th0.desc? 3 = some u8x4 ∧ isInt u8x4 = true ∧ th0.desc? 2 = some u64 ∧ u8x4.lanes ≠ 1 ∧ u8x4.lanes ≠ u64.lanes) ∧
    (Source (x0 (.add 2 0 7)) 0 isInt u64 u64 ∧ (∀ db, th0.desc? 7 = some db → isInt db = false)) ∧
    (Source (x0 (.add 7 0 1)) 0 isInt u64 f32 ∧ Source (x0 (.add 7 0 1)) 1 isInt u64 f32 ∧ isInt f32 = false) :=
  ⟨⟨rfl, rfl, rfl⟩, by decide, by decide, by decide, ⟨⟨⟨rfl, rfl, rfl⟩, .inl rfl⟩, by decide⟩,
    ⟨⟨rfl, rfl, rfl⟩, .inl rfl⟩, ⟨⟨rfl, rfl, rfl⟩, .inl rfl⟩, rfl⟩

theorem wit_divide : Issues s0 (.div 2 0 1) (x0 (.div 2 0 1)) ∧ (∀ l, l < u64.lanes → lane (val (x0 (.div 2 0 1)) 1) l ≠ 0) ∧
    PerLane u64.lanes [1] (fun l v => fitInt u64 (Int.tdiv (rdS u64 (lane (val (x0 (.div 2 0 1)) 0) l)) (rdS u64 (lane (val (x0 (.div 2 0 1)) 1) l))) = some v) :=
  ⟨⟨rfl, rfl, rfl⟩, by decide, rfl, by decide⟩

/-- Lane 2 of n3 is the lowest zero lane. -/
theorem wit_divide_by_zero : Issues s0 (.remu 4 4 3) (x0 (.remu 4 4 3)) ∧ Source (x0 (.remu 4 4 3)) 4 isInt t8x4 t8x4 ∧
    Source (x0 (.remu 4 4 3)) 3 isInt u8x4 t8x4 ∧ 2 < t8x4.lanes ∧
    (∀ l, l < 2 → lane (val (x0 (.remu 4 4 3)) 3) l ≠ 0 ∧
      (fitInt t8x4 ((lane (val (x0 (.remu 4 4 3)) 4) l % lane (val (x0 (.remu 4 4 3)) 3) l : Nat) : Int)).isSome) ∧
    lane (val (x0 (.remu 4 4 3)) 3) 2 = 0 :=
  ⟨⟨rfl, rfl, rfl⟩, ⟨⟨rfl, rfl, rfl⟩, .inr rfl⟩, ⟨⟨rfl, rfl, rfl⟩, .inr rfl⟩, by decide, by decide, rfl⟩

/-- A field of 8 bits at place 4: word 8 * 64 + 4. -/
theorem wit_fields : Issues s0 (.bins 2 0 1) (x0 (.bins 2 0 1)) ∧ Operand (x0 (.bins 2 0 1)) 2 isInt u64 ∧ 8191 < 8192 ∧
    Kind.uns ≠ .sgn ∧ (2 ^ 64 - 1 : Nat) < 2 ^ 64 := ⟨⟨rfl, rfl, rfl⟩, ⟨rfl, rfl, rfl⟩, by decide, by decide, by decide⟩

/-! ### Moves, immediates and conversions -/

theorem wit_mov : Issues s0 (.mov 2 0) (x0 (.mov 2 0)) ∧ Source (x0 (.mov 2 0)) 0 isAny u64 u64 ∧ Dest (x0 (.mov 2 0)) 2 isAny u64 ∧
    PerLane u64.lanes [5] (fun l v => fitInt u64 (rdS u64 (lane (val (x0 (.mov 2 0)) 0) l)) = some v) :=
  ⟨⟨rfl, rfl, rfl⟩, ⟨⟨rfl, rfl, rfl⟩, .inl rfl⟩, ⟨rfl, rfl⟩, rfl, by decide⟩

/-- 0x1000 does not fit a sgn name of 6 bits. -/
theorem wit_mov_overflow : Issues s0 (.mov 11 10) (x0 (.mov 11 10)) ∧ Source (x0 (.mov 11 10)) 10 isAny u64 (desc .sgn 6 1 .trap) ∧
    fitInt (desc .sgn 6 1 .trap) (rdS u64 (lane (val (x0 (.mov 11 10)) 10) 0)) = none := ⟨⟨rfl, rfl, rfl⟩, ⟨⟨rfl, rfl, rfl⟩, .inl rfl⟩, rfl⟩

theorem wit_mov_kinds : (isFlt f32 = true ∧ f32.kind = f32.kind) ∧ (¬(isInt f32 = true ∧ isInt f16 = true) ∧ ¬(isFlt f32 = true ∧ f32.kind = f16.kind)) ∧
    (¬(isInt f32 = true ∧ isInt u64 = true) ∧ ¬(isFlt f32 = true ∧ f32.kind = u64.kind)) := by decide

theorem wit_cmov : Issues s0 (.cmov 2 0 5) (x0 (.cmov 2 0 5)) ∧ Source (x0 (.cmov 2 0 5)) 0 isAny u64 u64 ∧ Operand (x0 (.cmov 2 0 5)) 5 isPred bit1 ∧
    Dest (x0 (.cmov 2 0 5)) 2 isAny u64 ∧ (val (x0 (.cmov 2 0 5)) 5).headD 0 ≠ 0 ∧ (val (x0 (.cmov 2 0 6)) 6).headD 0 = 0 ∧
    (∀ db, th0.desc? 1 = some db → db.width ≠ 1) ∧ ¬(¬(isInt u64 = true ∧ isInt u64 = true) ∧ ¬(isFlt u64 = true ∧ u64.kind = u64.kind)) :=
  ⟨⟨rfl, rfl, rfl⟩, ⟨⟨rfl, rfl, rfl⟩, .inl rfl⟩, ⟨rfl, rfl, rfl⟩, ⟨rfl, rfl⟩, by decide, rfl, by decide, by decide⟩

theorem wit_gives_all : Issues s0 (.sethi 2 1) (x0 (.sethi 2 1)) ∧ Dest (x0 (.sethi 2 1)) 2 isInt u64 ∧ Dest (x0 (.sethi 7 1)) 7 isFlt f32 ∧
    PerLane u64.lanes [4096] (fun _ v => fitInt u64 ((x0 (.sethi 2 1)).immU 1) = some v) ∧
    PerLane f32.lanes [0x45800000] (fun l v => fitFloat th0 .rne f32 l (FVal.ofInt ((x0 (.sethi 7 1)).immU 1)) = some v) :=
  ⟨⟨rfl, rfl, rfl⟩, ⟨rfl, rfl⟩, ⟨rfl, rfl⟩, ⟨rfl, by decide⟩, rfl, by decide⟩

theorem wit_pol : Issues s0 (.pol 2 2) (x0 (.pol 2 2)) ∧ look th0.names 2 = some { desc := u64, fields := [⟨2, 0, [0]⟩] } ∧
    Policy.ofCode 2 = some .trap := ⟨⟨rfl, rfl, rfl⟩, rfl, rfl⟩

theorem wit_cvt : Issues s0 (.cvt 2 7) (x0 (.cvt 2 7)) ∧ Source (x0 (.cvt 2 7)) 7 isFlt f32 u64 ∧ Dest (x0 (.cvt 2 7)) 2 isInt u64 ∧
    PerLane u64.lanes [1] (fun l v => fitFloatToInt th0 .rne u64 l (flt f32 (lane (val (x0 (.cvt 2 7)) 7) l)) = some v) ∧
    PerLane f32.lanes [0x40A00000] (fun l v => fitFloat th0 .rne f32 l (FVal.ofInt (rdS u64 (lane (val (x0 (.cvt 8 0)) 0) l))) = some v) ∧
    f16.kind.fmt? ≠ none ∧ PerLane f16.lanes [0x3C00] (fun l v => fitFloat th0 .rne f16 l (flt f32 (lane (val (x0 (.cvt 9 7)) 7) l)) = some v) :=
  ⟨⟨rfl, rfl, rfl⟩, ⟨⟨rfl, rfl, rfl⟩, .inl rfl⟩, ⟨rfl, rfl⟩, ⟨rfl, by decide⟩, ⟨rfl, by decide⟩, by decide, rfl, by decide⟩

/-- Four lanes go to the bits of a name of width 4, and come back from planes 1 to 4 of it. -/
def thP : Thread := { th0 with names := [name 0 (desc .uns 8 4 .wrap) 0 [1, 2, 3, 4], name 1 (desc .uns 4 8 .wrap) 1 [0, 0, 0, 0, 0, 0, 0, 0], name 2 (desc .sgn 8 4 .wrap) 2 [0, 0, 0, 0]] }
def sP : State := bench thP 0

theorem wit_pack : Issues sP (.pack 1 0) (ctx sP thP (.pack 1 0)) ∧ (desc .uns 8 4 .wrap).lanes = (desc .uns 4 8 .wrap).width ∧ (desc .uns 4 8 .wrap).lanes ≤ 8 ∧
    PerLane 4 [1, 2, 3, 4] (fun l v => fitInt { (desc .uns 4 8 .wrap) with kind := .sgn, width := 8 } (rdS u8x4 (lane (val (ctx sP thP (.pack 1 0)) 0) l)) = some v) :=
  ⟨⟨rfl, rfl, rfl⟩, rfl, by decide, rfl, by decide⟩

theorem wit_unpk : Issues sP (.unpk 2 1 8) (ctx sP thP (.unpk 2 1 8)) ∧ (desc .uns 4 8 .wrap).width = (desc .sgn 8 4 .wrap).lanes ∧ 8 ≤ (desc .uns 4 8 .wrap).lanes ∧
    PerLane 4 [0, 0, 0, 0] (fun l v => fitInt (desc .sgn 8 4 .wrap) (signed 8 (columnOf (val (ctx sP thP (.unpk 2 1 8)) 1) 8 l)) = some v) :=
  ⟨⟨rfl, rfl, rfl⟩, rfl, by decide, rfl, by decide⟩

/-! ### Float instructions -/

theorem wit_float : Issues s0 (.fadd 8 7 8) (x0 (.fadd 8 7 8)) ∧ Source (x0 (.fadd 8 7 8)) 7 isFlt f32 f32 ∧ Source (x0 (.fadd 8 7 8)) 8 isFlt f32 f32 ∧
    Dest (x0 (.fadd 8 7 8)) 8 isFlt f32 ∧ Operand (x0 (.fadd 8 7 8)) 8 isFlt f32 ∧
    PerLane f32.lanes [0x40400000] (fun l v => fitFloat th0 .rne f32 l
      ((flt f32 (lane (val (x0 (.fadd 8 7 8)) 7) l)).plus .rne (flt f32 (lane (val (x0 (.fadd 8 7 8)) 8) l))) = some v) :=
  ⟨⟨rfl, rfl, rfl⟩, ⟨⟨rfl, rfl, rfl⟩, .inl rfl⟩, ⟨⟨rfl, rfl, rfl⟩, .inl rfl⟩, ⟨rfl, rfl⟩, ⟨rfl, rfl, rfl⟩, rfl, by decide⟩

theorem wit_float_function : Issues s0 (.frcp 8 7) (x0 (.frcp 8 7)) ∧ f32.kind = f32.kind ∧
    PerLane f32.lanes [0x3F800000] (fun l v => fitFloat th0 .rne f32 l (FVal.div (.num false 1 1) (flt f32 (lane (val (x0 (.frcp 8 7)) 7) l))) = some v) :=
  ⟨⟨rfl, rfl, rfl⟩, rfl, rfl, by decide⟩

/-- Names of f16 with policy trap: the largest finite value and 1.0. Their sum rounds to a finite value, twice the first to infinity. -/
def f16t : Desc := desc .f16 16 2 .trap
def thTr : Thread := { th0 with names := [name 0 f16t 0 [0x3C00, 0x7BFF], name 1 f16t 1 [0x3C00, 0x7BFF], name 2 f16t 2 [0, 0]] }
def sTr : State := bench thTr 0

theorem wit_float_trap : Issues sTr (.fadd 2 0 1) (ctx sTr thTr (.fadd 2 0 1)) ∧ Source (ctx sTr thTr (.fadd 2 0 1)) 0 isFlt f16t f16t ∧
    Source (ctx sTr thTr (.fadd 2 0 1)) 1 isFlt f16t f16t ∧ Dest (ctx sTr thTr (.fadd 2 0 1)) 2 isFlt f16t ∧ 1 < f16t.lanes ∧
    (∀ l, l < 1 → (fitFloat thTr .rne f16t l ((flt f16t (lane (val (ctx sTr thTr (.fadd 2 0 1)) 0) l)).plus .rne (flt f16t (lane (val (ctx sTr thTr (.fadd 2 0 1)) 1) l)))).isSome) ∧
    fitFloat thTr .rne f16t 1 ((flt f16t (lane (val (ctx sTr thTr (.fadd 2 0 1)) 0) 1)).plus .rne (flt f16t (lane (val (ctx sTr thTr (.fadd 2 0 1)) 1) 1))) = none :=
  ⟨⟨rfl, rfl, rfl⟩, ⟨⟨rfl, rfl, rfl⟩, .inr rfl⟩, ⟨⟨rfl, rfl, rfl⟩, .inr rfl⟩, ⟨rfl, rfl⟩, by decide,
    fun l h => by interval_cases l; decide +kernel, by decide +kernel⟩

/-- frcp of zero under trap: an infinity. -/
theorem wit_function_trap : Issues sTr (.frcp 0 2) (ctx sTr thTr (.frcp 0 2)) ∧ Source (ctx sTr thTr (.frcp 0 2)) 2 isFlt f16t f16t ∧
    Operand (ctx sTr thTr (.fma 0 1 1)) 0 isFlt f16t ∧ 0 < f16t.lanes ∧
    fitFloat thTr .rne f16t 0 (FVal.div (.num false 1 1) (flt f16t (lane (val (ctx sTr thTr (.frcp 0 2)) 2) 0))) = none :=
  ⟨⟨rfl, rfl, rfl⟩, ⟨⟨rfl, rfl, rfl⟩, .inr rfl⟩, ⟨rfl, rfl, rfl⟩, by decide, by decide +kernel⟩

theorem wit_exact_values : IsFin (.num false 9 4) ∧ ratOf (.num false 9 4) ≠ 0 ∧ 0 < ratOf (.num false 9 4) ∧
    ratOf (.num false 1 4) = 2 ^ (-2 : Int) ∧ -2100 ≤ (-2 : Int) ∧ (2100 : Int) ≤ 2100 :=
  ⟨⟨_, _, _, rfl, by decide⟩, by norm_num [ratOf], by norm_num [ratOf], by norm_num [ratOf], by decide, by decide⟩

/-- In e4m3, 448 is the largest finite value; 1,000 has overflowed under rne, 448 and a half has not. -/
theorem wit_rounding : fmtE4M3 ∈ [fmtE4M3, fmtE5M2, fmtF16, fmtBF16, fmtF32, fmtF64] ∧ IsFin (.num true 1 2) ∧ 2 ^ 24 - 1 < 2 ^ 24 ∧
    (∃ neg, fmtF16.round .rne 0 (.num false 70000 1) = .inf neg) ∧ (∃ x, fmtF16.round .rtz 0 (.num false 70000 1) = .fin x) ∧
    f16.kind.fmt? = some fmtF16 ∧ fmtF16.round .rne 0 .nan = .nan :=
  ⟨by decide, ⟨_, _, _, rfl, by decide⟩, by decide, ⟨false, by decide +kernel⟩, ⟨0x7BFF, by decide +kernel⟩, rfl, rfl⟩

theorem wit_fclass : Issues s0 (.fclass 2 7) (x0 (.fclass 2 7)) ∧ Dest (x0 (.fclass 2 7)) 2 isInt u64 ∧
    ∃ f, f32.kind.fmt? = some f ∧ (fitInt u64 (2 ^ classOf f 0x3F800000)).isSome := ⟨⟨rfl, rfl, rfl⟩, ⟨rfl, rfl⟩, _, rfl, rfl⟩

/-! ### Reductions and lanes -/

theorem wit_reduce : Issues s0 (.rsum 2 3) (x0 (.rsum 2 3)) ∧ Operand (x0 (.rsum 2 3)) 3 isInt u8x4 ∧ Dest (x0 (.rsum 2 3)) 2 isInt u64 ∧
    PerLane u64.lanes [267] (fun _ v => fitInt u64 ((val (x0 (.rsum 2 3)) 3).map (rdS u8x4)).sum = some v) :=
  ⟨⟨rfl, rfl, rfl⟩, ⟨rfl, rfl, rfl⟩, ⟨rfl, rfl⟩, rfl, by decide⟩

theorem wit_float_reduce : Issues s0 (.rfmax 8 7) (x0 (.rfmax 8 7)) ∧ Operand (x0 (.rfmax 8 7)) 7 isFlt f32 ∧ Dest (x0 (.rfmax 8 7)) 8 isFlt f32 ∧
    PerLane f32.lanes [0x3F800000] (fun l v => fitFloat th0 .rne f32 l (((val (x0 (.rfmax 8 7)) 7).map (flt f32)).foldl FVal.most .nan) = some v) ∧
    PerLane f32.lanes [0x3F800000] (fun l v => fitFloat th0 RMode.rne.noDraw f32 l (binarySum f32 (val (x0 (.rfsum 8 7)) 7)) = some v) :=
  ⟨⟨rfl, rfl, rfl⟩, ⟨rfl, rfl, rfl⟩, ⟨rfl, rfl⟩, ⟨rfl, by decide⟩, rfl, by decide⟩

theorem wit_lane_operation : Issues s0 (.vperm 3 3 4) (x0 (.vperm 3 3 4)) ∧ Operand (x0 (.vperm 3 3 4)) 3 isAny u8x4 ∧
    Operand (x0 (.vperm 3 3 4)) 4 isInt t8x4 ∧ Dest (x0 (.vperm 3 3 4)) 3 isAny u8x4 ∧ (t8x4.lanes = 1 ∨ t8x4.lanes = u8x4.lanes) ∧
    u8x4.kind = t8x4.kind ∧ u8x4.width = t8x4.width := ⟨⟨rfl, rfl, rfl⟩, ⟨rfl, rfl, rfl⟩, ⟨rfl, rfl, rfl⟩, ⟨rfl, rfl⟩, .inr rfl, rfl, rfl⟩

theorem wit_vidx : Issues s0 (.vidx 3 1) (x0 (.vidx 3 1)) ∧ Operand (x0 (.vidx 3 1)) 1 isInt u64 ∧ Dest (x0 (.vidx 3 1)) 3 isInt u8x4 ∧
    PerLane u8x4.lanes [3, 4, 5, 6] (fun l v => fitInt u8x4 (rdS u64 ((val (x0 (.vidx 3 1)) 1).headD 0) + l) = some v) :=
  ⟨⟨rfl, rfl, rfl⟩, ⟨rfl, rfl, rfl⟩, ⟨rfl, rfl⟩, rfl, by decide⟩

/-! ### Traps, hints and control transfers -/

theorem wit_trap : Issues s0 (.trap 0 4) (x0 (.trap 0 4)) ∧ (x0 (.trap 0 4)).sl ≠ 15 ∧ Untraced s0 0 0 ∧ Operand (x0 (.trap 0 4)) 0 isInt u64 ∧
    ((1 ≤ 19 ∧ 19 ≤ 19) ∧ 19 ≠ DIVERGE ∧ 19 ≠ BRK ∧ 19 ≠ WATCH) :=
  ⟨⟨rfl, rfl, rfl⟩, by decide, rfl, ⟨rfl, rfl, rfl⟩, by decide⟩

theorem wit_first_checks : s0.cur = some (0, 0) ∧ s0.ctx? 0 0 (.trap 0 20) = some (x0 (.trap 0 20)) ∧ (encode (.trap 0 20)).isSome ∧
    illOperand (.trap 0 20) = true ∧ ¬((1 ≤ 20 ∧ 20 ≤ 19) ∧ 20 ≠ DIVERGE ∧ 20 ≠ BRK ∧ 20 ≠ WATCH) ∧
    (illOperand .halt = false ∧ needsLocalTime .halt = false ∧ th0.hint = none ∧ (x0 .halt).sl ≠ 15 ∧ privileged .halt = some 255) ∧
    (illOperand (.add 2 0 1) = false ∧ needsLocalTime (.add 2 0 1) = false ∧ privileged (.add 2 0 1) = none) :=
  ⟨rfl, rfl, rfl, rfl, by decide, by decide, by decide⟩

theorem wit_hints : Issues s0 (.hintImm 4194303) (x0 (.hintImm 4194303)) ∧ Issues s0 (.hintMod 4 1) (x0 (.hintMod 4 1)) ∧
    Issues s0 (.hintMma 32767) (x0 (.hintMma 32767)) ∧ Issues s0 (.hintScope 3 3 2) (x0 (.hintScope 3 3 2)) ∧
    encode (.hintImm 4194303) = some 8388607 := ⟨⟨rfl, rfl, rfl⟩, ⟨rfl, rfl, rfl⟩, ⟨rfl, rfl, rfl⟩, ⟨rfl, rfl, rfl⟩, rfl⟩

/-- The code is 64 bytes at 0x100000: its first and last words, the words beyond them, and a target between words. -/
theorem wit_targets : (x0 .ret).sl ≠ 15 ∧ (x0 .ret).task = some task0 ∧ look task0.ext 0 = some (codeExtent 0x100000 0x100000 64) ∧
    (0x100002 : Int) % 4 ≠ 0 ∧ ((0x100000 : Int) ≤ 0x10003C ∧ (0x10003C : Int) + 4 ≤ 0x100000 + 64) ∧
    ((0xFFFFC : Int) < 0x100000 ∨ (0x100000 : Int) + 64 < 0xFFFFC + 4) ∧ (0x100000 : Int) + 64 < 0x100040 + 4 := by
  refine ⟨by decide, rfl, rfl, ?_⟩; decide

theorem wit_branches : Issues s0 (.bt 5 15) (x0 (.bt 5 15)) ∧ Operand (x0 (.bt 5 15)) 5 isPred bit1 ∧ (val (x0 (.bt 5 15)) 5).headD 0 = 1 ∧
    (x0 (.bt 5 15)).target (th0.pc + 4 * signed 19 15) = .ok 0x10003C ∧ Issues s0 (.bf 6 0) (x0 (.bf 6 0)) ∧ Operand (x0 (.bf 6 0)) 6 isPred bit1 ∧
    (val (x0 (.bf 6 0)) 6).headD 0 = 0 ∧ (x0 (.bf 6 0)).target (th0.pc + 4 * signed 19 0) = .ok 0x100000 ∧ Untraced s0 0 0 :=
  ⟨⟨rfl, rfl, rfl⟩, ⟨rfl, rfl, rfl⟩, rfl, rfl, ⟨rfl, rfl, rfl⟩, ⟨rfl, rfl, rfl⟩, rfl, rfl, rfl⟩

def thJ : Thread := { th0 with names := [name 0 u64 0 [0x100010], name 1 u64 1 [1], name 2 (desc .uns 8 1 .trap) 2 [0], name 3 u64 3 [3]], lk := 0x100008 }
def sJ : State := bench thJ 0
def xJ (i : Instr) : Ctx := ctx sJ thJ i

theorem wit_jumps : Issues sJ (.jr 0) (xJ (.jr 0)) ∧ Operand (xJ (.jr 0)) 0 isInt u64 ∧ (xJ (.jr 0)).target ((val (xJ (.jr 0)) 0).headD 0) = .ok 0x100010 ∧
    Issues sJ (.jmp 3) (xJ (.jmp 3)) ∧ (xJ (.jmp 3)).target (thJ.pc + 4 * signed 26 3) = .ok 0x10000C :=
  ⟨⟨rfl, rfl, rfl⟩, ⟨rfl, rfl, rfl⟩, rfl, ⟨rfl, rfl, rfl⟩, rfl⟩

/-- A counter of 3 is taken, of 1 falls through, of 0 under trap overflows; 1,000 words on lies outside the code. -/
theorem wit_counted_loops : Issues sJ (.dbnz 3 3) (xJ (.dbnz 3 3)) ∧ Operand (xJ (.dbnz 3 3)) 3 isInt u64 ∧ Untraced sJ 0 0 ∧
    fitInt u64 (rdS u64 ((val (xJ (.dbnz 3 3)) 3).headD 0) - 1) = some 2 ∧ (xJ (.dbnz 3 3)).target (thJ.pc + 4 * signed 18 3) = .ok 0x10000C ∧
    fitInt u64 (rdS u64 ((val (xJ (.dbnz 1 3)) 1).headD 0) - 1) = some 0 ∧
    fitInt (desc .uns 8 1 .trap) (rdS (desc .uns 8 1 .trap) ((val (xJ (.dbnz 2 3)) 2).headD 0) - 1) = none ∧
    (xJ (.dbnz 3 1000)).target (thJ.pc + 4 * signed 18 1000) = extent 1 0 0x100FA0 ∧ thJ.pc % 4 = 0 :=
  ⟨⟨rfl, rfl, rfl⟩, ⟨rfl, rfl, rfl⟩, rfl, rfl, rfl, rfl, rfl, by decide, by decide⟩

theorem wit_calls : Issues sJ (.call 2) (xJ (.call 2)) ∧ (xJ (.call 2)).target (thJ.pc + 4 * signed 26 2) = .ok 0x100008 ∧ thJ.depth ≠ 65535 ∧
    NoSpill (xJ (.call 2)) ∧ Issues sJ (.callr 0) (xJ (.callr 0)) ∧ Operand (xJ (.callr 0)) 0 isInt u64 ∧
    Issues (bench { thJ with depth := 65535 } 0) (.call 2) (ctx (bench { thJ with depth := 65535 } 0) { thJ with depth := 65535 } (.call 2)) :=
  ⟨⟨rfl, rfl, rfl⟩, rfl, by decide, .inl (by decide), ⟨rfl, rfl, rfl⟩, ⟨rfl, rfl, rfl⟩, ⟨rfl, rfl, rfl⟩⟩

/-- A windowed name with its four frames, at depth 3: the next call spills frame 0 below 0x1000 of the local run. -/
def thW : Thread :=
  { thJ with names := [name 0 u64 0 [0x100010], (1, { desc := { u64 with win := true }, fields := [⟨1, 0, [7]⟩, ⟨2, 0, [8]⟩, ⟨3, 0, [9]⟩, ⟨4, 0, [10]⟩] })], ws := 0x1000, depth := 3 }
def sW : State := bench thW 0

theorem wit_spills : Issues sW (.call 2) (ctx sW thW (.call 2)) ∧ Spills (ctx sW thW (.call 2)) ∧ thW.depth ≠ 65535 ∧
    (ctx sW thW (.call 2)).target (thW.pc + 4 * signed 26 2) = .ok 0x100008 :=
  ⟨⟨rfl, rfl, rfl⟩, ⟨by decide, by decide, by decide, by decide, by decide, rfl, rfl, rfl⟩, by decide, rfl⟩

def thH : Thread := thW.wait (.call 2) none .held [0x100008]
def sH : State := { bench thH 0 with cur := none, args := [0, 0] }

theorem wit_spill_done : sH.args = [0, 0] ∧ sH.opCtx? 0 0 = some (ctx sH thH (.call 2), [0x100008]) ∧ Untraced sH 0 0 ∧ thH.status = .held ∧
    8 * thH.frameLanes ≤ thH.ws.toNat ∧ (0 : Nat) < 512 ∧ (ctx sH thH (.call 2)).runBase + thH.ws.toNat ≤ 2097152 ∧
    (ctx sH thH (.call 2)).frameEcc ((thH.depth - 3) % 4) = .ok () :=
  ⟨rfl, rfl, rfl, rfl, by decide, by decide, by decide, rfl⟩

theorem wit_returns : Issues sJ .ret (xJ .ret) ∧ (xJ .ret).target thJ.lk.toNat = .ok 0x100008 ∧ thJ.depth = 0 ∧
    Issues (bench { thJ with depth := 3 } 0) .ret (ctx (bench { thJ with depth := 3 } 0) { thJ with depth := 3 } .ret) ∧
    3 - 1 ∉ thJ.spilled :=
  ⟨⟨rfl, rfl, rfl⟩, rfl, rfl, ⟨rfl, rfl, rfl⟩, by decide⟩

/-- Depth 3 with frame 2 in memory: a return is Held for it. -/
theorem wit_held_return : Issues (bench { thJ with depth := 3, spilled := [2] } 0) .ret
      (ctx (bench { thJ with depth := 3, spilled := [2] } 0) { thJ with depth := 3, spilled := [2] } .ret) ∧ 3 - 1 ∈ [2] :=
  ⟨⟨rfl, rfl, rfl⟩, by decide⟩

/-- Depth 4 with frame 0 in memory at 0xFF8: the return to depth 3 begins its fill. -/
def thR : Thread := { thW with depth := 4, spilled := [0], ws := 0xFF8 }
def sR : State := bench thR 0

theorem wit_fill : Issues sR .ret (ctx sR thR .ret) ∧ 4 ≤ thR.depth ∧ thR.depth - 4 ∈ thR.spilled ∧ thR.ws.toNat % 8 = 0 ∧
    (ctx sR thR .ret).inRun thR.ws.toNat (8 * thR.frameLanes) = true ∧
    (ctx sR thR .ret).runRace thR.ws.toNat (8 * thR.frameLanes) false false = .ok () ∧
    (ctx sR thR .ret).runEcc thR.ws.toNat (8 * thR.frameLanes) = .ok () ∧ (ctx sR thR .ret).target thR.lk.toNat = .ok 0x100008 ∧
    thR.depth - 1 ∉ thR.spilled ∧ thR.fill.length = 0 :=
  ⟨⟨rfl, rfl, rfl⟩, by decide, by decide, rfl, rfl, rfl, rfl, rfl, by decide, rfl⟩

def thF : Thread := { thR with depth := 3, fill := [(0, 0xFF8)] }
def sF : State := { bench thF 0 with cur := none, args := [0, 0] }

theorem wit_fill_done : sF.args = [0, 0] ∧ sF.ctx? 0 0 .ret = some (ctx sF thF .ret) ∧ thF.fill = [(0, 0xFF8)] ∧ thF.op = none := ⟨rfl, rfl, rfl, rfl⟩

/-- A return that is Held at depth 1 for frame 0, whose fill ends. -/
def thHr : Thread := { thR with depth := 1, fill := [(0, 0xFF8)] }.wait .ret none .held [0x100008]
def sHr : State := { bench thHr 0 with cur := none, args := [0, 0] }

theorem wit_held_return_done : sHr.args = [0, 0] ∧ sHr.opCtx? 0 0 = some (ctx sHr thHr .ret, [0x100008]) ∧ thHr.status = .held ∧
    thHr.fill = [(thHr.depth - 1, 0xFF8)] ∧ thHr.depth < 4 ∧ Untraced sHr 0 0 := ⟨rfl, rfl, rfl, rfl, by decide, rfl⟩

/-! ### Patterns -/

/-- At local address 0x1000 a pattern of two names: n0 uns 8 by 1, n1 sgn 8 by 4. -/
def locP : Mem := [(0x1000, 2), (0x1008, 7), (0x100C, 7), (0x100D, 0x13)]
def sL : State := { s0 with loc := locP }

theorem wit_pattern : ∃ m ds names, Issues sL (.mapld 10 0) (ctx sL th0 (.mapld 10 0)) ∧ Operand (ctx sL th0 (.mapld 10 0)) 10 isInt u64 ∧
    (((val (ctx sL th0 (.mapld 10 0)) 10).headD 0 + (ctx sL th0 (.mapld 10 0)).immI 0 : Int) = (0x1000 : Nat)) ∧
    (ctx sL th0 (.mapld 10 0)).inRun 0x1000 (8 + 4 * ((ctx sL th0 (.mapld 10 0)).locNum 0x1000 8 % 64)) = true ∧
    (ctx sL th0 (.mapld 10 0)).localBad ((ctx sL th0 (.mapld 10 0)).runBase + 0x1000) 16 = none ∧
    (ctx sL th0 (.mapld 10 0)).runRace 0x1000 16 false false = .ok () ∧ parseHeader ((ctx sL th0 (.mapld 10 0)).locNum 0x1000 8) = some m ∧
    parseDescs (fun i => (ctx sL th0 (.mapld 10 0)).locNum (0x1000 + 8 + 4 * i) 4) 0 ((ctx sL th0 (.mapld 10 0)).locNum 0x1000 8 % 64) = .ok ds ∧
    (ds.map (fun e => e.2.charge)).sum ≤ 16384 ∧ placePattern 0 ds ((sL.core 0).occupied 0) = some names ∧ (sL.core 0).refusals = [] := by
  refine ⟨_, _, _, ⟨rfl, rfl, rfl⟩, ⟨rfl, rfl, rfl⟩, rfl, rfl, rfl, rfl, rfl, rfl, by decide, rfl, rfl⟩

/-- The end of that load's clocks. -/
theorem wit_pattern_unlocks : ({ sL with cur := none, args := [0, 0] } : State).cur = none ∧ ({ sL with cur := none, args := [0, 0] } : State).args = [0, 0] := ⟨rfl, rfl⟩

theorem wit_resize : ∃ row bit moved, Issues s0 (.resz 2 0 31) (x0 (.resz 2 0 31)) ∧
    Resizes (x0 (.resz 2 0 31)) 2 0 31 u64 ⟨2, 0, [0]⟩ [0] ∧
    (x0 (.resz 2 0 31)).resizePlace 2 (u64.width * u64.lanes) ((31 + 1) * u64.lanes) ⟨2, 0, [0]⟩ = some (row, bit, moved) ∧ moved = false := by
  refine ⟨_, _, _, ⟨rfl, rfl, rfl⟩, ⟨rfl, ⟨rfl, rfl, rfl⟩, by decide, rfl, rfl, by decide, rfl, by decide⟩, rfl, rfl⟩

/-- n0 grows from 64 bits into those of n1, which follow it in its row: it moves, at once, or is Held behind the move of slot 1. -/
def thMv : Thread := { th0 with names := [name 0 (desc .uns 32 1 .wrap) 0 [5], (1, { desc := u64, fields := [⟨0, 32, [3]⟩] })] }
def sM0 : State := bench thMv 0
def sM1 : State := { sM0 with cores := [(0, { sM0.core 0 with claims := [(1, 65536, 64)] })] }

theorem wit_resize_moves : ∃ row bit, Issues sM0 (.resz 0 0 63) (ctx sM0 thMv (.resz 0 0 63)) ∧
    Resizes (ctx sM0 thMv (.resz 0 0 63)) 0 0 63 (desc .uns 32 1 .wrap) ⟨0, 0, [5]⟩ [5] ∧
    (ctx sM0 thMv (.resz 0 0 63)).resizePlace 0 32 64 ⟨0, 0, [5]⟩ = some (row, bit, true) ∧ (sM0.core 0).moveRuns 0 = false ∧
    (sM1.core 0).moveRuns 0 = true := by
  refine ⟨_, _, ⟨rfl, rfl, rfl⟩, ⟨rfl, ⟨rfl, rfl, rfl⟩, by decide, rfl, rfl, by decide, rfl, by decide⟩, rfl, rfl, rfl⟩

/-- The clocks of a resize in its place are over. -/
def thQ0 : Thread := th0.wait (.resz 2 0 31) none .inFlight [2, 0, 0]
def sQ0 : State := { bench thQ0 0 with cur := none, args := [0, 0] }

theorem wit_resize_done : sQ0.cur = none ∧ sQ0.args = [0, 0] ∧ sQ0.opCtx? 0 0 = some (ctx sQ0 thQ0 (.resz 2 0 31), [2, 0, bitAt false 0]) ∧
    thQ0.status = .inFlight ∧ Resizes (ctx sQ0 thQ0 (.resz 2 0 31)) 2 0 31 u64 ⟨2, 0, [0]⟩ [0] ∧ (sQ0.core 0).rowsInUse 0 = false ∧
    (sQ0.core 0).refusals = [] :=
  ⟨rfl, rfl, rfl, rfl, ⟨rfl, ⟨rfl, rfl, rfl⟩, by decide, rfl, rfl, by decide, rfl, by decide⟩, rfl, rfl⟩

/-! ### Memory -/

def thM : Thread :=
  { th0 with names := [name 0 u64 0 [0x40], name 1 u64 1 [3], name 2 u64 2 [0], name 3 u64 3 [0x10000000], name 4 u64 4 [0x20000000],
      name 5 (desc .uns 64 2 .wrap) 5 [0x40, 0x80], name 6 f32 6 [0], name 7 (desc .uns 64 2 .wrap) 7 [0x10000000, 0x10000008]] }

/-- Entry 1 may be read and written at 0x10000000, entry 2 is an ATOMIC range at 0x20000000, entry 3 is divided between threads
0 and 1 at 0x30000000, and a page of entry 4 at 0x40000000 is compressed. -/
def range0 (mode perm vbase share len : Nat) (comp : List (Nat × Nat)) : Extent :=
  { mode := mode, perm := perm, vbase := vbase, pbase := vbase, share := share, len := len, rbase := vbase, rlen := len, comp := comp, leased := false }

def taskM : Machine.Task :=
  { task0 with ext := [(0, codeExtent 0x100000 0x100000 64), (1, range0 2 3 0x10000000 0 0x10000 []), (2, range0 3 7 0x20000000 0 0x10000 []),
      (3, range0 2 3 0x30000000 3 0x10000 []), (4, range0 0 1 0x40000000 0 0x10000 [(0x40000000, 0x1000)])] }

/-- The access tables of the home slices of two addresses hold the partition's entry (R50). -/
def grant (a : Nat) : Tab Nat := [(tableAt 0 0 0 (homeSlice a) + 32, 0x8070000000000000), (tableAt 0 0 0 (homeSlice a) + 40, 0xFFF0000)]

def sM : State :=
  { bench thM 0 with tasks := [(1, taskM)], acl := (grant 0x10000000 ++ grant 0x20000000 ++ grant 0x10000008).foldl (fun t e => put t e.1 e.2) [] }

def xM (i : Instr) : Ctx := ctx sM thM i

/-- The first byte of each region of the local map and the last place that fits before each end. -/
theorem wit_places : (xM (.ld 2 0 3 0)).sl ≠ 15 ∧ (xM (.ld 2 0 3 0)).task = some taskM ∧ taskM.hw ≤ 512 ∧ IsSize 8 ∧
    (∀ loc, (xM (.ld 2 0 3 0)).race loc false false = none) ∧ (0x1FFFF8 % 8 = 0 ∧ 0x1FFFF8 + 8 ≤ taskM.hw * 4096) ∧
    (0x200000 % 8 = 0 ∧ taskM.hw * 4096 < 0x200000 + 8 ∧ 0x200000 < 0x01000000) ∧ (0x01000000 ≤ 0x0107FFF8 ∧ 0x0107FFF8 < 0x01080000) ∧
    (0x02000000 ≤ 0x02000FF8 ∧ 0x02000FF8 < 0x02001000) ∧ 0x02001000 % 8 = 0 := by
  refine ⟨by decide, rfl, by decide, .inr (.inr (.inr rfl)), ?_, ?_⟩
  · intro loc; cases loc <;> rfl
  · decide

theorem wit_local_load : Issues sM (.ld 2 0 3 0) (xM (.ld 2 0 3 0)) ∧ Operand (xM (.ld 2 0 3 0)) 0 isInt u64 ∧ DataName (xM (.ld 2 0 3 0)) 2 3 u64 ∧
    (xM (.ld 2 0 3 0)).localChecks 8 false (strided (startAt (xM (.ld 2 0 3 0)) 0 3 0) 8 1) = .ok [.store 0x40] ∧
    (xM (.ld 2 0 3 0)).readPlace 8 (.store 0x40) = .ok 0 ∧ Loaded u64 8 0 0 ∧ (xM (.ld 2 0 3 0)).localBad 0x40 8 = none ∧
    (xM (.ld 2 0 3 0)).windowLocked [.store 0x40] = false :=
  ⟨⟨rfl, rfl, rfl⟩, ⟨rfl, rfl, rfl⟩, ⟨⟨rfl, rfl⟩, by decide, by decide⟩, rfl, rfl, rfl, rfl, rfl⟩

theorem wit_local_store : Issues sM (.st 2 0 3 0) (xM (.st 2 0 3 0)) ∧ DataName (xM (.st 2 0 3 0)) 2 3 u64 ∧ (xM (.st 2 0 3 0)).rowBad 2 = none ∧ sM.loc.wf ∧
    (xM (.st 2 0 3 0)).runBase + (xM (.st 2 0 3 0)).runLen ≤ 2097152 ∧ startAt (xM (.st 2 0 3 0)) 0 3 0 = (0x40 : Nat) ∧
    0x40 + 8 ≤ (xM (.st 2 0 3 0)).runLen ∧ (xM (.st 2 0 3 0)).localChecks 8 true (strided 0x40 8 1) = .ok [.store 0x40] :=
  ⟨⟨rfl, rfl, rfl⟩, ⟨⟨rfl, rfl⟩, by decide, by decide⟩, rfl, by decide, by decide, rfl, by decide, rfl⟩

/-- The register window: a store to lane 0 of n1 of slot 1, of its own task, and one that its trap policy refuses. -/
def thV : Thread := { thM with names := [name 0 u64 0 [0x01008200], name 2 u64 2 [300]] }
def thO (p : Policy) : Thread := { thM with tid := 1, names := [name 1 (desc .uns 8 1 p) 3 [0]] }
def sV (p : Policy) : State :=
  { sM with tasks := [(1, { taskM with slots := [0, 1] })], cores := [(0, { Core.reset with threads := [(0, thV), (1, thO p)] })] }

theorem wit_window : Issues (sV .wrap) (.st 2 0 3 0) (ctx (sV .wrap) thV (.st 2 0 3 0)) ∧
    (ctx (sV .wrap) thV (.st 2 0 3 0)).localChecks 8 true [(0, startAt (ctx (sV .wrap) thV (.st 2 0 3 0)) 0 3 0)] = .ok [.window 1 1 0] ∧
    (sV .wrap).thread? 0 1 = some (thO .wrap) ∧ windowLane ((sV .wrap).core 0) 1 1 0 (storeLane u64 8 300) = .ok (some 44) ∧
    windowLane ((sV .trap).core 0) 1 1 0 (storeLane u64 8 300) = .error () ∧
    (ctx (sV .wrap) thV (.st 2 0 3 0)).windowLocked [.window 1 1 0] = false := ⟨⟨rfl, rfl, rfl⟩, rfl, rfl, rfl, rfl, rfl⟩

/-- The same with the row of that name locked by slot 1: the access is Held. -/
def sVl : State := { sV .wrap with cores := [(0, { (sV .wrap).core 0 with locks := [(1, [3])] })] }

theorem wit_window_locked : Issues sVl (.st 2 0 3 0) (ctx sVl thV (.st 2 0 3 0)) ∧ Operand (ctx sVl thV (.st 2 0 3 0)) 0 isInt u64 ∧
    DataName (ctx sVl thV (.st 2 0 3 0)) 2 3 u64 ∧ (ctx sVl thV (.st 2 0 3 0)).rowBad 2 = none ∧
    (ctx sVl thV (.st 2 0 3 0)).localChecks (2 ^ 3) true (strided (startAt (ctx sVl thV (.st 2 0 3 0)) 0 3 0) (2 ^ 3) 1) = .ok [.window 1 1 0] ∧
    (ctx sVl thV (.st 2 0 3 0)).windowLocked [.window 1 1 0] = true :=
  ⟨⟨rfl, rfl, rfl⟩, ⟨rfl, rfl, rfl⟩, ⟨⟨rfl, rfl⟩, by decide, by decide⟩, rfl, by decide +kernel, rfl⟩

/-- Each entry holds its first byte and its last, and none the byte beyond. -/
theorem wit_extents : (xM (.ldx 2 3 3 0)).task = some taskM ∧ 0x10010000 < 2 ^ 64 ∧
    (∀ e, e < 16 → (xM (.ldx 2 3 3 0)).entryEcc e = .ok ()) ∧
    (∀ e ∈ taskM.ext, ¬(e.2.vbase ≤ 0x10010000 ∧ 0x10010000 + 8 ≤ e.2.vbase + e.2.len ∧ bit e.2.perm 0 = true)) ∧
    0x10010000 + 8 ≤ 2 ^ 56 ∧ (0x10000000 ≤ 0x1000FFF8 ∧ 0x1000FFF8 + 8 ≤ 0x10000000 + 0x10000 ∧ bit (range0 2 3 0x10000000 0 0x10000 []).perm 0 = true) ∧
    ((range0 0 1 0x40000000 0 0x10000 [(0x40000000, 0x1000)]).mode ≠ 3 ∧
      (range0 0 1 0x40000000 0 0x10000 [(0x40000000, 0x1000)]).inComp 0x40000FF8 8 = true ∧
      (range0 0 1 0x40000000 0 0x10000 [(0x40000000, 0x1000)]).inComp 0x40001000 8 = false) ∧
    ((range0 3 7 0x20000000 0 0x10000 []).mode = 3 ∧ 2 < 4) ∧
    ((range0 2 3 0x30000000 3 0x10000 []).share ≠ 0 ∧ (range0 2 3 0x30000000 3 0x10000 []).owner 0x30007FFF = some thM.tid.toNat ∧
      (range0 2 3 0x30000000 3 0x10000 []).owner 0x30008000 ≠ some thM.tid.toNat) := by
  refine ⟨rfl, by decide, fun e _ => rfl, ?_⟩; decide

theorem wit_task_load : ∃ vs, Issues sM (.ldx 2 3 3 0) (xM (.ldx 2 3 3 0)) ∧ (xM (.ldx 2 3 3 0)).hintScope = none ∧
    alignLanes 8 (laneAddrs (xM (.ldx 2 3 3 0)) 0 3 3 0 1) = .ok () ∧
    eachOf ((xM (.ldx 2 3 3 0)).readLane true 8) (laneAddrs (xM (.ldx 2 3 3 0)) 0 3 3 0 1) = .ok vs ∧ (∀ v ∈ vs, v.atomic = false) :=
  ⟨_, ⟨rfl, rfl, rfl⟩, rfl, rfl, rfl, by decide⟩

/-- A gathering load: two lanes of addresses for two lanes of data. -/
theorem wit_gather : ∃ vs, Issues sM (.ldg 5 7 3 0) (xM (.ldg 5 7 3 0)) ∧ (desc .uns 64 2 .wrap).lanes = (desc .uns 64 2 .wrap).lanes ∧
    eachOf ((xM (.ldg 5 7 3 0)).readLane false 8) (laneAddrs (xM (.ldg 5 7 3 0)) 2 7 3 0 2) = .ok vs ∧ vs.length = 2 := ⟨_, ⟨rfl, rfl, rfl⟩, rfl, rfl, rfl⟩

def thG : Thread := thM.wait (.ldx 2 3 3 0) none .inFlight ([⟨0, 0x10000000, 0x10000000, 1, 0, false, false⟩].flatMap VLane.pack)
def sG : State := { sM with cores := [(0, { Core.reset with threads := [(0, thG)] })], cur := none, args := [0, 0] }

theorem wit_load_return : ∃ a, sG.opCtx? 0 0 = some (ctx sG thG (.ldx 2 3 3 0), a) ∧ loadShape (.ldx 2 3 3 0) = some (2, 8, true) ∧ thG.status = .inFlight ∧
    unpackLanes a ≠ [] ∧ Dest (ctx sG thG (.ldx 2 3 3 0)) 2 isAny u64 ∧ (ctx sG thG (.ldx 2 3 3 0)).behindStore (unpackLanes a) 8 = false ∧
    (ctx sG thG (.ldx 2 3 3 0)).watch true true false ((unpackLanes a).map (fun v => ((v.va : Int), 8))) = none ∧
    (∀ v ∈ unpackLanes a, sG.reaches v.phys = true ∧ (ctx sG thG (.ldx 2 3 3 0)).inControl v.phys = false ∧ sG.mayAccess (ctx sG thG (.ldx 2 3 3 0)).master v.phys permRd = true ∧
      (ctx sG thG (.ldx 2 3 3 0)).shareRace v = .ok () ∧ sG.memBad v.phys 8 = none ∧ v.racy = false) :=
  ⟨_, rfl, rfl, rfl, by decide, ⟨rfl, rfl⟩, by decide, rfl, by decide⟩

/-- A load behind a posted store of its own thread to the same bytes looks again. -/
def sGb : State := { sG with cores := [(0, { Core.reset with threads := [(0, thG)], posted := [{ task := 1, slot := 0, agent := 1, epoch := 1, bytes := storedBytes 8 [⟨0, 0x10000000, 0x10000000, 1, 0, false, false⟩] [1], entries := [1] }] })] }

theorem wit_load_waits : ∃ a, sGb.opCtx? 0 0 = some (ctx sGb thG (.ldx 2 3 3 0), a) ∧ unpackLanes a ≠ [] ∧
    (ctx sGb thG (.ldx 2 3 3 0)).behindStore (unpackLanes a) 8 = true := ⟨_, rfl, by decide, by decide⟩

theorem wit_task_store : ∃ vs, Issues sM (.stx 2 3 3 0) (xM (.stx 2 3 3 0)) ∧ (xM (.stx 2 3 3 0)).rowBad 2 = none ∧
    eachOf ((xM (.stx 2 3 3 0)).writeLane 8) (laneAddrs (xM (.stx 2 3 3 0)) 0 3 3 0 1) = .ok vs ∧
    (xM (.stx 2 3 3 0)).watch true false true (vs.map (fun v => ((v.va : Int), 8))) = none ∧ (sM.core 0).posted.length < 32 :=
  ⟨_, ⟨rfl, rfl, rfl⟩, rfl, rfl, rfl, by decide⟩

def vl0 : VLane := ⟨0, 0x10000000, 0x10000000, 1, 0, false, false⟩
def posted0 : Posted := { task := 1, slot := 0, agent := 1, epoch := 1, bytes := storedBytes 4 [vl0] [0x01020304], entries := [1] }
def sS : State := { sM with cores := [(0, { Core.reset with threads := [(0, thM)], posted := [posted0] })], cur := none, args := [0] }

theorem wit_store_performed : (sS.core 0).posted = posted0 :: [] ∧ [vl0] ≠ [] ∧ [0x01020304].length = [vl0].length ∧ sS.mem.wf ∧ sS.task? 1 = some taskM ∧
    (∀ b ∈ posted0.bytes, sS.reaches b.1 = true) ∧ (∀ v ∈ [vl0], sS.mayAccess (partMaster 0 0) v.phys permWr = true) ∧
    (∀ v ∈ [vl0], ∀ e, look taskM.ext v.ent = some e → e.mode ≠ 4) ∧ backed 0x10000000 = true :=
  ⟨rfl, by decide, rfl, by decide, rfl, by decide, by decide, by decide, rfl⟩

/-- `amo.cas` of a local word: the old d is what it compares with. -/
theorem wit_core_atomic : Issues sM (.amoCas 2 0 1 0 0) (xM (.amoCas 2 0 1 0 0)) ∧ amoForm (.amoCas 2 0 1 0 0) = some (9, 0, 0, some 2, 0, some 1) ∧
    AmoReady (xM (.amoCas 2 0 1 0 0)) 9 0 (some 2) 0 (some 1) 0x40 3 0 ∧ Unlogged sM (xM (.amoCas 2 0 1 0 0)) ∧
    (xM (.amoCas 2 0 1 0 0)).inRun 0x40 8 = true ∧ (xM (.amoCas 2 0 1 0 0)).localBad 0x40 8 = none ∧
    (xM (.amoCas 2 0 1 0 0)).race (.gran (0x40 / 32)) true true = none ∧ (xM (.amoCas 2 0 1 0 0)).watch false true true [((0x40 : Int), 8)] = none := by
  refine ⟨⟨rfl, rfl, rfl⟩, rfl, ⟨⟨u64, ⟨rfl, rfl, rfl⟩, rfl⟩, by decide, ⟨u64, ⟨rfl, rfl, rfl⟩, rfl⟩, ⟨u64, ⟨rfl, rfl, rfl⟩, by decide, by decide, rfl⟩, ?_⟩, ?_, rfl, rfl, rfl, rfl⟩
  · exact .inr (.inl ⟨by decide, rfl⟩)
  · intro n p hn hp
    have e : n = 0 := (Option.some.inj hn).symm
    subst e
    have e : p = part0 0 := (Option.some.inj hp).symm
    subst e
    exact ⟨by decide, by decide⟩

theorem wit_device_atomic : ∃ v, Issues sM (.amoAdd 2 4 1 3 2) (xM (.amoAdd 2 4 1 3 2)) ∧ amoForm (.amoAdd 2 4 1 3 2) = some (0, 3, 2, some 2, 4, some 1) ∧
    (xM (.amoAdd 2 4 1 3 2)).atomicLane 8 0x20000000 = .ok v ∧ (xM (.amoAdd 2 4 1 3 2)).watch true true true [((0x20000000 : Int), 8)] = none ∧
    (xM (.amoAdd 2 4 1 3 2)).drained = true := ⟨_, ⟨rfl, rfl, rfl⟩, rfl, rfl, rfl, rfl⟩

def thA : Thread := thM.wait (.amoAdd 2 4 1 3 2) none .inFlight (atomicArgs 0 8 3 2 0x20000000 0x20000000 3 0)
def sA : State := { sM with cores := [(0, { Core.reset with threads := [(0, thA)] })], cur := none, args := [0, 0] }

theorem wit_atomic_performed : sA.opCtx? 0 0 = some (ctx sA thA (.amoAdd 2 4 1 3 2), atomicArgs 0 8 3 2 0x20000000 0x20000000 3 0) ∧ thA.status = .inFlight ∧
    sA.mem.wf ∧ sA.reaches 0x20000000 = true ∧ sA.mayAccess (ctx sA thA (.amoAdd 2 4 1 3 2)).master 0x20000000 permAtom = true ∧
    sA.memBad 0x20000000 8 = none ∧ (∀ k, k < 8 → backed (0x20000000 + k) = true) :=
  ⟨rfl, rfl, by decide, rfl, by decide, rfl, by decide⟩

/-- A wait that has seen 3, which differs from what it waits to see changed, returns it. -/
def thSw : Thread := { thM with saw := [(3, [])] }
def sSw : State := bench thSw 0

theorem wit_wait_has_seen : Issues sSw (.waitwL 2 0 2) (ctx sSw thSw (.waitwL 2 0 2)) ∧ DataName (ctx sSw thSw (.waitwL 2 0 2)) 2 3 u64 ∧
    Operand (ctx sSw thSw (.waitwL 2 0 2)) 0 isInt u64 ∧ (val (ctx sSw thSw (.waitwL 2 0 2)) 0).headD 0 % 8 = 0 ∧ thSw.saw = (3, []) :: [] ∧
    3 ≠ word64 u64 (val (ctx sSw thSw (.waitwL 2 0 2)) 2) ∧ Loaded u64 8 3 3 :=
  ⟨⟨rfl, rfl, rfl⟩, ⟨⟨rfl, rfl⟩, by decide, by decide⟩, ⟨rfl, rfl, rfl⟩, rfl, rfl, by decide, rfl⟩

/-- A word of zero is waited on by a thread that has seen zero, and read at once by one that has seen 3. -/
theorem wit_waits : ∃ p, Issues sM (.waitwL 2 0 1) (xM (.waitwL 2 0 1)) ∧ 0x40 % 8 = 0 ∧ (xM (.waitwL 2 0 1)).inRun 0x40 8 = true ∧
    (xM (.waitwL 2 0 1)).race (.gran (0x40 / 32)) false true = none ∧ (xM (.waitwL 2 0 1)).watch false true false [((0x40 : Int), 8)] = none ∧
    sM.loc.read (locKey 0 0x40) 8 ≠ word64 u64 (val (xM (.waitwL 2 0 1)) 1) ∧ sM.loc.read (locKey 0 0x40) 8 = word64 u64 (val (xM (.waitwL 2 0 2)) 2) ∧
    Issues sM (.waitwX 2 4 1) (xM (.waitwX 2 4 1)) ∧ (xM (.waitwX 2 4 1)).waitLane 0x20000000 = .ok p ∧ thM.saw = [] ∧
    (sM.die (sM.homeDie (dieOf 0) p.phys)).relocking = false ∧ sM.mayAccess (xM (.waitwX 2 4 1)).master p.phys permAtom = true ∧ sM.memBad p.phys 8 = none :=
  ⟨_, ⟨rfl, rfl, rfl⟩, rfl, rfl, rfl, rfl, by decide, rfl, ⟨rfl, rfl, rfl⟩, rfl, rfl, rfl, by decide, rfl⟩

theorem wit_fences : Issues sM (.fence 2 2) (xM (.fence 2 2)) ∧ Issues sM .aliasf (xM .aliasf) ∧ Issues sM .fencec (xM .fencec) ∧
    (∀ j ∈ sM.jobsOf 0 0 1, j.state = 3) := ⟨⟨rfl, rfl, rfl⟩, ⟨rfl, rfl, rfl⟩, ⟨rfl, rfl, rfl⟩, by decide⟩

/-! ### Streams -/

def thT : Thread := { thM with names := [name 0 (desc .uns 64 2 .wrap) 0 [0x40, 0x80], name 1 u64 1 [4], name 2 (desc .uns 16 2 .wrap) 2 [0, 0], name 3 (desc .f32 32 2 .wrap) 3 [0, 0]] }
def sT : State := { sM with cores := [(0, { Core.reset with threads := [(0, thT)] })] }

theorem wit_stream_issues : Issues sT (.vtopk 2 0 1) (ctx sT thT (.vtopk 2 0 1)) ∧ streamUses (.vtopk 2 0 1) 4 (desc .uns 16 2 .wrap) = some ⟨4, 0, 8, false⟩ ∧
    0x40 % 4 = 0 ∧ 0x80 % 4 = 0 ∧ (ctx sT thT (.vtopk 2 0 1)).extentCheck 0x40 (4 * 4) = .ok () ∧ (ctx sT thT (.vtopk 2 0 1)).extentCheck 0x80 (0 + 8) = .ok () ∧
    (∀ g ∈ granules 0x40 16, (ctx sT thT (.vtopk 2 0 1)).race (.gran g) false false = none) ∧
    (∀ g ∈ granules 0x80 8, (ctx sT thT (.vtopk 2 0 1)).race (.gran g) true false = none) ∧
    streamUses (.vsmax 3 0 1) 4 (desc .f32 32 2 .wrap) = some ⟨1, 0, 0, false⟩ ∧
    streamUses (.vsoft 3 0 1) 4 (desc .f32 32 2 .wrap) = some ⟨4, 0, 16, true⟩ ∧ overlaps 0x80 16 0x40 16 = false ∧
    streamUses (.vsamp 2 0 1) 4 (desc .uns 16 2 .wrap) = some ⟨16, 16, 0, false⟩ ∧ streamUses (.vscan 0 0 1) 4 f32 = some ⟨4, 0, 16, true⟩ :=
  ⟨⟨rfl, rfl, rfl⟩, rfl, rfl, rfl, rfl, rfl, by decide, by decide, rfl, rfl, rfl, rfl, rfl⟩

def opT : Op := { instr := .vsmax 3 0 1, pc := thT.pc, hint := none, args := [0x40, 0x80, 4] }
def sU (started : Bool) : State :=
  { sM with cores := [(0, { Core.reset with threads := [(0, thT.wait (.vsmax 3 0 1) none .out [0x40, 0x80, 4])]
                                            streamQ := [{ slot := 0, op := opT, started := started, retried := false }] })], cur := none, args := [0] }

theorem wit_stream_completes : ∃ x, (sU true).args = [0] ∧ (sU true).opCtx? 0 0 = some (x, [0x40, 0x80, 4] ++ []) ∧ x.i = .vsmax 3 0 1 ∧
    x.th.desc? (streamName x.i) = some (desc .f32 32 2 .wrap) ∧ x.vectorBad 0x40 4 = none ∧ x.th.status = .out ∧ (sU true).loc.wf ∧
    x.runBase + 0x80 + 0 ≤ 2097152 ∧ ((sU false).core 0).streamQ ≠ [] :=
  ⟨_, rfl, rfl, rfl, rfl, rfl, rfl, by decide, by decide, by decide⟩

/-! ### Barriers, stages and queues -/

/-- A core whose barrier 31 counts slot 0 alone at a level, whose stage 7 slot 0 owns, whose queue 7 holds three values, and whose
queue 6 is full. -/
def coreB (level : Nat) (th : Thread) : Core :=
  { Core.reset with
    threads := [(0, th)]
    barriers := [(31, { mask := 1, arrived := 0, phase := 0, level := level, sent := false, pb := false, ncomp := 0, nmsg := 0, gotMsg := 0,
                        gotComp := 0, root := 0, last := 0, vc := [], past := [] })]
    stages := [(7, { full := true, owner := some 0, wait := [(1, false)], vc := [] })]
    queues := [(6, { vals := [(1, []), (2, []), (3, []), (4, [])], readers := [], writers := [] }),
      (7, { vals := [(1, []), (2, []), (3, [])], readers := [], writers := [] })] }

def thB : Thread := { th0 with names := [name 0 u64 0 [1], name 2 u64 2 [0]] }
def sB (level : Nat) : State := { bench thB 0 with cores := [(0, coreB level thB)] }
def xB (i : Instr) : Ctx := ctx (sB 0) thB i

theorem quiet0 {s : State} (h : s.part? 0 = some (part0 0)) (n : Option Nat) (hn : n = some 0) : Quiet s n := by
  intro m p hm hp
  rw [hn] at hm
  obtain rfl : 0 = m := Option.some.inj hm
  rw [h] at hp
  obtain rfl : part0 0 = p := Option.some.inj hp
  exact ⟨by decide, by decide⟩

theorem wit_barrier_config : Issues (sB 0) (.barCfg 0 31) (xB (.barCfg 0 31)) ∧ Operand (xB (.barCfg 0 31)) 0 isInt u64 ∧
    (xB (.barCfg 0 31)).syncBad (0x580 + 8 * 31) = .ok () ∧ (((sB 0).core 0).barrier 31).arrived = 0 ∧ (((sB 0).core 0).barrier 31).sent = false ∧ bits 1 42 40 ≤ 4 ∧ bits 1 38 32 = 0 ∧
    bit 1 15 = false ∧ bits 1 14 0 ≠ 0 ∧ (xB (.barCfg 0 31)).foreignSlots (bits 1 14 0) = false :=
  ⟨⟨rfl, rfl, rfl⟩, ⟨rfl, rfl, rfl⟩, rfl, rfl, rfl, by decide, by decide, by decide, by decide, rfl⟩

/-- The one arrival of the mask completes the count, at level none and above it. -/
theorem wit_barrier_arrives : Issues (sB 0) (.barArr 2 31) (xB (.barArr 2 31)) ∧ Issues (sB 0) (.barSync 31) (xB (.barSync 31)) ∧
    Dest (xB (.barArr 2 31)) 2 isAny u64 ∧ bit (((sB 0).core 0).barrier 31).mask 0 = true ∧ bit (((sB 0).core 0).barrier 31).arrived 0 = false ∧
    (xB (.barArr 2 31)).drained = true ∧ Unlogged (sB 0) (xB (.barArr 2 31)) ∧ Quiet (sB 0) ((sB 0).partOfCore 0) ∧
    Gives (xB (.barArr 2 31)) u64 0 0 0 ∧ (arrivedIn (xB (.barArr 2 31)) (((sB 0).core 0).barrier 31)).full = true ∧
    ((sB 4).core 0).barrier 31 ≠ ((sB 0).core 0).barrier 31 ∧ (((sB 4).core 0).barrier 31).level ≠ 0 ∧ (((sB 4).core 0).barrier 31).sent = false ∧
    Issues (sB 0) (.barWait 0 31) (xB (.barWait 0 31)) :=
  ⟨⟨rfl, rfl, rfl⟩, ⟨rfl, rfl, rfl⟩, ⟨rfl, rfl⟩, rfl, rfl, rfl, quiet0 rfl _ rfl, quiet0 rfl _ rfl, rfl, rfl, by decide, by decide, rfl, ⟨rfl, rfl, rfl⟩⟩

theorem wit_barrier_units : ({ sB 4 with args := [0, 0, 31, 0, 0] } : State).args = [0, 0, 31, 0, 0] ∧
    ((sB 4).barUnit (unitKey 0 0 31)).left.getD ((sB 4).barUnit (unitKey 0 0 31)).expect - 1 = 0 ∧
    unitLevel 0 < (((sB 4).core 0).barrier 31).level ∧ (((sB 1).core 0).barrier 31).level ≤ unitLevel 0 ∧
    ({ sB 4 with barUnits := [(unitKey 0 0 31, { expect := 2, left := none })] } : State).barUnit (unitKey 0 0 31) = { expect := 2, left := none } := by
  refine ⟨rfl, ?_⟩; decide

/-- Slot 0 waits for the units' answer to its `bar.sync`; the level-3 unit's line reaches a package other than the counter's. -/
def thBu : Thread := thB.wait (.barSync 31) none .blocked [0]
def sBu : State := { bench thBu 0 with cores := [(0, coreB 4 thBu)] }

theorem wit_barrier_answers : sBu.awaitsUnit 0 0 31 = true ∧ sBu.thread? 0 0 = some thBu ∧ (∃ o, thBu.op = some o ∧ o.instr = .barSync 31) ∧
    (sB 4).awaitsUnit 0 0 31 = false ∧ Quiet (sB 4) (some 0) ∧ unitLevel 68 < (((sB 4).core 0).barrier 31).level ∧
    (∃ s : State, s.awaitsUnit 0 0 31 = false ∧ ((s.core 0).barrier 31).root ≠ s.pkg.num) :=
  ⟨rfl, rfl, ⟨_, rfl, rfl⟩, rfl, quiet0 rfl _ rfl, by decide, ⟨{ sB 4 with pkg := { Pkg.reset with num := 1 } }, rfl, by decide⟩⟩

theorem wit_stages : Issues (sB 0) (.rels 7) (xB (.rels 7)) ∧ (xB (.rels 7)).syncBad (0x540 + 8 * 7) = .ok () ∧
    (((sB 0).core 0).stage 7).owner = some 0 ∧ (((sB 0).core 0).stage 7).wait.find? (fun p => p.2 == !(((sB 0).core 0).stage 7).full) = some (1, false) ∧
    Issues (sB 0) (.acqs 15) (xB (.acqs 15)) ∧ Issues (sB 0) (.acqs 8) (xB (.acqs 8)) ∧ (((sB 0).core 0).stage 0).owner = none ∧
    (((sB 0).core 0).stage 0).full ≠ decide (8 ≤ 8) ∧ (((sB 0).core 0).stage 0).full = decide (8 ≤ 0) :=
  ⟨⟨rfl, rfl, rfl⟩, rfl, rfl, rfl, ⟨rfl, rfl, rfl⟩, ⟨rfl, rfl, rfl⟩, rfl, by decide, by decide⟩

theorem wit_queues : Issues (sB 0) (.qput 0 7) (xB (.qput 0 7)) ∧ Operand (xB (.qput 0 7)) 0 isAny u64 ∧ (xB (.qput 0 7)).syncBad (0x500 + 8 * 7) = .ok () ∧
    (xB (.qput 0 7)).drained = true ∧ (((sB 0).core 0).queue 7).vals.length < 4 ∧ 4 ≤ (((sB 0).core 0).queue 6).vals.length ∧
    (((sB 0).core 0).queue 7).readers = [] ∧ Issues (sB 0) (.qtry 2 7) (xB (.qtry 2 7)) ∧ (((sB 0).core 0).queue 7).vals = (1, []) :: [(2, []), (3, [])] ∧
    Issues (sB 0) (.qget 2 0) (xB (.qget 2 0)) ∧ (((sB 0).core 0).queue 0).vals = [] ∧ Dest (xB (.qget 2 0)) 2 isAny u64 :=
  ⟨⟨rfl, rfl, rfl⟩, ⟨rfl, rfl, rfl⟩, rfl, rfl, by decide, by decide, rfl, ⟨rfl, rfl, rfl⟩, rfl, ⟨rfl, rfl, rfl⟩, rfl, ⟨rfl, rfl⟩⟩

/-- A reader that waits in slot 1 on an empty queue 0, and a writer in slot 1 on the full queue 6. -/
def thQ (i : Instr) (a : List Nat) : Thread := thB.wait i none .blocked a
def sQ : State :=
  { sB 0 with cores := [(0, { coreB 0 thB with threads := [(0, thB), (1, thQ (.qget 2 0) [])], queues := [(0, { vals := [], readers := [1], writers := [] })] })] }
def sQw : State :=
  { sB 0 with cores := [(0, { coreB 0 thB with threads := [(0, thB), (1, thQ (.qput 0 0) [9])]
                                               queues := [(0, { vals := [(1, []), (2, []), (3, []), (4, [])], readers := [], writers := [1] })] })] }

theorem wit_queue_partners : ∃ o, ((sQ.core 0).queue 0).readers = 1 :: [] ∧ sQ.blockedOp 0 1 = some o ∧ ((sQw.core 0).queue 0).writers = 1 :: [] ∧
    sQw.thread? 0 1 = some (thQ (.qput 0 0) [9]) ∧ [(2, ([] : Clock)), (3, []), (4, [])].length = 3 ∧
    Issues sQ (.qput 0 0) (ctx sQ thB (.qput 0 0)) ∧ Issues sQw (.qget 2 0) (ctx sQw thB (.qget 2 0)) :=
  ⟨_, rfl, rfl, rfl, rfl, rfl, ⟨rfl, rfl, rfl⟩, ⟨rfl, rfl, rfl⟩⟩

/-! ### Messages -/

/-- n0 holds a buffer's address, n1 the word of slot 1 of core 0, n3 a time, n4 zero. -/
def thE : Thread := { th0 with names := [name 0 u64 0 [0x40], name 1 u64 1 [0x10000], name 2 u64 2 [0], name 3 u64 3 [5], name 4 u64 4 [0]] }
def msg0 : Msg := { core := 0, slot := 1, words := [1, 2, 3, 4, 5, 6, 7, 8], after := none, vc := [] }
def coreE (p : Option Msg) (n : Nat) : Core := { Core.reset with threads := [(0, thE), (1, thE)], pigeons := [(0, { msg := p, refused := 0, notices := n })] }
def sE (p : Option Msg) (n : Nat) : State := { bench thE 0 with cores := [(0, coreE p n)] }
def xE (p : Option Msg) (n : Nat) (i : Instr) : Ctx := ctx (sE p n) thE i

theorem wit_send : Issues (sE none 0) (.send 0 1) (xE none 0 (.send 0 1)) ∧ Operand (xE none 0 (.send 0 1)) 0 isInt u64 ∧
    Operand (xE none 0 (.send 0 1)) 1 isInt u64 ∧ 0x40 % 32 = 0 ∧ (xE none 0 (.send 0 1)).inRun 0x40 64 = true ∧
    (xE none 0 (.send 0 1)).runRace 0x40 64 false false = .ok () ∧ (xE none 0 (.send 0 1)).localBad 0x40 64 = none ∧
    (xE none 0 (.send 0 1)).drained = true ∧ (xE none 0 (.send 0 1)).badDest 0x10000 false = false ∧
    Issues (sE none 0) (.sendh 0 1) (xE none 0 (.sendh 0 1)) ∧ (xE none 0 (.send 0 1)).badDest 0x200 false = true :=
  ⟨⟨rfl, rfl, rfl⟩, ⟨rfl, rfl, rfl⟩, ⟨rfl, rfl, rfl⟩, rfl, rfl, rfl, rfl, rfl, rfl, ⟨rfl, rfl, rfl⟩, by decide⟩

/-- A message of slot 1 to slot 0 in flight. -/
def thS (i : Instr) : Thread := thE.wait i none .inFlight (0 :: [1, 2, 3, 4, 5, 6, 7, 8])
def sX (i : Instr) (full : Bool) (arr : Nat) : State :=
  { bench thE 0 with
    cores := [(0, { Core.reset with threads := [(0, thE), (1, thS i)], arrivals := List.replicate arr (0, msg0)
                                    pigeons := if full then [(0, { msg := some msg0, refused := 0, notices := 0 })] else [] })]
    cur := none, args := [0, 1] }
def xX (i : Instr) (full : Bool) (arr : Nat) : Ctx := { s := sX i full arr, c := 0, sl := 1, k := (sX i full arr).core 0, th := thS i, i := i, hint := none }

theorem wit_in_transit : InTransit (sX (.send 0 1) false 0) (xX (.send 0 1) false 0) 0 [1, 2, 3, 4, 5, 6, 7, 8] [] thE ∧
    (((sX (.send 0 1) false 0).core 0).pigeon 0).msg = none ∧ (((sX (.send 0 1) true 15).core 0).pigeon 0).msg ≠ none ∧
    ((sX (.send 0 1) true 15).core 0).arrivals.length < 16 ∧ 16 ≤ ((sX (.send 0 1) true 16).core 0).arrivals.length ∧
    ((sX (.send 0 1) true 16).core 0).refusals.length < 32 ∧ Quiet (sX (.send 0 1) true 16) ((sX (.send 0 1) true 16).partOfCore 0) :=
  ⟨⟨rfl, rfl, rfl, rfl, rfl, by decide, by decide⟩, rfl, by decide, by decide, by decide, by decide, quiet0 rfl _ rfl⟩

theorem wit_handler : ∃ names, InTransit (sX (.sendh 0 1) false 0) (xX (.sendh 0 1) false 0) 0 [1, 2, 3, 4, 5, 6, 7, 8] [] thE ∧
    (sX (.sendh 0 1) false 0).task? thE.task = some task0 ∧ bits 0 55 32 < task0.codelen ∧ ((sX (.sendh 0 1) false 0).core 0).freeSlot = some 2 ∧
    placePattern 2 ((upFrom 0 8).map (fun i => (i, u64))) (((sX (.sendh 0 1) false 0).core 0).occupied 2) = some names ∧
    Untraced (sX (.sendh 0 1) false 0) 0 2 ∧ task0.codelen ≤ bits (64 * 2 ^ 32) 55 32 :=
  ⟨_, ⟨rfl, rfl, rfl, rfl, rfl, by decide, by decide⟩, rfl, by decide, rfl, rfl, rfl, by decide⟩

theorem wit_no_receiver : (sX (.send 0 1) false 0).opCtx? 0 1 = some (xX (.send 0 1) false 0, 0 :: [1, 2, 3, 4, 5, 6, 7, 8]) ∧
    (∀ th, ({ bench thE 0 with cores := [] } : State).thread? (bits 0 8 0) (bits 0 19 16) = some th → th.status = .finished) := by
  refine ⟨rfl, ?_⟩; intro th h; cases h

theorem wit_receive : Issues (sE (some msg0) 0) (.recv 2 0) (xE (some msg0) 0 (.recv 2 0)) ∧ Operand (xE (some msg0) 0 (.recv 2 0)) 0 isInt u64 ∧
    Dest (xE (some msg0) 0 (.recv 2 0)) 2 isAny u64 ∧ (xE (some msg0) 0 (.recv 2 0)).syncBad (0x400 + 8 * 0) = .ok () ∧
    (xE (some msg0) 0 (.recv 2 0)).inRun 0x40 64 = true ∧ (((sE (some msg0) 0).core 0).pigeon 0).msg = some msg0 ∧ msg0.words.length = 8 ∧
    (xE (some msg0) 0 (.recv 2 0)).runRace 0x40 64 true false = .ok () ∧ Gives (xE (some msg0) 0 (.recv 2 0)) u64 (0 + 1 * 65536 : Nat) 0 65536 ∧
    ((sE (some msg0) 0).core 0).refusals = [] ∧ (xE (some msg0) 0 (.recv 2 0)).runBase + 0x40 + 64 ≤ 2097152 :=
  ⟨⟨rfl, rfl, rfl⟩, ⟨rfl, rfl, rfl⟩, ⟨rfl, rfl⟩, rfl, rfl, rfl, rfl, rfl, rfl, rfl, by decide⟩

theorem wit_receive_waits : Issues (sE none 1) (.recvt 2 0 3) (xE none 1 (.recvt 2 0 3)) ∧ (((sE none 1).core 0).pigeon 0).msg = none ∧
    0 < (((sE none 1).core 0).pigeon 0).notices ∧ (((sE none 0).core 0).pigeon 0).notices = 0 ∧ Issues (sE none 0) (.recvt 2 0 4) (xE none 0 (.recvt 2 0 4)) ∧
    (val (xE none 0 (.recvt 2 0 4)) 4).headD 0 = 0 ∧ (val (xE none 0 (.recvt 2 0 3)) 3).headD 0 ≠ 0 ∧
    (∀ y ∈ (sE none 0).timers, y.ev ≠ ⟨.recvtTimeout, [0, 0]⟩) :=
  ⟨⟨rfl, rfl, rfl⟩, rfl, by decide, rfl, ⟨rfl, rfl, rfl⟩, rfl, by decide, by decide⟩

theorem wit_timeout : ∃ x, ({ bench (thE.wait (.recvt 2 0 3) none .blocked [0x40]) 0 with args := [0, 0] } : State).opCtx? 0 0 = some (x, [0x40]) ∧
    x.i = .recvt 2 0 3 ∧ x.th.status = .blocked ∧ x.th.logWait = false := ⟨_, rfl, rfl, rfl, rfl⟩

/-! ### Local time -/

def thN : Thread :=
  { th0 with names := [name 0 u64 0 [0x40], name 1 (desc .uns 64 2 .wrap) 1 [100, 1], name 2 (desc .uns 64 3 .wrap) 2 [0, 0, 0], name 3 u64 3 [1], name 4 u64 4 [0x80]] }
def ev0 : VtEvent := { stamp := 7, sender := 1, seq := 1, payload := List.replicate 32 0, vc := [] }
def coreN (q : Nat) : Core :=
  { Core.reset with
    threads := [(0, thN)], outNbrs := [(1, 10)], quota := if q = 0 then [] else [(1, q)], events := [ev0]
    inNbrs := some [{ core := 1, look := 10, pub := 0 }] }
def sN (q : Nat) : State := { bench thN 3 with cores := [(0, coreN q)] }
def xN (q : Nat) (i : Instr) : Ctx := ctx (sN q) thN i

/-- The 15th and the 16th place of the quota. -/
theorem wit_vtsend : Issues (sN 15) (.vtsend 0 1) (xN 15 (.vtsend 0 1)) ∧ EventReady (xN 15 (.vtsend 0 1)) 0 1 0x40 100 1 10 ∧
    lookD ((sN 15).core 0).quota 1 0 < 16 ∧ ((sN 15).core 0).firstSender 1 = none ∧ 16 ≤ lookD ((sN 16).core 0).quota 1 0 :=
  ⟨⟨rfl, rfl, rfl⟩, ⟨⟨_, ⟨rfl, rfl, rfl⟩, rfl⟩, rfl, rfl, ⟨desc .uns 64 2 .wrap, ⟨rfl, rfl, rfl⟩, by decide, rfl, rfl⟩, by decide, rfl, by decide, rfl, rfl, rfl, rfl⟩,
    by decide, rfl, by decide⟩

/-- A `vtsend` that looks again for the port, and one that has waited longest for its place when a place comes back. -/
def thVw (why : Nat) (st : Status) : Thread := thN.wait (.vtsend 0 1) none st [why, 1, 110, 0, 0, 0, 0, 0]
def sVw (why : Nat) (st : Status) : State :=
  { bench (thVw why st) 3 with cores := [(0, { coreN 16 with threads := [(0, thVw why st)] })], args := [0, 1] }

theorem wit_vtsend_waits : ∃ o x a, Issues (sVw 1 .ready) (.vtsend 0 1) (ctx (sVw 1 .ready) (thVw 1 .ready) (.vtsend 0 1)) ∧
    Operand (ctx (sVw 1 .ready) (thVw 1 .ready) (.vtsend 0 1)) 0 isInt u64 ∧ (thVw 1 .ready).op = some o ∧ o.args = [1, 1, 110, 0] ++ [0, 0, 0, 0] ∧
    ((sVw 0 .inFlight).core 0).firstSender 1 = some 0 ∧ (sVw 0 .inFlight).opCtx? 0 0 = some (x, a) ∧ a = [0, 1, 110, 0] ++ [0, 0, 0, 0] ∧
    (1 : Nat) ∉ ((sVw 0 .inFlight).core 0).clockHeld :=
  ⟨_, _, _, ⟨rfl, rfl, rfl⟩, ⟨rfl, rfl, rfl⟩, rfl, rfl, rfl, rfl, rfl, by decide⟩

/-- Stamp 7 lies below the horizon of 10. -/
theorem wit_vtrecv : Issues (sN 0) (.vtrecv 2 0) (xN 0 (.vtrecv 2 0)) ∧ Operand (xN 0 (.vtrecv 2 0)) 0 isInt u64 ∧
    Dest (xN 0 (.vtrecv 2 0)) 2 isInt (desc .uns 64 3 .wrap) ∧ 3 ≤ (desc .uns 64 3 .wrap).lanes ∧ (xN 0 (.vtrecv 2 0)).inRun 0x40 32 = true ∧
    ((sN 0).core 0).vtWait = [] ∧ ((sN 0).core 0).admissible = some ev0 ∧ ev0.payload.length = 32 ∧ (xN 0 (.vtrecv 2 0)).runRace 0x40 32 true false = .ok () ∧
    fitInt (desc .uns 64 3 .wrap) 7 = some 7 ∧ Core.admissible { coreN 0 with events := [] } = none :=
  ⟨⟨rfl, rfl, rfl⟩, ⟨rfl, rfl, rfl⟩, ⟨rfl, rfl⟩, by decide, rfl, rfl, rfl, rfl, rfl, rfl, rfl⟩

theorem wit_clock : Issues (sN 0) (.vtadv 3) (xN 0 (.vtadv 3)) ∧ Issues (sN 0) .vtnull (xN 0 .vtnull) ∧ Issues (sN 0) (.vthor 4) (xN 0 (.vthor 4)) ∧
    PerLane u64.lanes [10] (fun _ v => fitInt u64 ((sN 0).core 0).horizon = some v) := ⟨⟨rfl, rfl, rfl⟩, ⟨rfl, rfl, rfl⟩, ⟨rfl, rfl, rfl⟩, rfl, by decide⟩

/-- One entry at 0x40: core 2, lookahead 5; the graph is not declared yet, or is another. -/
def sNd (l : Nat) : State :=
  { bench thN 3 with
    loc := if l = 0 then [(0x40, 2)] else [(0x40, 2), (0x44, BitVec.ofNat 8 l)]
    cores := [(0, { coreN 0 with inNbrs := none })] }

theorem wit_declare : Issues (sNd 5) (.vtann 0 3) (ctx (sNd 5) thN (.vtann 0 3)) ∧ 0x40 % 8 = 0 ∧ 1 ≤ 8 ∧ (ctx (sNd 5) thN (.vtann 0 3)).inRun 0x40 (8 * 1 : Nat) = true ∧
    (ctx (sNd 5) thN (.vtann 0 3)).runRace 0x40 8 false false = .ok () ∧ (ctx (sNd 5) thN (.vtann 0 3)).runEcc 0x40 8 = .ok () ∧
    ((sNd 5).core 0).inNbrs = none ∧ (ctx (sNd 5) thN (.vtann 0 3)).annFault 0 [(ctx (sNd 5) thN (.vtann 0 3)).locNum 0x40 8] = none ∧
    (ctx (sNd 0) thN (.vtann 0 3)).annFault 0 [(ctx (sNd 0) thN (.vtann 0 3)).locNum 0x40 8] = some 0 ∧
    [((1 : Nat), (10 : Nat))] ≠ [(nbrOf ((ctx (sNd 5) thN (.vtann 0 3)).locNum 0x40 8)).core].map (fun c => (c, 5)) :=
  ⟨⟨rfl, rfl, rfl⟩, rfl, by decide, rfl, rfl, rfl, rfl, rfl, rfl, by decide⟩

theorem wit_registered : ∃ x, ({ bench (thN.wait (.vtann 0 3) none .inFlight [1]) 3 with args := [0, 0] } : State).opCtx? 0 0 = some (x, [1]) ∧ x.i = .vtann 0 3 :=
  ⟨_, rfl, rfl⟩

theorem wit_null_count : (({ sN 0 with cores := [(0, { coreN 0 with vtWait := [0] })] } : State).core 0).vtWait ≠ [] := by decide

/-! ### Tasks, leases and the system -/

def node0 (st : NodeState) : Node :=
  { graph := 1, index := 0
    desc := { code := 0x100000, codelen := 64, entry := 0, argoff := 0, arglen := 0, hw := 1, threads := 1, prio := 0, aff := 0, kind := 0, preds := [], ranges := [] }
    preds := [], derived := [], st := st, spawned := false, after := none, leases := [], ext := [], vc := [], wants := none, returned := false }
def graph0 : Graph :=
  { queue := 0, seq := 1, space := 0x500000, nnodes := 1, nodes := [], arg := 0, cword := 0x600000, cval := 1, iter := 1, spawned := 0, aborted := false
    err := none, lastDone := none, vc := [] }
def partL : Part := { part0 0 with live := [(0, node0 (.running 1))], graphs := [(1, graph0)] }

/-- n3 holds a node record's address in the range of entry 1, n0 the base and length of a lease. -/
def thK : Thread := { thM with names := [name 0 (desc .uns 64 2 .wrap) 0 [0x40000, 0x1000], name 2 u64 2 [0], name 3 u64 3 [0x10000040]] }
def sK : State := { sM with cores := [(0, { Core.reset with threads := [(0, thK)] })], parts := [(0, partL)] }
def xK (i : Instr) : Ctx := ctx sK thK i

theorem wit_spawn : ∃ e, Issues sK (.spawn 3) (xK (.spawn 3)) ∧ Operand (xK (.spawn 3)) 3 isInt u64 ∧ 0x10000040 % 64 = 0 ∧
    (xK (.spawn 3)).findExtent 0x10000040 192 extRd = some e ∧ (xK (.spawn 3)).recordRace 0x10000040 e = .ok () ∧ (xK (.spawn 3)).drained = true :=
  ⟨_, ⟨rfl, rfl, rfl⟩, ⟨rfl, rfl, rfl⟩, rfl, rfl, rfl, rfl⟩

def sKs : State :=
  { sK with cores := [(0, { Core.reset with threads := [(0, thK.wait (.spawn 3) none .inFlight [0x10000040, 0x10000040])] })], cur := none, args := [0, 0] }

theorem wit_spawn_append : Spawning sKs (ctx sKs (thK.wait (.spawn 3) none .inFlight [0x10000040, 0x10000040]) (.spawn 3)) 0x10000040 0x10000040 taskM partL (node0 (.running 1)) ∧ partL.live.length < 4096 ∧
    look partL.graphs (node0 (.running 1)).graph = some graph0 ∧ graph0.aborted = false :=
  ⟨⟨rfl, rfl, ⟨3, rfl⟩, rfl, rfl, rfl⟩, by decide, rfl, rfl⟩

theorem wit_tidq : Issues sK (.tidq 2 5) (xK (.tidq 2 5)) ∧ Dest (xK (.tidq 2 5)) 2 isInt u64 ∧ (xK (.tidq 2 5)).task = some taskM ∧
    TaskWord sK (xK (.tidq 2 5)) taskM 5 0 ∧ TaskWord sK (xK (.tidq 2 1)) taskM 1 0 ∧ TaskWord sK (xK (.tidq 2 4)) taskM 4 1 :=
  ⟨⟨rfl, rfl, rfl⟩, ⟨rfl, rfl⟩, rfl, .inr (.inr (.inr (.inr (.inr ⟨by decide, rfl⟩)))), .inr (.inl ⟨rfl, partL, _, rfl, rfl, rfl⟩),
    .inr (.inr (.inr (.inr (.inl ⟨rfl, rfl⟩))))⟩

theorem wit_done_yield : Issues sK .done (xK .done) ∧ Issues sK .yield (xK .yield) := ⟨⟨rfl, rfl, rfl⟩, ⟨rfl, rfl, rfl⟩⟩

def sKe (e : Option ExtentEnd) : State :=
  { sK with cores := [(0, { Core.reset with threads := [(0, { thK with status := .finished })] })], tasks := [(1, { taskM with ending := e })], cur := none, args := [1] }

theorem wit_task_end : Quits (sKe none) 1 { taskM with ending := none } ∧
    (∀ p ∈ ((sKe none).core 0).threads, p.2.task = 1 → p.2.status = .finished) ∧
    Quits (sKe (some ⟨0, 0, 1, 64⟩)) 1 { taskM with ending := some ⟨0, 0, 1, 64⟩ } ∧
    (∀ p ∈ ((sKe (some ⟨0, 0, 1, 64⟩)).core 0).threads, p.2.task = 1 → p.2.abandonable = false ∧ p.2.atBoundary = true) :=
  ⟨⟨rfl, rfl, by decide, by decide, fun sl h => by rw [List.mem_singleton.mp h]; rfl, by decide⟩, by decide,
    ⟨rfl, rfl, by decide, by decide, fun sl h => by rw [List.mem_singleton.mp h]; rfl, by decide⟩, by decide⟩

theorem wit_lease : Issues sK (.lease 0 0) (xK (.lease 0 0)) ∧ Operand (xK (.lease 0 0)) 0 isInt (desc .uns 64 2 .wrap) ∧ 2 ≤ (desc .uns 64 2 .wrap).lanes ∧
    ¬((0 : Nat) = 1 ∨ (0 : Nat) = 2 ∨ 0x1000 = 0 ∨ 0x40000 % 64 ≠ 0 ∨ 0x1000 % 64 ≠ 0) :=
  ⟨⟨rfl, rfl, rfl⟩, ⟨rfl, rfl, rfl⟩, by decide, by decide⟩

def sKl (args : List Nat) : State :=
  { sK with cores := [(0, { Core.reset with threads := [(0, thK.wait (.lease 0 0) none .blocked args)] })], cur := none, args := [0, 0] }

def xKl (args : List Nat) : Ctx := ctx (sKl args) (thK.wait (.lease 0 0) none .blocked args) (.lease 0 0)

theorem wit_leasing : Leasing (sKl [0x40000, 0x1000, 0]) (xKl [0x40000, 0x1000, 0]) 0x40000 0x1000 0 taskM partL (node0 (.running 1)) ∧
    leaseLeaves (sKl [0x40000, 0x1000, 0]) (xKl [0x40000, 0x1000, 0]) 0x40000 0x1000 partL (node0 (.running 1)) = none :=
  ⟨⟨rfl, rfl, ⟨0, 0, rfl⟩, rfl, rfl, rfl, rfl, by decide, by decide⟩, rfl⟩

/-- Die 0 holds a resident page of 64 KiB in its translation cache: at 0x40000, and at a range that the task holds already. -/
def tlb0 (va : Nat) : Tlb := { space := 0x500000, va := va, size := 65536, leaf := 0x700000, word0 := 0x2000004D, word1 := 0 }
def sKg (a : List Nat) : State := { sKl a with dies := [(0, { Die.reset with tlb := [tlb0 0x40000, tlb0 0x10000000] })] }
def xKg (a : List Nat) : Ctx := ctx (sKg a) (thK.wait (.lease 0 0) none .blocked a) (.lease 0 0)

theorem wit_granted : ∃ ls r ms u, Leasing (sKg [0x40000, 64, 0]) (xKg [0x40000, 64, 0]) 0x40000 64 0 taskM partL (node0 (.running 1)) ∧
    leaseLeaves (sKg [0x40000, 64, 0]) (xKg [0x40000, 64, 0]) 0x40000 64 partL (node0 (.running 1)) = some ls ∧
    leaseCodeIn (sKg [0x40000, 64, 0]) (xKg [0x40000, 64, 0]) 0x40000 64 0 taskM partL (node0 (.running 1)) = 0 ∧ (∀ q ∈ ls, q.2.res = true) ∧
    (sKg [0x40000, 64, 0]).leaseWaits (leafPages ls) = false ∧ physRuns 0x40000 64 ls = [r] ∧ taskM.freeEntries ≠ [] ∧
    leaseLeaves (sKg [0x10000000, 64, 0]) (xKg [0x10000000, 64, 0]) 0x10000000 64 partL (node0 (.running 1)) = some ms ∧
    leaseTrial (sKg [0x10000000, 64, 0]) (xKg [0x10000000, 64, 0]) taskM partL (node0 (.running 1)) ms = (u, .done) ∧
    leaseCodeIn u.1 (xKg [0x10000000, 64, 0]) 0x10000000 64 0 taskM partL (node0 (.running 1)) = 3 :=
  ⟨_, _, _, _, ⟨rfl, rfl, ⟨0, 0, rfl⟩, rfl, rfl, rfl, rfl, by decide, by decide⟩, rfl, by decide, by decide, by decide, rfl, by decide, rfl, rfl, by decide⟩

/-- The page at 0x40000 is absent: where the partition has no budget for a frame the lease waits; where the access tables deny the porter
its leaf, it fails. -/
def sKa (denied : Bool) : State :=
  { sKl [0x40000, 64, 0] with
    parts := [(0, { partL with mem := 0 })], dies := [(0, { Die.reset with tlb := [{ tlb0 0x40000 with word0 := 0x20000049 }] })]
    acl := if denied then [(tableAt 0 0 0 (homeSlice 0x700000), 0)] else [] }

theorem wit_lease_waits : ∃ ls u v, leaseLeaves (sKa false) (ctx (sKa false) (thK.wait (.lease 0 0) none .blocked [0x40000, 0x1000, 0]) (.lease 0 0)) 0x40000 0x1000 { partL with mem := 0 } (node0 (.running 1)) = some ls ∧
    leaseTrial (sKa false) (ctx (sKa false) (thK.wait (.lease 0 0) none .blocked [0x40000, 0x1000, 0]) (.lease 0 0)) taskM { partL with mem := 0 } (node0 (.running 1)) ls = (u, .waits) ∧
    leaseTrial (sKa true) (ctx (sKa true) (thK.wait (.lease 0 0) none .blocked [0x40000, 0x1000, 0]) (.lease 0 0)) taskM { partL with mem := 0 } (node0 (.running 1)) ls = (v, .fails 2) :=
  ⟨_, _, _, rfl, rfl, rfl⟩

def taskR (leased : Bool) : Machine.Task := { taskM with ext := taskM.ext ++ [(5, { range0 2 3 0x50000000 0 0x10000 [] with leased := leased })] }
def sKr (leased : Bool) : State := { sK with tasks := [(1, taskR leased)] }

theorem wit_release : Issues (sKr true) (.leaseRel 5) (ctx (sKr true) thK (.leaseRel 5)) ∧ (ctx (sKr true) thK (.leaseRel 5)).task = some (taskR true) ∧
    look (taskR true).ext 5 = some { range0 2 3 0x50000000 0 0x10000 [] with leased := true } ∧
    (ctx (sKr true) thK (.leaseRel 5)).entryBusy 5 { range0 2 3 0x50000000 0 0x10000 [] with leased := true } = false ∧
    (ctx (sKr true) thK (.leaseRel 5)).entryEcc 5 = .ok () ∧
    look (taskR false).ext 5 = some { range0 2 3 0x50000000 0 0x10000 [] with leased := false } := ⟨⟨rfl, rfl, rfl⟩, rfl, rfl, rfl, rfl, rfl⟩

/-- A handler at the last word of the code, and one just beyond it. -/
theorem wit_scall : Issues sK (.scall 0 1) (xK (.scall 0 1)) ∧ Operand (xK (.scall 0 1)) 0 isInt (desc .uns 64 2 .wrap) ∧ (xK (.scall 0 1)).task = some taskM ∧
    (60 % 4 = 0 ∧ 60 < taskM.codelen) ∧ taskM.codelen ≤ 64 ∧ Issues sK (.scall 0 4) (xK (.scall 0 4)) ∧ 4 ≠ 1 ∧ thK.inh = false ∧
    ({ thK with cause := 0x80000004 } : Thread).inh = true ∧ partL.ladder ≠ .dump ∧ (xK (.scall 0 4)).part = some 0 :=
  ⟨⟨rfl, rfl, rfl⟩, ⟨rfl, rfl, rfl⟩, rfl, by decide, by decide, ⟨rfl, rfl, rfl⟩, by decide, rfl, rfl, by decide, rfl⟩

theorem wit_brk : Issues sK (.brk 63) (xK (.brk 63)) ∧ ¬(thK.suppress = true ∧ (sK.die 0).dbg.enable = true) := ⟨⟨rfl, rfl, rfl⟩, by decide⟩

/-- The steward in slot 15, with the trap of slot 0 at the head of its queue. -/
def thSt (v : Nat) : Thread := { th0 with task := 0, names := [name 0 u64 0 [v], name 1 u64 1 [2]] }
def thTp : Thread := thK.trapEntry 4 7 none 0x100004 0x32 false
def sSt (v : Nat) (q : List Nat) : State :=
  { sK with cores := [(0, { Core.reset with threads := [(0, thTp), (15, thSt v)], trapQ := q })], cur := some (0, 15)
            tasks := [(1, { taskM with handler := some (60, 16) })] }
def xSt (v : Nat) (q : List Nat) (i : Instr) : Ctx := { s := sSt v q, c := 0, sl := 15, k := (sSt v q).core 0, th := thSt v, i := i, hint := none }

theorem wit_steward : Issues (sSt 0x200 [0]) (.eret 0) (xSt 0x200 [0] (.eret 0)) ∧ Operand (xSt 0x200 [0] (.eret 0)) 0 isInt u64 ∧ 0x200 % 16 = 0 ∧ 0 ≠ 15 ∧
    0x200 / 16 % 16 = 0 ∧ 0x200 < 1024 ∧ 0 ∈ ((sSt 0x200 [0]).core 0).trapQ ∧ (sSt 0x200 [0]).thread? 0 0 = some thTp ∧ Untraced (sSt 0x200 [0]) 0 0 ∧
    bits 0x200 9 8 = 2 ∧ bits 0x100 9 8 = 1 ∧ Issues (sSt 0 [0]) .halt (xSt 0 [0] .halt) ∧ Issues (sSt 0 []) .halt (xSt 0 [] .halt) :=
  ⟨⟨rfl, rfl, rfl⟩, ⟨rfl, rfl, rfl⟩, rfl, by decide, rfl, by decide, by decide, rfl, rfl, rfl, rfl, ⟨rfl, rfl, rfl⟩, ⟨rfl, rfl, rfl⟩⟩

def sTs : State := { sSt 0 [0] with cur := none, args := [0] }

theorem wit_trap_service : OneTrap sTs 0 0 thTp { taskM with handler := some (60, 16) } partL ∧ handlerMay (thTp.cause.toNat % 256) = true ∧
    bit 16 (thTp.cause.toNat % 256) = true ∧ thTp.cause.toNat % 256 ≠ BRK ∧ thTp.cause.toNat % 256 ≠ WATCH ∧
    ((thK.trapEntry BRK 0x47 none 0x100004 0x32 false).cause.toNat % 256 = BRK ∧ 0x40 ≤ (thK.trapEntry BRK 0x47 none 0x100004 0x32 false).eval.toNat) :=
  ⟨⟨rfl, rfl, rfl, rfl, rfl, rfl, rfl, by decide, rfl, rfl⟩, by decide, by decide, by decide, by decide, by decide⟩

theorem wit_heartbeat : (∀ c th, s0.thread? c 15 = some th → th.inHalt = false) ∧ ((thSt 0).wait .halt none .blocked []).inHalt = true := by
  refine ⟨?_, rfl⟩
  intro c th h
  by_cases hc : c = 0
  · subst hc; cases h
  · have e : s0.core c = Core.reset := by
      show lookD [(0, _)] c Core.reset = _
      simp [lookD, look, Ne.symm hc]
    unfold State.thread? at h
    rw [e] at h
    cases h

theorem wit_words : Issues sK (.cwr 2 0 13) (xK (.cwr 2 0 13)) ∧ Dest (xK (.cwr 2 0 13)) 2 isAny u64 ∧ Quiet sK (xK (.cwr 2 0 13)).part ∧
    PerLane u64.lanes [0x081020] (fun l v => Gives (xK (.cwr 2 0 13)) u64 (0x081020 : Nat) l v) ∧ ControlWord sK (xK (.cwr 2 0 11)) 11 0x081020 ∧
    ControlWord sK (xK (.cwr 2 0 6)) 6 (2 * 65536 + 1200) ∧
    Issues (sSt 5 [0]) (.cww 1 0 2) (xSt 5 [0] (.cww 1 0 2)) ∧ Issues (sSt 5 [0]) (.cwr 1 1 3) (xSt 5 [0] (.cwr 1 1 3)) ∧
    look ((sSt 5 [0]).core 0).threads (1 - 1) = some thTp ∧ look ((sSt 5 [0]).core 0).threads (2 - 1) = none ∧
    Issues (sSt 5 [0]) (.cwr 1 2 3) (xSt 5 [0] (.cwr 1 2 3)) := by
  refine ⟨⟨rfl, rfl, rfl⟩, ⟨rfl, rfl⟩, ?_, ⟨rfl, fun l h => by obtain rfl : l = 0 := Nat.lt_one_iff.mp h; rfl⟩, ?_, ?_, ⟨rfl, rfl, rfl⟩, ⟨rfl, rfl, rfl⟩, rfl, rfl, ⟨rfl, rfl, rfl⟩⟩
  · intro m p hm hp
    obtain rfl : 0 = m := Option.some.inj hm
    obtain rfl : partL = p := Option.some.inj hp
    exact ⟨by decide, by decide⟩
  · unfold ControlWord; decide
  · unfold ControlWord; decide

/-- The steps of a frequency word: 4, 5 (discarded), the current one, and a rise. -/
theorem wit_frequency : bits (4 * 65536) 18 16 ≤ 4 ∧ 4 < bits (5 * 65536) 18 16 ∧ bits (2 * 65536) 18 16 = (sK.die 0).step ∧
    (sK.die 0).step < bits (3 * 65536) 18 16 ∧ (sK.die 0).held = false ∧ (sK.die 0).change = .none ∧ Issues sK (.snap 2) (xK (.snap 2)) := by
  refine ⟨?_, ?_, ?_, ?_, rfl, rfl, ⟨rfl, rfl, rfl⟩⟩ <;> decide

/-- The first die of a firing latches, and the last, n dies having latched before it; and the end of a `snap`. -/
def sSn (n : Nat) : State :=
  { bench (thK.wait (.snap 2) none .inFlight [1]) 0 with
    pkg := { Pkg.reset with firing := true, snapWait := [(0, 0)] }, args := [n]
    dies := (upFrom 0 n).map (fun d => (d, { Die.reset with latched := 1 })) }
def sSe : State := { sSn 4 with pkg := { Pkg.reset with snapshot := 1 }, args := [0, 0] }

theorem wit_snap : ∃ x, (sSn 3).args = [3] ∧ (sSn 3).pkg.firing = true ∧
    (∀ e, e < 4 → ((onDie (sSn 3) 3 (fun x => { x with latched := 1 })).die e).latched = 1) ∧
    (∃ e, e < 4 ∧ ((onDie (sSn 0) 0 (fun x => { x with latched := 1 })).die e).latched ≠ 1) ∧
    sSe.opCtx? 0 0 = some (x, [1]) ∧ sSe.args = [x.c, x.sl] ∧ 1 ≤ sSe.pkg.snapshot ∧ x.i = .snap 2 ∧ Dest x 2 isAny u64 ∧
    PerLane u64.lanes [1] (fun l v => Gives x u64 (1 : Nat) l v) :=
  ⟨_, rfl, rfl, by decide, ⟨1, by decide⟩, rfl, rfl, by decide, rfl, ⟨rfl, rfl⟩, rfl, fun l h => by obtain rfl : l = 0 := Nat.lt_one_iff.mp h; rfl⟩

theorem wit_halted : HaltedCore { sK with parts := [(0, { partL with halted := true })], args := [0, 0] } 0 ∧ ¬HaltedCore { sK with args := [0, 0] } 0 := by
  refine ⟨⟨0, _, rfl, rfl, rfl⟩, ?_⟩
  rintro ⟨n, p, h, hp, hh⟩
  obtain rfl : 0 = n := Option.some.inj h
  obtain rfl : partL = p := Option.some.inj hp
  exact absurd hh (by decide)


/-! ### The matrix engine -/

/-- A machine whose n0 and n1 are the operands of a matrix instruction; slots 0 and 12 to 15 of its core are in use. -/
def thMm (a b : Nat) : Thread :=
  { th0 with names := [name 0 u64 0 [a], name 1 u64 1 [b], name 2 (desc .sgn 64 64 .wrap) 2 (List.replicate 64 0),
      name 3 (desc .f32 32 16 .wrap) 10 (List.replicate 16 0x3F800000), name 4 (desc .f32 32 16 .wrap) 11 (0x3F800000 :: List.replicate 15 0)] }
def used : WSlot := { image := [], inUse := true, adr := 0, len := 64 }
def coreQ (th : Thread) : Core := { Core.reset with threads := [(0, th)], wbuf := [(0, used), (12, used), (13, used), (14, used), (15, used)] }
def sMma (a b : Nat) : State := { bench th0 0 with cores := [(0, coreQ (thMm a b))] }
def xMma (a b : Nat) (i : Instr) : Ctx := ctx (sMma a b) (thMm a b) i

theorem wit_mma_operands : Issues (sMma 0x40 0) (.mma 0 1 63 1) (xMma 0x40 0 (.mma 0 1 63 1)) ∧ Operand (xMma 0x40 0 (.mma 0 1 63 1)) 0 isInt u64 ∧
    Operand (xMma 0x40 0 (.mma 0 1 63 1)) 1 isInt u64 ∧ Issues (sMma 0x40 0) (.mmas 0 1 0 0) (xMma 0x40 0 (.mmas 0 1 0 0)) :=
  ⟨⟨rfl, rfl, rfl⟩, ⟨rfl, rfl, rfl⟩, ⟨rfl, rfl, rfl⟩, ⟨rfl, rfl, rfl⟩⟩

/-- A descriptor's pairs 7 and 8, the planes 2 to 8 of pair 1, bit 32 and bit 33. -/
theorem wit_mma_descriptors : badDesc (7 * 64) false = false ∧ badDesc (8 * 64) false = true ∧ badDesc (64 + 2 * 1024) false = false ∧
    badDesc (64 + 8 * 1024) false = false ∧ badDesc (64 + 1024) false = true ∧ badDesc (64 + 9 * 1024) false = true ∧ badDesc (2 ^ 32) false = true ∧
    badDesc (2 ^ 32) true = false ∧ badDesc (2 ^ 33) false = true := by decide

/-- Tile 36 is the last that 8 by 32 fits from; with fusion 3 the last tile is 96 rows down, and slot 12 the last. -/
theorem wit_mma_checks : (0x48 : Nat) % 32 ≠ 0 ∧
    (let m := mmaOf 0x40 0 0 124 false true; m.row0 + m.rows ≤ 128 ∧ m.col0 + m.cols ≤ 64) ∧
    (let m := mmaOf 0x40 0 0 125 false true; ¬(m.row0 + m.rows ≤ 128 ∧ m.col0 + m.cols ≤ 64)) ∧
    (let m := mmaOf 0x40 (0x30 + 12) 0 103 false true; (m.row0 + m.rows ≤ 128 ∧ m.col0 + m.cols ≤ 64) ∧ m.fusion = 3 ∧ m.slot + 3 ≤ 15 ∧ m.slots = [12, 13, 14, 15]) ∧
    (let m := mmaOf 0x40 (0x30 + 12) 0 104 false true; ¬(m.row0 + m.rows ≤ 128 ∧ m.col0 + m.cols ≤ 64)) ∧
    (let m := mmaOf 0x40 (0x30 + 13) 0 0 false true; (m.row0 + m.rows ≤ 128 ∧ m.col0 + m.cols ≤ 64) ∧ m.fusion = 3 ∧ 15 < m.slot + 3) := by decide

/-- The A rows end at the last byte of the run; slot 0 and slots 12 to 15 are in use, slots 1 to 11 are not. -/
theorem wit_mma_rows : (let m := mmaOf 0x1FFE00 0x20000 64 124 false true;
      (∀ r, r < m.rows → (xMma 0x1FFE00 0x20000 (.mma 0 1 124 1)).inRun (m.rowAddr r) m.kext = true) ∧
      (∀ n ∈ m.slots, ((xMma 0x1FFE00 0x20000 (.mma 0 1 124 1)).k.wslot n).inUse = true)) ∧
    (let m := mmaOf 0x40 (0x30 + 11) 0 103 false true;
      (∀ r, r < m.rows → (xMma 0x40 (0x30 + 11) (.mma 0 1 103 1)).inRun (m.rowAddr r) m.kext = true) ∧ m.slots = [] ++ 11 :: [12, 13, 14] ∧
        ((xMma 0x40 (0x30 + 11) (.mma 0 1 103 1)).k.wslot 11).inUse = false) ∧
    (let m := mmaOf 0x40 (0x30 + 12) 0 103 false true;
      (∀ r, r < m.rows → (xMma 0x40 (0x30 + 12) (.mma 0 1 103 1)).inRun (m.rowAddr r) m.kext = true) ∧
        ∀ n ∈ m.slots, ((xMma 0x40 (0x30 + 12) (.mma 0 1 103 1)).k.wslot n).inUse = true) := by decide

/-- A thread alone on a core whose histories are empty races with nothing. -/
theorem clear_mma (a b : Nat) (i : Instr) (rs ws : List Loc) (hr : ∀ l ∈ rs, (xMma a b i).race l false false = none)
    (hw : ∀ l ∈ ws, (xMma a b i).race l true false = none) : Clear (xMma a b i) rs ws := .inr ⟨hr, hw⟩

theorem wit_mma_clear : Clear (xMma 0x40 0 (.mma 0 1 124 1)) ((xMma 0x40 0 (.mma 0 1 124 1)).rowGranules (mmaOf 0x40 0 0 124 false true))
    ((mmaOf 0x40 0 0 124 false true).tiles.map .tile) := clear_mma _ _ _ _ _ (by decide) (by decide)

theorem wit_mma_loads : Issues (sMma 0x40 32768) (.mldb 0 1 15) (xMma 0x40 32768 (.mldb 0 1 15)) ∧ Operand (xMma 0x40 32768 (.mldb 0 1 15)) 0 isInt u64 ∧
    (xMma 0x40 32768 (.mldb 0 1 15)).inRun 0x40 32768 = true ∧ 32768 ≠ 0 ∧ 32768 % 64 = 0 ∧ ¬32768 % 64 ≠ 0 ∧ (0x44 : Nat) % 64 ≠ 0 ∧
    (4096 % 64 = 0 ∧ 4096 ≤ 4096) ∧ 4096 < 4160 ∧ 32768 < 32832 ∧
    Clear (xMma 0x40 64 (.mldm 0 1 3)) ((granules ((xMma 0x40 64 (.mldm 0 1 3)).runBase + 0x40) 64).map .gran) [] :=
  ⟨⟨rfl, rfl, rfl⟩, ⟨rfl, rfl, rfl⟩, by decide, by decide, by decide, by decide, by decide, by decide, by decide, by decide,
    clear_mma _ _ _ _ _ (by decide) (by decide)⟩

theorem wit_tiles : Issues (sMma 0 0) (.mzero 127) (xMma 0 0 (.mzero 127)) ∧ Clear (xMma 0 0 (.mzero 127)) [] [.tile 127] ∧
    Issues (sMma 0 0) (.maccrd 2 127) (xMma 0 0 (.maccrd 2 127)) ∧ Dest (xMma 0 0 (.maccrd 2 127)) 2 isAny (desc .sgn 64 64 .wrap) ∧
    tileName (desc .sgn 64 64 .wrap) = true ∧ Clear (xMma 0 0 (.maccrd 2 127)) [.tile 127] [] ∧
    Issues (sMma 0 0) (.maccwr 2 127) (xMma 0 0 (.maccwr 2 127)) ∧ Operand (xMma 0 0 (.maccwr 2 127)) 2 isAny (desc .sgn 64 64 .wrap) ∧
    Dest (xMma 0 0 (.maccrd 0 127)) 0 isAny u64 ∧ Operand (xMma 0 0 (.maccwr 0 127)) 0 isAny u64 ∧ tileName u64 = false :=
  ⟨⟨rfl, rfl, rfl⟩, clear_mma _ _ _ _ _ (by decide) (by decide), ⟨rfl, rfl, rfl⟩, ⟨rfl, rfl⟩, rfl, clear_mma _ _ _ _ _ (by decide) (by decide),
    ⟨rfl, rfl, rfl⟩, ⟨rfl, rfl, rfl⟩, ⟨rfl, rfl⟩, ⟨rfl, rfl, rfl⟩, rfl⟩

theorem wit_scales : Issues (sMma 0 0) (.scacc 3 127 126) (xMma 0 0 (.scacc 3 127 126)) ∧ Operand (xMma 0 0 (.scacc 3 127 126)) 3 isAny (desc .f32 32 16 .wrap) ∧
    (∀ j, j < 16 → badScale fmtF32 ((val (xMma 0 0 (.scacc 3 127 126)) 3).getD j 0) = false) ∧ Clear (xMma 0 0 (.scacc 3 127 126)) [.tile 126] [.tile 127] ∧
    ((∀ i, i < 1 → badScale fmtF32 ((val (xMma 0 0 (.scacc 4 127 127)) 4).getD i 0) = false) ∧
      badScale fmtF32 ((val (xMma 0 0 (.scacc 4 127 127)) 4).getD 1 0) = true) :=
  ⟨⟨rfl, rfl, rfl⟩, ⟨rfl, rfl, rfl⟩, by decide, clear_mma _ _ _ _ _ (by decide) (by decide), by decide⟩

/-- Slot 0 waits for its core's engine, at whose head its instruction stands. -/
def sEng (i : Instr) (args : List Nat) (started : Bool) : State :=
  let th := (thMm 0x40 64).wait i none .out args
  { sMma 0x40 64 with
    cores := [(0, { coreQ th with matrixQ := [{ slot := 0, op := { instr := i, pc := th.pc, hint := none, args := args }, started := started, retried := false }] })]
    cur := none, args := [0] }
def xEng (i : Instr) (args : List Nat) : Ctx := ctx (sEng i args true) ((thMm 0x40 64).wait i none .out args) i

theorem engaged (i : Instr) (args : List Nat) (h : (sEng i args true).opCtx? 0 0 = some (xEng i args, args))
    (ha : (xEng i args).accBad ((xEng i args).operands args) = none ∧ (xEng i args).fetchBad ((xEng i args).operands args) = none)
    (hf : (xEng i args).loadBad args = none) : Engaged (sEng i args true) (xEng i args) args := ⟨rfl, ⟨_, _, rfl, rfl, rfl⟩, h, ha, hf⟩

theorem wit_engaged : (∃ m, Engaged (sEng (.mma 0 1 0 1) [0x40, 0, 0] true) (xEng (.mma 0 1 0 1) [0x40, 0, 0]) [0x40, 0, 0] ∧
      (xEng (.mma 0 1 0 1) [0x40, 0, 0]).mma? [0x40, 0, 0] = some m) ∧
    (∃ m, Engaged (sEng (.mmas 0 1 0 0) [0x40, 2 ^ 32, 0] true) (xEng (.mmas 0 1 0 0) [0x40, 2 ^ 32, 0]) [0x40, 2 ^ 32, 0] ∧
      (xEng (.mmas 0 1 0 0) [0x40, 2 ^ 32, 0]).mma? [0x40, 2 ^ 32, 0] = some m) ∧
    Engaged (sEng (.mzero 127) [] true) (xEng (.mzero 127) []) [] ∧ Engaged (sEng (.maccrd 2 127) [] true) (xEng (.maccrd 2 127) []) [] ∧
    Engaged (sEng (.maccwr 2 127) (List.replicate 64 1) true) (xEng (.maccwr 2 127) (List.replicate 64 1)) (List.replicate 64 1) ∧
    Engaged (sEng (.scacc 3 127 126) (1 :: List.replicate 16 0x3F800000) true) (xEng (.scacc 3 127 126) (1 :: List.replicate 16 0x3F800000))
      (1 :: List.replicate 16 0x3F800000) ∧
    Engaged (sEng (.mldb 0 1 15) [0x40, 64] true) (xEng (.mldb 0 1 15) [0x40, 64]) [0x40, 64] ∧
    Engaged (sEng (.mldm 0 1 3) [0x40, 64] true) (xEng (.mldm 0 1 3) [0x40, 64]) [0x40, 64] :=
  ⟨⟨_, engaged _ _ rfl ⟨by decide, by decide⟩ (by decide), rfl⟩, ⟨_, engaged _ _ rfl ⟨by decide, by decide⟩ (by decide), rfl⟩,
    engaged _ _ rfl ⟨by decide, by decide⟩ (by decide), engaged _ _ rfl ⟨by decide, by decide⟩ (by decide),
    engaged _ _ rfl ⟨by decide, by decide⟩ (by decide), engaged _ _ rfl ⟨by decide, by decide⟩ (by decide),
    engaged _ _ rfl ⟨by decide, by decide⟩ (by decide), engaged _ _ rfl ⟨by decide, by decide⟩ (by decide)⟩

theorem wit_engine_starts : ∃ e r x, (sEng (.mldb 0 1 15) [0x40, 64] false).args = [0] ∧ ((sEng (.mldb 0 1 15) [0x40, 64] false).core 0).matrixQ = e :: r ∧
    e.started = false ∧ (sEng (.mldb 0 1 15) [0x40, 64] false).opCtx? 0 e.slot = some (x, [0x40, 64]) ∧ x.loadBad [0x40, 64] = none :=
  ⟨_, _, _, rfl, rfl, rfl, rfl, by decide⟩

/-- Word 0 of the slot that `mma` reads has an error that cannot be corrected. -/
def sSoft : State := { sEng (.mma 0 1 0 1) [0x40, 0, 0] true with bad := [(3, 0, 0)] }

theorem wit_soft_error : ∃ e r x v, sSoft.args = [0] ∧ (sSoft.core 0).matrixQ = e :: r ∧ e.started = true ∧ sSoft.opCtx? 0 e.slot = some (x, [0x40, 0, 0]) ∧
    x.accBad (x.operands [0x40, 0, 0]) = none ∧ x.fetchBad (x.operands [0x40, 0, 0]) = some v ∧ e.retried = false :=
  ⟨_, _, _, _, rfl, rfl, rfl, rfl, by decide, rfl, rfl⟩

/-- The two infinities meet a NaN, one sign stays, and the last tile's last element is row 127, column 63. -/
theorem wit_sums : IsFin (.num true 3 4) ∧ FVal.inf true ∈ [FVal.inf true, .inf false] ∧ (FVal.nan ∉ [FVal.inf true] ∧ FVal.inf (!true) ∉ [FVal.inf true]) ∧
    (FVal.num true 3 4).isZero = false ∧ (127 / 8 = 127 / 8 ∧ 63 / 8 = 127 % 8) ∧ (List.replicate 64 0).length = 64 ∧
    ((mmaOf 0 0 0 124 false true).col0 + (mmaOf 0 0 0 124 false true).cols ≤ 64) :=
  ⟨⟨_, _, _, rfl, by decide⟩, by decide, by decide, rfl, by decide, rfl, by decide⟩

/-! ### The courier -/

/-- A card of 64 bytes in the local store of core 0, at 0x40; an expansion's ring block at 0x2000, its ring of one slot at 0x4000. -/
def locOf (card : Nat) : Mem := ((upFrom 0 64).zip (leBytes card 64)).foldl (fun m p => Mem.set m (0x40 + p.1) p.2) [(0x2001, 0x40), (0x2004, 1)]
def cardOf (src dst len cw cval : Nat) : Nat := src + dst * 2 ^ 64 + len * 2 ^ 128 + cw * 2 ^ 160 + cval * 2 ^ 192
def cpy0 : Nat := cardOf 0x1000 0x3000 256 0x1800 1
/-- One row of 64 half floats, 4 planes, the scale at 0x3100. -/
def qcpy0 : Nat := cardOf 0x1000 0x3000 128 0x1800 1 + (0x40 + (64 + 2 ^ 32) * 2 ^ 32 + 0x3100 * 2 ^ 96) * 2 ^ 144 * 2 ^ 144
def zcpy0 : Nat := cardOf 0x1000 0x30000000 256 0x1800 1 + 2 * 2 ^ 136 * 2 ^ 136
def xcpy0 : Nat := cardOf 0x10000000 0x2000 256 0x1800 1 + 2 ^ 136 * 2 ^ 136
def portGrant : Tab Nat := [(tableAt 0 0 3 0 + 32, 0x8070000000000000), (tableAt 0 0 3 0 + 40, 0xFFF0000)]
def sC (card : Nat) : State := { sM with loc := locOf card, acl := portGrant.foldl (fun t e => put t e.1 e.2) sM.acl }
def xC (card : Nat) (i : Instr) : Ctx := ctx (sC card) thM i

theorem cardBuffer (card : Nat) (i : Instr) (h : (xC card i).runRace 0x40 64 false false = .ok ()) : CardBuffer (xC card i) 0 0x40 :=
  ⟨⟨u64, ⟨rfl, rfl, rfl⟩, rfl⟩, by decide, rfl, h, rfl⟩

/-- The last buffer that fits the run, and the first that does not. -/
theorem wit_buffer_ends : (xC cpy0 (.cpy 0)).inRun 0x1FFFC0 64 = true ∧ (xC cpy0 (.cpy 0)).inRun 0x200000 64 = false := by decide

theorem wit_card_buffers : CardBuffer (xC cpy0 (.cpy 0)) 0 0x40 ∧ CardBuffer (xC qcpy0 (.qcpy 0)) 0 0x40 ∧ CardBuffer (xC zcpy0 (.zcpy 0)) 0 0x40 ∧
    CardBuffer (xC xcpy0 (.xcpy 0)) 0 0x40 ∧ Issues (sC cpy0) (.cpy 0) (xC cpy0 (.cpy 0)) ∧ Issues (sC qcpy0) (.qcpy 0) (xC qcpy0 (.qcpy 0)) ∧
    Issues (sC zcpy0) (.zcpy 0) (xC zcpy0 (.zcpy 0)) ∧ Issues (sC xcpy0) (.xcpy 0) (xC xcpy0 (.xcpy 0)) :=
  ⟨cardBuffer _ _ rfl, cardBuffer _ _ rfl, cardBuffer _ _ rfl, cardBuffer _ _ rfl, ⟨rfl, rfl, rfl⟩, ⟨rfl, rfl, rfl⟩, ⟨rfl, rfl, rfl⟩, ⟨rfl, rfl, rfl⟩⟩

def cardC (kind w : Nat) (i : Instr) : Card := Card.ofNat kind ((xC w i).locNum 0x40 64)

theorem wit_card_fields : ((cardC 0 cpy0 (.cpy 0)).fieldFails cpy0 = [] ∧ (cardC 0 cpy0 (.cpy 0)).relationFails (0, 0) = []) ∧
    ((cardC 1 qcpy0 (.qcpy 0)).fieldFails qcpy0 = [] ∧ (cardC 1 qcpy0 (.qcpy 0)).relationFails (0, 0) = []) ∧
    ((cardC 2 zcpy0 (.zcpy 0)).fieldFails zcpy0 = [] ∧ (cardC 2 zcpy0 (.zcpy 0)).relationFails (0, 0) = []) ∧
    ((cardC 3 xcpy0 (.xcpy 0)).fieldFails xcpy0 = [] ∧ (xC xcpy0 (.xcpy 0)).ringOf (cardC 3 xcpy0 (.xcpy 0)) = (0x4000, 1) ∧
      (cardC 3 xcpy0 (.xcpy 0)).relationFails (0x4000, 1) = []) := by decide

/-- A length that is no multiple of 32, a value with its top bit set, and a completion word within the granule of what is written. -/
theorem wit_card_fails : (Card.ofNat 0 (cardOf 0x1000 0x3000 255 0x1800 1)).fieldFails (cardOf 0x1000 0x3000 255 0x1800 1) = 16 :: [] ∧
    (Card.ofNat 0 (cardOf 0x1000 0x3000 256 0x1800 (2 ^ 63))).fieldFails (cardOf 0x1000 0x3000 256 0x1800 (2 ^ 63)) = 24 :: [] ∧
    (Card.ofNat 0 (cardOf 0x1000 0x3000 256 0x1804 (2 ^ 63))).fieldFails (cardOf 0x1000 0x3000 256 0x1804 (2 ^ 63)) = 20 :: [24] ∧
    (Card.ofNat 0 (cardOf 0x1000 0x3000 256 0x30F8 1)).relationFails (0, 0) = 20 :: [] ∧
    (Card.ofNat 0 (cardOf 0x1000 0x3000 256 0x3100 1)).relationFails (0, 0) = [] := by decide

set_option maxRecDepth 60000 in
theorem wit_card_ranges : CardRanges (xC cpy0 (.cpy 0)) (cardC 0 cpy0 (.cpy 0)) ∧ (xC cpy0 (.cpy 0)).drained = true ∧
    CardRanges (xC zcpy0 (.zcpy 0)) (cardC 2 zcpy0 (.zcpy 0)) ∧ CardRanges (xC xcpy0 (.xcpy 0)) (cardC 3 xcpy0 (.xcpy 0)) := by
  refine ⟨⟨?_, by decide, by decide, ?_, rfl⟩, rfl, ⟨?_, by decide, by decide, ?_, rfl⟩, ⟨?_, by decide, by decide, ?_, rfl⟩⟩ <;>
  · intro r hr
    fin_cases hr <;> first | exact ⟨_, rfl⟩ | rfl

/-- Slot 0 offers its card. -/
def sOf (card : Nat) (i : Instr) (port : List Nat) : State :=
  { sC card with cores := [(0, { Core.reset with threads := [(0, thM.wait i none .inFlight [card])], portQ := port })], cur := none, args := [0, 0] }
def xOf (card : Nat) (i : Instr) (port : List Nat) : Ctx := ctx (sOf card i port) (thM.wait i none .inFlight [card]) i

/-- The port has room for one more card, and has none. -/
theorem wit_offers : Offers (sOf cpy0 (.cpy 0) [1, 2, 3, 4, 5, 6, 7]) (xOf cpy0 (.cpy 0) [1, 2, 3, 4, 5, 6, 7]) 0 cpy0 ∧
    (∀ n p, (xOf cpy0 (.cpy 0) [1, 2, 3, 4, 5, 6, 7]).part = some n → (sOf cpy0 (.cpy 0) [1, 2, 3, 4, 5, 6, 7]).part? n = some p → p.halted = false) ∧
    (∀ r ∈ (Card.ofNat 0 cpy0).ranges ((xOf cpy0 (.cpy 0) [1, 2, 3, 4, 5, 6, 7]).ringOf (Card.ofNat 0 cpy0)),
      ∃ u, (xOf cpy0 (.cpy 0) [1, 2, 3, 4, 5, 6, 7]).cardRun r = .ok u) ∧ [1, 2, 3, 4, 5, 6, 7].length < 8 ∧
    Offers (sOf cpy0 (.cpy 0) [1, 2, 3, 4, 5, 6, 7, 8]) (xOf cpy0 (.cpy 0) [1, 2, 3, 4, 5, 6, 7, 8]) 0 cpy0 ∧ 8 ≤ [1, 2, 3, 4, 5, 6, 7, 8].length := by
  refine ⟨⟨rfl, rfl, rfl⟩, ?_, ?_, by decide, ⟨rfl, rfl, rfl⟩, by decide⟩
  · intro n p hn hp
    obtain rfl : 0 = n := Option.some.inj hn
    obtain rfl : part0 0 = p := Option.some.inj hp
    rfl
  · intro r hr
    fin_cases hr <;> exact ⟨_, rfl⟩

def job0 (kind state : Nat) : Job :=
  { core := 0, slot := 0, task := 1, agent := 1, tag := 1, kind := kind, src := 0x1000, dst := 0x3000, len := 256, cw := 0x1800, cval := 1, ver := 0
    flags := 0, p0 := 0, p1 := 0, p2 := 0, reads := [⟨false, 0x1000, 0x1000, 256⟩], writes := [⟨false, 0x3000, 0x3000, 256⟩], state := state
    code := 0, zblk := false, tiny := false, rawc := false, cancel := false, taken := 0, given := 0, delivered := 0, firstSlot := 0
    failed := none, written := [], after := none, vc := [] }
def sJb (j : Job) (args : List Nat) : State :=
  { sC cpy0 with jobs := [(1, j)], jobCount := 1, cur := none, args := args
                 cores := [(0, { Core.reset with threads := [(0, thM)], portQ := [1], recent := [1] })] }

theorem quietJ (s : State) (h : s.part? 0 = some (part0 0)) : Quiet s (some 0) := by
  intro m p hm hp
  obtain rfl : 0 = m := Option.some.inj hm
  obtain rfl : part0 0 = p := Option.some.inj (h.symm.trans hp)
  exact ⟨by decide, by decide⟩

theorem quietC (s : State) (h : s.parts = [(0, part0 0)]) : Quiet s (s.partOfCore 0) := by
  have e : s.partOfCore 0 = some 0 := by unfold State.partOfCore State.partOfCluster; rw [h]; rfl
  rw [e]
  exact quietJ s (by unfold State.part?; rw [h]; rfl)

theorem wit_job_starts : (sJb (job0 0 1) [0]).running 0 < 4 ∧
    (sJb (job0 0 1) [0]).jobs.find? (fun j => decide (clusterOf j.2.core = 0) && (sJb (job0 0 1) [0]).eligible j.1 j.2) = some (1, job0 0 1) ∧
    (sJb (job0 0 2) [0]).jobs.find? (fun j => decide (clusterOf j.2.core = 0) && (sJb (job0 0 2) [0]).eligible j.1 j.2) = none ∧
    (∀ q ∈ (sJb (job0 0 1) [0]).jobs, Quiet (sJb (job0 0 1) [0]) ((sJb (job0 0 1) [0]).jobPart q.2)) := by
  refine ⟨by decide, rfl, rfl, ?_⟩
  intro q hq
  obtain rfl : q = (1, job0 0 1) := List.mem_singleton.mp hq
  exact quietJ _ rfl

theorem wit_copy_job : CopyJob (sJb (job0 0 2) [1]) 1 (job0 0 2) ⟨false, 0x1000, 0x1000, 256⟩ ⟨false, 0x3000, 0x3000, 256⟩ :=
  ⟨rfl, rfl, by decide, ⟨rfl, rfl⟩, ⟨rfl, rfl, quietJ _ rfl, quietJ _ rfl⟩, fun _ _ _ _ => rfl, .inr (.inl (by decide)), .inr (.inl (by decide)), by decide, by decide⟩

theorem wit_job_cancelled : look (sJb { job0 0 1 with cancel := true } [1]).jobs 1 = some { job0 0 1 with cancel := true } ∧
    (sJb { job0 0 1 with cancel := true } [1]).jobHalted { job0 0 1 with cancel := true } = false ∧
    Quiet (sJb { job0 0 1 with cancel := true } [1]) ((sJb { job0 0 1 with cancel := true } [1]).jobPart { job0 0 1 with cancel := true }) ∧
    Quiet (sJb { job0 0 1 with cancel := true } [1]) ((sJb { job0 0 1 with cancel := true } [1]).partOfCore 0) ∧
    (sJb { job0 0 1 with cancel := true } [1]).loc.wf ∧ baseOf (sJb { job0 0 1 with cancel := true } [1]) { job0 0 1 with cancel := true } + 0x1800 + 8 ≤ 2097152 :=
  ⟨rfl, rfl, quietJ _ rfl, quietJ _ rfl, by decide, by decide⟩

theorem wit_running_cancelled : (sJb { job0 0 2 with cancel := true } [1, 0]).args.headD 0 = 1 ∧
    look (sJb { job0 0 2 with cancel := true } [1, 0]).jobs 1 = some { job0 0 2 with cancel := true } ∧
    (sJb { job0 0 2 with cancel := true } [1, 0]).jobHalted { job0 0 2 with cancel := true } = false ∧
    (sJb { job0 0 2 with cancel := true } [1, 0]).jobCutOff { job0 0 2 with cancel := true } = false ∧
    Quiet (sJb { job0 0 2 with cancel := true } [1, 0]) ((sJb { job0 0 2 with cancel := true } [1, 0]).jobPart { job0 0 2 with cancel := true }) ∧
    Quiet (sJb { job0 0 2 with cancel := true } [1, 0]) ((sJb { job0 0 2 with cancel := true } [1, 0]).partOfCore 0) :=
  ⟨rfl, rfl, rfl, rfl, quietJ _ rfl, quietJ _ rfl⟩

/-- The first word of an expansion's ring block has an error. -/
def sCe : State := { sC xcpy0 with bad := [(2, 0, 1024)] }

theorem wit_ring_error : ∃ v, Issues sCe (.xcpy 0) (ctx sCe thM (.xcpy 0)) ∧ CardBuffer (ctx sCe thM (.xcpy 0)) 0 0x40 ∧
    (ctx sCe thM (.xcpy 0)).locNum 0x40 64 = xcpy0 ∧ (Card.ofNat 3 xcpy0).fieldFails xcpy0 = [] ∧
    (ctx sCe thM (.xcpy 0)).inRun (Card.ofNat 3 xcpy0).dst 64 = true ∧
    (ctx sCe thM (.xcpy 0)).localBad ((ctx sCe thM (.xcpy 0)).runBase + (Card.ofNat 3 xcpy0).dst) 8 = some v ∧
    (xC xcpy0 (.xcpy 0)).ringEcc (Card.ofNat 3 xcpy0) = .ok () :=
  ⟨_, ⟨rfl, rfl, rfl⟩, ⟨⟨u64, ⟨rfl, rfl, rfl⟩, rfl⟩, by decide, rfl, rfl, rfl⟩, by decide, by decide, by decide, rfl, rfl⟩

/-- n1 holds tag 3, which is of no job; under tag 1 stand a queued and an ended job. -/
def sJt (j : Job) (v : Nat) : State :=
  let th : Thread := { thM with names := [name 0 u64 0 [v], name 2 u64 2 [0]] }
  { bench th 0 with jobs := [(1, j)], cores := [(0, { Core.reset with threads := [(0, th)], recent := [1] })] }
def xJt (j : Job) (v : Nat) (i : Instr) : Ctx := ctx (sJt j v) { thM with names := [name 0 u64 0 [v], name 2 u64 2 [0]] } i

theorem wit_job_words : Issues (sJt (job0 0 3) 1) (.jstat 2 0) (xJt (job0 0 3) 1 (.jstat 2 0)) ∧ Operand (xJt (job0 0 3) 1 (.jstat 2 0)) 0 isInt u64 ∧
    Dest (xJt (job0 0 3) 1 (.jstat 2 0)) 2 isInt u64 ∧ (xJt (job0 0 3) 1 (.jstat 2 0)).jobOf 1 = some (1, job0 0 3) ∧
    fitInt u64 ((1 * 2 ^ 48 + 3 * 2 ^ 40 : Nat) : Int) = some (1 * 2 ^ 48 + 3 * 2 ^ 40) ∧ Issues (sJt (job0 0 1) 1) (.jcancel 0) (xJt (job0 0 1) 1 (.jcancel 0)) ∧
    (xJt (job0 0 1) 1 (.jcancel 0)).jobOf 1 = some (1, job0 0 1) ∧ (xJt (job0 0 1) 3 (.jcancel 0)).jobOf 3 = none :=
  ⟨⟨rfl, rfl, rfl⟩, ⟨rfl, rfl, rfl⟩, ⟨rfl, rfl⟩, rfl, by decide, ⟨rfl, rfl, rfl⟩, rfl, rfl⟩

/-! A buffer of one raw chunk of 64 bytes, in the local store as a job's run: no page of it is marked comp, so reading its chunk fails
with code 8; and the same buffer in the comp page of entry 4. -/

def jobX (taken given delivered : Nat) (written : List Nat) : Job :=
  { job0 3 2 with src := 0x40000000, dst := 0x2000, reads := [⟨true, 0x40000000, 0x40000000, 4096⟩], writes := [⟨false, 0x4000, 0x4000, 32768⟩]
                  taken := taken, given := given, delivered := delivered, written := written }
/-- Raw length 8, one chunk, whose entry says 8 bytes at offset 128, kept raw. -/
def buffer0 : Mem :=
  [(0x40000000, 8), (0x40000008, 1), (0x40000040, 128), (0x40000044, 8), (0x40000047, 128), (0x40000080, 0x5A)]
def taskX (comp : Nat) : Machine.Task := { taskM with ext := [(4, range0 0 1 0x40000000 0 0x10000 [(0x40000000, comp)])] }
def sEx (j : Job) (permits comp : Nat) : State :=
  { sC cpy0 with jobs := [(1, j)], jobCount := 1, cur := none, args := [1], mem := buffer0, tasks := [(1, taskX comp)]
                 loc := [(0x2001, 0x40), (0x2004, 4)] ++ (if permits = 0 then [] else [(0x2008, BitVec.ofNat 8 permits)])
                 acl := (portGrant ++ grant 0x40000000).foldl (fun t e => put t e.1 e.2) [] }

theorem expands (t g d : Nat) (w : List Nat) (p c : Nat) (hl : (sEx (jobX t g d w) p c).loc.wf) (h0 : (sEx (jobX t g d w) p c).ringNum (jobX t g d w) 4 1 = 4)
    (h1 : (sEx (jobX t g d w) p c).ringNum (jobX t g d w) 5 3 = 0 ∧ (sEx (jobX t g d w) p c).ringNum (jobX t g d w) 28 36 = 0 ∧
      (sEx (jobX t g d w) p c).ringNum (jobX t g d w) 0 4 = 0x4000) (h2 : (sEx (jobX t g d w) p c).bufferChunks (jobX t g d w) = 1)
    (hb : (sEx (jobX t g d w) p c).ringBlock (jobX t g d w) + 64 ≤ 2097152) : Expands (sEx (jobX t g d w) p c) 1 (jobX t g d w) :=
  ⟨rfl, rfl, ⟨rfl, rfl, rfl, rfl⟩, ⟨rfl, rfl, quietJ _ rfl, quietC _ rfl⟩, ⟨by omega, by omega, h1.1, h1.2.1, by rw [h1.2.2]⟩, by rw [h2]; exact Nat.zero_le 1,
    (fun _ h => absurd h List.not_mem_nil), hl, (by decide : 0 < 512), hb⟩

/-- Nothing is taken yet, with no permit and with one; the chunk is taken, given its slot, written, delivered. -/
theorem wit_expands : (Expands (sEx (jobX 0 0 0 []) 0 4096) 1 (jobX 0 0 0 []) ∧ ¬MayTake (sEx (jobX 0 0 0 []) 0 4096) (jobX 0 0 0 []) ∧
      (jobX 0 0 0 []).lanes = [] ∧ (jobX 0 0 0 []).intact = 0 ∧ 0 ≠ (sEx (jobX 0 0 0 []) 0 4096).wanted (jobX 0 0 0 [])) ∧
    (Expands (sEx (jobX 0 0 0 []) 1 4096) 1 (jobX 0 0 0 []) ∧ MayTake (sEx (jobX 0 0 0 []) 1 4096) (jobX 0 0 0 [])) ∧
    Expands (sEx (jobX 1 0 0 []) 0 4096) 1 (jobX 1 0 0 []) ∧
    (Expands (sEx (jobX 1 1 0 []) 0 4096) 1 (jobX 1 1 0 []) ∧ (jobX 1 1 0 []).intact = 0 ∧ ¬MayTake (sEx (jobX 1 1 0 []) 0 4096) (jobX 1 1 0 []) ∧
      (sEx (jobX 1 1 0 []) 0 4096).nextLane 1 (jobX 1 1 0 []) = some 0) ∧
    (Expands (sEx (jobX 1 1 0 [0]) 0 4096) 1 (jobX 1 1 0 [0]) ∧ 0 < (jobX 1 1 0 [0]).intact) ∧
    (Expands (sEx (jobX 1 1 1 [0]) 0 4096) 1 (jobX 1 1 1 [0]) ∧ 1 = (sEx (jobX 1 1 1 [0]) 0 4096).wanted (jobX 1 1 1 [0])) := by
  refine ⟨⟨expands _ _ _ _ _ _ (by decide) rfl ⟨rfl, rfl, rfl⟩ rfl (by decide), ?_, rfl, rfl, by decide⟩,
    ⟨expands _ _ _ _ _ _ (by decide) rfl ⟨rfl, rfl, rfl⟩ rfl (by decide), ?_⟩, expands _ _ _ _ _ _ (by decide) rfl ⟨rfl, rfl, rfl⟩ rfl (by decide),
    ⟨expands _ _ _ _ _ _ (by decide) rfl ⟨rfl, rfl, rfl⟩ rfl (by decide), rfl, ?_, rfl⟩,
    ⟨expands _ _ _ _ _ _ (by decide) rfl ⟨rfl, rfl, rfl⟩ rfl (by decide), by decide⟩,
    ⟨expands _ _ _ _ _ _ (by decide) rfl ⟨rfl, rfl, rfl⟩ rfl (by decide), by decide⟩⟩ <;> (unfold MayTake; decide)

theorem wit_chunks : (sEx (jobX 1 1 0 []) 0 65536).expand (jobX 1 1 0 []) 0 = .ok [0x5A, 0, 0, 0, 0, 0, 0, 0] ∧ (sEx (jobX 1 1 0 []) 0 0).expand (jobX 1 1 0 []) 0 = .error 8 ∧
    (jobX 1 1 0 []).dst!.virt = false ∧ (jobX 1 1 0 []).dst!.phys + 8192 * 0 + 8192 ≤ 2097152 := by
  refine ⟨rfl, rfl, rfl, ?_⟩; decide

/-! A tile of one block of half floats: all zero, and with an infinity. -/

def jobQ : Job :=
  let c := Card.ofNat 1 qcpy0
  { job0 1 2 with src := c.src, dst := c.dst, len := c.len, cw := c.cw, cval := c.cval, flags := c.flags, p0 := c.p0, p1 := c.p1, p2 := c.p2
                  reads := [⟨false, 0x1000, 0x1000, 128⟩], writes := [⟨false, 0x3000, 0x3000, 64⟩, ⟨false, 0x3100, 0x3100, 4⟩] }
def sQj (inf : Bool) : State := { sJb jobQ [1] with loc := if inf then [(0x1001, 0x7C)] else [] }

theorem wit_quantises (inf : Bool) : QuantJob (sQj inf) 1 jobQ ⟨false, 0x3000, 0x3000, 64⟩ ⟨false, 0x3100, 0x3100, 4⟩ := by
  have hb : baseOf (sQj inf) jobQ = 0 := by cases inf <;> rfl
  have hw : (sQj inf).loc.wf := by cases inf <;> decide
  have hs : ∀ i, i < jobQ.unitCount → (sQj inf).quantFail jobQ jobQ.card i = none := by cases inf <;> decide
  exact ⟨⟨rfl, rfl, ⟨rfl, rfl⟩, ⟨rfl, rfl, quietJ _ rfl, quietJ _ rfl⟩, by cases inf <;> decide, hw, (by decide : 0 < 512), by rw [hb]; decide⟩, rfl, rfl, by decide, hs,
    ⟨⟨by decide, .inr (by rw [hb]; decide)⟩, ⟨by decide, .inr (by rw [hb]; decide)⟩⟩, by unfold Apart; decide⟩

theorem wit_blocks : FiniteBlock (sQj false) jobQ 0 ∧ ¬FiniteBlock (sQj true) jobQ 0 ∧ 0 < jobQ.unitCount := by
  refine ⟨fun v hv => ?_, fun h => ?_, by decide⟩
  · have e : ∀ v ∈ (sQj false).tile jobQ jobQ.card 0, (match v with | .num _ _ _ => true | _ => false) = true := by decide +kernel
    have hv := e v hv
    revert hv; cases v <;> simp
  · obtain ⟨a, b, c, e⟩ := h (.inf false) (by decide +kernel)
    cases e

/-! A copy of 32 bytes into a compressed buffer, in a comp page whose home slices all let the partition in. -/

def jobP : Job :=
  { job0 2 2 with dst := 0x40000000, len := 32, reads := [⟨false, 0x1000, 0x1000, 32⟩], writes := [⟨true, 0x40000000, 0x10000000, 8320⟩] }
def sPk : State :=
  { sJb jobP [1] with
    tasks := [(1, taskX 0x10000)], acl := (portGrant ++ (upFrom 0 24).flatMap (fun k => grant (k * 1024))).foldl (fun t e => put t e.1 e.2) [] }

theorem reaches (a : Nat) (h : a < 2 ^ 30) : sPk.mayReach 0 a permWr = true := by
  have g : ∀ k, k < 24 → sPk.grants (tableAt 0 0 0 k) 0 (some 0) permWr = true := by decide +kernel
  have hk : homeSlice a < 24 := by unfold homeSlice; omega
  have h1 : a / 2 ^ 46 = 0 := by omega
  have h2 : a % 2 ^ 46 = a := by omega
  have h3 : a / 2 ^ 40 = 0 := by omega
  have h4 : a / 2 ^ 30 = 0 := by omega
  have hd : memDie a = some 0 := by unfold memDie offsetOf; rw [h2, if_pos (by omega), h3]
  have hp : sPk.portLets 0 a permWr = true := by unfold State.portLets pkgOf; rw [h1]; rfl
  have ha : sPk.mayAccess 0 a permWr = true := by
    unfold State.mayAccess; rw [hp, hd]; unfold pkgOf offsetOf; rw [h1, h2, h4]; exact g _ hk
  unfold State.mayReach; rw [ha]; rfl

theorem wit_compresses : PackJob sPk 1 jobP ⟨false, 0x1000, 0x1000, 32⟩ ⟨true, 0x40000000, 0x10000000, 8320⟩ := by
  refine ⟨⟨rfl, rfl, ⟨rfl, rfl⟩, ⟨rfl, rfl, quietJ _ rfl, quietJ _ rfl⟩, by decide, by decide, by decide, by decide⟩, rfl, ⟨rfl, rfl⟩, by decide, ?_, ?_, ?_, .inl (by decide)⟩
  · exact fun _ _ _ _ => ⟨rfl, rfl⟩
  · intro off len h0 hl
    have hl : off + len ≤ 8320 := hl
    refine ⟨?_, ?_⟩
    · have e1 : (0x40000000 + off) / 65536 = 16384 := by omega
      have e2 : (0x40000000 + off + len + 65535) / 65536 - 16384 = 1 := by omega
      unfold State.compAll
      show (true && (upFrom ((0x40000000 + off) / 65536) ((0x40000000 + off + len + 65535) / 65536 - (0x40000000 + off) / 65536)).all _) = true
      rw [e1, e2]
      have e3 : max 1073741824 (0x40000000 + off) - 0x40000000 = off := by rw [Nat.max_eq_right (Nat.le_add_right _ _), Nat.add_sub_cancel_left]
      rw [show upFrom 16384 1 = [16384] from rfl]
      simp only [List.all_cons, List.all_nil, Bool.and_true, Bool.true_and, Nat.reduceMul, e3]
      show (overlaps 0x40000000 0x10000 (0x40000000 + off) 1 && (overlaps 0x40000000 0x10000 (0x40000000 + off) 1 || false) || false) = true
      have e4 : overlaps 0x40000000 0x10000 (0x40000000 + off) 1 = true := by
        unfold overlaps; simp only [Bool.and_eq_true, decide_eq_true_eq]; omega
      rw [e4]; rfl
    · have hr : sPk.mayReachRun 0 (0x10000000 + off) len permWr = true := by
        unfold State.mayReachRun
        rw [List.all_eq_true]
        intro b hb
        apply reaches
        unfold unitsOf at hb
        simp only [List.mem_cons, List.mem_map, mem_upFrom] at hb
        omega
      have hb : ∀ b, b < 2 ^ 30 → backed b = true := by
        intro b h
        have h2 : offsetOf b = b := by unfold offsetOf; omega
        unfold backed memDie; rw [h2, if_pos (by omega)]; rfl
      unfold State.writeFail
      show (if !(backed (0x10000000 + off) && backed (0x10000000 + off + len - 1)) then some 1
        else if !sPk.mayReachRun 0 (0x10000000 + off) len permWr then some 3 else none) = none
      rw [hb _ (by omega), hb _ (by omega), hr]; rfl
  · refine ⟨?_, .inl rfl⟩
    intro k hk
    have hk : k < 8320 := hk
    show backed (0x10000000 + k) = true
    have h2 : offsetOf (0x10000000 + k) = 0x10000000 + k := by unfold offsetOf; omega
    unfold backed memDie; rw [h2, if_pos (by omega)]; rfl

/-! ### The host and the package -/

theorem backed_low (a : Nat) (h : a < 2 ^ 39) : backed a = true := by
  have h1 : a % 2 ^ 46 = a := Nat.mod_eq_of_lt (by omega)
  have h2 : a % 2 ^ 40 = a := Nat.mod_eq_of_lt (by omega)
  have h3 : memDie a = some (a / 2 ^ 40) := by
    simp only [memDie, offsetOf, h1, h2]
    exact if_pos ⟨by omega, by omega⟩
  simp [backed, h3]

/-- A package that has booted, with the arguments of a step. -/
def sI (args : List Nat) : State := { State.reset with args := args, pkg := { Pkg.reset with stage := 3 } }

theorem noHalt0 (s : State) (h : s.cores = []) (d : Nat) : NoHalt s d := by
  intro c th _ hth
  have e : s.core c = Core.reset := by unfold State.core; rw [h]; rfl
  unfold State.thread? at hth
  rw [e] at hth
  cases hth

theorem grants_reset (s : State) (h : s.acl = []) (b m p : Nat) (g : Option Nat) : s.grants b m g p = State.reset.grants b m g p := by
  unfold State.grants State.tableEntry State.tableWord
  rw [h]
  rfl

theorem grants_page : State.reset.grants (hostTable 0) (fnMaster 0 0) none permWr = true := by decide

theorem reachesI (args : List Nat) : Reaches (sI (0 :: args)) 0 := ⟨rfl, rfl, (grants_reset _ rfl _ _ _ _).trans grants_page⟩

/-- Function 1 has an entry in the page's table that grants wr. -/
def sF1 (args : List Nat) : State := { sI args with acl := [(hostTable 0 + 32, 2 ^ 63 + 2 * 2 ^ 52 + 2 ^ 14 + 1), (hostTable 0 + 40, 0xFFFF0000)] }

theorem wit_page : ({ sI [0, 1] with host := { HostSt.reset with linkUp := false } } : State).host.linkUp = false ∧ Instr.powerLimitWrite ∈ pageSteps ∧
    (sI [1, 1]).host.linkUp = true ∧ (sI [1, 1]).grants (hostTable (sI [1, 1]).pkg.num) (fnMaster (sI [1, 1]).pkg.num ((sI [1, 1]).args.headD 0)) none permWr = false ∧
    Reaches (sF1 [1, 500]) 1 ∧ Reaches (sI [0, 500]) 0 ∧ (300 ≤ 65836 % 65536 ∧ 65836 % 65536 ≤ 2200) ∧ (300 ≤ 2200 % 65536 ∧ 2200 % 65536 ≤ 2200) ∧
    299 % 65536 < 300 ∧ 2200 < 2201 % 65536 ∧ (sI [0, 500]).pkg.bootFailed = false :=
  ⟨rfl, by decide, rfl, rfl, ⟨rfl, rfl, rfl⟩, reachesI _, by decide, by decide, by decide, by decide, rfl⟩

def sFifo (args : List Nat) (l : List (Nat × Nat)) : State := { sI args with dies := [(0, { Die.reset with fifo := l })] }

/-- A FIFO with one place left, and a full one. -/
theorem wit_rings_enter : Reaches (sFifo [0, 0, 5] (List.replicate 63 (0, 0))) 0 ∧
    ((sFifo [0, 0, 5] (List.replicate 63 (0, 0))).die 0).fifo.length < 64 ∧ 64 ≤ ((sFifo [0, 0, 5] (List.replicate 64 (0, 0))).die 0).fifo.length ∧
    Reaches (sFifo [0, 0, 5] (List.replicate 64 (0, 0))) 0 :=
  ⟨⟨rfl, rfl, rfl⟩, by decide, by decide, ⟨rfl, rfl, rfl⟩⟩

theorem wit_host_access : ((sI [0, 0x1000, 4]).host.linkUp = true ∧ (sI [0, 0x1000, 4]).hostMay 0 0x1000 4 permRd = true) ∧
    ((sI [1, 0x1000, 4]).hostMay 1 0x1000 4 permRd = false ∧ 4 ≠ 8) ∧ (sI ([0, 0x1000] ++ [(1 : Byte), 2].map BitVec.toNat)).mem.wf ∧
    (sI ([0, 0x1000] ++ [(1 : Byte), 2].map BitVec.toNat)).hostMay 0 0x1000 2 permWr = true ∧ (∀ k, k < 2 → backed (0x1000 + k) = true) ∧
    (sI [1, 0x1000, 1, 2]).hostMay 1 0x1000 2 permWr = false := by
  refine ⟨⟨rfl, rfl⟩, ⟨rfl, by decide⟩, by decide, rfl, by decide, rfl⟩

/-- A word of a table, a register of a debug block and the page's mailbox at its ends: what PF0 may write and function 1 may not. -/
theorem wit_control : ((tableAt 0 0 0 0 + 32) % 8 = 0 ∧ (sI []).control (tableAt 0 0 0 0 + 32) = .table (tableAt 0 0 0 0) true ∧
      (sI []).mayControl (fnMaster 0 0) (tableAt 0 0 0 0 + 32) permCtrl = true ∧ (sI []).mayControl (fnMaster 0 1) (tableAt 0 0 0 0 + 32) permCtrl = false) ∧
    ((sI []).control 0x2F0000000100 = .debug 0 0x100 ∧ (sI []).mayControl (fnMaster 0 0) 0x2F0000000100 permCtrl = true ∧
      (sI []).mayControl (fnMaster 0 1) 0x2F0000000100 permCtrl = false) ∧
    ((sI []).control (2 ^ 45 + 5 * 2 ^ 36 + 0x500) = .page 0x500 ∧ (sI []).mayControl (fnMaster 0 0) (2 ^ 45 + 5 * 2 ^ 36 + 0x500) permWr = true) ∧
    ((sI []).control (2 ^ 45 + 5 * 2 ^ 36 + 0x600) = .page 0x600 ∧ (sI []).mayControl (fnMaster 0 0) (2 ^ 45 + 5 * 2 ^ 36 + 0x600) permWr = true ∧
      (0x500 ≤ 0x5F8 ∧ 0x5F8 < 0x600)) :=
  ⟨⟨by decide, rfl, rfl, rfl⟩, ⟨rfl, rfl, rfl⟩, ⟨rfl, rfl⟩, ⟨rfl, rfl, by decide⟩⟩

def queue0 (state : Nat) : Queue :=
  { header := 0x100000, ring := 0x110000, entries := 16, owner := 0, t1 := 200, t2 := 100, taken := 0, rung := 0, state := state, fault := false
    stale := false, overrun := false, done := 0, count := 0, fence := none, hold := [] }
/-- Queue 0 of partition 0, the record of number 1 in its ring, and one ring in the FIFO of die 0. -/
def sRing (v : Nat) : State :=
  { sFifo [0] [(0, v)] with parts := [(0, { part0 0 with queues := [(0, queue0 0)] })], mem := [(0x110040, 1), (0x110044, 2)] }

/-- Rings of no queue, of another function's queue, of nothing new, of 17 records, of 16, and the last number that is ahead. -/
theorem wit_rings : Serves (sRing 8) 0 ∧ ((sRing 8).die 0).fifo = (0, 8) :: [] ∧ (sRing 8).queue? (8 % 65536) = none ∧
    (sRing 0).queue? (0 % 65536) = some (0, { part0 0 with queues := [(0, queue0 0)] }, 0, queue0 0) ∧ bits 0x10000 31 16 ≠ 0 ∧ bits (17 * 2 ^ 32) 31 16 = 0 ∧
    (queue0 4).state = 4 ∧ (queue0 0).owner ≠ 1 ∧ dieOfCluster 0 = 0 ∧ (0 / 2 ^ 32 + 2 ^ 32 - 0) % 2 ^ 32 = 0 ∧ 2 ^ 31 ≤ (2 ^ 63 / 2 ^ 32 + 2 ^ 32 - 0) % 2 ^ 32 ∧
    (16 < (17 * 2 ^ 32 / 2 ^ 32 + 2 ^ 32 - 0) % 2 ^ 32 ∧ (17 * 2 ^ 32 / 2 ^ 32 + 2 ^ 32 - 0) % 2 ^ 32 < 2 ^ 31) ∧
    ((16 * 2 ^ 32 / 2 ^ 32 + 2 ^ 32 - 0) % 2 ^ 32 ≤ 16) ∧ ((sRing (2 ^ 36)).nextLaunch (queue0 0)).seq = (0 + 1) % 2 ^ 32 :=
  ⟨⟨⟨by decide, rfl, rfl⟩, ⟨rfl, rfl⟩, ⟨noHalt0 _ rfl 0, noHalt0 _ rfl 0⟩⟩, rfl, rfl, rfl, by decide, by decide, rfl, by decide, rfl, by decide, by decide, by decide,
    by decide, rfl⟩

/-- A control block of zeros at 0x1000 is an inner node; with its part bit and cluster 0 it is a partition; with a reserved bit it fails. -/
def sRcb (mem : Mem) (regions : Tab Region) (parts : Tab Part) : State := { sI [0, 0x1000] with mem := mem, regions := regions, parts := parts }

theorem wit_regions : Reaches (sRcb [] [] []) 0 ∧ Serves (sRcb [] [] []) 0 ∧ (sRcb [(0x1031, 1)] [] []).activateCode 0x1000 ≠ 0 ∧ (sRcb [] [] []).deactivateCode 0x1000 = 13 ∧
    ((sRcb [] [] []).activateCode 0x1000 = 0 ∧ (((sRcb [] [] []).rcbAt 0x1000).effective (((sRcb [] [] []).parentOf ((sRcb [] [] []).rcbAt 0x1000)).getD rootRegion)).part = false ∧
      (sRcb [] [] []).mem.wf ∧ ∀ k, k < 8 → backed (0x1000 + 8 + k) = true) ∧
    ((sRcb [(0x100B, 0x40), (0x1010, 1)] [] []).activateCode 0x1000 = 0 ∧
      (((sRcb [(0x100B, 0x40), (0x1010, 1)] [] []).rcbAt 0x1000).effective (((sRcb [(0x100B, 0x40), (0x1010, 1)] [] []).parentOf ((sRcb [(0x100B, 0x40), (0x1010, 1)] [] []).rcbAt 0x1000)).getD rootRegion)).part = true) ∧
    ((sRcb [] [(0x1000, rootRegion)] []).deactivateCode 0x1000 = 0 ∧ (sRcb [] [(0x1000, rootRegion)] []).regions.wf ∧ (sRcb [] [(0x1000, rootRegion)] []).parts.wf ∧
      ∀ p ∈ (sRcb [] [(0x1000, rootRegion)] []).parts, p.2.rcb ≠ 0x1000) ∧
    ((sRcb [] [(0x1000, rootRegion)] [(0, { part0 0 with rcb := 0x1000 })]).deactivateCode 0x1000 = 0 ∧
      (sRcb [] [(0x1000, rootRegion)] [(0, { part0 0 with rcb := 0x1000 })]).children 0x1000 = [] ∧
      (sRcb [] [(0x1000, rootRegion)] [(0, { part0 0 with rcb := 0x1000 })]).parts.find? (fun p => decide (p.2.rcb = 0x1000)) =
        some (0, { part0 0 with rcb := 0x1000 })) ∧
    (sRcb [] [(0x1000, rootRegion)] [(0, { part0 0 with rcb := 0x1000, queues := [(0, queue0 1)] })]).deactivateCode 0x1000 = 8 :=
  ⟨⟨rfl, rfl, rfl⟩, ⟨⟨by decide, rfl, rfl⟩, ⟨rfl, rfl⟩, ⟨noHalt0 _ rfl 0, noHalt0 _ rfl 0⟩⟩, by decide, rfl, ⟨rfl, rfl, by decide, by decide⟩, ⟨rfl, rfl⟩,
    ⟨rfl, by decide, by decide, by decide⟩, ⟨rfl, rfl, rfl⟩, rfl⟩

/-! ### Queue commands, the ladder and dumps -/

/-- Partition 0 with queue 0 in a state, a ladder, and its live nodes. -/
def partJ (state : Nat) (ladder : Ladder) (live : Tab Node) (t2 : Nat) : Part :=
  { part0 0 with queues := [(0, queue0 state)], ladder := ladder, live := live, t2 := t2 }
def sCmd (args : List Nat) (p : Part) : State := { sI args with parts := [(0, p)] }

theorem commands (state : Nat) (l : Ladder) (live : Tab Node) (t2 : Nat) :
    Commands (sCmd [0, 0] (partJ state l live t2)) 0 0 0 (partJ state l live t2) 0 (queue0 state) :=
  ⟨rfl, ⟨rfl, rfl, (grants_reset _ rfl _ _ _ _).trans grants_page⟩, rfl, ⟨⟨Nat.le_refl 3, rfl, rfl⟩, ⟨rfl, rfl⟩, ⟨noHalt0 _ rfl _, noHalt0 _ rfl _⟩⟩⟩

theorem wit_commands : IsCommand .queuePreempt 1 ∧ IsCommand .queueResume 2 ∧ IsCommand .queueAbort 3 ∧ Reaches (sCmd [0, 8] (partJ 0 .none [] 0)) 0 ∧
    (sCmd [0, 8] (partJ 0 .none [] 0)).queue? 8 = none ∧ Commands (sCmd [0, 0] (partJ 2 .drain [] 100)) 0 0 0 (partJ 2 .drain [] 100) 0 (queue0 2) ∧
    ((partJ 2 .drain [] 100).ladder ≠ .none ∧ (partJ 2 .drain [] 100).ladder ≠ .stopped) ∧ (partJ 0 .none [] 0).ladder = .none ∧
    (partJ 3 .stopped [] 100).ladder = .stopped ∧ ({ partJ 3 .stopped [] 100 with queues := [(0, { queue0 3 with rung := 3 })] } : Part).atReset = true :=
  ⟨.inl ⟨rfl, rfl⟩, .inr (.inl ⟨rfl, rfl⟩), .inr (.inr ⟨rfl, rfl⟩), ⟨rfl, rfl, rfl⟩, rfl, commands _ _ _ _, by decide, rfl, rfl, rfl⟩

/-- Another function than PF0 owns no queue of the partition. -/
def sCmd1 : State := { sF1 [1, 0] with parts := [(0, partJ 0 .none [] 0)] }
theorem wit_foreign : Commands sCmd1 1 0 0 (partJ 0 .none [] 0) 0 (queue0 0) ∧ 1 ≠ 0 ∧ ∃ y ∈ (partJ 0 .none [] 0).queues, y.2.owner ≠ 1 :=
  ⟨⟨rfl, ⟨rfl, rfl, rfl⟩, rfl, ⟨⟨by decide, rfl, rfl⟩, ⟨rfl, rfl⟩, ⟨noHalt0 _ rfl _, noHalt0 _ rfl _⟩⟩⟩, by decide, by decide⟩

theorem wit_preempt : Commands (sCmd [0, 0] (partJ 1 .none [(0, node0 (.running 1))] 0)) 0 0 0 (partJ 1 .none [(0, node0 (.running 1))] 0) 0 (queue0 1) ∧
    commandCode 0 1 (partJ 1 .none [(0, node0 (.running 1))] 0) = 0 ∧ (queue0 1).t1 ≠ 0 ∧ ({ queue0 1 with t1 := 0 } : Queue).t2 ≠ 0 ∧
    (∃ m ∈ (partJ 1 .none [(0, node0 (.running 1))] 0).live, m.2.st.unstarted = false) ∧
    Commands (sCmd [0, 0] (partJ 1 .none [(0, node0 .ready)] 0)) 0 0 0 (partJ 1 .none [(0, node0 .ready)] 0) 0 (queue0 1) ∧
    (∀ m ∈ (partJ 1 .none [(0, node0 .ready)] 0).live, m.2.st.unstarted = true) ∧ commandCode 0 3 (partJ 1 .none [] 100) = 0 ∧
    (partJ 1 .none [] 100).atReset = false ∧ commandCode 0 2 (partJ 3 .stopped [] 100) = 0 ∧ (partJ 3 .stopped [] 100).saved = none :=
  ⟨commands _ _ _ _, rfl, by decide, by decide, by decide, commands _ _ _ _, by decide, rfl, rfl, rfl, rfl⟩

/-- A save whose thread is not at a boundary yet, and one whose threads stand still. -/
def sSave (l : Ladder) (st : Status) : State :=
  { bench { th0 with status := st } 0 with parts := [(0, { partJ 2 l [] 100 with halted := true })], cur := none, args := [0] }

theorem wit_ladder : (sSave .drain .ready).part? 0 = some { partJ 2 .drain [] 100 with halted := true } ∧ (partJ 2 .drain [] 0).t2 = 0 ∧
    (partJ 2 .drain [] 100).t2 ≠ 0 ∧ (sSave .drain .ready).tasks.wf ∧ (sSave .save .ready).settled { partJ 2 .save [] 100 with halted := true } = true ∧
    (sSave .save .out).settled { partJ 2 .save [] 100 with halted := true } = false ∧
    (∀ y ∈ (sSave .save .ready).timers, y.ev ≠ ⟨.preemptT2Expire, [0]⟩) :=
  ⟨rfl, rfl, by decide, by decide, by decide, by decide, by decide⟩

/-- A pre-emption with a T1 of zero; and a thread that stands behind its hint. -/
def partJ1 : Part := { partJ 1 .none [] 0 with queues := [(0, { queue0 1 with t1 := 0 })] }
def thJh : Thread := { th0 with hint := some 4194304 }

theorem wit_boundaries : Commands (sCmd [0, 0] partJ1) 0 0 0 partJ1 0 { queue0 1 with t1 := 0 } ∧ commandCode 0 1 partJ1 = 0 ∧
    AtBoundary (sSave .save .ready) { partJ 2 .save [] 100 with halted := true } ∧
    ({ sSave .save .ready with cores := [(0, { Core.reset with threads := [(0, thJh)] })] } : State).settled { partJ 2 .save [] 100 with halted := true } = true ∧
    ({ sSave .save .ready with cores := [(0, { Core.reset with threads := [(0, thJh)] })] } : State).thread? 0 0 = some thJh ∧ thJh.hint ≠ none :=
  ⟨⟨rfl, ⟨rfl, rfl, (grants_reset _ rfl _ _ _ _).trans grants_page⟩, rfl, ⟨⟨Nat.le_refl 3, rfl, rfl⟩, ⟨rfl, rfl⟩, ⟨noHalt0 _ rfl _, noHalt0 _ rfl _⟩⟩⟩, rfl,
    ⟨by decide, by decide⟩, by decide, rfl, by decide⟩

/-- A saved partition: nothing is bad, and a word of the shadow storage of core 0 is. -/
def saved0 : Saved := { cores := [(0, { Core.reset with threads := [(0, th0)], acc := [(0, 7)] })], loc := [(5, 1)] }
def partS : Part := { partJ 3 .stopped [] 100 with saved := some saved0, shadow := [64, 0, 0, 0] }
def sShadow (bad : Bool) : State :=
  { sCmd [0, 0] partS with tasks := [(1, { task0 with part := 0, core := 0 })], bad := if bad then [(7, 0, 0)] else [] }

theorem wit_resume (bad : Bool) : Commands (sShadow bad) 0 0 0 partS 0 (queue0 3) ∧ commandCode 0 2 partS = 0 ∧ NoEventWaits (sShadow bad) partS ∧
    partS.saved = some saved0 ∧ partS.dumps = [] :=
  ⟨⟨by cases bad <;> rfl, ⟨by cases bad <;> rfl, by cases bad <;> rfl, (grants_reset _ (by cases bad <;> rfl) _ _ _ _).trans grants_page⟩, by cases bad <;> rfl,
    ⟨⟨Nat.le_refl 3, rfl, rfl⟩, ⟨rfl, rfl⟩, ⟨noHalt0 _ rfl _, noHalt0 _ rfl _⟩⟩⟩, rfl, fun _ _ => .inl rfl, rfl, rfl⟩

theorem wit_shadow : Restorable (sShadow false) partS saved0 ∧
    (∃ b ∈ (sShadow true).bad, b.1 = 7 ∧ b.2.1 ∈ partS.cores ∧ ∃ k ∈ (sShadow true).tasks, k.2.part = 0 ∧ k.2.core = b.2.1) :=
  ⟨⟨rfl, ⟨by decide, by decide⟩, rfl, fun _ h => absurd h List.not_mem_nil⟩, by decide⟩

def dump0 (k : Option Nat) : Dump :=
  { core := 0, slot := 0, task := 1, cause := KIND, epc := 0x100000, eval := 0, second := none, dslot := k, seq := 0, done := false }
def partD (ds : List Dump) : Part := { partJ 2 .dump [] 100 with halted := true, dumps := ds }
def sDump (ds : List Dump) : State := { bench th0 0 with parts := [(0, partD ds)], cur := none, args := [0] }

theorem dump_area (k : Nat) (h : k < 2 ^ 23) : backed (0x900000 + k) = true := backed_low _ (by omega)

theorem dump_task : ∀ x, (sDump [dump0 (some 2), dump0 none]).task? (dump0 (some 2)).task = some x → x.hw ≤ 512 := by
  intro x hx
  obtain rfl := Option.some.inj hx
  decide

/-- A dump that is due, one under way in the last slot with another behind it, none of its own, and a steward's fault as it dumps. -/
theorem wit_dumps : DumpDue (sDump [dump0 none]) 0 (partD [dump0 none]) (dump0 none) ∧ (sDump [dump0 none]).freeDumpSlot 0x900000 = some 0 ∧
    ((sDump [dump0 (some 2), dump0 none]).part? 0 = some (partD [dump0 (some 2), dump0 none]) ∧ (dump0 (some 2)).done = false ∧ 2 < 3 ∧
      (∀ x, (sDump [dump0 (some 2), dump0 none]).task? (dump0 (some 2)).task = some x → x.hw ≤ 512) ∧
      (sDump [dump0 (some 2), dump0 none]).mem.wf ∧ ∀ j, j < 2 ^ 23 → backed ((partD [dump0 (some 2), dump0 none]).dumpBase + j) = true) ∧
    ((sDump []).part? 0 = some (partD []) ∧ (partD []).ladder = .dump ∧ (sDump []).tasks.wf) ∧
    ({ sDump [dump0 (some 2)] with args := [0, KIND] } : State).parts = [(0, partD [dump0 (some 2)])] ∧ (dump0 (some 2)).active = true :=
  ⟨⟨rfl, rfl, rfl, rfl, rfl, by decide, rfl, by decide, dump_area⟩, rfl, ⟨rfl, rfl, by decide, dump_task, by decide, dump_area⟩, ⟨rfl, rfl, by decide⟩, rfl, rfl⟩

/-! ### Dispatch -/

/-- Partition 0 with nodes and a graph, and a page of the graph's space in the translation cache of die 0. -/
def partN (live : Tab Node) : Part := { part0 0 with live := live, graphs := [(1, graph0)], queues := [(0, { queue0 1 with taken := 1, count := 1 })] }
def tlbN (word0 : Nat) : Tlb := { tlb0 0x100000 with word0 := word0 }
def sNode (args : List Nat) (p : Part) (word0 : Nat) : State :=
  { sI args with parts := [(0, p)], dies := [(0, { Die.reset with tlb := [tlbN word0] })], acl := (grant 0x20000000).foldl (fun t e => put t e.1 e.2) [] }

/-- A pool with no node in it, and a full one. -/
theorem wit_pools : (partN [(1, node0 .ready)]).placeFor (node0 .ready) = some 0 ∧ ((partN [(1, node0 .ready)]).pool 0).length < 256 ∧
    256 ≤ ((partN ((upFrom 2 256).map (fun i => (i, node0 (.pooled 0))))).pool 0).length ∧
    (partN ((upFrom 2 256).map (fun i => (i, node0 (.pooled 0))))).placeFor (node0 .ready) = some 0 ∧ (node0 .ready).desc.aff ∈ (partN []).clusters := by
  refine ⟨rfl, ?_, ?_, rfl, ?_⟩ <;> decide

/-- A node behind an earlier one that waits for the same pool, and one that has waited for a pool found full. -/
def waiting (n : Nat) : Node := { node0 .ready with wants := some n }
theorem wit_pools_wait : (∃ q ∈ (partN [(1, waiting 0), (2, node0 .ready)]).live, q.2.st = .ready ∧ q.2.wants = some 0 ∧ appendLt q.1 2 = true) ∧
    (waiting 0).wants.or ((partN [(1, waiting 0)]).placeFor (waiting 0)) = some 0 ∧ (waiting 0).st = .ready ∧
    ¬(256 ≤ ((partN [(1, waiting 0)]).pool 0).length ∨ ∃ q ∈ (partN [(1, waiting 0)]).live, q.2.st = .ready ∧ q.2.wants = some 0 ∧ appendLt q.1 1 = true) ∧
    (node0 (.pooled 0)).st ≠ .ready := by
  refine ⟨?_, rfl, rfl, ?_, ?_⟩ <;> decide

theorem wit_prepares : ∃ ls, Prepares (sNode [0] (partN [(1, node0 (.pooled 0))]) 0x2000004D) 0 0 (partN [(1, node0 (.pooled 0))]) 1 (node0 (.pooled 0)) graph0 ls :=
  ⟨_, rfl, rfl, ⟨rfl, ⟨rfl, rfl⟩, by decide⟩, by decide, rfl, by decide, rfl, rfl, rfl, by decide, by decide, by decide, rfl⟩

theorem wit_starts : (sNode [0, 1] (partN [(1, node0 (.prepared 0))]) 0x2000004D).partOfCluster 0 = some 0 ∧
    Works (sNode [0, 1] (partN [(1, node0 (.prepared 0))]) 0x2000004D) 0 (partN [(1, node0 (.prepared 0))]) ∧
    (sNode [0, 1] (partN [(1, node0 (.prepared 0))]) 0x2000004D).coreFor 0 (node0 (.prepared 0)).desc none = some (0, 0) ∧
    ∀ sl ∈ (Core.freeSlots Core.reset).take 1, Untraced (sNode [0, 1] (partN [(1, node0 (.prepared 0))]) 0x2000004D) 0 sl := by
  refine ⟨rfl, ⟨rfl, ⟨rfl, rfl⟩, by decide⟩, rfl, ?_⟩
  intro sl h
  have e : (Core.freeSlots Core.reset).take 1 = [0] := rfl
  rw [e] at h
  rw [List.mem_singleton.mp h]
  rfl

/-- Five nodes of priority 0 in cluster 0 and none in cluster 1; with four, nothing moves. -/
def partB (n : Nat) : Part := { partN ((upFrom 1 n).map (fun i => (i, node0 (.pooled 0)))) with clusters := [0, 1] }
theorem wit_balance : ((sNode [0] (partB 4) 0).die (dieOfCluster 0)).restart = false ∧ (∀ c ∈ meshNext 0, c ∈ (partB 4).clusters → (partB 4).load 0 ≤ (partB 4).load c + 4) ∧
    (∀ m ∈ (partB 4).live, m.2.st ≠ .ready) ∧ (meshNext 0).filter (fun c => (partB 5).clusters.contains c && decide ((partB 5).load c + 4 < (partB 5).load 0)) = [1] ∧
    ((partB 5).load 0 - (partB 5).load 1) / 4 = 1 ∧ ((partB 5).pool 1).length < 256 ∧ (partB 5).lastIn 0 = some (5, node0 (.pooled 0)) ∧
    look (partB 5).live 5 = some (node0 (.pooled 0)) := by
  refine ⟨rfl, ?_, ?_, rfl, ?_, ?_, rfl, rfl⟩ <;> decide

def request : Residency := { part := 0, app := 1, space := 0x500000, va := 0x100000 }
def partQ (mem : Nat) : Part := { partN [(1, node0 (.preparing 0))] with residency := [request], mem := mem }
def leafN (word0 : Nat) : Leaf := { at_ := 0x700000, word0 := word0, word1 := 0, size := 65536, path := [] }
def sRes (mem word0 : Nat) : State := { sNode [0] (partQ mem) word0 with frameChoice := [0x30000] }

theorem wit_residency : (sRes 0x1000000 0x4D).partOfCluster 0 = some 0 ∧
    (partQ 0x1000000).residency.find? (fun r => decide ((partQ 0x1000000).porterOf 0 r = 0)) = some request ∧
    ((sRes 0x1000000 0x4D).translate (dieOfCluster 0) 0x500000 0x100000 = some (leafN 0x4D) ∧ (leafN 0x4D).res = true) ∧
    (2 ^ 23 < (partQ (2 ^ 23)).spent + 65536 ∧ (sRes (2 ^ 23) 0x49).victim (partQ (2 ^ 23)) = none) :=
  ⟨rfl, rfl, ⟨rfl, rfl⟩, ⟨by decide, rfl⟩⟩

/-- A page of zeroes, and one whose backing copy at 0x100000 has a poisoned unit. -/
def sCopy : State :=
  { sRes 0x1000000 0x9 with dies := [(0, { Die.reset with tlb := [{ tlbN 0x9 with word1 := 0x100000 }] })], bad := [(0, 0, 0x8001)] }
def leafC : Leaf := { leafN 0x9 with word1 := 0x100000 }

theorem wit_makes_resident : MakesResident (sRes 0x1000000 0x49) 0 (partQ 0x1000000) request (leafN 0x49) 0x30000 ∧
    MakesResident sCopy 0 (partQ 0x1000000) request leafC 0x30000 ∧
    ∃ b ∈ sCopy.bad, b.1 = 0 ∧ leafC.back < b.2.2 * 32 + 32 ∧ b.2.2 * 32 < leafC.back + leafC.size :=
  ⟨⟨⟨rfl, rfl⟩, ⟨rfl, fun h => absurd h (by decide), by decide +kernel⟩, by decide, rfl,
      ⟨by decide, fun k (h : k < 65536) => backed_low (0x30000 + k) (by omega), fun k h => backed_low (0x700000 + k) (by omega)⟩, by decide⟩,
    ⟨⟨rfl, rfl⟩, ⟨rfl, fun _ => by decide +kernel, by decide +kernel⟩, by decide, rfl,
      ⟨by decide, fun k (h : k < 65536) => backed_low (0x30000 + k) (by omega), fun k h => backed_low (0x700000 + k) (by omega)⟩, by decide⟩, by decide⟩

/-- A page that is not mapped, one whose leaf the porter may not write; and one for which there is budget and no frame. -/
def sNone : State := { sRes 0x1000000 0x49 with dies := [] }
def sDeny : State := { sRes 0x1000000 0x49 with acl := [(tableAt 0 0 0 (homeSlice 0x700000), 0)] }

theorem wit_no_residence : NoResidence sNone 0 request 1 ∧ NoResidence sDeny 0 request 2 ∧ (partQ 0x1000000).live.wf ∧
    look (partQ 0x1000000).live request.app = some (node0 (.preparing 0)) ∧ look (partQ 0x1000000).graphs 1 = some graph0 ∧
    (∀ q ∈ (partQ 0x1000000).live, q.1 ≠ 1 → q.2.graph = 1 → q.2.st.unstarted = true) ∧
    (∃ q ∈ [((1 : Nat), node0 (.preparing 0)), (2, node0 (.running 1))], q.1 ≠ 1 ∧ q.2.graph = 1 ∧ q.2.st.unstarted = false) :=
  ⟨.inl ⟨by decide +kernel, rfl⟩, .inr ⟨leafN 0x49, rfl, rfl, rfl, .inl (by decide +kernel)⟩, by decide, rfl, rfl, by decide, by decide⟩

theorem wit_served : ¬∃ reason, NoResidence (sRes (2 ^ 23) 0x49) 0 request reason := by
  rintro ⟨r, ⟨h, -⟩ | ⟨l, h, -, -, h2⟩⟩
  · exact absurd h (by decide +kernel)
  · obtain rfl : leafN 0x49 = l := Option.some.inj h
    rcases h2 with h2 | ⟨h2, -⟩
    · exact absurd h2 (by decide +kernel)
    · exact absurd h2 (by decide +kernel)

/-! A record in the ring of queue 0, and a graph of one node at 0x200000. -/

def partT (live : Tab Node) (graphs : Tab Graph) (q : Queue) : Part := { part0 0 with queues := [(0, q)], live := live, graphs := graphs }
def ringMem (kind threads : Nat) : Mem :=
  [(0x110040, 1)] ++ (if kind = 0 then [] else [(0x110044, BitVec.ofNat 8 kind)]) ++
    [(0x11004A, 0x20), (0x200000, 1), (0x200010, 0x40), (0x200012, 0x20), (0x200048, 0x40)] ++ (if threads = 0 then [] else [(0x20005E, BitVec.ofNat 8 threads)])
def sTake (kind threads : Nat) (live : Tab Node) (graphs : Tab Graph) : State :=
  { sFifo [0, 0] [(0, 2 ^ 32)] with parts := [(0, partT live graphs (queue0 0))], mem := ringMem kind threads }
def launch0 (kind : Nat) : Launch := { seq := 1, kind := kind, graph := 0x200000, arg := 0, cword := 0, cval := 0, bad := false }

theorem takes (kind threads : Nat) (live : Tab Node) (graphs : Tab Graph) (h : (sTake kind threads live graphs).nextLaunch (queue0 0) = launch0 kind)
    (h2 : (sTake kind threads live graphs).offered 0 0 (queue0 0) = true) :
    TakesRecord (sTake kind threads live graphs) 0 0 (partT live graphs (queue0 0)) (queue0 0) (launch0 kind) :=
  ⟨rfl, ⟨rfl, ⟨rfl, rfl⟩, ⟨(by decide : (0 : Nat) ≠ 1), (by decide : (0 : Nat) ≠ 2)⟩⟩, rfl, ⟨rfl, rfl⟩, h2, h.symm, Nat.zero_le 1⟩

theorem wit_records : (TakesRecord (sTake 2 1 [] []) 0 0 (partT [] [] (queue0 0)) (queue0 0) (launch0 2) ∧ (sTake 2 1 [] []).mem.wf) ∧
    (TakesRecord (sTake 0 1 [] []) 0 0 (partT [] [] (queue0 0)) (queue0 0) (launch0 0) ∧ TakesRecord (sTake 4 1 [] []) 0 0 (partT [] [] (queue0 0)) (queue0 0) (launch0 4) ∧ 3 < 4) ∧
    (TakesRecord (sTake 3 1 [] [(1, graph0)]) 0 0 (partT [] [(1, graph0)] (queue0 0)) (queue0 0) (launch0 3) ∧
      ∃ g ∈ (partT [] [(1, graph0)] (queue0 0)).graphs, g.2.queue = 0) ∧
    (TakesRecord (sTake 1 1 [(1, node0 (.rearm 1))] []) 0 0 (partT [(1, node0 (.rearm 1))] [] (queue0 0)) (queue0 0) (launch0 1) ∧
      (sTake 1 1 [(1, node0 (.rearm 1))] []).graphRoom (partT [(1, node0 (.rearm 1))] [] (queue0 0)) 0x200000 = false) :=
  ⟨⟨takes _ _ _ _ rfl rfl, by decide⟩, ⟨takes _ _ _ _ rfl rfl, takes _ _ _ _ rfl rfl, by decide⟩, ⟨takes _ _ _ _ rfl rfl, by decide⟩,
    ⟨takes _ _ _ _ rfl rfl, rfl⟩⟩

theorem wit_graphs : (TakesRecord (sTake 1 0 [] []) 0 0 (partT [] [] (queue0 0)) (queue0 0) (launch0 1) ∧ (sTake 1 0 [] []).graphRoom (partT [] [] (queue0 0)) 0x200000 = true ∧
      (sTake 1 0 [] []).graphFault 0x200000 = some 0 ∧ GraphApart (sTake 1 0 [] []) (queue0 0) (launch0 1)) ∧
    (TakesRecord (sTake 1 1 [] []) 0 0 (partT [] [] (queue0 0)) (queue0 0) (launch0 1) ∧ (sTake 1 1 [] []).graphRoom (partT [] [] (queue0 0)) 0x200000 = true ∧
      (sTake 1 1 [] []).graphFault 0x200000 = none ∧ (partT [] [] (queue0 0)).live.wf ∧ GraphApart (sTake 1 1 [] []) (queue0 0) (launch0 1)) :=
  ⟨⟨takes _ _ _ _ rfl rfl, rfl, rfl, ⟨by decide, by decide⟩⟩, ⟨takes _ _ _ _ rfl rfl, rfl, rfl, by decide, ⟨by decide, by decide⟩⟩⟩

def sFence (graphs : Tab Graph) : State := { sI [0, 0] with parts := [(0, partT [] graphs { queue0 1 with fence := some (launch0 3) })] }
theorem wit_record_fences : Works (sFence [(1, graph0)]) 0 (partT [] [(1, graph0)] { queue0 1 with fence := some (launch0 3) }) ∧
    ({ queue0 1 with fence := some (launch0 3) } : Queue).state ≤ 1 ∧ (∃ g ∈ [((1 : Nat), graph0)], g.2.queue = 0) ∧ (∀ g ∈ ([] : Tab Graph), g.2.queue ≠ 0) :=
  ⟨⟨rfl, ⟨rfl, rfl⟩, by decide⟩, by decide, by decide, by decide⟩

/-- A record behind a fence: the live table has room for its graph, and has none; a marker needs none. -/
def sBehind (kind : Nat) (live : Tab Node) : State :=
  { sTake kind 1 [] [] with parts := [(0, partT live [(1, graph0)] { queue0 0 with fence := some (launch0 3) })] }
theorem wit_behind : Works (sBehind 1 []) 0 (partT [] [(1, graph0)] { queue0 0 with fence := some (launch0 3) }) ∧
    (sBehind 1 []).offered 0 0 { queue0 0 with fence := some (launch0 3) } = true ∧
    (sBehind 1 []).nextLaunch { queue0 0 with fence := some (launch0 3) } = launch0 1 ∧ (launch0 1).isGraph = true ∧ (launch0 2).isGraph = false ∧
    (sBehind 1 []).roomBehind (partT [] [(1, graph0)] { queue0 0 with fence := some (launch0 3) }) 0x200000 = true ∧
    (sBehind 1 [(1, node0 (.rearm 1))]).roomBehind (partT [(1, node0 (.rearm 1))] [(1, graph0)] { queue0 0 with fence := some (launch0 3) }) 0x200000 = false :=
  ⟨⟨rfl, ⟨rfl, rfl⟩, by decide⟩, rfl, rfl, rfl, rfl, rfl, rfl⟩

/-- A repeat node whose predicate stands at the frame of its page. -/
def nodeR (st : NodeState) (limit : Nat) : Node := { node0 st with desc := { (node0 st).desc with kind := 1, codelen := limit, threads := 0 } }
def partR (st : NodeState) (limit nnodes : Nat) : Part := { partN [(1, nodeR st limit)] with graphs := [(1, { graph0 with nnodes := nnodes })] }
def sRep (v nnodes limit : Nat) : State :=
  { sNode [0, 1] (partR .waiting limit nnodes) 0x2000004D with mem := if v = 0 then [] else [(0x20000000, BitVec.ofNat 8 v)] }

/-- A predicate of zero, the last round, one more round, and one for which the live table has no room. -/
theorem wit_repeats : (Decides (sRep 0 1 0) 0 1 (partR .waiting 0 1) (nodeR .waiting 0) graph0 (leafN 0x2000004D) ∧ (partR .waiting 0 1).live.wf ∧
      (sRep 0 1 0).mem.read 0x20000000 8 = 0) ∧
    (Decides (sRep 1 1 1) 0 1 (partR .waiting 1 1) (nodeR .waiting 1) graph0 (leafN 0x2000004D) ∧ ¬(1 = 0 ∨ graph0.iter < 1)) ∧
    (Decides (sRep 1 1 2) 0 1 (partR .waiting 2 1) (nodeR .waiting 2) graph0 (leafN 0x2000004D) ∧ (sRep 1 1 2).mem.read 0x20000000 8 ≠ 0 ∧ graph0.iter < 2 ∧
      (partR .waiting 2 1).live.length - 1 + 1 ≤ 4096) ∧
    ((partR .waiting 2 4097).live.length - 1 + 4096 ≤ 4096 ∧ 4096 < (partR .waiting 2 4097).live.length - 1 + 4097) ∧
    ({ sRep 1 1 2 with pages := [(0x2000, { leases := 255, queued := false, overflow := false, moving := false, counts := [0, 0, 0, 0, 0], dest := 0 })] } : State).leaseWaits (leafPages [(0x100000, leafN 0x2000004D)]) = true ∧
    (sRep 1 1 2).leaseWaits (leafPages [(0x100000, leafN 0x2000004D)]) = false ∧ ({ partR (.rearm 1) 2 1 with ladder := .drain } : Part).dispatching = false ∧
    Works ({ sRep 1 1 2 with parts := [(0, partR (.rearm 1) 2 1)] }) 0 (partR (.rearm 1) 2 1) ∧ (partR (.rearm 1) 2 1).live.wf :=
  ⟨⟨⟨rfl, ⟨rfl, ⟨rfl, rfl⟩, by decide⟩, rfl, rfl, rfl, rfl, rfl, rfl, (fun _ h => nomatch h), by decide⟩, by decide, rfl⟩, ⟨⟨rfl, ⟨rfl, ⟨rfl, rfl⟩, by decide⟩, rfl, rfl, rfl, rfl, rfl, rfl, (fun _ h => nomatch h), by decide⟩, by decide⟩, ⟨⟨rfl, ⟨rfl, ⟨rfl, rfl⟩, by decide⟩, rfl, rfl, rfl, rfl, rfl, rfl, (fun _ h => nomatch h), by decide⟩, by decide, by decide, by decide⟩, by decide,
    by decide, by decide, rfl, ⟨rfl, ⟨rfl, rfl⟩, by decide⟩, by decide⟩

/-! ### Debug, boot, links, power and migration -/

theorem noHalt1 (s : State) (k : Core) (h : s.cores = [(0, k)]) (h2 : look k.threads 15 = none) (d : Nat) : NoHalt s d := by
  intro c th _ hth
  have e : s.core c = k ∨ s.core c = Core.reset := by
    unfold State.core; rw [h]
    by_cases hc : c = 0
    · subst hc; exact .inl rfl
    · right; simp [lookD, look, Ne.symm hc]
  unfold State.thread? at hth
  rcases e with e | e <;> rw [e] at hth
  · rw [h2] at hth; cases hth
  · cases hth

def thDbg (st : Status) (stopped : Bool) : Thread := { th0 with status := st, stopped := stopped }
def sDbg (args : List Nat) (st : Status) (stopped : Bool) : State := { bench (thDbg st stopped) 0 with cur := none, args := args }

theorem wit_debug : (State.reset.grants (debugTable 0 0) (fnMaster 0 1) none permCtrl = false) ∧ Debugs (sI [fnMaster 0 0, 3]) (fnMaster 0 0) 3 [] ∧ (sI []).pkg.firing = false ∧
    (∀ d, ((sI []).die d).restart = false) ∧ Debugs (sDbg [fnMaster 0 0, 0, 0, 0] .ready false) (fnMaster 0 0) 0 [0, 0] ∧ Untraced (sDbg [fnMaster 0 0, 0, 0, 0] .ready false) 0 0 ∧
    (sDbg [fnMaster 0 0, 0, 0, 0] .ready false).thread? 0 0 = some (thDbg .ready false) ∧ (thDbg .ready false).trapped = false ∧ (thDbg .out false).status = .out ∧
    (thDbg .ready true).stopped = true :=
  ⟨by decide, ⟨rfl, by decide, noHalt0 _ rfl _⟩, rfl, fun _ => rfl, ⟨rfl, by decide, noHalt1 _ _ rfl rfl _⟩, rfl, rfl, rfl, rfl, rfl⟩

/-- A thread between a hint and the instruction that it binds: ready, and in flight with its request on its way or gone. -/
def thDh (st : Status) : Thread := { th0 with status := st, hint := some 4194304, op := some { instr := .acqs 0, pc := 0x100000, hint := some 4194304, args := [] } }
def sDh (st : Status) (p : List Due) : State :=
  { bench (thDh st) 0 with cur := none, args := [fnMaster 0 0, 0, 0, 0], pending := p }

theorem wit_debug_hints : Debugs (sDh .ready []) (fnMaster 0 0) 0 [0, 0] ∧ (sDh .ready []).thread? 0 0 = some (thDh .ready) ∧ Untraced (sDh .ready []) 0 0 ∧
    (thDh .ready).stopped = false ∧ (thDh .ready).trapped = false ∧ (thDh .ready).hint ≠ none ∧
    (Debugs (sDh .inFlight []) (fnMaster 0 0) 0 [0, 0] ∧ (sDh .inFlight []).moving 0 0 = false) ∧
    (Debugs (sDh .inFlight [⟨.loadReturn, [0, 0]⟩]) (fnMaster 0 0) 0 [0, 0] ∧ (sDh .inFlight [⟨.loadReturn, [0, 0]⟩]).moving 0 0 = true) :=
  ⟨⟨rfl, by decide, noHalt1 _ _ rfl rfl _⟩, rfl, rfl, rfl, rfl, by decide, ⟨⟨rfl, by decide, noHalt1 _ _ rfl rfl _⟩, rfl⟩, ⟨rfl, by decide, noHalt1 _ _ rfl rfl _⟩, rfl⟩

/-- The first image at stage 1, the last of the others at stage 2, and one of them with another to come. -/
def sBoot (image version : Nat) (verified : List Nat) : State :=
  { State.reset with args := [image, version, 1, 2200] ++ [1, 2, 3], pkg := { Pkg.reset with stage := if image = 0 then 1 else 2, verified := verified, fused := 4 } }
theorem wit_boot : ((sBoot 0 4 []).args = [0, 4, 1, 2200] ++ [1, 2, 3] ∧ (sBoot 0 4 []).pkg.stage = (if 0 = 0 then 1 else 2) ∧ 0 ∉ (sBoot 0 4 []).pkg.verified ∧
      (sBoot 0 4 []).pkg.fused ≤ 4) ∧ 3 < (sBoot 0 3 []).pkg.fused ∧
    ((sBoot 3 4 [0, 1, 2]).pkg.stage = (if 3 = 0 then 1 else 2) ∧ 3 ∉ (sBoot 3 4 [0, 1, 2]).pkg.verified ∧
      (∀ k, k < 4 → 1 ≤ k → k = 3 ∨ k ∈ (sBoot 3 4 [0, 1, 2]).pkg.verified)) ∧
    (∃ k, 1 ≤ k ∧ k ≤ 3 ∧ k ≠ 1 ∧ k ∉ (sBoot 1 4 [0]).pkg.verified) :=
  ⟨⟨rfl, rfl, by decide, by decide⟩, by decide, ⟨rfl, by decide, by decide⟩, ⟨2, by decide, by decide, by decide, by decide⟩⟩

theorem wit_restarts : 3 ≤ (sI [0]).pkg.stage ∧ (sI [0]).pkg.bootFailed = false ∧ (sI [0]).pkg.fatal = false ∧ ((sI [0]).die 0).restart = false ∧ Reaches (sI [0, 3]) 0 ∧
    (({ sI [0] with dies := [(0, { Die.reset with restart := true, fifo := [(0, 1)] })] } : State).die 0).restart = true ∧
    (({ sI [0] with dies := [(0, { Die.reset with restart := true, fifo := [(0, 1)] })] } : State).die 0).fifo ≠ [] :=
  ⟨by decide, rfl, rfl, rfl, reachesI _, rfl, by decide⟩

def sPort (up : Bool) (args : List Nat) : State := { sI args with pkg := { Pkg.reset with stage := 3, ports := [(11, { up := up, retries := 0, frames := [] })] } }

/-- A bring-up of 3 joins of 4 packages in a row, one of two packages; a port that is up, one that is down, a whole frame and a bad one. -/
theorem wit_links : ([3, 0 * 64 + 1, 1 * 64 + 2, 2 * 64 + 63, 63 * 256] : List Nat) = [3, (sI []).pkg.num * 64 + 1, 1 * 64 + 2, 2 * 64 + 63, 63 * 256 + 0 * 16 + 0] ∧
    (sPort true [11]).portUp 11 = true ∧ (sPort false [11]).portUp 11 = false ∧ (sPort true [11]).lost = [] ∧ (ports (sPort true [11]) 11 (fun x => { x with up := false })).lost = [] ∧
    (List.replicate 128 0).length = 128 ∧ crc32c ((List.replicate 4 0).map (BitVec.ofNat 8)) ≠ 0 ∧
    lookD ({ sI [0, 3] with links := [(3, [(3, ⟨.nodeTake, [48]⟩)])] } : State).links (0 * 4 + 3) [] = (3, ⟨.nodeTake, [48]⟩) :: [] ∧ (7 < 8 ∧ 11 < 12) :=
  ⟨rfl, rfl, rfl, rfl, rfl, rfl, by decide, rfl, by decide⟩

/-- A flit that its sender holds, and nothing on the link before it; and a port that is down. -/
theorem wit_unsent : lookD ({ sI [0, 3] with unsent := [(3, [(3, ⟨.nodeTake, [48]⟩)])] } : State).links (0 * 4 + 3) [] = [] ∧
    lookD ({ sI [0, 3] with unsent := [(3, [(3, ⟨.nodeTake, [48]⟩)])] } : State).unsent (0 * 4 + 3) [] ≠ [] ∧
    lookD (sI [0, 3]).unsent (0 * 4 + 3) [] = [] ∧ (sPort false [11]).portUp 11 = false ∧ (sPort false [11]).lost = [] :=
  ⟨rfl, by decide, rfl, rfl, rfl⟩

def sPow (d : Die) (args : List Nat) : State :=
  { sI args with pkg := { Pkg.reset with stage := 3, verified := [0, 1, 2, 3] }, dies := [(0, d), (1, { Die.reset with step := 1 }), (2, { Die.reset with step := 1 }), (3, { Die.reset with step := 1 })] }
def slowest : State := { sPow Die.reset [2201, 2201, 104, 25, 25, 25] with dies := (upFrom 0 4).map (fun d => (d, { Die.reset with step := 0 })) }

theorem wit_changes : ((sPow { Die.reset with change := .rampUp 4 } [0]).die 0).change = .rampUp 4 ∧
    (((sPow { Die.reset with change := .relock 0, target := 0 } [0]).die 0).change = .relock 0 ∧ 0 < ((sPow { Die.reset with change := .relock 0 } [0]).die 0).step) ∧
    (((sPow { Die.reset with change := .relock 3, target := 3 } [0]).die 0).step ≤ 3) ∧
    (((sPow { Die.reset with change := .rampDown } [0]).die 0).target = ((sPow { Die.reset with change := .rampDown } [0]).die 0).step) ∧
    (((sPow { Die.reset with change := .rampDown, target := 4 } [0]).die 0).target ≠ ((sPow { Die.reset with change := .rampDown, target := 4 } [0]).die 0).step) := by decide

/-- The hottest sample that is cool, one that trips, a sample at the limit, just above it, at 95 in 100, and just below. -/
theorem wit_power : Cool (sPow Die.reset [2200, 2090, 104, 25, 25, 25]) 2200 2090 [104, 25, 25, 25] ∧ 2200 * 95 ≤ 2090 * 100 ∧ 2089 * 100 < 2200 * 95 ∧
    [114, 115, 25, 25].findIdx? (fun t => decide (115 ≤ t)) = some 1 ∧ 3 ∈ (sPow Die.reset []).pkg.verified ∧ (sPow Die.reset []).pkg.tripped = false ∧
    (Cool slowest 2201 2201 [104, 25, 25, 25] ∧ slowest.host.powerNext.getD slowest.host.powerLimit < 2201 ∧ ∀ d, d < 4 → (slowest.die d).step = 0) ∧
    (((sPow Die.reset []).die 0).step ≠ 0 ∧ ∀ e, e < 4 → e ≠ 0 → ((sPow Die.reset []).die e).step < ((sPow Die.reset []).die 0).step ∧ ((sPow Die.reset []).die e).step ≠ 0) :=
  ⟨⟨rfl, rfl, by decide, by decide, by decide⟩, by decide, by decide, rfl, by decide, rfl, ⟨⟨rfl, rfl, by decide, by decide, by decide⟩, by decide, by decide⟩, by decide⟩

theorem wit_scrub : (0, 0, 0) ∉ (sI [0, 0, 0, 2]).bad ∧ ¬(1 = 1 ∧ 7936 ≤ 7935) ∧ 3 ∉ (sI []).pkg.verified ∧
    (0, 0, 0) ∈ ({ sI [0, 0, 0, 2] with bad := [(0, 0, 0)] } : State).bad ∧ (0 : Nat) ≠ 1 ∧ (0 : Nat) ≠ 2 := by decide

/-- A notice of a page in a frame of partition 0, leased and free; and a notice of a page in no frame. -/
def frame0 : Frame := { size := 65536, leaf := 0x700000, space := 0x500000, va := 0x40000, back := 0, zfill := true, released := 0 }
def page0 (leases : Nat) (moving : Bool) : Page := { leases := leases, queued := true, overflow := false, moving := moving, counts := [8, 0, 0, 0, 0], dest := 0 }
def sMove (leases : Nat) (moving : Bool) (args : List Nat) : State :=
  { sI args with parts := [(0, { part0 0 with frames := [(0x20000000, frame0)] })], pages := [(0x2000, page0 leases moving)]
                 notices := [(0, { entries := [(0x20000000, 0)], deferred := 0, head := 0, tail := 1 })], frameChoice := [0x30000], mem := [(0x700000, 0x4D), (0x700003, 0x20), (0x20000000, 7)] }

theorem wit_notices : ((sMove 0 false [0]).noticesOf 0).entries = (0x20000000, 0) :: [] ∧ (sMove 0 false [0]).pages.wf ∧ (∀ p ∈ (sMove 0 false [0]).pages, p.2.overflow = false) ∧
    (sMove 1 false [0]).frameOf (pageOf 0x20000000) = some (0, 0x20000000, frame0) ∧ (sMove 1 false [0]).frameLeased 0x20000000 65536 = true ∧
    (sMove 0 false [0]).frameOf (pageOf 0x40000000) = none ∧ (sMove 0 false [0]).frameLeased 0x20000000 65536 = false :=
  ⟨rfl, by decide, by decide, rfl, rfl, rfl, rfl⟩

theorem wit_moves : ((sMove 0 true [0x2000]).page 0x2000).moving = true ∧ (sMove 0 true [0x2000]).frameOf 0x2000 = some (0, 0x20000000, frame0) ∧
    (sMove 0 true [0x2000]).part? 0 = some { part0 0 with frames := [(0x20000000, frame0)] } ∧ ({ part0 0 with frames := [(0x20000000, frame0)] } : Part).spent + 65536 ≤ 0x1000000 ∧
    (sMove 0 true [0x2000]).chooseFrame 0 65536 = some 0x30000 ∧ (sMove 0 true [0x2000]).mayAccessRun (sysMaster 0) 0x20000000 65536 permRd = true ∧
    (sMove 0 true [0x2000]).mayAccessRun (sysMaster 0) 0x30000 65536 permWr = true ∧ (sMove 0 true [0x2000]).mayAccess (sysMaster 0) 0x700000 permWr = true ∧
    (sMove 0 true [0x2000]).memBad 0x20000000 65536 = none ∧ (sMove 0 true [0x2000]).mem.wf ∧ (∀ k, k < 65536 → backed (0x30000 + k) = true) ∧
    (∀ k, k < 16 → backed (0x700000 + k) = true) ∧ 0x30000 + 65536 ≤ 0x700000 ∧ 0x2000 ∈ framePages 0x20000000 frame0 ∧ (sMove 0 true [0x2000]).pages.wf ∧
    memDie (0x2000 * 65536) = some 0 :=
  ⟨rfl, rfl, rfl, by decide, rfl, by decide +kernel, by decide +kernel, rfl, rfl, by decide, fun k h => backed_low _ (by omega), fun k h => backed_low _ (by omega), by decide, by decide,
    by decide, rfl⟩

/-- One operation waits for a place of a log that has one, and one waits for its turn under replay. -/
def partLog (mode : Nat) (held : List Waiter) (turns : List (Nat × Waiter)) : Part := { part0 mode with log := { log0 with held := held, turns := turns } }
def thWait : Thread := { th0 with status := .blocked, logWait := true }
def sLog (p : Part) (args : List Nat) : State := { bench thWait 0 with parts := [(0, p)], cur := none, args := args }

theorem wit_log_waits : ((partLog 1 [] []).log.held = [] ∧ bit (partLog 1 [] []).log.flags flagStalled = false) ∧
    ((partLog 1 [.thread 0 0] []).log.held = [.thread 0 0] ∧ (partLog 1 [.thread 0 0] []).log.wr + (partLog 1 [.thread 0 0] []).log.granted.length -
      (sLog (partLog 1 [.thread 0 0] []) [0]).readRd (partLog 1 [.thread 0 0] []) < Log.cap (partLog 1 [.thread 0 0] []) ∧
      (sLog (partLog 1 [.thread 0 0] []) [0]).thread? 0 0 = some thWait ∧ thWait.logWait = true ∧ (partLog 1 [.thread 0 0] []).log.granted = []) ∧
    ((sLog (partLog 2 [] [(0, .thread 0 0)]) [0, 0, 0, 0]).args = [0, 0, 0, 0] ∧ (partLog 2 [] [(0, .thread 0 0)]).log.turns = [(0, .thread 0 0)] ∧
      Untraced (sLog (partLog 2 [] [(0, .thread 0 0)]) [0, 0, 0, 0]) 0 0) ∧
    (∀ w ∈ (partLog 2 [] [(0, .thread 0 0)]).log.turns, w.1 = 1 → w.2.key ≠ [0, 0]) :=
  ⟨⟨rfl, rfl⟩, ⟨rfl, by decide, rfl, rfl, rfl⟩, ⟨rfl, rfl, rfl⟩, by decide⟩

/-! ### The whole machine -/

theorem wit_canonical : Canonical State.reset ∧ Canonical s0 := by
  refine ⟨?_, ?_⟩ <;> (unfold Canonical; decide)

theorem wit_events : IsEvent ⟨.packageReset, []⟩ ∧ IsEvent ⟨.resz 0 0 8, [0, 0]⟩ ∧ (∀ i ∈ State.reset.inputs, IsEvent i) ∧ backed (2 ^ 43) = false :=
  ⟨.inl rfl, .inr ⟨rfl, .inl ⟨_, _, _, rfl⟩⟩, (fun _ h => nomatch h), rfl⟩

/-- The bench as threads take their turn: an input, a due step, and the thread at a word, at one that is none, and beyond its code. -/
def sTurn (mem : Mem) (pc : Nat) : State := { bench { th0 with pc := pc } 0 with mem := mem, cur := none }

theorem wit_inputs : ({ sTurn [] 0x100000 with inputs := [⟨.packageReset, []⟩] } : State).inputs = ⟨.packageReset, []⟩ :: [] ∧
    (upNext { sTurn [] 0x100000 with inputs := [⟨.packageReset, []⟩] }).inputs = ⟨.packageReset, []⟩ :: [] ∧
    (upNext { sTurn [] 0x100000 with inputs := [⟨.packageReset, []⟩] }).pkg.tripped = false ∧
    (upNext { sTurn [] 0x100000 with inputs := [⟨.packageReset, []⟩] }).runnable ⟨.packageReset, []⟩ = true := ⟨rfl, rfl, rfl, rfl⟩

/-- An input for a die that relocks; and one that comes after a thermal trip. -/
def sWaits : State := { sTurn [] 0x100000 with inputs := [⟨.courierJobStart, [0]⟩], dies := [(0, { Die.reset with change := .relock 1 })] }
def sTripped : State := { sTurn [] 0x100000 with inputs := [⟨.counterHalve, [0]⟩], pkg := { Pkg.reset with tripped := true } }
theorem wit_inputs_wait : (upNext sWaits).inputs = ⟨.courierJobStart, [0]⟩ :: [] ∧ (upNext sWaits).pkg.tripped = false ∧
    (upNext sWaits).runnable ⟨.courierJobStart, [0]⟩ = false ∧ (upNext sTripped).inputs = ⟨.counterHalve, [0]⟩ :: [] ∧ (upNext sTripped).pkg.tripped = true :=
  ⟨rfl, rfl, rfl, rfl, rfl⟩

theorem wit_due : ∃ p x, (upNext { State.reset with pending := [⟨.matrixStart, [0]⟩] }).nextDue = some (⟨.matrixStart, [0]⟩, p, x) ∧
    (upNext { State.reset with pending := [⟨.matrixStart, [0]⟩] }).pickThread = none := ⟨_, _, rfl, rfl⟩

theorem fetches (mem : Mem) (pc : Nat) (th : Thread) (h : (upNext (sTurn mem pc)).inputs = [])
    (h2 : (upNext (sTurn mem pc)).pkg.tripped = false ∧ (upNext (sTurn mem pc)).pkg.fatal = false ∧ (upNext (sTurn mem pc)).pkg.frozen = false)
    (h3 : (upNext (sTurn mem pc)).nextDue = none) (h4 : (upNext (sTurn mem pc)).pickThread = some (0, 0)) (h5 : (upNext (sTurn mem pc)).thread? 0 0 = some th)
    (h6 : (upNext (sTurn mem pc)).breakpoint 0 0 th = none) (h7 : th.op = none) : Fetches (upNext (sTurn mem pc)) 0 0 th :=
  { inputs := h, runs := h2, turn := .inl h3, picked := h4, thread := h5, free := h6, fresh := h7 }

/-- halt (R389) at the last word of the code, a word of no instruction there, and a pc beyond the code. -/
theorem wit_fetch : ∃ th, Fetches (upNext (sTurn [(0x10003C, 7), (0x10003F, 0xC8)] 0x10003C)) 0 0 th ∧
    (upNext (sTurn [(0x10003C, 7), (0x10003F, 0xC8)] 0x10003C)).fetchAddr 0 th = some 0x10003C ∧
    decode ((upNext (sTurn [(0x10003C, 7), (0x10003F, 0xC8)] 0x10003C)).mem.bytes 0x10003C 4) = .ok (.halt, []) :=
  ⟨_, fetches _ _ _ rfl ⟨rfl, rfl, rfl⟩ rfl rfl rfl rfl rfl, rfl, by decide +kernel⟩

theorem wit_no_instruction : ∃ th, Fetches (upNext (sTurn [(0x10003F, 0xFF)] 0x10003C)) 0 0 th ∧
    (upNext (sTurn [(0x10003F, 0xFF)] 0x10003C)).fetchAddr 0 th = some 0x10003C ∧
    ∃ e, decode ((upNext (sTurn [(0x10003F, 0xFF)] 0x10003C)).mem.bytes 0x10003C 4) = .error e :=
  ⟨_, fetches _ _ _ rfl ⟨rfl, rfl, rfl⟩ rfl rfl rfl rfl rfl, rfl, ⟨.major, by decide +kernel⟩⟩

/-- A word with an error, and a thread that goes on with the instruction that it waits in. -/
def sPoison : State := { sTurn [] 0x100000 with bad := [(0, 0, 0x8000)] }
def sGoes : State := { sTurn [] 0x100000 with cores := [(0, { Core.reset with threads := [(0, { th0 with op := some { instr := .acqs 0, pc := 0x100000, hint := none, args := [] } })] })] }
theorem wit_continues : (∃ th b, Fetches (upNext sPoison) 0 0 th ∧ (upNext sPoison).fetchAddr 0 th = some 0x100000 ∧ (upNext sPoison).memBad 0x100000 4 = some b) ∧
    (∃ th o, NextThread (upNext sGoes) 0 0 th ∧ th.op = some o) :=
  ⟨⟨_, _, { inputs := rfl, runs := ⟨rfl, rfl, rfl⟩, turn := .inl rfl, picked := rfl, thread := rfl, free := rfl, fresh := rfl }, rfl, rfl⟩,
    ⟨_, _, { inputs := rfl, runs := ⟨rfl, rfl, rfl⟩, turn := .inl rfl, picked := rfl, thread := rfl }, rfl⟩⟩

theorem wit_beyond : ∃ th, Fetches (upNext (sTurn [] 0x100040)) 0 0 th ∧ (upNext (sTurn [] 0x100040)).fetchAddr 0 th = none :=
  ⟨_, fetches _ _ _ rfl ⟨rfl, rfl, rfl⟩ rfl rfl rfl rfl rfl, rfl⟩

/-- Breakpoint entry 0 matches the thread of slot 0 at its pc (R236). -/
def sBreak : State :=
  { sTurn [] 0x100000 with dies := [(0, { Die.reset with dbg := { Debug.reset with enable := true, bp := [(0, 2 ^ 63 + 2 ^ 62 + 0x100000)] } })] }
theorem wit_break : ∃ th n, NextThread (upNext sBreak) 0 0 th ∧ th.op = none ∧ (upNext sBreak).breakpoint 0 0 th = some n :=
  ⟨_, _, { inputs := rfl, runs := ⟨rfl, rfl, rfl⟩, turn := .inl rfl, picked := rfl, thread := rfl }, rfl, rfl⟩

theorem wit_nothing : (upNext State.reset).nextDue = none ∧ (upNext State.reset).pickThread = none ∧ ThreadsTurn (upNext State.reset) :=
  ⟨rfl, rfl, ⟨rfl, ⟨rfl, rfl, rfl⟩, .inl rfl⟩⟩

/-- The dies of a package that runs, relocks, is frozen and has tripped. -/
theorem wit_time : s0.pkg.tripped = false ∧ (s0.die 3).relocking = false ∧ s0.pkg.frozen = false ∧ ({ Die.reset with change := .relock 1 } : Die).relocking = true ∧
    ({ Pkg.reset with frozen := true } : Pkg).frozen = true ∧ ({ Pkg.reset with tripped := true } : Pkg).tripped = true := by decide

theorem wit_clocks : Core.reset.readyNone + Core.reset.readyOne + Core.reset.readyTwo + Core.reset.readyFour = ((1 : Word64) - 1).setWidth 16 ∧
    ((s0.partOfCore 0).bind s0.part?).any (·.halted) = false ∧
    ((({ s0 with parts := [(0, { part0 0 with halted := true })] } : State).partOfCore 0).bind ({ s0 with parts := [(0, { part0 0 with halted := true })] } : State).part?).any (·.halted) = true ∧
    th0.status ≠ .finished := by decide

theorem wit_decoded : (Instr.add 3 4 5).fieldsFit = true ∧ decodeWord 0x04310500 = .ok (.add 3 4 5) ∧ decodeWord 0xC8000007 = .ok .halt := by
  refine ⟨by decide, rfl, rfl⟩

theorem wit_names : th0.field? 3 = some ⟨3, 0, [250, 10, 0, 7]⟩ ∧ thW.depth % 4 = 3 ∧ 0 ≠ thW.depth % 4 ∧
    (∃ e, look thW.names 1 = some e ∧ e.desc.win = true) := ⟨rfl, rfl, by decide, _, rfl, rfl⟩

/-- The bench traced: selection register 0 takes thread 0 of core 0, into a ring of 4 KiB at 0xA00000 (R243, R244). -/
def sTrc (th : Thread) : State :=
  { bench th 0 with dies := [(0, { Die.reset with dbg := { Debug.reset with enable := true, sel := [(0, 2 ^ 63)], traceBase := 0xA00000, traceSize := 4096 } })] }

theorem wit_traced : (sTrc thJ).mem.wf ∧ (sTrc thJ).traced 0 0 = true ∧ (∀ k, k < 16 → backed (0xA00000 + 255 % 256 * 16 + k) = true) ∧
    Issues (sTrc th0) (.bt 5 15) (ctx (sTrc th0) th0 (.bt 5 15)) ∧ (ctx (sTrc th0) th0 (.bt 5 15)).target (th0.pc + 4 * signed 19 15) = .ok 0x10003C ∧
    Issues (sTrc th0) (.bf 6 0) (ctx (sTrc th0) th0 (.bf 6 0)) ∧ Issues (sTrc thJ) (.jr 0) (ctx (sTrc thJ) thJ (.jr 0)) ∧ Operand (ctx (sTrc thJ) thJ (.jr 0)) 0 isInt u64 ∧
    Issues (sTrc thJ) (.callr 0) (ctx (sTrc thJ) thJ (.callr 0)) ∧ NoSpill (ctx (sTrc thJ) thJ (.callr 0)) ∧ Issues (sTrc thJ) .ret (ctx (sTrc thJ) thJ .ret) ∧
    (ctx (sTrc thJ) thJ .ret).target thJ.lk.toNat = .ok 0x100008 ∧ thJ.depth = 0 ∧ th0.hint = none ∧
    Issues (sTrc thJ) (.dbnz 3 3) (ctx (sTrc thJ) thJ (.dbnz 3 3)) :=
  ⟨by decide, rfl, fun k h => backed_low _ (by omega), ⟨rfl, rfl, rfl⟩, rfl, ⟨rfl, rfl, rfl⟩, ⟨rfl, rfl, rfl⟩, ⟨rfl, rfl, rfl⟩, ⟨rfl, rfl, rfl⟩, .inl (by decide),
    ⟨rfl, rfl, rfl⟩, rfl, rfl, rfl, ⟨rfl, rfl, rfl⟩⟩

/-- A return from depth 1, a `callr` held while its frame's rows are spilled, and a return held for the fill of its frame. -/
def thR1 : Thread := { thJ with depth := 1 }
def thCs : Thread := { thJ.wait (.callr 0) none .held [0x100008] with depth := 3 }
def thFr : Thread := { thJ.wait .ret none .held [0x100008] with depth := 1, fill := [(0, 64)] }
def sTa (th : Thread) : State := { sTrc th with cur := none, args := [0, 0] }

theorem wit_traced_frames : Issues (sTrc thR1) .ret (ctx (sTrc thR1) thR1 .ret) ∧ (ctx (sTrc thR1) thR1 .ret).target thR1.lk.toNat = .ok 0x100008 ∧
    thR1.depth - 1 ∉ thR1.spilled ∧ thR1.depth < 4 ∧
    (∃ x, (sTa thCs).opCtx? 0 0 = some (x, [0x100008]) ∧ x.i = .callr 0 ∧ x.th.status = .held ∧ x.frameEcc ((x.th.depth - 3) % 4) = .ok ()) ∧
    (∃ x, (sTa thFr).opCtx? 0 0 = some (x, [0x100008]) ∧ x.i = .ret ∧ x.th.status = .held ∧ x.th.fill = [(x.th.depth - 1, 64)] ∧ x.th.depth < 4) ∧
    Issues (sTrc { th0 with hint := some 6291456 }) (.addi 2 0 0) (ctx (sTrc { th0 with hint := some 6291456 }) { th0 with hint := some 6291456 } (.addi 2 0 0)) :=
  ⟨⟨rfl, rfl, rfl⟩, rfl, by decide, by decide, ⟨_, rfl, rfl, rfl, rfl⟩, ⟨_, rfl, rfl, rfl, rfl, by decide⟩, ⟨rfl, rfl, rfl⟩⟩

theorem wit_traced_loop : ∃ n, Operand (ctx (sTrc thJ) thJ (.dbnz 3 3)) 3 isInt (desc .uns 64 1 .wrap) ∧
    fitInt u64 (rdS u64 ((val (ctx (sTrc thJ) thJ (.dbnz 3 3)) 3).headD 0) - 1) = some n ∧ n ≠ 0 ∧
    (ctx (sTrc thJ) thJ (.dbnz 3 3)).target (thJ.pc + 4 * signed 18 3) = .ok 0x10000C ∧ (sTrc thJ).task? thJ.task = some task0 ∧ task0.ending = none :=
  ⟨_, ⟨rfl, rfl, rfl⟩, rfl, by decide, rfl, rfl, rfl⟩

/-- A task whose partition records: its log of 1,024 bytes has 60 slots, of which one is free. -/
def partRec : Part := { part0 1 with log := { log0 with wr := 58 } }
def thLog : Thread := { th0 with names := [name 2 u64 2 [0]] }
def sRec (p : Part) (mem : Mem) : State := { bench thLog 0 with parts := [(0, p)], mem := mem }
def xRec (p : Part) (mem : Mem) : Ctx := ctx (sRec p mem) thLog (.qtry 2 7)

theorem wit_recorded : Issues (sRec partRec []) (.qtry 2 7) (xRec partRec []) ∧ Dest (xRec partRec []) 2 isAny u64 ∧ (xRec partRec []).syncBad (0x500 + 8 * 7) = .ok () ∧
    ((xRec partRec []).k.queue 7).vals = [] ∧ Recording (sRec partRec []) (xRec partRec []) 0 partRec ∧ lookD partRec.log.seqs 0 0 + 1 < 2 ^ 32 :=
  ⟨⟨rfl, rfl, rfl⟩, ⟨rfl, rfl⟩, rfl, rfl, ⟨rfl, rfl, rfl, rfl, ⟨rfl, rfl⟩, by decide, by decide, fun k h => backed_low _ (by
    have : k < 1024 := h
    show 0x800000 + k < _; omega)⟩, by decide⟩

/-- An input log of one source, core 0, with one record: the queue operation of slot 0, and one of slot 1 (R213, R220). -/
def logMem (w0 w1 : Nat) : Mem :=
  let put8 := fun (m : Mem) (a v : Nat) => ((upFrom 0 8).zip (leBytes v 8)).foldl (fun m p => Mem.set m (a + p.1) p.2) m
  put8 (put8 (put8 (put8 (put8 [] 0x800000 1) 0x800028 1) 0x800040 (2 ^ 32)) 0x800050 w0) 0x800058 w1
def goodHash : Nat := crc32c (leBytes 7 1 ++ leBytes 0 8) % 65536

theorem wit_replay : (sRec (part0 2) (logMem (5 * 2 ^ 60 + 65536) (0xFFF * 2 ^ 52 + 2 * 65536 + goodHash))).nextRecord (part0 2) 0 =
      some (1, 5 * 2 ^ 60 + 65536, 0xFFF * 2 ^ 52 + 2 * 65536 + goodHash) ∧
    (bits (5 * 2 ^ 60 + 65536) 15 13 = 0 ∧ bits (5 * 2 ^ 60 + 65536) 12 4 = 0 ∧ bits (5 * 2 ^ 60 + 65536) 3 0 = 0 ∧ bits (5 * 2 ^ 60 + 65536) 63 60 = 5 ∧
      bits (0xFFF * 2 ^ 52 + 2 * 65536 + goodHash) 63 52 = 0xFFF ∧ bits (0xFFF * 2 ^ 52 + 2 * 65536 + goodHash) 19 16 = 2 ∧
      bits (0xFFF * 2 ^ 52 + 2 * 65536 + goodHash) 15 0 = goodHash) ∧
    (bits (5 * 2 ^ 60 + 65536 + 1) 3 0 ≠ 0 ∧ bits (6 * 2 ^ 60 + 65536) 63 60 ≠ 5) ∧ (sRec (part0 2) []).nextRecord (part0 2) 0 = none ∧
    bit ((sRec (part0 2) []).mem.read (0x800000 + 20) 4) flagMarked = false ∧ Untraced (sRec (part0 2) []) 0 0 := by
  refine ⟨rfl, ?_, ?_, rfl, rfl, rfl⟩ <;> decide

/-! ### Results worked out in the spec -/

/-- The lanes of a name after one instruction, and the cause that it traps by. -/
def after (th : Thread) (i : Instr) (n : Nat) : Option (List Nat) :=
  match exec i (bench th 0) with
  | .next t => (t.thread? 0 0).map (fun x => x.lanes 0 n)
  | _ => none
def causeOf (th : Thread) (i : Instr) : Option (Nat × Nat) :=
  match exec i (bench th 0) with
  | .next t => (t.thread? 0 0).bind (fun x => if x.trapped then some (x.cause.toNat % 256, x.eval.toNat) else none)
  | _ => none

def sgn8 (p : Policy) : Desc := desc .sgn 8 1 p
/-- n0 and n1 are signed bytes a and b, n2, n3 and n4 signed bytes that wrap, saturate and trap. -/
def thRes (a b : Nat) : Thread := { th0 with names := [name 0 (sgn8 .wrap) 0 [a], name 1 (sgn8 .wrap) 1 [b], name 2 (sgn8 .wrap) 2 [9], name 3 (sgn8 .sat) 3 [9], name 4 (sgn8 .trap) 4 [9]] }

/-- R289: the table of worked values: −128 / −1 is 128, and divu reads 128 and 255. -/
theorem test_div : after (thRes 128 255) (.div 2 0 1) 2 = some [128] ∧ after (thRes 128 255) (.div 3 0 1) 3 = some [127] ∧
    causeOf (thRes 128 255) (.div 4 0 1) = some (OVF, 0) ∧ causeOf (thRes 5 0) (.div 2 0 1) = some (DIVZ, 0) := by decide +kernel

theorem test_rem : after (thRes 128 255) (.rem 2 0 1) 2 = some [0] ∧ after (thRes 128 255) (.divu 2 0 1) 2 = some [0] ∧
    after (thRes 128 255) (.remu 2 0 1) 2 = some [128] ∧ after (thRes 128 255) (.remu 3 0 1) 3 = some [127] ∧
    after (thRes 249 2) (.div 2 0 1) 2 = some [253] ∧ after (thRes 249 2) (.rem 2 0 1) 2 = some [255] := by decide +kernel

/-- R289: mulh of −32,768 by itself into 16 and into 32 bits. -/
theorem test_mulh : after { th0 with names := [name 0 (desc .sgn 16 1 .wrap) 0 [32768], name 1 (desc .sgn 16 1 .wrap) 1 [0], name 2 (desc .sgn 32 1 .wrap) 2 [7]] }
      (.mulh 1 0 0) 1 = some [16384] ∧
    after { th0 with names := [name 0 (desc .sgn 16 1 .wrap) 0 [32768], name 2 (desc .sgn 32 1 .wrap) 2 [7]] } (.mulh 2 0 0) 2 = some [0] := by decide +kernel

/-- R286: 5 XOR −1 is −6: 250, 0 or OVF; R146: 3 − 5 saturates at 0. -/
def thXor (p : Policy) : Thread := { th0 with names := [name 0 (desc .uns 8 1 .wrap) 0 [5], name 1 (desc .uns 8 1 p) 1 [3]] }
theorem test_xori : after (thXor .wrap) (.xori 1 0 4095) 1 = some [250] ∧ after (thXor .sat) (.xori 1 0 4095) 1 = some [0] ∧ causeOf (thXor .trap) (.xori 1 0 4095) = some (OVF, 0) ∧
    after (thXor .sat) (.sub 1 1 0) 1 = some [0] := by decide +kernel

/-- R297, R298: −75, 3, 127 and −1 into four planes, and back from all and from two of them. -/
def thPl : Thread :=
  { th0 with names := [name 0 (desc .sgn 8 4 .wrap) 0 [0xB5, 0x03, 0x7F, 0xFF], name 1 (desc .uns 4 4 .wrap) 1 [0, 0, 0, 0], name 2 (desc .uns 4 4 .wrap) 2 [9, 12, 13, 13]] }
theorem test_planes : after thPl (.pack 1 0) 1 = some [9, 12, 13, 13] ∧ after thPl (.unpk 0 2 4) 0 = some [251, 0, 7, 255] ∧
    after thPl (.unpk 0 2 2) 0 = some [254, 0, 1, 255] := by decide +kernel

/-- R161: the worked K-block sum: the sticky half unit lifts the tie, and added to 2.0 it is a tie to even. -/
theorem test_sticky : (rne64 (blockSum true [.num false 1 1, .num false 1 (2 ^ 53), .num false 1 (2 ^ 160)])) = fmtF64.value 0x3FF0000000000001 ∧
    bits64 (FVal.add false (fmtF64.value 0x4000000000000000) (rne64 (blockSum true [.num false 1 1, .num false 1 (2 ^ 53), .num false 1 (2 ^ 160)]))) = 0x4008000000000000 := by
  decide +kernel

/-- R338: 7 at the word is 9 and n3 stays 7; on the second run n3 is 9. -/
def thCas (e : Nat) : Thread := { th0 with names := [name 3 u64 3 [e], name 4 u64 4 [0x40], name 5 u64 5 [9]] }
def sCas (th : Thread) (v : Byte) : State := { bench th 0 with loc := [(0x40, v)] }
def swap (v : Byte) : Option (List Nat × Nat) :=
  match exec (.amoCas 3 4 5 3 0) (sCas (thCas 7) v) with
  | .next t => (t.thread? 0 0).map (fun x => (x.lanes 0 3, t.loc.read 0x40 8))
  | _ => none
theorem test_cas : swap 7 = some ([7], 9) ∧ swap 9 = some ([9], 9) := by decide +kernel

/-- R269: hint.mod rup before fmul into an f16 name that traps: 65,504 × 2 is no f16 value, and cw.epc is the hint's address. -/
def thFx (hint : Option Nat) (rm : Nat) : Thread :=
  { th0 with pc := if hint = none then 0x100000 else 0x100004, hint := hint, names := [name 0 (desc .f16 16 1 .trap) 0 [0x7BFF], name 1 (desc .f16 16 1 .wrap) 1 [rm]] }
theorem test_hinted : (match exec (.fmul 0 0 1) (bench (thFx (some 0x00900000) 0x4000) 0) with
    | .next t => (t.thread? 0 0).map (fun x => (x.cause.toNat % 256, x.epc.toNat, x.hint))
    | _ => none) = some (FPX, 0x100000, none) := by decide +kernel

/-- R303: a counter of 1 falls through as 0; R237: brk stops by BRK with its operand. -/
theorem test_counted : after thJ (.dbnz 1 3) 1 = some [0] ∧ causeOf th0 (.brk 7) = some (BRK, 0x47) ∧ causeOf th0 (.trap 0 4) = some (4, 5) := by decide +kernel
end

end Sys2Proof.Tests
end

section
/-!
PROOFS. Integer arithmetic: what fit() holds, the shared courses of integer instructions, and the functions of immediates, strings
and shifts that they are said with.
-/

namespace Sys2Proof.Proofs

open Sys2Proof Sys2Proof.Machine Sys2Proof.Claims

/-! ### fit() of an integer (R7) -/

theorem bitsOf_cast (w : Nat) (v : Int) : (bitsOf w v : Int) = v % 2 ^ w :=
  Int.toNat_of_nonneg (Int.emod_nonneg v (by positivity))

theorem bitsOf_lt (w : Nat) (v : Int) : bitsOf w v < 2 ^ w := by
  have h : v % 2 ^ w < 2 ^ w := Int.emod_lt_of_pos v (by positivity)
  zify
  rwa [bitsOf_cast]

/-- The strings of w bits are twice those below the sign bit. -/
theorem two_pow_eq_double {w : Nat} (hw : 1 ≤ w) : (2 : Int) ^ w = 2 * 2 ^ (w - 1) := by
  rw [← pow_succ', Nat.sub_add_cancel hw]

/-- A value in the range is read back from its string. -/
theorem extInt_bitsOf {k : Kind} {w : Nat} {v : Int} (hw : 1 ≤ w) (hlo : rangeLo k w ≤ v) (hhi : v ≤ rangeHi k w) :
    extInt k w (bitsOf w v) = v := by
  have hp : (0 : Int) < 2 ^ (w - 1) := by positivity
  have hd := two_pow_eq_double hw
  unfold extInt
  zify
  rw [bitsOf_cast]
  unfold rangeLo at hlo
  unfold rangeHi at hhi
  by_cases hk : k = .sgn
  · rw [if_pos hk] at hlo hhi
    rcases le_or_gt 0 v with h0 | h0
    · rw [Int.emod_eq_of_lt h0 (by omega), if_neg (by omega)]
    · rw [← Int.add_emod_right, Int.emod_eq_of_lt (by omega) (by omega), if_pos ⟨hk, by omega⟩]
      omega
  · rw [if_neg hk] at hlo hhi
    rw [if_neg (fun h => hk h.1), Int.emod_eq_of_lt hlo (by omega)]

/-- Any value is read back from its string modulo 2^w. -/
theorem extInt_bitsOf_modEq (k : Kind) (w : Nat) (v : Int) : (extInt k w (bitsOf w v) - v) % 2 ^ w = 0 := by
  have h : (2 ^ w : Int) ∣ v % 2 ^ w - v := (dvd_sub_comm).mp Int.dvd_self_sub_emod
  apply Int.emod_eq_zero_of_dvd
  unfold extInt
  split
  · rw [bitsOf_cast, sub_right_comm]
    exact Int.dvd_sub h (dvd_refl _)
  · rwa [bitsOf_cast]

theorem rangeLo_le_rangeHi (k : Kind) {w : Nat} (hw : 1 ≤ w) : rangeLo k w ≤ rangeHi k w := by
  have hp : (0 : Int) < 2 ^ (w - 1) := by positivity
  have hd := two_pow_eq_double hw
  unfold rangeLo rangeHi
  split <;> omega

theorem fitInt_in {d : Desc} {v : Int} (h : rangeLo d.kind d.width ≤ v ∧ v ≤ rangeHi d.kind d.width) :
    fitInt d v = some (bitsOf d.width v) := if_pos h

section Outside

variable {d : Desc} {v : Int} (h : ¬(rangeLo d.kind d.width ≤ v ∧ v ≤ rangeHi d.kind d.width))
include h

theorem fitInt_wrap (hp : d.pol = .wrap) : fitInt d v = some (bitsOf d.width v) := by
  unfold fitInt
  rw [if_neg h, hp]

theorem fitInt_sat (hp : d.pol = .sat) :
    fitInt d v = some (bitsOf d.width (if v < rangeLo d.kind d.width then rangeLo d.kind d.width else rangeHi d.kind d.width)) := by
  unfold fitInt
  rw [if_neg h, hp]

theorem fitInt_trap (hp : d.pol = .trap) : fitInt d v = none := by
  unfold fitInt
  rw [if_neg h, hp]

end Outside

theorem fitIntegerHold : FitIntegerHold := by
  intro d v _ hw _
  refine ⟨fun h => ⟨_, fitInt_in h, bitsOf_lt _ _, extInt_bitsOf hw h.1 h.2⟩, fun h => ⟨fun hp => ?_, fun hp => ?_, fitInt_trap h⟩⟩
  · exact ⟨_, fitInt_wrap h hp, bitsOf_lt _ _, extInt_bitsOf_modEq _ _ _⟩
  · refine ⟨_, fitInt_sat h hp, bitsOf_lt _ _, ?_⟩
    have hle := rangeLo_le_rangeHi d.kind hw
    split
    · exact extInt_bitsOf hw le_rfl hle
    · exact extInt_bitsOf hw hle le_rfl

/-! ### The shared courses of integer instructions -/

/-- The lanes that a course computes where every one of them is assigned. -/
theorem eachLane_fits {dd : Desc} {r : List Nat} {g : Nat → Int} (h : PerLane dd.lanes r (fun l v => fitInt dd (g l) = some v)) :
    eachLane (fun l => orTrap OVF l (fitInt dd (g l))) 0 dd.lanes = .ok r :=
  eachLane_ok _ _ _ h.1 fun l hl => by
    rw [Nat.zero_add]
    exact orTrap_some (h.2 l hl)

/-- The lowest lane that is not assigned traps OVF. -/
theorem eachLane_overflows {dd : Desc} {k : Nat} {g : Nat → Int} (hk : k < dd.lanes) (hlow : ∀ l, l < k → (fitInt dd (g l)).isSome)
    (hnone : fitInt dd (g k) = none) : eachLane (fun l => orTrap OVF l (fitInt dd (g l))) 0 dd.lanes = trap OVF k :=
  eachLane_error _ _ _ hk
    (fun l hl => by
      obtain ⟨v, hv⟩ := Option.isSome_iff_exists.mp (hlow l hl)
      exact ⟨v, by rw [Nat.zero_add]; exact orTrap_some hv⟩)
    (by rw [Nat.zero_add, hnone]; rfl)

section Courses

variable {s : State} {i : Instr} {x : Ctx} {d a b : Nat} {da db dd : Desc}

theorem intBinary_next {r : List Nat} {f : Desc → Desc → Nat → Nat → Int} (h : Issues s i x) (ha : Source x a isInt da dd)
    (hb : Source x b isInt db dd) (hd : Dest x d isInt dd)
    (hr : PerLane dd.lanes r (fun l v => fitInt dd (f da db (lane (val x a) l) (lane (val x b) l)) = some v)) :
    intBinary i d a b f s = .next (retired s x (x.th.setLanes d r)) := by
  refine issue_next h (g := own x (fun th => th.setLanes d r)) ?_
  simp only [ha.int hd, hb.int hd, check_int hd, ha.read, hb.read, bind, Except.bind, eachLane_fits hr]

theorem intBinary_traps {k : Nat} {f : Desc → Desc → Nat → Nat → Int} (h : Issues s i x) (ha : Source x a isInt da dd)
    (hb : Source x b isInt db dd) (hd : Dest x d isInt dd) (hk : k < dd.lanes)
    (hlow : ∀ l, l < k → (fitInt dd (f da db (lane (val x a) l) (lane (val x b) l))).isSome)
    (hnone : fitInt dd (f da db (lane (val x a) k) (lane (val x b) k)) = none) :
    intBinary i d a b f s = .next (trapped s x OVF k) := by
  refine issue_traps h ?_
  simp only [ha.int hd, hb.int hd, check_int hd, ha.read, hb.read, bind, Except.bind, eachLane_overflows hk hlow hnone, trap]

/-- The course of the multiplier, where no lane raises DIVZ. -/
theorem intDivide_traps {k : Nat} {f : Desc → Desc → Desc → Nat → Nat → Int} (h : Issues s i x) (ha : Source x a isInt da dd)
    (hb : Source x b isInt db dd) (hd : Dest x d isInt dd) (hk : k < dd.lanes)
    (hlow : ∀ l, l < k → (fitInt dd (f dd da db (lane (val x a) l) (lane (val x b) l))).isSome)
    (hnone : fitInt dd (f dd da db (lane (val x a) k) (lane (val x b) k)) = none) :
    intDivide i d a b (fun dd da db u v => some (f dd da db u v)) s = .next (trapped s x OVF k) := by
  refine issue_traps h ?_
  simp only [ha.int hd, hb.int hd, check_int hd, ha.read, hb.read, bind, Except.bind, eachLane_overflows hk hlow hnone, trap]

theorem intUnary_next {r : List Nat} {f : Ctx → Desc → Nat → Int} (h : Issues s i x) (ha : Source x a isInt da dd)
    (hd : Dest x d isInt dd) (hr : PerLane dd.lanes r (fun l v => fitInt dd (f x da (lane (val x a) l)) = some v)) :
    intUnary i d a f s = .next (retired s x (x.th.setLanes d r)) := by
  refine issue_next h (g := own x (fun th => th.setLanes d r)) ?_
  simp only [ha.int hd, check_int hd, ha.read, bind, Except.bind, eachLane_fits hr]

end Courses

/-- An instruction that runs the two-operand course with a function computes that function. -/
theorem intBinary_of_course {mk : Nat → Nat → Nat → Instr} {f : Desc → Desc → Desc → Nat → Nat → Int}
    (hex : ∀ dd d a b s, exec (mk d a b) s = intBinary (mk d a b) d a b (f dd) s) : IntBinary mk f := by
  intro s x d a b da db dd r h ha hb hd hr
  rw [hex dd]
  exact intBinary_next h ha hb hd hr

theorem intOverflow_of_course {mk : Nat → Nat → Nat → Instr} {f : Desc → Desc → Desc → Nat → Nat → Int}
    (hex : ∀ dd d a b s, exec (mk d a b) s = intBinary (mk d a b) d a b (f dd) s) : IntOverflow mk f := by
  intro s x d a b da db dd k h ha hb hd hk hlow hnone
  rw [hex dd]
  exact intBinary_traps h ha hb hd hk hlow hnone

theorem intUnary_of_course {mk : Nat → Nat → Nat → Instr} {f : Ctx → Desc → Nat → Nat → Int}
    (hex : ∀ d a imm s, exec (mk d a imm) s = intUnary (mk d a imm) d a (fun x da u => f x da u imm) s) : IntUnary mk f := by
  intro s x d a imm da dd r h ha hd hr
  rw [hex]
  exact intUnary_next h ha hd hr

theorem exec_minu (d a b : Nat) (s : State) :
    exec (.minu d a b) s = intBinary (.minu d a b) d a b (fun _ _ u v => min (u : Int) v) s := by
  show execMinu d a b s = _
  simp only [execMinu, Nat.cast_min]

theorem exec_maxu (d a b : Nat) (s : State) :
    exec (.maxu d a b) s = intBinary (.maxu d a b) d a b (fun _ _ u v => max (u : Int) v) s := by
  show execMaxu d a b s = _
  simp only [execMaxu, Nat.cast_max]

theorem exec_abs (d a : Nat) (s : State) : exec (.abs d a) s = intUnary (.abs d a) d a (fun _ da u => |rdS da u|) s := by
  show execAbs d a s = _
  simp only [execAbs, Int.natCast_natAbs]

theorem exec_mul (d a b : Nat) (s : State) :
    exec (.mul d a b) s = intDivide (.mul d a b) d a b (fun _ da db u v => some (rdS da u * rdS db v)) s := rfl

theorem integerArithmeticHold : IntegerArithmeticHold := by
  refine ⟨?_, ?_, ?_, ?_, ?_, ?_, ?_, ?_, ?_, ?_, ?_, ?_, ?_, ?minu, ?maxu⟩
  case minu => exact intBinary_of_course fun _ => exec_minu
  case maxu => exact intBinary_of_course fun _ => exec_maxu
  all_goals exact intBinary_of_course fun _ _ _ _ _ => rfl

theorem integerOverflowTrapsHold : IntegerOverflowTrapsHold :=
  ⟨intOverflow_of_course fun _ _ _ _ _ => rfl, intOverflow_of_course fun _ _ _ _ _ => rfl,
    intOverflow_of_course fun _ _ _ _ _ => rfl, fun _ _ _ _ _ _ _ _ _ h ha hb hd hk hlow hnone => by
      rw [exec_mul]
      exact intDivide_traps (f := fun _ da db u v => rdS da u * rdS db v) h ha hb hd hk hlow hnone⟩

theorem integerImmediatesHold : IntegerImmediatesHold := by
  refine ⟨?abs, ?_, ?_, ?_, ?_, ?_, ?_, ?_, ?_, ?_, ?_, ?_, ?_, ?_⟩
  case abs => exact intUnary_of_course fun d a _ => exec_abs d a
  all_goals exact intUnary_of_course fun _ _ _ _ => rfl

/-! ### Immediates (R276, R281) -/

theorem hintHi_none {x : Ctx} (h : x.hint = none) : x.hintHi = none := by
  unfold Ctx.hintHi
  rw [h]

/-- The word of `hint.imm` gives its 22 bits. -/
theorem hintHi_hintImm {x : Ctx} {hi : Nat} (hhi : hi < 4194304) (h : x.hint = some (4194304 + hi)) : x.hintHi = some hi := by
  have hk : hintKind (4194304 + hi) = 1 := by
    unfold hintKind bits
    omega
  have hb : bits (4194304 + hi) 21 0 = hi := by
    unfold bits
    omega
  unfold Ctx.hintHi
  rw [h]
  simp only [hk, hb, if_true]

theorem immediateValuesHold : ImmediateValuesHold := by
  intro x imm himm
  refine ⟨fun h => ?_, fun hi hhi h => ?_⟩
  · unfold Ctx.immI
    rw [hintHi_none h]
    simp only [signed]
    split <;> split <;> omega
  · unfold Ctx.immI
    rw [hintHi_hintImm hhi h]
    simp only [signed]
    split <;> split <;> push_cast <;> omega

/-! ### String operations (R281) -/

/-- The bits of a string are the low bits of the infinite two's-complement string. -/
theorem testBit_bitsOf (w i : Nat) (a : Int) : (bitsOf w a).testBit i = (decide (i < w) && a.testBit i) := by
  cases a with
  | ofNat m =>
    have e : bitsOf w (Int.ofNat m) = m % 2 ^ w := by
      zify
      exact bitsOf_cast w m
    rw [e, Nat.testBit_mod_two_pow]
    rfl
  | negSucc m =>
    have hlt : m % 2 ^ w < 2 ^ w := Nat.mod_lt _ (by positivity)
    have e : bitsOf w (Int.negSucc m) = 2 ^ w - (m % 2 ^ w + 1) := by
      zify [Nat.succ_le_of_lt hlt]
      rw [bitsOf_cast, Int.negSucc_emod _ (by positivity)]
      omega
    rw [e, Nat.testBit_two_pow_sub_succ hlt, Nat.testBit_mod_two_pow]
    cases decide (i < w) <;> rfl

/-- A bitwise operation of two integers of n bits and a sign is one of n bits and a sign. -/
theorem natBitwise_bounds (f : Bool → Bool → Bool) {m k n : Nat} (hm : m < 2 ^ n) (hk : k < 2 ^ n) :
    -(2 ^ n) ≤ Int.natBitwise f m k ∧ Int.natBitwise f m k < 2 ^ n := by
  unfold Int.natBitwise
  cases f false false with
  | true =>
    have h := Nat.bitwise_lt_two_pow (f := fun x y => !f x y) hm hk
    zify at h
    simp only [cond_true, Int.negSucc_eq]
    omega
  | false =>
    have h := Nat.bitwise_lt_two_pow (f := f) hm hk
    zify at h
    simp only [cond_false]
    omega

theorem bitwise_bounds (f : Bool → Bool → Bool) {n : Nat} {a b : Int} (ha : -(2 ^ n) ≤ a ∧ a < 2 ^ n)
    (hb : -(2 ^ n) ≤ b ∧ b < 2 ^ n) : -(2 ^ n) ≤ Int.bitwise f a b ∧ Int.bitwise f a b < 2 ^ n := by
  have hnat : ∀ {m : Nat}, (Int.ofNat m : Int) < 2 ^ n → m < 2 ^ n := fun h => by zify; exact h
  have hneg : ∀ {m : Nat}, -(2 ^ n) ≤ Int.negSucc m → m < 2 ^ n := fun h => by
    rw [Int.negSucc_eq] at h
    zify
    omega
  cases a with
  | ofNat m =>
    cases b with
    | ofNat k => exact natBitwise_bounds _ (hnat ha.2) (hnat hb.2)
    | negSucc k => exact natBitwise_bounds (fun x y => f x !y) (hnat ha.2) (hneg hb.1)
  | negSucc m =>
    cases b with
    | ofNat k => exact natBitwise_bounds (fun x y => f (!x) y) (hneg ha.1) (hnat hb.2)
    | negSucc k => exact natBitwise_bounds (fun x y => f (!x) !y) (hneg ha.1) (hneg hb.1)

theorem signed_bitsOf {w : Nat} {v : Int} (hw : 1 ≤ w) (hlo : -(2 ^ (w - 1)) ≤ v) (hhi : v < 2 ^ (w - 1)) :
    signed w (bitsOf w v) = v := by
  have h := extInt_bitsOf (k := .sgn) hw (by simpa [rangeLo] using hlo) (by simp only [rangeHi, if_true]; omega)
  unfold extInt at h
  simpa [signed] using h

/-- An operation that acts bit by bit and gives 0 from two 0 bits is the one of the infinite strings. -/
theorem stringOp_eq_bitwise {g : Nat → Nat → Nat} {f : Bool → Bool → Bool} (hg : ∀ m n i, (g m n).testBit i = f (m.testBit i) (n.testBit i))
    (hf : f false false = false) {a b : Int} (ha : -(2 ^ 127) ≤ a ∧ a < 2 ^ 127) (hb : -(2 ^ 127) ≤ b ∧ b < 2 ^ 127) :
    stringOp g a b = Int.bitwise f a b := by
  have hbits : g (bitsOf 128 a) (bitsOf 128 b) = bitsOf 128 (Int.bitwise f a b) := by
    apply Nat.eq_of_testBit_eq
    intro i
    rw [hg, testBit_bitsOf, testBit_bitsOf, testBit_bitsOf, Int.testBit_bitwise]
    cases decide (i < 128)
    · exact hf
    · rfl
  have hr := bitwise_bounds f ha hb
  unfold stringOp
  rw [hbits]
  exact signed_bitsOf (by omega) hr.1 hr.2

theorem stringOperationsHold : StringOperationsHold := by
  intro a b ha1 ha2 hb1 hb2
  have ha : -(2 ^ 127) ≤ a ∧ a < 2 ^ 127 := by omega
  have hb : -(2 ^ 127) ≤ b ∧ b < 2 ^ 127 := by omega
  refine ⟨?_, ?_, ?_⟩
  · rw [← Int.bitwise_and]
    exact stringOp_eq_bitwise Nat.testBit_and rfl ha hb
  · rw [← Int.bitwise_or]
    exact stringOp_eq_bitwise Nat.testBit_or rfl ha hb
  · rw [← Int.bitwise_xor]
    exact stringOp_eq_bitwise Nat.testBit_xor rfl ha hb

/-! ### Shift counts (R285) -/

/-- The range of a name of at most 64 bits holds 0 and nothing of 2^64 or beyond. -/
theorem range_bounds (k : Kind) {w : Nat} (hw : w ≤ 64) :
    rangeLo k w ≤ 0 ∧ 0 ≤ rangeHi k w ∧ -(2 ^ 64) ≤ rangeLo k w ∧ rangeHi k w < 2 ^ 64 := by
  have h1 : (2 : Int) ^ (w - 1) ≤ 2 ^ 64 := pow_le_pow_right₀ (by norm_num) (by omega)
  have h2 : (2 : Int) ^ w ≤ 2 ^ 64 := pow_le_pow_right₀ (by norm_num) hw
  have p1 : (0 : Int) < 2 ^ (w - 1) := by positivity
  have p2 : (0 : Int) < 2 ^ w := by positivity
  unfold rangeLo rangeHi
  split <;> omega

/-- An integer shifted by more than 64 places is 0, or of its sign and beyond every range. -/
theorem shifted_far {a : Int} {n : Nat} (hn : 65 ≤ n) : (0 < a → 2 ^ 65 ≤ a * 2 ^ n) ∧ (a < 0 → a * 2 ^ n ≤ -(2 ^ 65)) := by
  have hp : (2 : Int) ^ 65 ≤ 2 ^ n := pow_le_pow_right₀ (by norm_num) hn
  exact ⟨fun h => by nlinarith, fun h => by nlinarith⟩

theorem bitsOf_shifted {w n : Nat} (a : Int) (h : w ≤ n) : bitsOf w (a * 2 ^ n) = 0 := by
  unfold bitsOf
  rw [Int.emod_eq_zero_of_dvd (Dvd.dvd.mul_left (pow_dvd_pow 2 h) a)]
  rfl

/-- What a name holds after a shift by more than 64 places does not depend on the count. -/
theorem fitInt_shifted_eq {d : Desc} {a : Int} {m n : Nat} (hw : d.width ≤ 64) (hm : 65 ≤ m) (hn : 65 ≤ n) :
    fitInt d (a * 2 ^ m) = fitInt d (a * 2 ^ n) := by
  obtain ⟨hlo, hhi, hlo', hhi'⟩ := range_bounds d.kind hw
  have hge : ∀ {n : Nat}, 65 ≤ n → (rangeLo d.kind d.width ≤ a * 2 ^ n ↔ 0 ≤ a) := fun {n} hn => by
    obtain ⟨hpos, hneg⟩ := shifted_far (a := a) hn
    refine ⟨fun h => by by_contra q; have := hneg (by omega); omega, fun h => hlo.trans (by positivity)⟩
  have hle : ∀ {n : Nat}, 65 ≤ n → (a * 2 ^ n ≤ rangeHi d.kind d.width ↔ a ≤ 0) := fun {n} hn => by
    obtain ⟨hpos, hneg⟩ := shifted_far (a := a) hn
    refine ⟨fun h => by by_contra q; have := hpos (by omega); omega, fun h => le_trans ?_ hhi⟩
    exact mul_nonpos_of_nonpos_of_nonneg h (by positivity)
  unfold fitInt
  simp only [← not_le, hge hm, hge hn, hle hm, hle hn, bitsOf_shifted a (show d.width ≤ m by omega),
    bitsOf_shifted a (show d.width ≤ n by omega)]

/-- A shift to the right by 64 places or more leaves the sign. -/
theorem ediv_two_pow_far {a : Int} {n : Nat} (h1 : -(2 ^ 64) ≤ a) (h2 : a < 2 ^ 64) (hn : 64 ≤ n) :
    a / 2 ^ n = if a < 0 then -1 else 0 := by
  have hp : (2 : Int) ^ 64 ≤ 2 ^ n := pow_le_pow_right₀ (by norm_num) hn
  split
  · exact ((Int.ediv_emod_unique (r := a + 2 ^ n) (by omega)).mpr ⟨by ring, by omega, by omega⟩).1
  · exact Int.ediv_eq_zero_of_lt (by omega) (by omega)

theorem shiftCountsHold : ShiftCountsHold := by
  intro d a n hw h1 h2
  unfold shlInt shrInt shiftCount
  rcases le_total n 200 with hn | hn
  · rw [min_eq_left hn]
    exact ⟨rfl, rfl⟩
  · rw [min_eq_right hn]
    exact ⟨fitInt_shifted_eq hw (by norm_num) (by omega),
      (ediv_two_pow_far h1 h2 (by norm_num)).trans (ediv_two_pow_far h1 h2 (by omega)).symm⟩

/-- Settles O2: each instruction runs one of the shared courses, whose lanes are what fit() gives or its lowest refusal; the functions
that the courses use are tied to the integers themselves. -/
theorem integerArithmetic : Obligations.IntegerArithmetic :=
  ⟨fitIntegerHold, integerArithmeticHold, integerOverflowTrapsHold, integerImmediatesHold, immediateValuesHold, stringOperationsHold,
    shiftCountsHold⟩

end Sys2Proof.Proofs
end

section
/-!
PROOFS. Package reset, boot and steward restarts: what a restart does to the threads of a die, what a verified image leaves, and the
steps that the end of a restart makes due.
-/

namespace Sys2Proof.Proofs

open Sys2Proof Sys2Proof.Machine Sys2Proof.Claims

/-! ### Loops -/

/-- What every round of a loop keeps, the loop keeps. -/
theorem forEach_keeps {s : State} {α : Type} {f : Trail s → α → Trail s} {P : Trail s → Prop} (h : ∀ t a, P t → P (f t a)) :
    ∀ (l : List α) (t : Trail s), P t → P (forEach t l f)
  | [], _, ht => ht
  | a :: r, t, ht => forEach_keeps h r (f t a) (h t a ht)

theorem event_val (s : State) (f : Trail s → Trail s) : event s f = .next (f (begin s)).1 := rfl

theorem due_of_addsDue {s t : State} (h : AddsDue s t) {i : Due} (hi : i ∈ s.pending) : i ∈ t.pending := by
  obtain ⟨p, rfl, hp⟩ := h
  exact hp i hi

/-- A loop that makes one step due for each entry makes each of them due. -/
theorem forEach_pendOnce_due {s : State} {α : Type} (i : Instr) (g : α → List Nat) {a : α} {l : List α} (t : Trail s) (h : a ∈ l) :
    ⟨i, g a⟩ ∈ (forEach t l (fun t x => t.pendOnce i (g x))).1.pending := by
  induction l generalizing t with
  | nil => cases h
  | cons b r ih =>
    rcases List.mem_cons.mp h with rfl | h
    · exact due_of_addsDue (forEach_adds _ (fun t x => pendOnce_adds t i (g x)) r (t.pendOnce i (g a))) (pendOnce_due t i (g a))
    · exact ih (t.pendOnce i (g b)) h

/-! ### Stewards and user threads -/

/-- Only stewards change: nothing but the cores, and of them no thread of a user's slot. -/
structure StewardsOnly (s t : State) : Prop where
  rest : t = { s with cores := t.cores }
  user : ∀ c sl, sl ≠ 15 → t.thread? c sl = s.thread? c sl

theorem StewardsOnly.refl (s : State) : StewardsOnly s s := ⟨rfl, fun _ _ _ => rfl⟩

theorem StewardsOnly.trans {s t u : State} (h : StewardsOnly s t) (k : StewardsOnly t u) : StewardsOnly s u :=
  ⟨by rw [k.rest, h.rest], fun c sl hsl => (k.user c sl hsl).trans (h.user c sl hsl)⟩

theorem forEach_stewardsOnly {s : State} {α : Type} {f : Trail s → α → Trail s} (h : ∀ t a, StewardsOnly t.1 (f t a).1) (l : List α)
    (t : Trail s) : StewardsOnly t.1 (forEach t l f).1 :=
  forEach_keeps (P := fun u => StewardsOnly t.1 u.1) (fun u a hu => hu.trans (h u a)) l t (.refl _)

theorem wakeSteward_stewardsOnly {s : State} (t : Trail s) (c : Nat) : StewardsOnly t.1 (t.wakeSteward c).1 := by
  obtain ⟨cs, e, hth, -⟩ := wakeSteward_val t c
  exact ⟨by rw [e], fun c' sl hsl => hth c' sl fun h => hsl h.2⟩

theorem wakeDie_stewardsOnly {s : State} (t : Trail s) (d : Nat) : StewardsOnly t.1 (t.wakeDie d).1 :=
  forEach_stewardsOnly wakeSteward_stewardsOnly _ t

/-- The steward of a core is gone. -/
def dropSteward {s : State} (t : Trail s) (c : Nat) : Trail s := t.modCore c (fun k => { k with threads := del k.threads 15 })

theorem dropSteward_thread {s : State} (t : Trail s) (c c' sl : Nat) :
    (dropSteward t c).1.thread? c' sl = if c' = c ∧ sl = 15 then none else t.1.thread? c' sl := by
  unfold dropSteward State.thread?
  rw [modCore_val]
  rcases eq_or_ne c' c with rfl | hc
  · rw [put_core]
    rcases eq_or_ne sl 15 with rfl | hsl
    · rw [if_pos ⟨rfl, rfl⟩]
      exact look_del_same _ _
    · rw [if_neg fun h => hsl h.2]
      exact look_del_other _ _ _ hsl
  · rw [put_core_other _ _ _ _ hc, if_neg fun h => hc h.1]

theorem dropSteward_stewardsOnly {s : State} (t : Trail s) (c : Nat) : StewardsOnly t.1 (dropSteward t c).1 :=
  ⟨rfl, fun c' sl hsl => by rw [dropSteward_thread, if_neg fun h => hsl h.2]⟩

theorem forEach_dropSteward_none {s : State} {c : Nat} :
    ∀ (l : List Nat) (t : Trail s), c ∈ l ∨ t.1.thread? c 15 = none → (forEach t l dropSteward).1.thread? c 15 = none
  | [], _, h => h.resolve_left List.not_mem_nil
  | a :: r, t, h => by
    refine forEach_dropSteward_none r (dropSteward t a) ?_
    rw [dropSteward_thread]
    rcases eq_or_ne c a with rfl | hc
    · exact .inr (if_pos ⟨rfl, rfl⟩)
    · rw [if_neg fun h => hc h.1]
      exact h.imp_left fun h => (List.mem_cons.mp h).resolve_left hc

theorem mem_of_look {α : Type} {t : Tab α} {k : Nat} {v : α} (h : look t k = some v) : (k, v) ∈ t := by
  induction t with
  | nil => cases h
  | cons e r ih =>
    obtain ⟨a, x⟩ := e
    unfold look at h
    split at h
    · next ha =>
      cases h
      exact ha ▸ List.mem_cons_self
    · exact List.mem_cons_of_mem _ (ih h)

/-- A core that holds a thread is listed among the cores of its die. -/
theorem listed_or_no_thread (s : State) {c d : Nat} (sl : Nat) (hc : dieOf c = d) :
    c ∈ (s.cores.filter (fun k => decide (dieOf k.1 = d))).map (·.1) ∨ s.thread? c sl = none := by
  cases h : look s.cores c with
  | some k => exact .inl (List.mem_map.mpr ⟨(c, k), List.mem_filter.mpr ⟨mem_of_look h, by simpa using hc⟩, rfl⟩)
  | none =>
    right
    unfold State.thread? State.core lookD
    rw [h]
    rfl

/-! ### A restart begins (R45) -/

/-- A restart of a die is under way: its user threads stand as they did, and where it begins here its stewards are gone and its end is due. -/
structure Restarts (s t : State) (d : Nat) : Prop where
  restart : (t.die d).restart = true
  user : ∀ c sl, sl ≠ 15 → t.thread? c sl = s.thread? c sl
  begins : (s.die d).restart = false → (∀ c, dieOf c = d → t.thread? c 15 = none) ∧ ⟨.stewardRestartDone, [d]⟩ ∈ t.pending

theorem beginRestart_restarts {s : State} (t : Trail s) (d : Nat) : Restarts t.1 (t.beginRestart d).1 d := by
  cases hr : (t.1.die d).restart with
  | true =>
    have e : t.beginRestart d = t := if_pos hr
    rw [e]
    exact ⟨hr, fun _ _ _ => rfl, fun h => absurd (hr.symm.trans h) (by decide)⟩
  | false =>
    let u := t.modDie d (fun x => { x with restart := true })
    let l := (u.1.cores.filter (fun k => decide (dieOf k.1 = d))).map (·.1)
    have e : t.beginRestart d = (forEach u l dropSteward).pendOnce .stewardRestartDone [d] := if_neg (by rw [hr]; decide)
    have hdrop : StewardsOnly u.1 (forEach u l dropSteward).1 := forEach_stewardsOnly dropSteward_stewardsOnly l u
    obtain ⟨p, hp, -⟩ := pendOnce_adds (forEach u l dropSteward) .stewardRestartDone [d]
    have hdue := pendOnce_due (forEach u l dropSteward) .stewardRestartDone [d]
    rw [e]
    refine ⟨?_, fun c sl hsl => ?_, fun _ => ⟨fun c hc => ?_, hdue⟩⟩
    · rw [hp, hdrop.rest]
      show (lookD (put t.1.dies d _) d _).restart = true
      rw [lookD_put_same]
    · rw [hp]
      exact hdrop.user c sl hsl
    · rw [hp]
      exact forEach_dropSteward_none l u (listed_or_no_thread u.1 15 hc)

theorem runs_of_booted {p : Pkg} (hs : 3 ≤ p.stage) (hb : p.bootFailed = false) (hf : p.fatal = false) : p.runs = true := by
  simp [Pkg.runs, hs, hb, hf]

theorem heartbeatMiss_restarts {s : State} {d : Nat} (ha : s.args = [d]) (hr : s.pkg.runs = true) :
    ∃ t, exec .stewardHeartbeatMiss s = .next t ∧ Restarts s t d := by
  refine ⟨_, ?_, beginRestart_restarts (begin s) d⟩
  show execStewardHeartbeatMiss s = _
  simp only [execStewardHeartbeatMiss, event_val, begin_val, hr, if_true, State.arg, ha]
  rfl

/-- A write of PF0 that reaches the register page has its effect, once it has woken the stewards of die 0 (R32, R382). -/
theorem pfWrite_reaches {s : State} (h : Reaches s 0) (go : Trail s → Trail s) : pfWrite s go = .next (go ((begin s).wakeDie 0)).1 := by
  have h0 : s.arg 0 = 0 := by
    obtain ⟨r, hr⟩ := List.head?_eq_some_iff.mp h.master
    rw [State.arg, hr]
    rfl
  unfold pfWrite hostWrite event
  rw [h0]
  simp [h.link, h.granted]

theorem restartCommand_restarts {s : State} {d : Nat} (ha : s.args = [0, d]) (hre : Reaches s 0) (hr : s.pkg.runs = true) :
    ∃ t u, exec .stewardRestartCommand s = .next t ∧ StewardsOnly s u ∧ Restarts u t d := by
  have hw : StewardsOnly s ((begin s).wakeDie 0).1 := wakeDie_stewardsOnly (begin s) 0
  have hpkg : ((begin s).wakeDie 0).1.pkg = s.pkg := by rw [hw.rest]
  refine ⟨_, _, ?_, hw, beginRestart_restarts ((begin s).wakeDie 0) d⟩
  show execStewardRestartCommand s = _
  unfold execStewardRestartCommand
  rw [pfWrite_reaches hre, hpkg, if_pos hr, State.arg, ha]
  rfl

/-! ### A restart ends (R45, R199) -/

/-- The words that are left with an error when the stewards of a die have been loaded anew: none of their own rows. -/
def badAfterRestart (bad : List (Nat × Nat × Nat)) (d : Nat) : List (Nat × Nat × Nat) :=
  bad.filter (fun b => !(decide (b.1 = 1) && decide (dieOf b.2.1 = d) && decide (7936 ≤ b.2.2)))

theorem mem_badAfterRestart {bad : List (Nat × Nat × Nat)} {d : Nat} {b : Nat × Nat × Nat} (h : b ∈ badAfterRestart bad d) :
    ¬(b.1 = 1 ∧ dieOf b.2.1 = d ∧ 7936 ≤ b.2.2) := by
  have := (List.mem_filter.mp h).2
  rintro ⟨h1, h2, h3⟩
  simp [h1, h2, h3] at this

theorem unpark_val {s : State} (t : Trail s) (f : Nat → Bool) : ∃ p i, (t.unpark f).1 = { t.1 with pkg := p, inputs := i } := ⟨_, _, rfl⟩

/-- What the new stewards of a die take up when their restart ends. -/
def dueAfterRestart {s : State} (t : Trail s) (d : Nat) : Trail s :=
  let t := if (t.1.die d).fifo.isEmpty then t else t.pendOnce .submissionHandle [d]
  let t := forEach t (t.1.cores.filter (fun k => decide (dieOf k.1 = d) && !k.2.trapQ.isEmpty)) (fun t k => t.pendOnce .trapService [k.1])
  forEach t (t.1.parts.filter (fun p => decide (p.2.ladder = .dump))) (fun t p => t.pendOnce .dumpBegin [p.1])

theorem dueAfterRestart_spec {s : State} (t : Trail s) (d : Nat) : AddsDue t.1 (dueAfterRestart t d).1 ∧
    ((t.1.die d).fifo ≠ [] → ⟨.submissionHandle, [d]⟩ ∈ (dueAfterRestart t d).1.pending) ∧
    (∀ k ∈ t.1.cores, dieOf k.1 = d → k.2.trapQ ≠ [] → ⟨.trapService, [k.1]⟩ ∈ (dueAfterRestart t d).1.pending) := by
  dsimp only [dueAfterRestart]
  generalize hu : (if (t.1.die d).fifo.isEmpty then t else t.pendOnce .submissionHandle [d]) = u
  have h1 : AddsDue t.1 u.1 ∧ ((t.1.die d).fifo ≠ [] → ⟨.submissionHandle, [d]⟩ ∈ u.1.pending) := by
    rw [← hu]
    split
    · next h => exact ⟨.refl _, fun hf => absurd (List.isEmpty_iff.mp h) hf⟩
    · exact ⟨pendOnce_adds _ _ _, fun _ => pendOnce_due _ _ _⟩
  have hcores : u.1.cores = t.1.cores := by
    obtain ⟨p, e, -⟩ := h1.1
    rw [e]
  generalize hv : forEach u (u.1.cores.filter (fun k => decide (dieOf k.1 = d) && !k.2.trapQ.isEmpty))
    (fun t k => t.pendOnce .trapService [k.1]) = v
  have h2 : AddsDue u.1 v.1 := hv ▸ forEach_adds _ (fun t k => pendOnce_adds t _ _) _ u
  have htrap : ∀ k ∈ t.1.cores, dieOf k.1 = d → k.2.trapQ ≠ [] → ⟨.trapService, [k.1]⟩ ∈ v.1.pending := fun k hk hd hq => by
    rw [← hv]
    refine forEach_pendOnce_due .trapService (fun k : Nat × Core => [k.1]) u (List.mem_filter.mpr ⟨hcores ▸ hk, ?_⟩)
    simp [hd, hq]
  have h3 := forEach_adds (fun t (p : Nat × Part) => t.pendOnce .dumpBegin [p.1]) (fun t p => pendOnce_adds t _ _)
    (v.1.parts.filter (fun p => decide (p.2.ladder = .dump))) v
  exact ⟨h1.1.trans (h2.trans h3), fun hf => due_of_addsDue (h2.trans h3) (h1.2 hf), fun k hk hd hq => due_of_addsDue h3 (htrap k hk hd hq)⟩

theorem exec_stewardRestartDone {s : State} {d : Nat} (ha : s.args = [d]) (hr : (s.die d).restart = true) :
    ∃ p pk ins, exec .stewardRestartDone s = .next { s with
        dies := put s.dies d { s.die d with restart := false }, bad := badAfterRestart s.bad d, pending := p, pkg := pk, inputs := ins } ∧
      ((s.die d).fifo ≠ [] → ⟨.submissionHandle, [d]⟩ ∈ p) ∧
      (∀ k ∈ s.cores, dieOf k.1 = d → k.2.trapQ ≠ [] → ⟨.trapService, [k.1]⟩ ∈ p) := by
  let u : Trail s := ((begin s).modDie d (fun x => { x with restart := false })).act (.errors (badAfterRestart s.bad d) s.corrected)
  have hfifo : (u.1.die d).fifo = (s.die d).fifo := by
    show (lookD (put s.dies d _) d _).fifo = _
    rw [lookD_put_same]
    rfl
  obtain ⟨⟨p, e, -⟩, hsub, htrap⟩ := dueAfterRestart_spec u d
  have hexec : exec .stewardRestartDone s =
      .next (if s.pkg.frozen then dueAfterRestart u d else (dueAfterRestart u d).unpark (fun k => decide (k = d))).1 := by
    have hpkg : (dueAfterRestart u d).1.pkg = s.pkg := by rw [e]; rfl
    have h0 : s.arg 0 = d := by rw [State.arg, ha]; rfl
    rw [← hpkg]
    show execStewardRestartDone s = _
    unfold execStewardRestartDone event
    rw [h0]
    simp only [begin_val, hr]
    rfl
  rw [hfifo, e] at hsub
  rw [e] at htrap
  cases hf : s.pkg.frozen with
  | true => exact ⟨p, s.pkg, s.inputs, by rw [hexec, hf, if_pos rfl, e]; rfl, hsub, htrap⟩
  | false =>
    obtain ⟨pk, ins, e2⟩ := unpark_val (dueAfterRestart u d) (fun k => decide (k = d))
    exact ⟨p, pk, ins, by rw [hexec, hf, if_neg (by decide), e2, e]; rfl, hsub, htrap⟩

theorem exec_stewardRestartDone_idle {s : State} {d : Nat} (ha : s.args = [d]) (hr : (s.die d).restart = false) :
    exec .stewardRestartDone s = .next s := by
  have h0 : s.arg 0 = d := by rw [State.arg, ha]; rfl
  show execStewardRestartDone s = _
  unfold execStewardRestartDone event
  rw [h0]
  simp only [begin_val, hr]
  rfl

/-! ### Boot images (R56, R57) -/

/-- FIRMWARE_IMAGE_VERIFY is about an image that the present boot stage waits for. -/
structure Verifies (s : State) (image version sig limit : Nat) (bytes : List Nat) : Prop where
  args : s.args = [image, version, sig, limit] ++ bytes
  boots : s.pkg.bootFailed = false
  known : image ≤ 3
  stage : s.pkg.stage = if image = 0 then 1 else 2
  fresh : image ∉ s.pkg.verified

section Verify

variable {s : State} {image version sig limit : Nat} {bytes : List Nat} (h : Verifies s image version sig limit bytes)
include h

/-- The checks before the signature's pass. -/
theorem verifies_expected :
    (s.pkg.bootFailed || decide (3 < s.arg 0) || decide (s.pkg.stage ≠ stageOf (s.arg 0)) || s.pkg.verified.contains (s.arg 0)) = false := by
  have h0 : s.arg 0 = image := by rw [State.arg, h.args]; rfl
  have hst : s.pkg.stage = stageOf image := h.stage
  have hk := h.known
  simp [h0, h.boots, hst, h.fresh]
  omega

theorem exec_verify_refuses (hbad : sig ≠ 1 ∨ version < s.pkg.fused) :
    ∃ reason, exec .firmwareImageVerify s = .next (onHost (onPkg s (fun p => { p with bootFailed := true }))
      (fun h => { h with mailbox := put (put h.mailbox 0 s.pkg.stage) 8 reason })) := by
  have h1 : s.arg 1 = version := by rw [State.arg, h.args]; rfl
  have h2 : s.arg 2 = sig := by rw [State.arg, h.args]; rfl
  show ∃ reason, execFirmwareImageVerify s = _
  unfold execFirmwareImageVerify
  rw [event_val]
  dsimp only
  split
  · next q => exact absurd q (Bool.eq_false_iff.mp (verifies_expected h))
  · split
    · exact ⟨_, rfl⟩
    · next hsig =>
      split
      · exact ⟨_, rfl⟩
      · next hvsn => exact absurd hbad (by rw [← h1, ← h2]; exact not_or.mpr ⟨hsig, hvsn⟩)

/-- A good image is counted in, and where it is the last of stage 2 the stewards start. -/
theorem exec_verify_accepts (hs : sig = 1) (hv : s.pkg.fused ≤ version) :
    ∃ u : Trail s, exec .firmwareImageVerify s = .next (if [1, 2, 3].all (fun i => u.1.pkg.verified.contains i) then u.bootEnds else u).1 ∧
      u.1.pkg.verified = s.pkg.verified ++ [image] ∧ u.1.pkg.version = version ∧
      u.1.pkg.stage = (if image = 0 then 2 else s.pkg.stage) ∧ u.1.mem = s.mem ∧ u.1.cores = s.cores := by
  have h0 : s.arg 0 = image := by rw [State.arg, h.args]; rfl
  have h1 : s.arg 1 = version := by rw [State.arg, h.args]; rfl
  have h2 : s.arg 2 = sig := by rw [State.arg, h.args]; rfl
  show ∃ u : Trail s, execFirmwareImageVerify s = _ ∧ _
  unfold execFirmwareImageVerify
  rw [event_val, ← h0, ← h1]
  dsimp only
  split
  · next q => exact absurd q (Bool.eq_false_iff.mp (verifies_expected h))
  · split
    · next hsig => exact absurd (h2.trans hs) hsig
    · split
      · next hvsn => exact absurd (h1 ▸ hv) (not_le.mpr hvsn)
      · refine ⟨_, rfl, ?_⟩
        split_ifs <;> exact ⟨rfl, rfl, rfl, rfl, rfl⟩

end Verify

/-- The stewards start: boot is at stage 3, and otherwise only timers and steps due are added. -/
theorem bootEnds_spec {s : State} (t : Trail s) :
    t.bootEnds.1.pkg = { t.1.pkg with stage := 3 } ∧ t.bootEnds.1.mem = t.1.mem ∧ t.bootEnds.1.cores = t.1.cores := by
  unfold Trail.bootEnds
  refine forEach_keeps (P := fun u => u.1.pkg = { t.1.pkg with stage := 3 } ∧ u.1.mem = t.1.mem ∧ u.1.cores = t.1.cores)
    (fun u d hu => ?_) _ _ ⟨rfl, rfl, rfl⟩
  dsimp only
  split
  · exact hu
  · obtain ⟨p, e, -⟩ := pendOnce_adds ((u.timer d false (1000 * etimePerUs) .counterHalve [d]).timer d false (10000 * etimePerUs)
      .stewardHeartbeatDue [d]) .submissionHandle [d]
    rw [e]
    exact hu

theorem verify_accepts {s : State} {image version sig limit : Nat} {bytes : List Nat} (h : Verifies s image version sig limit bytes)
    (hs : sig = 1) (hv : s.pkg.fused ≤ version) :
    ∃ t, exec .firmwareImageVerify s = .next t ∧ t.pkg.verified = s.pkg.verified ++ [image] ∧ t.pkg.version = version ∧
      ((∀ k, 1 ≤ k → k ≤ 3 → k ∈ s.pkg.verified ++ [image]) → t.pkg.stage = 3) ∧
      (¬(∀ k, 1 ≤ k → k ≤ 3 → k ∈ s.pkg.verified ++ [image]) → t.pkg.stage = 2) ∧ t.mem = s.mem ∧ t.cores = s.cores := by
  obtain ⟨u, hex, hver, hvsn, hst, hmem, hcores⟩ := exec_verify_accepts h hs hv
  have hst2 : u.1.pkg.stage = 2 := by
    rw [hst, h.stage]
    split <;> rfl
  have hall : [1, 2, 3].all (fun i => u.1.pkg.verified.contains i) = true ↔ ∀ k, 1 ≤ k → k ≤ 3 → k ∈ s.pkg.verified ++ [image] := by
    rw [hver, List.all_eq_true]
    refine ⟨fun q k h1 h3 => by simpa using q k (by simp; omega), fun q k hk => ?_⟩
    simp only [List.mem_cons, List.not_mem_nil, or_false] at hk
    simpa using q k (by omega) (by omega)
  by_cases q : ∀ k, 1 ≤ k → k ≤ 3 → k ∈ s.pkg.verified ++ [image]
  · obtain ⟨epkg, emem, ecores⟩ := bootEnds_spec u
    refine ⟨_, hex, ?_⟩
    rw [if_pos (hall.mpr q), epkg, emem, ecores]
    exact ⟨hver, hvsn, fun _ => rfl, fun n => absurd q n, hmem, hcores⟩
  · refine ⟨_, hex, ?_⟩
    rw [if_neg (fun e => q (hall.mp e))]
    exact ⟨hver, hvsn, fun p => absurd p q, fun _ => hst2, hmem, hcores⟩

/-- Settles O42: reset is one act; an image is refused or counted in by its signature and version; a restart, begun by a missed
heartbeat or by PF0, drops the stewards of a die alone, and its end makes due what waited for them. -/
theorem bootAndRestart : Obligations.BootAndRestart := by
  refine ⟨fun s => ⟨s.packageReset, rfl, rfl, rfl, rfl, rfl, rfl, rfl, rfl, rfl, rfl, rfl⟩, ?images, ?heartbeat, ?command, ?done,
    fun s d ha hr => exec_stewardRestartDone_idle ha hr⟩
  case images =>
    intro s image version sig limit bytes ha hb hk hst hfresh
    have h : Verifies s image version sig limit bytes := ⟨ha, hb, hk, hst, hfresh⟩
    refine ⟨exec_verify_refuses h, fun hs hv => ?_⟩
    obtain ⟨t, hex, hver, hvsn, hlast, hmore, hmem, hcores⟩ := verify_accepts h hs hv
    refine ⟨t, hex, by simp [hver], hvsn, fun h0 hnone => ?_, fun _ hall => ?_, fun _ hrest => ?_, hmem, hcores⟩
    · refine hmore fun q => ?_
      have := q 1 (by omega) (by omega)
      simp [hnone, h0] at this
    · refine hlast fun k h1 h3 => ?_
      simpa [or_comm] using hall k h1 h3
    · obtain ⟨k, h1, h3, hne, hnot⟩ := hrest
      refine hmore fun q => ?_
      have := q k h1 h3
      simp [hne, hnot] at this
  case heartbeat =>
    intro s d ha hst hb hf
    obtain ⟨t, hex, hr⟩ := heartbeatMiss_restarts ha (runs_of_booted hst hb hf)
    exact ⟨t, hex, hr.restart, hr.user, hr.begins⟩
  case command =>
    intro s d ha hre hst hb hf
    obtain ⟨t, u, hex, hu, hr⟩ := restartCommand_restarts ha hre (runs_of_booted hst hb hf)
    have hdie : u.die d = s.die d := by
      rw [hu.rest]
      rfl
    exact ⟨t, hex, hr.restart, fun c sl hsl => (hr.user c sl hsl).trans (hu.user c sl hsl), fun h => (hr.begins (hdie ▸ h)).2⟩
  case done =>
    intro s d ha hr
    obtain ⟨p, pk, ins, hex, hfifo, htrap⟩ := exec_stewardRestartDone ha hr
    refine ⟨_, hex, ?_, rfl, rfl, fun b => mem_badAfterRestart, hfifo, htrap⟩
    show (lookD (put s.dies d _) d _).restart = false
    rw [lookD_put_same]

end Sys2Proof.Proofs
end

section
/-!
PROOFS. Commands of the host: how a write that reaches the register page comes to the stewards that carry it out, the answers of queue
commands, and the rings of the launch queues.
-/

namespace Sys2Proof.Proofs

open Sys2Proof Sys2Proof.Machine Sys2Proof.Claims

/-! ### Loops that change nothing -/

theorem forEach_fixed {s : State} {α : Type} {f : Trail s → α → Trail s} {t : Trail s} :
    ∀ {l : List α}, (∀ a ∈ l, f t a = t) → forEach t l f = t
  | [], _ => rfl
  | a :: r, h => by
    show forEach (f t a) r f = t
    rw [h a List.mem_cons_self]
    exact forEach_fixed fun b hb => h b (List.mem_cons_of_mem _ hb)

/-! ### A request reaches the stewards (R32, R45, R382) -/

theorem wakeDie_of_noHalt {s : State} {t : Trail s} {d : Nat} (h : NoHalt t.1 d) : t.wakeDie d = t := by
  refine forEach_fixed fun c hc => ?_
  obtain ⟨k, hk, rfl⟩ := List.mem_map.mp hc
  have hd : dieOf k.1 = d := by simpa using (List.mem_filter.mp hk).2
  unfold Trail.wakeSteward
  split
  · next th hth => rw [h k.1 th hd hth, if_neg (by decide)]
  · rfl

/-- Stewards that serve carry a request out at once. -/
theorem bySteward_serves {s : State} {t : Trail s} {d : Nat} (h : Serves t.1 d) (step : Due) (go : Effect s) :
    t.bySteward d step go = go t := by
  obtain ⟨⟨hst, hb, hf⟩, ⟨hz, hr⟩, -, hn⟩ := h
  unfold Trail.bySteward
  rw [runs_of_booted hst hb hf, hr, hz, wakeDie_of_noHalt hn]
  rfl

theorem arg_zero_of_reaches {s : State} {fn : Nat} (h : Reaches s fn) : s.arg 0 = fn := by
  obtain ⟨r, hr⟩ := List.head?_eq_some_iff.mp h.master
  rw [State.arg, hr]
  rfl

/-- A write that reaches the register page has its effect, where no steward of die 0 waits to be woken by it. -/
theorem hostWrite_reaches {s : State} {fn : Nat} (h : Reaches s fn) (hn : NoHalt s 0) (go : Trail s → Trail s) :
    hostWrite s go = .next (go (begin s)).1 := by
  unfold hostWrite event
  rw [arg_zero_of_reaches h]
  simp [h.link, h.granted, wakeDie_of_noHalt (t := begin s) hn]

theorem pfWrite_serves {s : State} (h : Reaches s 0) (hs : Serves s 0) (step : Due) (go : Effect s) :
    pfWrite s (fun t => t.bySteward 0 step go) = .next (go (begin s)).1 := by
  rw [pfWrite_reaches h, wakeDie_of_noHalt (t := begin s) hs.awake.1, bySteward_serves (t := begin s) hs]

/-! ### Queue commands (R46) -/

theorem queueResult_val (s : State) (fn code : Nat) : ((begin s).queueResult fn code).1 = resulted s fn code := rfl

/-- What a queue command does once it has been answered. -/
def afterAnswer {s : State} (op fn n : Nat) (p : Part) (x : Queue) (go : (t : Trail s) → Nat → Part → Queue → Trail s) : Trail s :=
  let t := (begin s).queueResult fn (commandCode fn op p)
  if commandCode fn op p = 0 then go t n p x else t

theorem queueCommand_answers {s : State} {fn q n i : Nat} {p : Part} {x : Queue} (h : Commands s fn q n p i x) (op : Nat)
    (go : (t : Trail s) → Nat → Part → Queue → Trail s) : queueCommand s op go = .next (afterAnswer op fn n p x go).1 := by
  have h1 : s.arg 1 = q := by rw [State.arg, h.args]; rfl
  unfold queueCommand
  rw [hostWrite_reaches h.page h.serves.awake.1]
  simp only [begin_val, h1, h.queue, arg_zero_of_reaches h.page]
  rw [bySteward_serves (t := begin s) h.serves]
  rfl

theorem queueCommand_noQueue {s : State} {fn q : Nat} (ha : s.args = [fn, q]) (hr : Reaches s fn) (hs : Serves s 0) (hq : s.queue? q = none)
    (op : Nat) (go : (t : Trail s) → Nat → Part → Queue → Trail s) : queueCommand s op go = .next (resulted s fn 2) := by
  have h1 : s.arg 1 = q := by rw [State.arg, ha]; rfl
  unfold queueCommand
  rw [hostWrite_reaches hr hs.awake.1]
  simp only [begin_val, h1, hq, arg_zero_of_reaches hr]
  rw [bySteward_serves (t := begin s) hs]
  rfl

theorem exec_command {i : Instr} {op : Nat} (h : IsCommand i op) (s : State) : ∃ go, exec i s = queueCommand s op go := by
  rcases h with ⟨rfl, rfl⟩ | ⟨rfl, rfl⟩ | ⟨rfl, rfl⟩
  · exact ⟨_, (rfl : execQueuePreempt s = _)⟩
  · exact ⟨_, (rfl : execQueueResume s = _)⟩
  · exact ⟨_, (rfl : execQueueAbort s = _)⟩

theorem exec_command_refused {s : State} {fn q n i : Nat} {p : Part} {x : Queue} {c : Instr} {op : Nat} (h : Commands s fn q n p i x)
    (hc : IsCommand c op) (h0 : commandCode fn op p ≠ 0) : exec c s = .next (resulted s fn (commandCode fn op p)) := by
  obtain ⟨go, e⟩ := exec_command hc s
  rw [e, queueCommand_answers h, afterAnswer, if_neg h0, queueResult_val]

/-- The codes of R46, in the order of its checks. -/
theorem commandCode_eq (fn op : Nat) (p : Part) :
    (fn ≠ 0 ∧ (∃ y ∈ p.queues, y.2.owner ≠ fn) → commandCode fn op p = 5) ∧
    (¬(fn ≠ 0 ∧ ∃ y ∈ p.queues, y.2.owner ≠ fn) →
      ((p.ladder ≠ .none ∧ p.ladder ≠ .stopped) → commandCode fn op p = 3) ∧
      (¬(p.ladder ≠ .none ∧ p.ladder ≠ .stopped) → commandCode fn op p = if op = 2 ∧ p.ladder ≠ .stopped then 4 else 0)) := by
  have hany : (p.queues.any (fun q => decide (q.2.owner ≠ fn)) = true) ↔ ∃ y ∈ p.queues, y.2.owner ≠ fn := by
    rw [List.any_eq_true]
    simp only [decide_eq_true_eq]
  have hclimb : p.ladder.climbing = true ↔ p.ladder ≠ .none ∧ p.ladder ≠ .stopped := by
    rw [Ladder.climbing, Bool.and_eq_true, decide_eq_true_eq, decide_eq_true_eq]
  unfold commandCode
  rw [← hany, ← hclimb]
  refine ⟨fun h => if_pos h, fun h => ?_⟩
  rw [if_neg h]
  exact ⟨fun k => if_pos k, fun k => if_neg k⟩

theorem atReset_stopped {p : Part} (h : p.atReset = true) : p.ladder = .stopped := by
  rw [Part.atReset, Bool.and_eq_true, decide_eq_true_eq] at h
  exact h.1

/-- Settles O35: every queue command is one course of checks, and its refusals and its commands that find nothing to do write the
result alone. -/
theorem queueCommands : Obligations.QueueCommands := by
  refine ⟨?badOp, ?noQueue, ?answers⟩
  case badOp =>
    intro s fn v ha hr hs
    show execQueueCommandBadOp s = _
    unfold execQueueCommandBadOp
    rw [hostWrite_reaches hr hs.awake.1, bySteward_serves (t := begin s) hs, arg_zero_of_reaches hr]
    rfl
  case noQueue =>
    intro s fn q i op hi ha hr hs hq
    obtain ⟨go, e⟩ := exec_command hi s
    rw [e, queueCommand_noQueue ha hr hs hq]
  case answers =>
    intro s fn q n p j x i op h hi foreign busy
    obtain ⟨h5, hrest⟩ := commandCode_eq fn op p
    have refused : ∀ code, commandCode fn op p = code → code ≠ 0 → exec i s = .next (resulted s fn code) := by
      rintro _ rfl hne
      exact exec_command_refused h hi hne
    refine ⟨fun hf => refused 5 (h5 hf) (by decide), fun hf hb => refused 3 ((hrest hf).1 hb) (by decide),
      fun hf hb hop hl => refused 4 ?_ (by decide), fun hf hb hop hl => ?_, fun hf hb hop hl => ?_⟩
    · rw [(hrest hf).2 hb, if_pos ⟨hop, hl⟩]
    · have h0 : commandCode fn op p = 0 := by rw [(hrest hf).2 hb, if_neg fun k => by omega]
      rcases hi with ⟨rfl, rfl⟩ | ⟨-, rfl⟩ | ⟨-, rfl⟩
      · show execQueuePreempt s = _
        unfold execQueuePreempt
        rw [queueCommand_answers h, afterAnswer, if_pos h0, if_pos hl, queueResult_val, h0]
      · omega
      · omega
    · have h0 : commandCode fn op p = 0 := by rw [(hrest hf).2 hb, if_neg fun k => by omega]
      rcases hi with ⟨-, rfl⟩ | ⟨-, rfl⟩ | ⟨rfl, rfl⟩
      · omega
      · omega
      · show execQueueAbort s = _
        unfold execQueueAbort
        rw [queueCommand_answers h, afterAnswer, if_pos h0, if_pos hl, queueResult_val, h0]

/-! ### Stores and queues (R42, R43) -/

theorem pendOnce_val {s : State} (t : Trail s) (i : Instr) (a : List Nat) : (t.pendOnce i a).1 = dueOnce t.1 i a := by
  unfold Trail.pendOnce dueOnce
  simp only [List.contains_iff_mem]
  split
  · rfl
  · rfl

/-- A store changes memory and the releases, errors and threads that go with its bytes, and nothing else. -/
theorem memPut_val {s : State} (t : Trail s) (a : Nat) (bs : List Byte) (hs : List Head) :
    ∃ h b cs, (t.memPut a bs hs).1 = { t.1 with mem := writeBacked t.1.mem a bs, heads := h, bad := b, cores := cs } := by
  obtain ⟨h, b, u, rfl, hw⟩ := memPut_spec t a bs hs
  exact ⟨h, b, _, hw.rest⟩

/-- A queue of a partition changes, with its status word in memory. -/
theorem modQueue_val {s : State} {t : Trail s} {n i : Nat} {p : Part} {q : Queue} (hp : t.1.part? n = some p) (hq : look p.queues i = some q)
    (f : Queue → Queue) : ∃ h b cs, (t.modQueue n i f).1 = { t.1 with
      parts := put t.1.parts n { p with queues := put p.queues i (f q) }
      mem := writeBacked t.1.mem ((f q).header + 16) (leBytes (f q).status 8), heads := h, bad := b, cores := cs } := by
  have e : t.modQueue n i f = (t.act (.part n (some { p with queues := put p.queues i (f q) }))).memStore ((f q).header + 16)
      (leBytes (f q).status 8) := by
    unfold Trail.modQueue
    rw [hp]
    dsimp only
    rw [hq]
  rw [e]
  exact memPut_val _ _ _ _

theorem queue?_eq {s : State} {v n i : Nat} {p : Part} {q : Queue} (h : s.queue? v = some (n, p, i, q)) :
    n = v / 8 ∧ i = v % 8 ∧ s.part? n = some p ∧ look p.queues i = some q := by
  unfold State.queue? at h
  split at h
  · next x hx =>
    obtain ⟨y, hy, e⟩ := Option.map_eq_some_iff.mp h
    cases e
    exact ⟨rfl, rfl, hx, hy⟩
  · cases h

/-! ### Rings (R43, R44) -/

theorem reject_val {s : State} (t : Trail s) (d : Nat) : (t.reject d).1 = rejected t.1 d := rfl

theorem popRing_val {s : State} (t : Trail s) (d : Nat) : (t.popRing d).1 = popped t.1 d := by
  have hfifo : ((onDie t.1 d (fun x => { x with fifo := x.fifo.drop 1 })).die d).fifo = (t.1.die d).fifo.drop 1 := by
    unfold onDie State.die
    rw [lookD_put_same]
  have hempty : ((t.1.die d).fifo.drop 1).isEmpty = true ↔ (t.1.die d).fifo.length ≤ 1 := by
    rw [List.isEmpty_iff, List.drop_eq_nil_iff]
  show (if ((onDie t.1 d (fun x => { x with fifo := x.fifo.drop 1 })).die d).fifo.isEmpty = true then _ else _ : Trail s).1 = _
  unfold popped
  rw [hfifo]
  simp only [hempty]
  split
  · rfl
  · exact pendOnce_val _ _ _

theorem popped_fifo (s : State) (d : Nat) : ((popped s d).die d).fifo = (s.die d).fifo.drop 1 := by
  have hfifo : ((onDie s d (fun x => { x with fifo := x.fifo.drop 1 })).die d).fifo = (s.die d).fifo.drop 1 := by
    unfold onDie State.die
    rw [lookD_put_same]
  unfold popped dueOnce due
  dsimp only
  split
  · exact hfifo
  · split
    · exact hfifo
    · exact hfifo

theorem popped_parts (s : State) (d : Nat) : (popped s d).parts = s.parts := by
  unfold popped dueOnce due
  dsimp only
  split
  · rfl
  · split
    · rfl
    · rfl

/-- A ring at the head of the FIFO of a die whose stewards serve. -/
structure Rung (s : State) (d fn v : Nat) (r : List (Nat × Nat)) : Prop where
  args : s.args = [d]
  serves : Serves s d
  head : (s.die d).fifo = (fn, v) :: r

theorem exec_submissionHandle_eq (s : State) : exec .submissionHandle s = execSubmissionHandle s := rfl

/-- What the stewards of a die do with the ring at the head of its FIFO. -/
def ringServed (s : State) (d fn v : Nat) : Trail s :=
  match s.queue? (v % 65536) with
  | none => ((begin s).reject d).popRing d
  | some (n, _, i, q) =>
    if bits v 31 16 ≠ 0 ∨ dieOfCluster n ≠ d ∨ q.state = 4 ∨ q.owner ≠ fn then ((begin s).reject d).popRing d
    else (begin s).handleRing d (v / 2 ^ 32) n i q

theorem exec_ring {s : State} {d fn v : Nat} {r : List (Nat × Nat)} (h : Rung s d fn v r) :
    exec .submissionHandle s = .next (ringServed s d fn v).1 := by
  obtain ⟨ha, ⟨⟨hst, hb, hf⟩, ⟨-, hre⟩, -⟩, hfifo⟩ := h
  have h0 : s.arg 0 = d := by rw [State.arg, ha]; rfl
  rw [exec_submissionHandle_eq]
  unfold execSubmissionHandle event
  simp only [begin_val, h0, runs_of_booted hst hb hf, hre, hfifo, done_eq]
  rfl

theorem ring_rejected {s : State} {d fn v : Nat} (h : s.queue? (v % 65536) = none ∨
      ∃ n p i q, s.queue? (v % 65536) = some (n, p, i, q) ∧ (bits v 31 16 ≠ 0 ∨ dieOfCluster n ≠ d ∨ q.state = 4 ∨ q.owner ≠ fn)) :
    (ringServed s d fn v).1 = popped (rejected s d) d := by
  have hrej : (((begin s).reject d).popRing d).1 = popped (rejected s d) d := popRing_val _ _
  unfold ringServed
  rcases h with hq | ⟨n, p, i, q, hq, hbad⟩
  · simp only [hq, hrej]
  · simp only [hq, if_pos hbad, hrej]

theorem ring_handled {s : State} {d fn v n i : Nat} {p : Part} {q : Queue} (hq : s.queue? (v % 65536) = some (n, p, i, q))
    (hok : ¬(bits v 31 16 ≠ 0 ∨ dieOfCluster n ≠ d ∨ q.state = 4 ∨ q.owner ≠ fn)) :
    ringServed s d fn v = (begin s).handleRing d (v / 2 ^ 32) n i q := by
  unfold ringServed
  simp only [hq, if_neg hok]

/-- How many records a ring is ahead of what its queue has taken. -/
def ahead (seq : Nat) (q : Queue) : Nat := (seq + 2 ^ 32 - q.taken) % 2 ^ 32

theorem handleRing_nothing {s : State} {d seq n i : Nat} {q : Queue} (h : ahead seq q = 0 ∨ 2 ^ 31 ≤ ahead seq q) :
    ((begin s).handleRing d seq n i q).1 = popped s d := by
  have e : (begin s).handleRing d seq n i q = (begin s).popRing d := if_pos h
  rw [e, popRing_val, begin_val]

theorem handleRing_overrun {s : State} {d seq n i : Nat} {p : Part} {q : Queue} (h : ¬(ahead seq q = 0 ∨ 2 ^ 31 ≤ ahead seq q))
    (hk : q.entries < ahead seq q) (hp : s.part? n = some p) (hq : look p.queues i = some q) :
    let t := ((begin s).handleRing d seq n i q).1
    (t.die d).fifo = (s.die d).fifo.drop 1 ∧
      t.part? n = some { p with queues := put p.queues i { q with overrun := true } } := by
  have e : (begin s).handleRing d seq n i q = ((begin s).modQueue n i (fun q => { q with overrun := true })).popRing d :=
    (if_neg h).trans (if_pos hk)
  obtain ⟨hd, b, cs, hm⟩ := modQueue_val (t := begin s) hp hq (fun q => { q with overrun := true })
  rw [e, popRing_val, hm]
  refine ⟨popped_fifo _ d, ?_⟩
  unfold State.part?
  rw [popped_parts]
  exact look_put_same _ _ _

theorem handleRing_offers {s : State} {d seq n i : Nat} {q : Queue} (h : ¬(ahead seq q = 0 ∨ 2 ^ 31 ≤ ahead seq q))
    (hk : ¬q.entries < ahead seq q) (hseq : (s.nextLaunch q).seq = (q.taken + 1) % 2 ^ 32) :
    ((begin s).handleRing d seq n i q).1 = dueOnce s .recordAccept [n, i] := by
  have e : (begin s).handleRing d seq n i q = (begin s).pendOnce .recordAccept [n, i] :=
    (if_neg h).trans ((if_neg hk).trans (if_neg (not_not_intro hseq)))
  rw [e, pendOnce_val, begin_val]

/-- Settles O33: the head of the FIFO is rejected, or its queue handles it by the number of records that it rings for. -/
theorem rings : Obligations.Rings := by
  refine ⟨fun s d ha hf => ?empty, fun s d fn v r ha hs hf => ?head⟩
  case empty =>
    have h0 : s.arg 0 = d := by rw [State.arg, ha]; rfl
    rw [exec_submissionHandle_eq]
    unfold execSubmissionHandle event
    simp only [begin_val, h0, hf, done_eq]
    split
    · rfl
    · rfl
  case head =>
    rw [exec_ring ⟨ha, hs, hf⟩]
    refine ⟨fun hq => by rw [ring_rejected (.inl hq)], fun n p i q hq => ⟨fun hbad => by rw [ring_rejected (.inr ⟨n, p, i, q, hq, hbad⟩)],
      fun hbits hdie hst hown => ?_⟩⟩
    obtain ⟨-, -, hp, hlook⟩ := queue?_eq hq
    rw [ring_handled hq (by simp [hbits, hdie, hst, hown])]
    refine ⟨fun hk => by rw [handleRing_nothing hk], fun hk0 hk1 hent _ _ => ?_, fun hk0 hk1 hent hseq => ?_⟩
    · have hno : ¬(ahead (v / 2 ^ 32) q = 0 ∨ 2 ^ 31 ≤ ahead (v / 2 ^ 32) q) := fun h => h.elim hk0 (Nat.not_le.mpr hk1)
      obtain ⟨hfifo, hpart⟩ := handleRing_overrun (d := d) hno hent hp hlook
      exact ⟨_, _, _, rfl, hpart, look_put_same _ _ _, rfl, by rw [hfifo, hf]; rfl⟩
    · have hno : ¬(ahead (v / 2 ^ 32) q = 0 ∨ 2 ^ 31 ≤ ahead (v / 2 ^ 32) q) := fun h => h.elim hk0 (Nat.not_le.mpr hk1)
      rw [handleRing_offers hno (Nat.not_lt.mpr hent) hseq]

end Sys2Proof.Proofs
end

section
/-!
PROOFS. The ladder of pre-emption: a resume cannot restore a byte that no local store has.
-/

namespace Sys2Proof.Proofs

open Sys2Proof Sys2Proof.Machine Sys2Proof.Claims

/-- A key of no core's local store keeps its byte, whatever is written (R111). -/
theorem apply_outside_local (s : State) (a : Act) {k : Nat} (hk : inLocal k = false) : (a.apply s).loc.get k = s.loc.get k := by
  cases a with
  | loc a b =>
    rw [Act.apply_loc]
    dsimp only
    split
    · next hb => exact Mem.get_set_other s.loc a k b fun e => by rw [e, hb] at hk; cases hk
    · rfl
  | _ => rfl

theorem exec_outside_local {i : Instr} {s t : State} (h : exec i s = .next t) {k : Nat} (hk : inLocal k = false) :
    t.loc.get k = s.loc.get k :=
  (exec_reach i s t h).keeps (p := fun u => u.loc.get k = s.loc.get k) (fun u a hu => (apply_outside_local u a hk).trans hu) rfl

/-- A saved context of no core, with one byte at a key behind the local stores of the 512 cores. -/
def strayContext : Saved := { cores := [], loc := [(2 ^ 30, 1)] }

def strayQueue : Queue :=
  { header := 0x100000, ring := 0x110000, entries := 16, owner := 0, t1 := 200, t2 := 100, taken := 0, rung := 2, state := 3, fault := false
    stale := false, overrun := false, done := 0, count := 0, fence := none, hold := [] }

/-- A partition of cluster 0 that stands at rung 2 with that context. -/
def strayPart : Part :=
  { rcb := 0, mode := 0, logpol := 0, fdom := 0, prio := 0, clusters := [0], mem := 0x1000000, logbase := 0, logbytes := 0, courier := 8
    queues := [(0, strayQueue)], append := 0, live := [], graphs := [], dumpBase := 0x900000, dumps := [], ladder := .stopped, halted := true
    t2 := 100, reason := 0, saved := some strayContext, log := emptyLog, frames := [], residency := [], entries := [], shadow := [], found := [] }

/-- PF0 resumes queue 0 of that partition in a package that has booted. -/
def strayState : State :=
  { State.reset with args := [0, 0], pkg := { Pkg.reset with stage := 3 }, parts := [(0, strayPart)] }

theorem stray_noHalt (d : Nat) : NoHalt strayState d := by
  intro c th _ h
  cases h

theorem stray_commands : Commands strayState 0 0 0 strayPart 0 strayQueue where
  args := rfl
  page := ⟨rfl, rfl, rfl⟩
  queue := rfl
  serves := ⟨⟨Nat.le_refl 3, rfl, rfl⟩, ⟨rfl, rfl⟩, stray_noHalt 0, stray_noHalt _⟩

theorem stray_restorable : Restorable strayState strayPart strayContext where
  saved := rfl
  once := ⟨.nil, by decide⟩
  ungranted := rfl
  good := fun _ h => absurd h List.not_mem_nil

/-- Refutes O36 in its clause on a resume: `Restores` asks for every byte of a saved context, and `Restorable` lets a context hold a byte
at a key that is in no core's local store, 2^30 here, which no step can write. -/
theorem not_ladder : ¬ Obligations.Ladder := by
  rintro ⟨-, -, -, -, -, -, resume, -⟩
  obtain ⟨t, p', hex, -, -, -, -, -, -, hrest⟩ := resume strayState 0 0 0 strayPart 0 strayQueue stray_commands rfl (fun _ _ => .inl rfl)
    (.inr ⟨strayContext, stray_restorable⟩)
  have hkept : t.loc.get (2 ^ 30) = strayState.loc.get (2 ^ 30) := exec_outside_local hex (by decide)
  have hone : t.loc.get (2 ^ 30) = 1 := (hrest strayContext rfl).2.local_ (2 ^ 30, 1) List.mem_cons_self
  rw [hkept] at hone
  exact absurd hone (by decide)

end Sys2Proof.Proofs
end

section
/-!
PROOFS. Region commands: what shared operations leave to the host and to a partition, the active bit of a control block, and the course of
an activation and of a deactivation.
-/

namespace Sys2Proof.Proofs

open Sys2Proof Sys2Proof.Machine Sys2Proof.Claims

/-! ### What is left to the host and to a partition -/

/-- The host's side and the regions are as they were. -/
structure HostKept (s t : State) : Prop where
  host : t.host = s.host
  regions : t.regions = s.regions

theorem HostKept.refl (s : State) : HostKept s s := ⟨rfl, rfl⟩

theorem HostKept.trans {s t u : State} (h : HostKept s t) (k : HostKept t u) : HostKept s u := ⟨k.host.trans h.host, k.regions.trans h.regions⟩

/-- Beyond that, what was due is due, and a partition has changed as R says. -/
structure Keeps (n : Nat) (R : Part → Part → Prop) (s t : State) : Prop extends HostKept s t where
  due : ∀ i ∈ s.pending, i ∈ t.pending
  part : ∀ p, s.part? n = some p → ∃ p', t.part? n = some p' ∧ R p p'

theorem Keeps.of_eq {n : Nat} {s t : State} (hh : t.host = s.host) (hr : t.regions = s.regions) (hp : t.parts = s.parts)
    (hd : ∀ i ∈ s.pending, i ∈ t.pending) : Keeps n Eq s t :=
  ⟨⟨hh, hr⟩, hd, fun p h => ⟨p, by rw [State.part?, hp]; exact h, rfl⟩⟩

theorem Keeps.mono {n : Nat} {R R' : Part → Part → Prop} {s t : State} (h : Keeps n R s t) (hR : ∀ p p', R p p' → R' p p') : Keeps n R' s t :=
  ⟨h.toHostKept, h.due, fun p hp => let ⟨p', hp', hr⟩ := h.part p hp; ⟨p', hp', hR p p' hr⟩⟩

theorem Keeps.comp {n : Nat} {R Q S : Part → Part → Prop} {s t u : State} (h : Keeps n R s t) (k : Keeps n Q t u)
    (hS : ∀ p q r, R p q → Q q r → S p r) : Keeps n S s u :=
  ⟨h.toHostKept.trans k.toHostKept, fun i hi => k.due i (h.due i hi), fun p hp =>
    let ⟨q, hq, hr⟩ := h.part p hp
    let ⟨r, hr', hs⟩ := k.part q hq
    ⟨r, hr', hS p q r hr hs⟩⟩

theorem Keeps.of_adds {n : Nat} {s t : State} (h : AddsDue s t) : Keeps n Eq s t := by
  obtain ⟨p, rfl, hp⟩ := h
  exact .of_eq rfl rfl rfl hp

/-! Loops and stores are said of a name for the trail after them, so that no unification runs them. -/

section Relation

variable {R : Part → Part → Prop} (hr : ∀ p, R p p)
include hr

theorem Keeps.ofEq {n : Nat} {s t : State} (h : Keeps n Eq s t) : Keeps n R s t := h.mono fun p _ e => e ▸ hr p

theorem modPart_keeps {s : State} {n m : Nat} {f : Part → Part} (hf : ∀ p, R p (f p)) (t : Trail s) : Keeps n R t.1 (t.modPart m f).1 := by
  unfold Trail.modPart
  split
  · next x hx =>
    refine ⟨⟨rfl, rfl⟩, fun _ h => h, fun p hp => ?_⟩
    by_cases e : n = m
    · subst e
      rw [hx] at hp
      cases hp
      exact ⟨_, look_put_same _ _ _, hf x⟩
    · exact ⟨p, (look_put_other _ _ _ _ e).trans hp, hr p⟩
  · exact ⟨⟨rfl, rfl⟩, fun _ h => h, fun p hp => ⟨p, hp, hr p⟩⟩

variable (ht : ∀ p q r, R p q → R q r → R p r)
include ht

theorem forEach_keepsPart {s : State} {n : Nat} {α : Type} {f : Trail s → α → Trail s} {t u : Trail s} {l : List α} (e : u = forEach t l f)
    (h : ∀ t a, Keeps n R t.1 (f t a).1) : Keeps n R t.1 u.1 := by
  rw [e]
  exact forEach_keeps (P := fun u => Keeps n R t.1 u.1) (fun u a hu => hu.comp (h u a) ht) l t (.ofEq hr (.of_eq rfl rfl rfl fun _ h => h))

end Relation

theorem forEach_keepsEq {s : State} {n : Nat} {α : Type} {f : Trail s → α → Trail s} {t u : Trail s} {l : List α} (e : u = forEach t l f)
    (h : ∀ t a, Keeps n Eq t.1 (f t a).1) : Keeps n Eq t.1 u.1 :=
  forEach_keepsPart (fun _ => rfl) (fun _ _ _ h k => h.trans k) e h

theorem forEach_hostKept {s : State} {α : Type} {f : Trail s → α → Trail s} {t u : Trail s} {l : List α} (e : u = forEach t l f)
    (h : ∀ t a, HostKept t.1 (f t a).1) : HostKept t.1 u.1 := by
  rw [e]
  exact forEach_keeps (P := fun u => HostKept t.1 u.1) (fun u a hu => hu.trans (h u a)) l t (.refl _)

theorem memPut_keeps {s : State} {n : Nat} (t : Trail s) (a : Nat) (bs : List Byte) (hs : List Head) : Keeps n Eq t.1 (t.memPut a bs hs).1 := by
  obtain ⟨h, b, cs, e⟩ := memPut_val t a bs hs
  rw [e]
  exact .of_eq rfl rfl rfl fun _ h => h

theorem memStore_keeps {s : State} {n : Nat} {t u : Trail s} {a : Nat} {bs : List Byte} (e : u = t.memStore a bs) : Keeps n Eq t.1 u.1 := by
  rw [e]
  exact memPut_keeps t a bs []

theorem stores_keeps {s : State} {n : Nat} {α : Type} {t u : Trail s} {l : List α} {g : α → Nat} {bs : List Byte}
    (e : u = forEach t l (fun t k => t.memStore (g k) bs)) : Keeps n Eq t.1 u.1 :=
  forEach_keepsEq e fun _ _ => memStore_keeps rfl

/-! ### Leases and slots that go -/

/-- Only the frames of a partition have changed. -/
def FramesChange (p p' : Part) : Prop := ∃ fr, p' = { p with frames := fr }

theorem pokeLeases_adds {s : State} (t : Trail s) : AddsDue t.1 t.pokeLeases.1 := by
  refine forEach_adds _ (fun t p => ?_) _ t
  have h1 : AddsDue t.1 (forEach t p.2.clusters (fun t cl =>
      let t := if p.2.live.any (fun n => decide (n.2.st = .preparing cl)) then t.pendOnce .nodeTake [cl] else t
      if p.2.residency.isEmpty then t else t.pendOnce .porterResidency [cl])).1 := by
    refine forEach_adds _ (fun t cl => ?_) _ t
    dsimp only
    generalize hu : (if p.2.live.any (fun n => decide (n.2.st = .preparing cl)) then t.pendOnce .nodeTake [cl] else t) = u
    have hadd : AddsDue t.1 u.1 := by
      rw [← hu]
      split
      · exact pendOnce_adds _ _ _
      · exact .refl _
    refine hadd.trans ?_
    split
    · exact .refl _
    · exact pendOnce_adds _ _ _
  refine h1.trans ((forEach_adds _ (fun t m => pendOnce_adds t _ _) _ _).trans (forEach_adds _ (fun t c => ?_) _ _))
  exact forEach_adds _ (fun t q => pendOnce_adds t _ _) _ t

theorem dropLeases_keeps {s : State} {n : Nat} (t : Trail s) (pages : List Nat) : Keeps n FramesChange t.1 (t.dropLeases pages).1 := by
  have hrefl : ∀ p, FramesChange p p := fun p => ⟨p.frames, rfl⟩
  have htrans : ∀ p q r, FramesChange p q → FramesChange q r → FramesChange p r := by
    rintro p _ _ ⟨a, rfl⟩ ⟨b, rfl⟩
    exact ⟨b, rfl⟩
  unfold Trail.dropLeases
  split
  · exact .ofEq hrefl (.of_eq rfl rfl rfl fun _ h => h)
  · extract_lets u r v w
    have hu : Keeps n Eq t.1 u.1 := forEach_keepsEq rfl fun t m => by exact .of_eq rfl rfl rfl fun _ h => h
    have hv : Keeps n Eq u.1 v.1 := .of_eq rfl rfl rfl fun _ h => h
    have hw : Keeps n FramesChange v.1 w.1 :=
      forEach_keepsPart hrefl htrans rfl fun t (p : Nat × Part) => modPart_keeps hrefl (fun q => ⟨_, rfl⟩) t
    exact ((hu.comp hv fun _ _ _ h k => h.trans k).ofEq hrefl).comp (hw.comp ((Keeps.of_adds (pokeLeases_adds w)).ofEq hrefl) htrans) htrans

theorem dropWaits_hostKept {s : State} (t : Trail s) (c sl : Nat) : HostKept t.1 (t.dropWaits c sl).1 := by
  obtain ⟨ps, ts, v, hw, ⟨p, e, -⟩⟩ := dropWaits_spec t c sl
  rw [e, hw.rest]
  exact ⟨rfl, rfl⟩

theorem sendTo_hostKept {s : State} (t : Trail s) (src dst : Nat) (i : Instr) (a : List Nat) : HostKept t.1 (t.sendTo src dst i a).1 := by
  unfold Trail.sendTo
  split
  · exact ⟨rfl, rfl⟩
  · dsimp only
    split
    · exact ⟨rfl, rfl⟩
    · exact ⟨rfl, rfl⟩

theorem contextFree_hostKept {s : State} (t : Trail s) (c : Nat) : HostKept t.1 (t.contextFree c).1 := by
  unfold Trail.contextFree
  dsimp only
  split
  · exact .refl _
  · have hu : HostKept t.1 (t.modCore c (fun k => { k with refusals := [] })).1 := ⟨rfl, rfl⟩
    exact hu.trans (forEach_hostKept rfl fun t p => sendTo_hostKept t _ _ _ _)

theorem freeSlot_hostKept {s : State} (t : Trail s) (c sl : Nat) : HostKept t.1 (t.freeSlot c sl).1 :=
  (dropWaits_hostKept t c sl).trans ⟨rfl, rfl⟩

theorem freeTask_hostKept {s : State} (t : Trail s) (n : Nat) : HostKept t.1 (t.freeTask n).1 := by
  unfold Trail.freeTask
  split
  · exact .refl _
  · next x _ =>
    extract_lets slots u js v w y z
    have hu : HostKept t.1 u.1 := forEach_hostKept rfl fun t sl => freeSlot_hostKept t x.core sl
    have hv : HostKept u.1 v.1 := forEach_hostKept rfl fun t j => by exact ⟨rfl, rfl⟩
    have hz : HostKept v.1 z.1 := by
      have hy : HostKept v.1 y.1 := ⟨rfl, rfl⟩
      refine hy.trans ?_
      show HostKept y.1 (if _ then _ else _ : Trail s).1
      split
      · exact .refl _
      · exact ⟨rfl, rfl⟩
    exact hu.trans (hv.trans (hz.trans ((contextFree_hostKept z _).trans (dropLeases_keeps (n := n) _ _).toHostKept)))

/-! ### The active bit of a control block (R35) -/

theorem bit_iff (w i : Nat) : bit w i = true ↔ w / 2 ^ i % 2 = 1 := by
  unfold bit
  simp

theorem writeBacked_unbacked : ∀ (bs : List Byte) (m : Mem) (a k : Nat), backed k = false → (writeBacked m a bs).get k = m.get k
  | [], _, _, _, _ => rfl
  | b :: r, m, a, k, h => by
    rw [writeBacked, writeBacked_unbacked r _ (a + 1) k h]
    split
    · next hb => exact Mem.get_set_other m a k b fun e => by rw [e, hb] at h; cases h
    · rfl

theorem leBytes_getD : ∀ (n v i : Nat), i < n → (leBytes v n).getD i 0 = BitVec.ofNat 8 (v / 256 ^ i)
  | 0, _, _, h => by omega
  | n + 1, v, 0, _ => by simp [leBytes]
  | n + 1, v, i + 1, h => by
    have e : v / 256 / 256 ^ i = v / 256 ^ (i + 1) := by rw [Nat.div_div_eq_div_mul, Nat.pow_succ, Nat.mul_comm]
    simpa [leBytes, e] using leBytes_getD n (v / 256) i (by omega)

/-- A number in memory has the byte of each of its addresses. -/
theorem read_byte (m : Mem) : ∀ (n a i : Nat), i < n → m.read a n / 256 ^ i % 256 = (m.get (a + i)).toNat
  | 0, _, _, h => by omega
  | n + 1, a, 0, _ => by
    have := (m.get a).isLt
    simp only [Mem.read, Nat.pow_zero, Nat.div_one, Nat.add_zero]
    omega
  | n + 1, a, i + 1, h => by
    have hb := (m.get a).isLt
    have e : m.read a (n + 1) / 256 ^ (i + 1) = m.read (a + 1) n / 256 ^ i := by
      rw [Nat.pow_succ, Nat.mul_comm, ← Nat.div_div_eq_div_mul]
      congr 1
      simp only [Mem.read]
      omega
    rw [e, read_byte m n (a + 1) i (by omega), show a + 1 + i = a + (i + 1) by omega]

theorem read_lt (m : Mem) : ∀ (n a : Nat), m.read a n < 256 ^ n
  | 0, _ => by simp [Mem.read]
  | n + 1, a => by
    have := (m.get a).isLt
    have := read_lt m n (a + 1)
    simp only [Mem.read]
    omega

theorem read_eq_zero (m : Mem) : ∀ (n a : Nat), m.read a n = 0 ↔ ∀ k, k < n → m.get (a + k) = 0
  | 0, _ => by simp [Mem.read]
  | n + 1, a => by
    have hz : (m.get a).toNat = 0 ↔ m.get a = 0 := ⟨fun h => BitVec.eq_of_toNat_eq h, fun h => by rw [h]; rfl⟩
    have := read_eq_zero m n (a + 1)
    simp only [Mem.read]
    constructor
    · intro h k hk
      cases k with
      | zero => exact hz.mp (by omega)
      | succ k => rw [show a + (k + 1) = a + 1 + k by omega]; exact this.mp (by omega) k (by omega)
    · intro h
      have h0 := hz.mpr (h 0 (by omega))
      have h1 := this.mpr fun k hk => by rw [show a + 1 + k = a + (k + 1) by omega]; exact h (k + 1) (by omega)
      omega

theorem bytes_writeBacked {m : Mem} {a : Nat} {bs : List Byte} (hm : m.wf) (hb : ∀ k, k < bs.length → backed (a + k) = true) :
    (writeBacked m a bs).bytes a bs.length = bs := by
  suffices h : ∀ (n k : Nat), k + n = bs.length → (writeBacked m a bs).bytes (a + k) n = bs.drop k from by simpa using h bs.length 0 (by omega)
  intro n
  induction n with
  | zero => intro k hk; rw [List.drop_eq_nil_of_le (by omega)]; rfl
  | succ n ih =>
    intro k hk
    have hlt : k < bs.length := by omega
    rw [Mem.bytes, writeBacked_at bs m a k hm hlt (hb k hlt), show a + k + 1 = a + (k + 1) by omega, ih (k + 1) (by omega),
      List.drop_eq_getElem_cons hlt]
    simp [hlt]

/-- A control word with its active bit set or cleared. -/
def activeWord (w : Nat) (on : Bool) : Nat := w - bitAt (bit w 31) 31 + bitAt on 31

theorem setActive_val {s : State} (t : Trail s) (a : Nat) (on : Bool) : ∃ h b cs, (t.setActive a on).1 = { t.1 with
    mem := writeBacked t.1.mem (a + 8) (leBytes (activeWord (t.1.mem.read (a + 8) 8) on) 8), heads := h, bad := b, cores := cs } :=
  memPut_val _ _ _ _

theorem activeWord_on (w : Nat) : activeWord w true = if bit w 31 then w else w + 2 ^ 31 := by
  unfold activeWord bitAt
  cases h : bit w 31 with
  | true =>
    rw [bit_iff] at h
    simp only [if_true]
    omega
  | false => simp

theorem bit_activeWord (w : Nat) : bit (activeWord w true % 256 ^ 8) 31 = true := by
  rw [activeWord_on, bit_iff]
  split
  · next h =>
    rw [bit_iff] at h
    omega
  · next h =>
    rw [bit_iff] at h
    omega

/-- Setting the active bit of a control word whose part bit is set makes no byte of it zero that was not, and none other than zero. -/
theorem activeWord_byte_zero {w i : Nat} (hw : w < 2 ^ 64) (hp : bit w 30 = true) (hi : i < 8) :
    activeWord w true / 256 ^ i % 256 = 0 ↔ w / 256 ^ i % 256 = 0 := by
  rw [activeWord_on]
  rw [bit_iff] at hp
  split
  · exact Iff.rfl
  · next h =>
    rw [bit_iff] at h
    interval_cases i <;> omega

theorem get_setActive_zero {m : Mem} {a : Nat} (hm : m.wf) (hp : bit (m.read (a + 8) 8) 30 = true) (x : Nat) :
    (writeBacked m (a + 8) (leBytes (activeWord (m.read (a + 8) 8) true) 8)).get x = 0 ↔ m.get x = 0 := by
  by_cases hx : a + 8 ≤ x ∧ x < a + 16
  · obtain ⟨i, rfl⟩ : ∃ i, x = a + 8 + i := ⟨x - (a + 8), by omega⟩
    have hi : i < 8 := by omega
    cases hb : backed (a + 8 + i) with
    | false => rw [writeBacked_unbacked _ _ _ _ hb]
    | true =>
      have hz : ∀ b : Byte, b = 0 ↔ b.toNat = 0 := fun b => ⟨fun h => by rw [h]; rfl, fun h => BitVec.eq_of_toNat_eq h⟩
      rw [writeBacked_at _ _ _ _ hm (by simpa using hi) hb, leBytes_getD 8 _ i hi, hz, hz, ← read_byte m 8 (a + 8) i hi, BitVec.toNat_ofNat]
      exact activeWord_byte_zero (read_lt m 8 (a + 8)) hp hi
  · rw [writeBacked_other _ _ _ _ (by simp only [leBytes_length]; omega)]

/-! ### Queues of an activation (R39) -/

theorem queuesAt_keys (s : State) (table : Nat) :
    (s.queuesAt table).map (·.1) = (upFrom 0 8).filter (fun i => decide (s.mem.read (table + 8 * i) 8 ≠ 0)) := by
  unfold State.queuesAt
  rw [List.map_filterMap, ← List.filterMap_eq_filter]
  refine congrArg (fun f => List.filterMap f _) (funext fun i => ?_)
  by_cases h : s.mem.read (table + 8 * i) 8 = 0
  · simp [h, Option.guard]
  · simp [h, Option.guard]

theorem upFrom_pairwise : ∀ (n a : Nat), (upFrom a n).Pairwise (· < ·)
  | 0, _ => .nil
  | n + 1, a => List.pairwise_cons.mpr ⟨fun b hb => by have := (mem_upFrom (a + 1) n b).mp hb; omega, upFrom_pairwise n (a + 1)⟩

theorem queuesAt_wf (s : State) (table : Nat) : (s.queuesAt table).wf := by
  have h : ((s.queuesAt table).map (·.1)).Pairwise (· < ·) := by
    rw [queuesAt_keys]
    exact (upFrom_pairwise 8 0).filter _
  exact List.pairwise_map.mp h

/-- An activation finds the queues of the queue table in the places in which they stood before its active bit was written. -/
theorem queuesAt_setActive {s t : State} {a : Nat} (hm : s.mem.wf) (hp : bit (s.mem.read (a + 8) 8) 30 = true)
    (ht : t.mem = writeBacked s.mem (a + 8) (leBytes (activeWord (s.mem.read (a + 8) 8) true) 8)) (table : Nat) :
    (t.queuesAt table).map (·.1) = (s.queuesAt table).map (·.1) := by
  rw [queuesAt_keys, queuesAt_keys]
  refine congrArg (fun f => List.filter f _) (funext fun i => ?_)
  have h : t.mem.read (table + 8 * i) 8 = 0 ↔ s.mem.read (table + 8 * i) 8 = 0 := by
    rw [read_eq_zero, read_eq_zero, ht]
    exact forall₂_congr fun k _ => get_setActive_zero hm hp _
  simp only [ne_eq, h]

theorem put_keys {α : Type} {t : Tab α} {k : Nat} {x : α} (v : α) (h : t.wf) (hx : look t k = some x) :
    (put t k v).map (·.1) = t.map (·.1) := by
  induction t with
  | nil => cases hx
  | cons e r ih =>
    obtain ⟨a, y⟩ := e
    obtain ⟨h1, h2⟩ := List.pairwise_cons.mp h
    unfold look at hx
    unfold put
    by_cases e : a = k
    · rw [if_neg (by omega), if_pos e, e]
      rfl
    · rw [if_neg e] at hx
      have hlt : a < k := h1 _ (mem_of_look hx)
      rw [if_neg (by omega), if_neg e, List.map_cons, List.map_cons, ih h2 hx]

/-! ### A partition begins (R37, R39, R50) -/

/-- A partition that opens: its entries and its queues' states may change, the places of its queues do not. -/
def Opening (p p' : Part) : Prop :=
  ∃ e qs, p' = { p with entries := e, queues := qs } ∧ (p.queues.wf → qs.wf ∧ qs.map (·.1) = p.queues.map (·.1))

theorem Opening.refl (p : Part) : Opening p p := ⟨p.entries, p.queues, rfl, fun h => ⟨h, rfl⟩⟩

theorem Opening.trans (p q r : Part) : Opening p q → Opening q r → Opening p r := by
  rintro ⟨e, qs, rfl, h⟩ ⟨e', qs', rfl, k⟩
  exact ⟨e', qs', rfl, fun hp => ⟨(k (h hp).1).1, ((k (h hp).1).2).trans (h hp).2⟩⟩

theorem editTable_keeps {s : State} {n : Nat} (t : Trail s) (a v : Nat) : Keeps n Eq t.1 (t.editTable a v).1 := .of_eq rfl rfl rfl fun _ h => h

theorem addEntry_keeps {s : State} {n m : Nat} (t : Trail s) (base : Nat) : Keeps n Opening t.1 (t.addEntry base m).1 := by
  unfold Trail.addEntry
  split
  · exact .ofEq Opening.refl (.of_eq rfl rfl rfl fun _ h => h)
  · next i _ =>
    dsimp only
    have h := (editTable_keeps (n := n) t (base + 16 * i + 8) 0x0FFF0000).comp
      (editTable_keeps (n := n) _ (base + 16 * i) (2 ^ 63 + 7 * 2 ^ 52 + partMaster t.1.pkg.num m)) fun _ _ _ h k => h.trans k
    exact (h.ofEq Opening.refl).comp (modPart_keeps Opening.refl (fun p => ⟨_, p.queues, rfl, fun h => ⟨h, rfl⟩⟩) _) Opening.trans

theorem modQueue_opening {s : State} {n m i : Nat} (t : Trail s) (f : Queue → Queue) : Keeps n Opening t.1 (t.modQueue m i f).1 := by
  have hrefl : Keeps n Opening t.1 t.1 := .ofEq Opening.refl (.of_eq rfl rfl rfl fun _ h => h)
  cases hp : t.1.part? m with
  | none =>
    unfold Trail.modQueue
    rw [hp]
    exact hrefl
  | some p =>
    cases hq : look p.queues i with
    | none =>
      unfold Trail.modQueue
      rw [hp]
      dsimp only
      rw [hq]
      exact hrefl
    | some q =>
      obtain ⟨h, b, cs, e⟩ := modQueue_val hp hq f
      rw [e]
      refine ⟨⟨rfl, rfl⟩, fun _ h => h, fun x hx => ?_⟩
      by_cases en : n = m
      · subst en
        rw [hp] at hx
        cases hx
        exact ⟨_, look_put_same _ _ _, p.entries, _, rfl, fun hw => ⟨put_wf _ _ _ hw, put_keys _ hw hq⟩⟩
      · exact ⟨x, (look_put_other _ _ _ _ en).trans hx, Opening.refl x⟩

/-- The partition that an activation of a control block sets up, with its queues and the base of its dump area. -/
def opened (queues : Tab Queue) (base a : Nat) (r : Rcb) (e : Region) : Part :=
  { rcb := a, mode := r.mode, logpol := bitAt (bit r.ctl 26) 0, fdom := e.fdom, prio := e.prio, clusters := e.grant, mem := e.mem
    logbase := r.logbase, logbytes := e.logbytes, courier := e.courier, queues := queues, append := 0, live := [], graphs := []
    dumpBase := base, dumps := [], ladder := .none, halted := false, t2 := 0, reason := 0
    saved := none, log := emptyLog, frames := [], residency := [], entries := [], shadow := [], found := [] }

theorem opening_fields {queues : Tab Queue} {base a : Nat} {r : Rcb} {e : Region} {p : Part} (h : Opening (opened queues base a r e) p) :
    p.rcb = a ∧ p.clusters = e.grant ∧ p.mode = r.mode ∧ p.fdom = e.fdom ∧ p.prio = e.prio ∧ p.append = 0 ∧ p.live = [] ∧ p.halted = false ∧
      (queues.wf → p.queues.map (·.1) = queues.map (·.1)) := by
  obtain ⟨en, qs, rfl, hqs⟩ := h
  exact ⟨rfl, rfl, rfl, rfl, rfl, rfl, rfl, rfl, fun h => (hqs h).2⟩

theorem openPart_spec {s : State} (t : Trail s) (a want : Nat) (r : Rcb) (e : Region) :
    HostKept t.1 (t.openPart a want r e).1 ∧
      ∃ base p, (t.openPart a want r e).1.part? (e.grant.headD 0) = some p ∧ Opening (opened (t.1.queuesAt r.queues) base a r e) p := by
  unfold Trail.openPart
  generalize List.replicate 0x80000 (0 : Byte) = zeros
  extract_lets n base queues p t1 t2 t3 t4 t5 t6 t7
  have he : ∀ {u : Trail s} {v : State}, Keeps n Eq u.1 v → Keeps n Opening u.1 v := fun h => h.ofEq Opening.refl
  have h2 : Keeps n Opening t1.1 t2.1 := forEach_keepsPart Opening.refl Opening.trans rfl fun t b => addEntry_keeps t b
  have h3 : Keeps n Opening t2.1 t3.1 := he (memStore_keeps (a := base) (bs := zeros) rfl)
  have h4 : Keeps n Opening t3.1 t4.1 := he (stores_keeps rfl)
  have h5 : Keeps n Opening t4.1 t5.1 := by
    show Keeps n Opening t4.1 (if _ then _ else _ : Trail s).1
    split
    · exact he (memStore_keeps rfl)
    · exact he (.of_eq rfl rfl rfl fun _ h => h)
  have h6 : Keeps n Opening t5.1 t6.1 := forEach_keepsPart Opening.refl Opening.trans rfl fun t q => modQueue_opening t id
  have h7 : Keeps n Opening t6.1 t7.1 := by
    refine he (forEach_keepsEq rfl fun t c => ?_)
    split
    · exact .of_eq rfl rfl rfl fun _ h => h
    · exact .of_eq rfl rfl rfl fun _ h => h
  have h8 : Keeps n Opening t7.1 (forEach t7 p.clusters (fun t cl => t.armBalance cl)).1 :=
    he (forEach_keepsEq rfl fun t cl => by exact .of_eq rfl rfl rfl fun _ h => h)
  have hall := ((((((h2.comp h3 Opening.trans).comp h4 Opening.trans).comp h5 Opening.trans).comp h6 Opening.trans).comp h7
    Opening.trans).comp h8 Opening.trans)
  obtain ⟨q, hq, ho⟩ := hall.part p (look_put_same _ _ _)
  have h1 : HostKept t.1 t1.1 := ⟨rfl, rfl⟩
  exact ⟨h1.trans hall.toHostKept, base, q, hq, ho⟩

/-! ### Region commands answer (R37) -/

theorem exec_regionActivate_eq (s : State) : exec .regionActivate s = execRegionActivate s := rfl
theorem exec_regionDeactivate_eq (s : State) : exec .regionDeactivate s = execRegionDeactivate s := rfl
theorem exec_regionCommandBadOp_eq (s : State) : exec .regionCommandBadOp s = execRegionCommandBadOp s := rfl

/-- A command of PF0 on the node of a control block, whose stewards serve. -/
structure RegionCommand (s : State) (a : Nat) : Prop where
  args : s.args = [0, a]
  page : Reaches s 0
  serves : Serves s 0

theorem regionDone_refused {s : State} {a code : Nat} (h : code ≠ 0) (go : Effect s) :
    ((begin s).regionDone a code go).1 = onHost s (fun h => { h with regionResult := 2 ^ 63 + code }) := by
  unfold Trail.regionDone
  rw [if_neg h]
  rfl

/-- The result of a command that passes, and the control block in M2 (R57). -/
def answered (s : State) (a : Nat) : Trail s :=
  let t := (begin s).modHost (fun h => { h with regionResult := 2 ^ 63 })
  t.extend 2 (sha256 ((t.1.mem.bytes a 128).map (·.toNat)))

theorem regionDone_passes {s : State} {a code : Nat} (h : code = 0) (go : Effect s) :
    (begin s).regionDone a code go = go (answered s a) := by
  subst h
  rfl

theorem exec_regionActivate {s : State} {a : Nat} (h : RegionCommand s a) : exec .regionActivate s = .next
    ((begin s).regionDone a (s.activateCode a) (fun t =>
      let r := s.rcbAt a
      let e := r.effective ((s.parentOf r).getD rootRegion)
      let t := (t.act (.region a (some e))).setActive a true
      if e.part then t.openPart a 0 r e else t)).1 := by
  have h1 : s.arg 1 = a := by rw [State.arg, h.args]; rfl
  have h2 : s.arg 2 = 0 := by rw [State.arg, h.args]; rfl
  rw [exec_regionActivate_eq]
  unfold execRegionActivate
  rw [pfWrite_serves h.page h.serves, h1, h2]
  rfl

theorem exec_regionDeactivate {s : State} {a : Nat} (h : RegionCommand s a) : exec .regionDeactivate s = .next
    ((begin s).regionDone a (s.deactivateCode a) (fun t =>
      let t := (t.act (.region a none)).setActive a false
      match t.1.parts.find? (fun p => decide (p.2.rcb = a)) with
      | some (n, p) => t.closePart n p
      | none => t)).1 := by
  have h1 : s.arg 1 = a := by rw [State.arg, h.args]; rfl
  rw [exec_regionDeactivate_eq]
  unfold execRegionDeactivate
  rw [pfWrite_serves h.page h.serves, h1]
  rfl

/-! ### A partition ends (R37) -/

theorem agenda_hostKept {s : State} {t u : Trail s} {n : Nat} {i p : List Due} {l : List Timer} (e : u = t.act (.agenda n i p l)) :
    HostKept t.1 u.1 := by
  rw [e]
  exact ⟨rfl, rfl⟩

theorem noLadderTimers_hostKept {s : State} (t : Trail s) (n : Nat) : HostKept t.1 (t.noLadderTimers n).1 := ⟨rfl, rfl⟩

theorem unprepare_hostKept {s : State} (t : Trail s) (n : Nat) : HostKept t.1 (t.unprepare n).1 := by
  unfold Trail.unprepare
  split
  · exact .refl _
  · have hback : ∀ (t : Trail s) (f : Part → Part) (l : List Nat), HostKept t.1 ((t.modPart n f).dropLeases l).1 := fun t f l => by
      obtain ⟨ps, e⟩ := modPart_val t n f
      have h : HostKept t.1 (t.modPart n f).1 := by
        rw [e]
        exact ⟨rfl, rfl⟩
      exact h.trans (dropLeases_keeps (n := n) _ l).toHostKept
    refine forEach_hostKept rfl fun t m => ?_
    split
    · exact hback _ _ _
    · exact hback _ _ _
    · exact .refl _

theorem purge_hostKept {s : State} (t : Trail s) (n : Nat) : HostKept t.1 (t.purge n).1 := by
  unfold Trail.purge
  split
  · exact .refl _
  · extract_lets u v
    have hu : HostKept t.1 u.1 := ⟨rfl, rfl⟩
    have hv : HostKept u.1 v.1 := forEach_hostKept rfl fun t l => by exact ⟨rfl, rfl⟩
    exact hu.trans (hv.trans (forEach_hostKept rfl fun t l => by exact ⟨rfl, rfl⟩))

theorem dropEntry_keeps {s : State} (t : Trail s) (adr n : Nat) :
    HostKept t.1 (t.dropEntry adr n).1 ∧ (t.dropEntry adr n).1.parts = t.1.parts := by
  unfold Trail.dropEntry
  dsimp only
  split
  · exact ⟨⟨rfl, rfl⟩, rfl⟩
  · exact ⟨.refl _, rfl⟩

theorem part_gone {s : State} (t : Trail s) (n : Nat) :
    HostKept t.1 (t.act (.part n none)).1 ∧ (t.act (.part n none)).1.part? n = none := ⟨⟨rfl, rfl⟩, look_del_same _ _⟩

theorem closePart_spec {s : State} (t : Trail s) (n : Nat) (p : Part) :
    HostKept t.1 (t.closePart n p).1 ∧ (t.closePart n p).1.part? n = none := by
  unfold Trail.closePart
  extract_lets tasks t1 t2 t3 drop t4 t5 t6 t7 t8 t9 t10
  have h1 : HostKept t.1 t1.1 := forEach_hostKept rfl fun t x => freeTask_hostKept t _
  have h2 : HostKept t1.1 t2.1 := unprepare_hostKept t1 n
  have h3 : HostKept t2.1 t3.1 := (purge_hostKept t2 n).trans (noLadderTimers_hostKept _ n)
  have h4 : HostKept t3.1 t4.1 := agenda_hostKept rfl
  have h5 : HostKept t4.1 t5.1 := forEach_hostKept rfl fun t l => by exact ⟨rfl, rfl⟩
  have h6 : HostKept t5.1 t6.1 := forEach_hostKept rfl fun t l => by exact ⟨rfl, rfl⟩
  have h7 : HostKept t6.1 t7.1 := by
    show HostKept t6.1 (if _ then _ else _ : Trail s).1
    split
    · exact .refl _
    · exact forEach_hostKept rfl fun t c => by exact ⟨rfl, rfl⟩
  have h8 : HostKept t7.1 t8.1 := by
    refine forEach_hostKept rfl fun t c => ?_
    split
    · exact .refl _
    · exact ⟨rfl, rfl⟩
  have h9 : HostKept t8.1 t9.1 := forEach_hostKept rfl fun t b => by exact ⟨rfl, rfl⟩
  have h10 : HostKept t9.1 t10.1 ∧ t10.1.part? n = none := by
    have hstart : HostKept t9.1 (t9.act (.part n none)).1 ∧ (t9.act (.part n none)).1.part? n = none := part_gone t9 n
    refine forEach_keeps (P := fun u => HostKept t9.1 u.1 ∧ u.1.part? n = none) (fun u a hu => ?_) p.entries _ hstart
    obtain ⟨hk, hparts⟩ := dropEntry_keeps u a n
    exact ⟨hu.1.trans hk, by rw [State.part?, hparts]; exact hu.2⟩
  have h11 : HostKept t10.1 (if (t10.1.die (dieOfCluster n)).fifo.isEmpty then t10 else t10.pendOnce .submissionHandle [dieOfCluster n]).1 ∧
      (if (t10.1.die (dieOfCluster n)).fifo.isEmpty then t10 else t10.pendOnce .submissionHandle [dieOfCluster n]).1.part? n = none := by
    split
    · exact ⟨.refl _, h10.2⟩
    · obtain ⟨q, e, -⟩ := pendOnce_adds t10 .submissionHandle [dieOfCluster n]
      rw [e]
      exact ⟨⟨rfl, rfl⟩, h10.2⟩
  exact ⟨h1.trans (h2.trans (h3.trans (h4.trans (h5.trans (h6.trans (h7.trans (h8.trans (h9.trans (h10.1.trans h11.1))))))))), h11.2⟩

/-! ### The courses of region commands (R37) -/

theorem putOrDel_none_look {α : Type} (t : Tab α) (k : Nat) : look (putOrDel t k none) k = none := look_del_same t k

theorem answered_val (s : State) (a : Nat) : ∃ pk, (answered s a).1 = { s with
    host := { s.host with regionResult := 2 ^ 63 }, pkg := pk } := ⟨_, rfl⟩

/-- A node of the region tree is active or not, and its control block says so. -/
theorem setNode_val (s : State) (a : Nat) (x : Option Region) (on : Bool) : ∃ pk h b cs,
    (((answered s a).act (.region a x)).setActive a on).1 = { s with
      host := { s.host with regionResult := 2 ^ 63 }, pkg := pk, regions := putOrDel s.regions a x
      mem := writeBacked s.mem (a + 8) (leBytes (activeWord (s.mem.read (a + 8) 8) on) 8), heads := h, bad := b, cores := cs } := by
  obtain ⟨pk, e⟩ := answered_val s a
  obtain ⟨h, b, cs, k⟩ := setActive_val ((answered s a).act (.region a x)) a on
  refine ⟨pk, h, b, cs, ?_⟩
  rw [k, Trail.act_val, e]
  rfl

/-- The effective values of the node of a control block (R36). -/
def effectiveAt (s : State) (a : Nat) : Region := (s.rcbAt a).effective ((s.parentOf (s.rcbAt a)).getD rootRegion)

theorem activate_inner {s : State} {a : Nat} (h : RegionCommand s a) (h0 : s.activateCode a = 0) (hp : (effectiveAt s a).part = false)
    (hm : s.mem.wf) (hb : ∀ k, k < 8 → backed (a + 8 + k) = true) : ∃ t, exec .regionActivate s = .next t ∧
      look t.regions a = some (effectiveAt s a) ∧ t.host.regionResult = 2 ^ 63 ∧ bit (t.mem.read (a + 8) 8) 31 = true ∧ t.parts = s.parts ∧
      ∀ k, k < a + 8 ∨ a + 16 ≤ k → t.mem.get k = s.mem.get k := by
  obtain ⟨pk, hd, b, cs, e⟩ := setNode_val s a (some (effectiveAt s a)) true
  have hex := exec_regionActivate h
  rw [regionDone_passes h0] at hex
  change _ = Host.Outcome.next (if (effectiveAt s a).part = true then _ else
    ((answered s a).act (.region a (some (effectiveAt s a)))).setActive a true : Trail s).1 at hex
  rw [if_neg (by rw [hp]; decide)] at hex
  refine ⟨_, hex, ?_⟩
  · rw [e]
    refine ⟨look_put_same _ _ _, rfl, ?_, rfl, fun k hk => writeBacked_other _ _ _ _ (by simpa using hk)⟩
    have hbytes := bytes_writeBacked (bs := leBytes (activeWord (s.mem.read (a + 8) 8) true) 8) hm (by simpa using hb)
    rw [leBytes_length] at hbytes
    rw [Mem.read_eq_leNat, hbytes, leNat_leBytes]
    exact bit_activeWord _

theorem activate_part {s : State} {a : Nat} (h : RegionCommand s a) (h0 : s.activateCode a = 0) (hp : (effectiveAt s a).part = true)
    (hm : s.mem.wf) : ∃ t qs base p, exec .regionActivate s = .next t ∧ look t.regions a = some (effectiveAt s a) ∧ t.host.regionResult = 2 ^ 63 ∧
      t.part? ((effectiveAt s a).grant.headD 0) = some p ∧ Opening (opened qs base a (s.rcbAt a) (effectiveAt s a)) p ∧
      qs.wf ∧ qs.map (·.1) = (s.queuesAt (s.rcbAt a).queues).map (·.1) := by
  obtain ⟨pk, hd, b, cs, e⟩ := setNode_val s a (some (effectiveAt s a)) true
  have hex := exec_regionActivate h
  rw [regionDone_passes h0] at hex
  change _ = Host.Outcome.next (if (effectiveAt s a).part = true then
    (((answered s a).act (.region a (some (effectiveAt s a)))).setActive a true).openPart a 0 (s.rcbAt a) (effectiveAt s a) else _ : Trail s).1 at hex
  rw [if_pos hp] at hex
  generalize ((answered s a).act (.region a (some (effectiveAt s a)))).setActive a true = u at e hex
  obtain ⟨hk, base, p, hpart, ho⟩ := openPart_spec u a 0 (s.rcbAt a) (effectiveAt s a)
  refine ⟨_, _, base, p, hex, ?_, ?_, hpart, ho, queuesAt_wf _ _, queuesAt_setActive (a := a) hm hp (by rw [e]) _⟩
  · rw [hk.regions, e]
    exact look_put_same _ _ _
  · rw [hk.host, e]

theorem deactivate_node {s : State} {a : Nat} (h : RegionCommand s a) (h0 : s.deactivateCode a = 0) (hn : ∀ p ∈ s.parts, p.2.rcb ≠ a) :
    ∃ t, exec .regionDeactivate s = .next t ∧ look t.regions a = none ∧ t.host.regionResult = 2 ^ 63 ∧ t.parts = s.parts := by
  obtain ⟨pk, hd, b, cs, e⟩ := setNode_val s a none false
  have hfind : s.parts.find? (fun p => decide (p.2.rcb = a)) = none := List.find?_eq_none.mpr fun p hp => by simpa using hn p hp
  have hex := exec_regionDeactivate h
  rw [regionDone_passes h0] at hex
  dsimp only at hex
  generalize ((answered s a).act (.region a none)).setActive a false = u at e hex
  rw [show u.1.parts = s.parts by rw [e], hfind] at hex
  refine ⟨u.1, hex, ?_⟩
  rw [e]
  exact ⟨putOrDel_none_look _ _, rfl, rfl⟩

theorem deactivate_part {s : State} {a n : Nat} {p : Part} (h : RegionCommand s a) (h0 : s.deactivateCode a = 0)
    (hf : s.parts.find? (fun p => decide (p.2.rcb = a)) = some (n, p)) :
    ∃ t, exec .regionDeactivate s = .next t ∧ look t.regions a = none ∧ t.host.regionResult = 2 ^ 63 ∧ t.part? n = none := by
  obtain ⟨pk, hd, b, cs, e⟩ := setNode_val s a none false
  have hex := exec_regionDeactivate h
  rw [regionDone_passes h0] at hex
  dsimp only at hex
  generalize ((answered s a).act (.region a none)).setActive a false = u at e hex
  rw [show u.1.parts = s.parts by rw [e], hf] at hex
  obtain ⟨hk, hnone⟩ := closePart_spec u n p
  refine ⟨_, hex, ?_, ?_, hnone⟩
  · rw [hk.regions, e]
    exact putOrDel_none_look _ _
  · rw [hk.host, e]

/-- The queues that keep a partition's node active are those that neither idle, nor have stopped, nor are in error. -/
theorem deactivateCode_queues {s : State} {a n : Nat} {p : Part} (hr : look s.regions a ≠ none) (hc : s.children a = [])
    (hf : s.parts.find? (fun p => decide (p.2.rcb = a)) = some (n, p)) :
    s.deactivateCode a = 8 ↔ ∃ q ∈ p.queues, q.2.state ≠ 0 ∧ q.2.state ≠ 3 ∧ q.2.state ≠ 4 := by
  obtain ⟨x, hx⟩ := Option.ne_none_iff_exists'.mp hr
  have hany : p.queues.any (fun q => !(q.2.state == 0 || q.2.state == 3 || q.2.state == 4)) = true ↔
      ∃ q ∈ p.queues, q.2.state ≠ 0 ∧ q.2.state ≠ 3 ∧ q.2.state ≠ 4 := by
    simp [List.any_eq_true, and_assoc]
  unfold State.deactivateCode
  rw [hx, hc, hf, ← hany]
  dsimp only
  split
  · next h => exact absurd h (by decide)
  · split
    · next h => exact ⟨fun _ => h, fun _ => rfl⟩
    · next h => exact ⟨fun k => absurd k (by decide), fun k => absurd k h⟩

/-- Settles O34: a command that fails a check writes its code alone; one that passes changes its node and the active bit of its control
block, and a partition opens with the queues of its table, or closes. -/
theorem regionCommands : Obligations.RegionCommands := by
  refine ⟨fun s v ha hr hs => ?badOp, fun s a ha hr hs => ⟨fun h => ?_, fun h => ?_, fun h0 => ⟨fun hp hm hb => ?_, fun hp hm => ?_⟩,
    fun h0 _ _ hn => ?_, fun n p h0 _ _ hf => ?_⟩, fun s a n p hr hc hf => deactivateCode_queues hr hc hf, fun s a h => ?notActive⟩
  case badOp =>
    rw [exec_regionCommandBadOp_eq]
    unfold execRegionCommandBadOp
    rw [pfWrite_serves hr hs]
    rfl
  case notActive =>
    unfold State.deactivateCode
    rw [h]
  · exact (exec_regionActivate ⟨ha, hr, hs⟩).trans (congrArg _ (regionDone_refused h _))
  · exact (exec_regionDeactivate ⟨ha, hr, hs⟩).trans (congrArg _ (regionDone_refused h _))
  · exact activate_inner ⟨ha, hr, hs⟩ h0 hp hm hb
  · obtain ⟨t, qs, base, p, hex, hreg, hres, hpart, ho, hwf, hkeys⟩ := activate_part ⟨ha, hr, hs⟩ h0 hp hm
    obtain ⟨hrcb, hcl, hmode, hfd, hprio, happ, hlive, hhalt, hqs⟩ := opening_fields ho
    exact ⟨t, p, hex, hreg, hres, hpart, hrcb, hcl, hmode, hfd, hprio, happ, hlive, hhalt, (hqs hwf).trans hkeys⟩
  · exact deactivate_node ⟨ha, hr, hs⟩ h0 hn
  · exact deactivate_part ⟨ha, hr, hs⟩ h0 hf

end Sys2Proof.Proofs
end

section
/-!
PROOFS. Launch records: what completing a record does, how a queue takes its next record, and what a fence holds back.
-/

namespace Sys2Proof.Proofs

open Sys2Proof Sys2Proof.Machine Sys2Proof.Claims

/-! ### A partition after an operation -/

/-- A partition has changed as R says. -/
def Goes (n : Nat) (R : Part → Part → Prop) (s t : State) : Prop := ∀ p, s.part? n = some p → ∃ p', t.part? n = some p' ∧ R p p'

theorem Goes.comp {n : Nat} {R Q S : Part → Part → Prop} {s t u : State} (h : Goes n R s t) (k : Goes n Q t u)
    (hS : ∀ p q r, R p q → Q q r → S p r) : Goes n S s u := fun p hp =>
  let ⟨q, hq, hr⟩ := h p hp
  let ⟨r, hr', hs⟩ := k q hq
  ⟨r, hr', hS p q r hr hs⟩

theorem part?_of_addsDue {s t : State} (h : AddsDue s t) (n : Nat) : t.part? n = s.part? n := by
  obtain ⟨d, rfl, -⟩ := h
  rfl

theorem modPart_part {s : State} {t : Trail s} {n : Nat} {p : Part} (hp : t.1.part? n = some p) (f : Part → Part) :
    (t.modPart n f).1 = { t.1 with parts := put t.1.parts n (f p) } := by
  unfold Trail.modPart
  rw [hp]
  rfl

theorem modPart_same {s : State} {n : Nat} (f : Part → Part) (t : Trail s) : Keeps n (fun p p' => p' = f p) t.1 (t.modPart n f).1 := by
  obtain ⟨ps, e⟩ := modPart_val t n f
  refine ⟨by rw [e]; exact ⟨rfl, rfl⟩, by rw [e]; exact fun _ h => h, fun p hp => ⟨f p, ?_, rfl⟩⟩
  rw [modPart_part hp]
  exact look_put_same _ _ _

/-- A partition with one of its queues changed. -/
def onQueue (p : Part) (i : Nat) (f : Queue → Queue) : Part :=
  { p with queues := match look p.queues i with | some q => put p.queues i (f q) | none => p.queues }

theorem modPart_onQueue {s : State} {t : Trail s} {n i : Nat} {p : Part} {q : Queue} (hp : t.1.part? n = some p)
    (hq : look p.queues i = some q) (f : Queue → Queue) :
    ∃ p', (t.modPart n (fun p => onQueue p i f)).1.part? n = some p' ∧ look p'.queues i = some (f q) := by
  have e : onQueue p i f = { p with queues := put p.queues i (f q) } := by
    unfold onQueue
    rw [hq]
  rw [modPart_part hp, e]
  exact ⟨_, look_put_same _ _ _, look_put_same _ _ _⟩

/-- Outside recording and replay an operation of a dispatcher is performed, and writes no record. -/
theorem unitLogged_unlogged {s : State} {t : Trail s} {n : Nat} {p p' : Part} {go : Effect s} (hp : t.1.part? n = some p)
    (hm : p.mode ≠ 1 ∧ p.mode ≠ 2) (hp' : (go t).1.part? n = some p') (hm' : p'.mode = p.mode) (r : Rec) (d : Due) :
    t.unitLogged n r d go = go t := by
  have hgate : t.1.gate n r (.step d) = .run := by
    unfold State.gate
    rw [hp]
    dsimp only
    rw [if_neg hm.1, if_neg hm.2]
  have hrec : (go t).recordAs n r (.step d) = (go t, none) := by
    unfold Trail.recordAs
    rw [hp']
    dsimp only
    rw [hm', if_neg hm.1, if_neg hm.2]
  unfold Trail.unitLogged Trail.logged
  dsimp only
  rw [hgate]
  dsimp only
  rw [hrec]

/-! ### A record completes (R40, R53) -/

theorem putCword_keeps {s : State} {n : Nat} (t : Trail s) (k cword cval : Nat) (vc : Clock) :
    Keeps n Eq t.1 (t.putCword k cword cval vc).1 := by
  unfold Trail.putCword
  split
  · exact memPut_keeps _ _ _ _
  · exact .of_eq rfl rfl rfl fun _ h => h

/-- The queue of a record that has completed. -/
def oneDone (q : Queue) : Queue := ({ q with done := q.done + 1 } : Queue).settled

theorem settled_eq (q : Queue) : ∃ st, q.settled = { q with state := st } := by
  unfold Queue.settled
  split
  · exact ⟨_, rfl⟩
  · exact ⟨q.state, rfl⟩

theorem oneDone_eq (q : Queue) : ∃ st, oneDone q = { q with done := q.done + 1, state := st } := settled_eq _

/-- The host after an event in a function's ring. -/
def posted (h : HostSt) (f src kind : Nat) (payload : List Nat) : HostSt :=
  { h with rings := put h.rings f ((h.ring f).post src kind payload) }

theorem posted_ring (h : HostSt) (f src kind : Nat) (payload : List Nat) :
    (posted h f src kind payload).ring f = (h.ring f).post src kind payload := lookD_put_same _ _ _ _

/-- A record completes: its queue has one more done, and the queue's owner has an event. -/
theorem recordDone_val {s : State} {t : Trail s} {n i : Nat} {p : Part} {q : Queue} (hp : t.1.part? n = some p) (hq : look p.queues i = some q)
    (seq cword cval : Nat) (e : Option RecError) (vc : Clock) :
    (t.recordDone n i seq cword cval e vc).1.part? n = some { p with queues := put p.queues i (oneDone q) } ∧
      (t.recordDone n i seq cword cval e vc).1.host = posted t.1.host q.owner (queueSource n i) 1 (recordPayload e seq) := by
  unfold Trail.recordDone
  extract_lets u v
  have hu : Keeps n Eq t.1 u.1 := putCword_keeps t n cword cval vc
  obtain ⟨p', hp', rfl⟩ := hu.part p hp
  obtain ⟨h, b, cs, ev⟩ := modQueue_val hp' hq (fun q => ({ q with done := q.done + 1 } : Queue).settled)
  change v.1 = _ at ev
  have hv : v.1.part? n = some { p with queues := put p.queues i (oneDone q) } := by
    rw [ev]
    exact look_put_same _ _ _
  have howner : (oneDone q).owner = q.owner := by
    obtain ⟨st, e⟩ := oneDone_eq q
    rw [e]
  have hhost : v.1.host = t.1.host := by
    rw [ev]
    exact hu.host
  rw [hv]
  dsimp only [Option.bind_some]
  rw [look_put_same]
  dsimp only
  rw [howner, ← hhost]
  exact ⟨hv, rfl⟩

theorem recordEnds_of_addsDue {s t u : State} {n i : Nat} {q : Queue} {seq : Nat} {e : Option RecError} (h : RecordEnds s t n i q seq e)
    (k : AddsDue t u) : RecordEnds s u n i q seq e := by
  obtain ⟨d, rfl, -⟩ := k
  exact h

/-- A record of a queue completes, where its queue is as another was but for what does not count here. -/
theorem recordDone_ends {s : State} {t : Trail s} {n i : Nat} {p : Part} {q q₀ : Queue} (hp : t.1.part? n = some p)
    (hq : look p.queues i = some q) (hh : t.1.host = s.host) (hd : q.done = q₀.done) (ho : q.owner = q₀.owner) (seq cword cval : Nat)
    (e : Option RecError) (vc : Clock) : RecordEnds s (t.recordDone n i seq cword cval e vc).1 n i q₀ seq e := by
  obtain ⟨hpart, hhost⟩ := recordDone_val hp hq seq cword cval e vc
  obtain ⟨st, hst⟩ := oneDone_eq q
  refine ⟨⟨_, _, hpart, look_put_same _ _ _, by rw [hst, hd]⟩, ?_⟩
  rw [hhost, hh, ho, posted_ring]

/-! ### A queue takes its next record (R44) -/

theorem exec_recordAccept_eq (s : State) : exec .recordAccept s = execRecordAccept s := rfl
theorem exec_fenceRecordRelease_eq (s : State) : exec .fenceRecordRelease s = execFenceRecordRelease s := rfl

/-- A queue that has taken one record more. -/
def oneTaken (q : Queue) : Queue :=
  { q with
    taken := (q.taken + 1) % 2 ^ 32, stale := false, overrun := false, count := q.count + 1
    state := if q.state ≤ 1 then 1 else q.state }

/-- Taking a record changes its queue, and the queue's status word in memory. -/
theorem takeRecord_val {s : State} {t : Trail s} {n i : Nat} {p : Part} {q : Queue} (hp : t.1.part? n = some p) (hq : look p.queues i = some q) :
    ∃ w h b cs, (t.takeRecord n i).1 = { t.1 with
      parts := put t.1.parts n { p with queues := put p.queues i (oneTaken q) }
      mem := writeBacked t.1.mem (q.header + 16) (leBytes w 8), heads := h, bad := b, cores := cs } := by
  obtain ⟨h, b, cs, e⟩ := modQueue_val hp hq oneTaken
  exact ⟨_, h, b, cs, e⟩

/-- What acting on the record that comes next does, once it has been taken. -/
def takeAndAct (n i : Nat) (l : Launch) (rec : Option (Nat × Nat)) {s : State} (t : Trail s) : Trail s :=
  ((t.takeRecord n i).actRecord n i l rec).pendOnce .submissionHandle [dieOfCluster n]

section Takes

variable {s : State} {n i : Nat} {p : Part} {q : Queue} {l : Launch} (h : TakesRecord s n i p q l)
include h

theorem taken_spec : ∃ w, ((begin s).takeRecord n i).1.part? n = some { p with queues := put p.queues i (oneTaken q) } ∧
    ((begin s).takeRecord n i).1.host = s.host ∧ ((begin s).takeRecord n i).1.mem = writeBacked s.mem (q.header + 16) (leBytes w 8) ∧
    ((begin s).takeRecord n i).1.graphCount = s.graphCount := by
  obtain ⟨w, hd, b, cs, e⟩ := takeRecord_val (t := begin s) h.works.part h.queue
  refine ⟨w, ?_⟩
  rw [e]
  exact ⟨look_put_same _ _ _, rfl, rfl, rfl⟩

/-- The course of RECORD_ACCEPT for a queue that no fence holds. -/
theorem exec_recordAccept_takes : exec .recordAccept s = .next
    (if l.isGraph && !s.graphRoom p l.graph then begin s
     else if l.isGraph then (begin s).unitLogged n (acceptRec n (n * 8 + i) l.seq) ⟨.recordAccept, [n, i]⟩
       (takeAndAct n i l (s.recName n (acceptRec n (n * 8 + i) l.seq).source))
     else takeAndAct n i l none (begin s)).1 := by
  obtain ⟨ha, ⟨hp, -, -⟩, hq, ⟨hf, hh⟩, ho, rfl, -⟩ := h
  have h0 : s.arg 0 = n := by rw [State.arg, ha]; rfl
  have h1 : s.arg 1 = i := by rw [State.arg, ha]; rfl
  rw [exec_recordAccept_eq]
  unfold execRecordAccept
  rw [event_val]
  simp only [begin_val, h0, h1, hp, hq, hf, hh, ho]
  rfl

theorem exec_recordAccept_noGraph (hg : l.isGraph = false) : exec .recordAccept s = .next (takeAndAct n i l none (begin s)).1 := by
  rw [exec_recordAccept_takes h, hg]
  rfl

theorem exec_recordAccept_noRoom (hg : l.isGraph = true) (hr : s.graphRoom p l.graph = false) : exec .recordAccept s = .next s := by
  rw [exec_recordAccept_takes h, hg, hr]
  rfl

/-- A graph record is acted on, where acting on it leaves the partition outside recording and replay. -/
theorem exec_recordAccept_graph (hg : l.isGraph = true) (hr : s.graphRoom p l.graph = true)
    (hmode : ∀ rec, ∃ p', (takeAndAct n i l rec (begin s)).1.part? n = some p' ∧ p'.mode = p.mode) :
    ∃ rec, exec .recordAccept s = .next (takeAndAct n i l rec (begin s)).1 := by
  obtain ⟨p', hp', hm⟩ := hmode (s.recName n (acceptRec n (n * 8 + i) l.seq).source)
  refine ⟨s.recName n (acceptRec n (n * 8 + i) l.seq).source, ?_⟩
  rw [exec_recordAccept_takes h, hg, hr]
  exact congrArg (fun t : Trail s => Host.Outcome.next t.1) (unitLogged_unlogged h.works.part h.works.unlogged hp' hm _ _)

/-- A record whose action is to complete ends. -/
theorem takeAndAct_ends {rec : Option (Nat × Nat)} {e : Option RecError}
    (ha : ((begin s).takeRecord n i).actRecord n i l rec = ((begin s).takeRecord n i).recordDone n i l.seq l.cword l.cval e []) :
    RecordEnds s (takeAndAct n i l rec (begin s)).1 n i q l.seq e ∧
      ∃ p', (takeAndAct n i l rec (begin s)).1.part? n = some p' ∧ p'.mode = p.mode := by
  obtain ⟨w, hpart, hhost, -, -⟩ := taken_spec h
  unfold takeAndAct
  rw [ha]
  generalize (begin s).takeRecord n i = t at hpart hhost
  have hadd := pendOnce_adds (t.recordDone n i l.seq l.cword l.cval e []) .submissionHandle [dieOfCluster n]
  refine ⟨recordEnds_of_addsDue (recordDone_ends hpart (look_put_same _ _ _) hhost rfl rfl _ _ _ _ _) hadd, ?_⟩
  rw [part?_of_addsDue hadd]
  exact ⟨_, (recordDone_val hpart (look_put_same _ _ _) _ _ _ _ _).1, rfl⟩

end Takes

/-! ### Acting on a record that is no graph (R40) -/

section Acts

variable {s : State} {t : Trail s} {n : Nat} {p : Part} (hp : t.1.part? n = some p)
include hp

theorem actRecord_invalid {l : Launch} (hl : l.bad = true ∨ l.kind = 0 ∨ 3 < l.kind) (i : Nat) (rec : Option (Nat × Nat)) :
    t.actRecord n i l rec = t.recordDone n i l.seq l.cword l.cval
      (some { kind := 1, node := 0, thread := 0, lane := 0, reason := 0, adr := 0 }) [] := by
  unfold Trail.actRecord
  rw [hp]
  exact if_pos (by simpa [or_assoc] using hl)

theorem actRecord_valid {l : Launch} (hb : l.bad = false) (hk : 1 ≤ l.kind ∧ l.kind ≤ 3) (i : Nat) (rec : Option (Nat × Nat)) :
    t.actRecord n i l rec =
      if l.kind = 2 then t.recordDone n i l.seq l.cword l.cval none []
      else if l.kind = 3 then
        if p.graphs.any (fun g => decide (g.2.queue = i)) then t.modPart n (fun p => onQueue p i (fun q => { q with fence := some l }))
        else t.recordDone n i l.seq l.cword l.cval none []
      else t.acceptGraph n i l rec := by
  unfold Trail.actRecord
  rw [hp]
  refine if_neg ?_
  simp [hb]
  omega

end Acts

theorem graphOf_queue {p : Part} {i : Nat} : p.graphs.any (fun g => decide (g.2.queue = i)) = true ↔ ∃ g ∈ p.graphs, g.2.queue = i := by
  simp only [List.any_eq_true, decide_eq_true_eq]

section Ungraphed

variable {s : State} {n i : Nat} {p : Part} {q : Queue} {l : Launch} (h : TakesRecord s n i p q l)
include h

theorem marker_ends (hb : l.bad = false) (hk : l.kind = 2) : ∃ t, exec .recordAccept s = .next t ∧ RecordEnds s t n i q l.seq none := by
  obtain ⟨w, hpart, -⟩ := taken_spec h
  refine ⟨_, exec_recordAccept_noGraph h (by simp [Launch.isGraph, hk]), (takeAndAct_ends h ?_).1⟩
  rw [actRecord_valid hpart hb (by omega), if_pos hk]

theorem invalid_ends (hl : l.bad = true ∨ l.kind = 0 ∨ 3 < l.kind) : ∃ t, exec .recordAccept s = .next t ∧
    RecordEnds s t n i q l.seq (some { kind := 1, node := 0, thread := 0, lane := 0, reason := 0, adr := 0 }) := by
  obtain ⟨w, hpart, -⟩ := taken_spec h
  have hg : l.isGraph = false := by
    rcases hl with hl | hl | hl
    · simp [Launch.isGraph, hl]
    · simp [Launch.isGraph, hl]
    · have : l.kind ≠ 1 := by omega
      simp [Launch.isGraph, this]
  exact ⟨_, exec_recordAccept_noGraph h hg, (takeAndAct_ends h (actRecord_invalid hpart hl i none)).1⟩

theorem fence_waits (hb : l.bad = false) (hk : l.kind = 3) (hg : ∃ g ∈ p.graphs, g.2.queue = i) :
    ∃ t p' q', exec .recordAccept s = .next t ∧ t.part? n = some p' ∧ look p'.queues i = some q' ∧ q'.fence = some l ∧ q'.done = q.done ∧
      q'.count = q.count + 1 ∧ q'.taken = (q.taken + 1) % 2 ^ 32 ∧ q'.state = 1 := by
  obtain ⟨w, hpart, -⟩ := taken_spec h
  obtain ⟨p', hp', hq'⟩ := modPart_onQueue hpart (look_put_same _ _ _) (fun q => { q with fence := some l })
  refine ⟨_, p', _, exec_recordAccept_noGraph h (by simp [Launch.isGraph, hk]), ?_, hq', rfl, rfl, rfl, rfl, if_pos h.settled⟩
  unfold takeAndAct
  rw [part?_of_addsDue (pendOnce_adds _ _ _), actRecord_valid hpart hb (by omega), if_neg (by omega), if_pos hk,
    if_pos (graphOf_queue.mpr hg)]
  exact hp'

end Ungraphed

/-! ### A fence, and what stands behind it (R40) -/

/-- The course of FENCE_RECORD_RELEASE for a queue with a fence. -/
theorem exec_fenceRelease {s : State} {n i : Nat} {p : Part} {q : Queue} {l : Launch} (ha : s.args = [n, i]) (hp : s.part? n = some p)
    (hq : look p.queues i = some q) (hf : q.fence = some l) : exec .fenceRecordRelease s = .next
      (if p.graphs.any (fun g => decide (g.2.queue = i)) then begin s
       else (((begin s).modPart n (fun p => { p with queues := put p.queues i { q with fence := none } })).recordDone n i l.seq l.cword l.cval
         none []).pendOnce .recordAccept [n, i]).1 := by
  have h0 : s.arg 0 = n := by rw [State.arg, ha]; rfl
  have h1 : s.arg 1 = i := by rw [State.arg, ha]; rfl
  rw [exec_fenceRecordRelease_eq]
  unfold execFenceRecordRelease
  rw [event_val]
  simp only [begin_val, h0, h1, hp, hq, hf]

theorem fence_released {s : State} {n i : Nat} {p : Part} {q : Queue} {l : Launch} (ha : s.args = [n, i]) (hp : s.part? n = some p)
    (hq : look p.queues i = some q) (hf : q.fence = some l) (hg : ∀ g ∈ p.graphs, g.2.queue ≠ i) :
    ∃ t p' q', exec .fenceRecordRelease s = .next t ∧ t.part? n = some p' ∧ look p'.queues i = some q' ∧ q'.fence = none ∧
      RecordEnds s t n i q l.seq none ∧ ⟨.recordAccept, [n, i]⟩ ∈ t.pending := by
  have hnone : ¬p.graphs.any (fun g => decide (g.2.queue = i)) = true := fun h =>
    let ⟨g, hm, he⟩ := graphOf_queue.mp h
    hg g hm he
  have hex := exec_fenceRelease ha hp hq hf
  rw [if_neg hnone] at hex
  have hval := modPart_part (t := begin s) hp (fun p => { p with queues := put p.queues i { q with fence := none } })
  have hpart : ((begin s).modPart n (fun p => { p with queues := put p.queues i { q with fence := none } })).1.part? n =
      some { p with queues := put p.queues i { q with fence := none } } := by
    rw [hval]
    exact look_put_same _ _ _
  have hhost : ((begin s).modPart n (fun p => { p with queues := put p.queues i { q with fence := none } })).1.host = s.host := by rw [hval]; rfl
  generalize (begin s).modPart n (fun p => { p with queues := put p.queues i { q with fence := none } }) = t at hex hpart hhost
  have hlook := look_put_same p.queues i { q with fence := none }
  obtain ⟨st, e⟩ := oneDone_eq { q with fence := none }
  have hadd := pendOnce_adds (t.recordDone n i l.seq l.cword l.cval none []) .recordAccept [n, i]
  exact ⟨_, _, _, hex, (part?_of_addsDue hadd n).trans (recordDone_val hpart hlook _ _ _ _ _).1, look_put_same _ _ _, by rw [e],
    recordEnds_of_addsDue (recordDone_ends hpart hlook hhost rfl rfl _ _ _ _ _) hadd, pendOnce_due _ _ _⟩

/-- The course of RECORD_ACCEPT behind a fence: the record that is offered is held, once the live table has room for it. -/
theorem exec_recordAccept_behind {s : State} {n i : Nat} {p : Part} {q : Queue} {x : Launch} (ha : s.args = [n, i]) (hp : s.part? n = some p)
    (hq : look p.queues i = some q) (hf : q.fence = some x) (ho : s.offered n i q = true) : exec .recordAccept s = .next
      (if (s.nextLaunch q).isGraph && !s.roomBehind p (s.nextLaunch q).graph then begin s
       else (((begin s).takeRecord n i).modPart n (fun p => onQueue p i (fun q' => { q' with hold := q'.hold ++ [s.nextLaunch q] }))).pendOnce
         .submissionHandle [dieOfCluster n]).1 := by
  have h0 : s.arg 0 = n := by rw [State.arg, ha]; rfl
  have h1 : s.arg 1 = i := by rw [State.arg, ha]; rfl
  rw [exec_recordAccept_eq]
  unfold execRecordAccept
  rw [event_val]
  simp only [begin_val, h0, h1, hp, hq, hf, ho]
  rfl

theorem record_held {s : State} {n i : Nat} {p : Part} {q : Queue} {l x : Launch} (ha : s.args = [n, i]) (hp : s.part? n = some p)
    (hq : look p.queues i = some q) (hf : q.fence = some x) (ho : s.offered n i q = true) (hl : l = s.nextLaunch q)
    (hr : l.isGraph = false ∨ s.roomBehind p l.graph = true) : ∃ t p' q', exec .recordAccept s = .next t ∧ t.part? n = some p' ∧
      look p'.queues i = some q' ∧ q'.fence = some x ∧ q'.hold = q.hold ++ [l] ∧ q'.taken = (q.taken + 1) % 2 ^ 32 ∧ q'.done = q.done := by
  have hex := exec_recordAccept_behind ha hp hq hf ho
  rw [← hl, if_neg (by rcases hr with h | h <;> simp [h])] at hex
  obtain ⟨w, hd, b, cs, e⟩ := takeRecord_val (t := begin s) hp hq
  have hpart : ((begin s).takeRecord n i).1.part? n = some { p with queues := put p.queues i (oneTaken q) } := by
    rw [e]
    exact look_put_same _ _ _
  obtain ⟨p', hp', hq'⟩ := modPart_onQueue hpart (look_put_same _ _ _) (fun q' => { q' with hold := q'.hold ++ [l] })
  exact ⟨_, p', _, hex, (part?_of_addsDue (pendOnce_adds _ _ _) n).trans hp', hq', hf, rfl, rfl, rfl⟩

end Sys2Proof.Proofs
end

section
/-!
PROOFS. Graphs: a graph's header and nodes are apart from its queue's status word, its nodes enter the live table in order, and those that are
ready go on.
-/

namespace Sys2Proof.Proofs

open Sys2Proof Sys2Proof.Machine Sys2Proof.Claims

/-! ### A graph apart from the status word (R58, R61) -/

/-- Two memories agree on a graph's header and on the nodes that it names. -/
structure SameGraph (m m' : Mem) (a : Nat) : Prop where
  header : m'.read a 64 = m.read a 64
  node : ∀ j, j < field (m.read a 64) 0 4 → m'.read (field (m.read a 64) 16 8 + 192 * j) 192 = m.read (field (m.read a 64) 16 8 + 192 * j) 192

theorem sameGraph_writeBacked {s : State} {q : Queue} {l : Launch} (h : GraphApart s q l) (w : Nat) :
    SameGraph s.mem (writeBacked s.mem (q.header + 16) (leBytes w 8)) l.graph := by
  obtain ⟨hh, hn⟩ := h
  have hoff : ∀ k, (k < q.header + 16 ∨ q.header + 24 ≤ k) → (writeBacked s.mem (q.header + 16) (leBytes w 8)).get k = s.mem.get k := fun k hk =>
    writeBacked_other _ _ _ _ (by rw [leBytes_length]; omega)
  refine ⟨Mem.read_congr _ _ _ _ fun k h1 h2 => hoff k (by omega), fun j hj => Mem.read_congr _ _ _ _ fun k h1 h2 => hoff k ?_⟩
  generalize field (s.mem.read l.graph 64) 0 4 = c at hn hj
  generalize field (s.mem.read l.graph 64) 16 8 = b at hn h1 h2
  omega

theorem nodes_congr {α : Type} {m m' : Mem} {a : Nat} (h : SameGraph m m' a) (f : Nat → α) :
    (upFrom 0 (field (m.read a 64) 0 4)).map (fun i => f (m'.read (field (m.read a 64) 16 8 + 192 * i) 192)) =
      (upFrom 0 (field (m.read a 64) 0 4)).map (fun i => f (m.read (field (m.read a 64) 16 8 + 192 * i) 192)) := by
  refine List.map_congr_left fun j hj => ?_
  rw [h.node j (by have := (mem_upFrom _ _ _).mp hj; omega)]

theorem graphFault_congr {s t : State} {a : Nat} (h : SameGraph s.mem t.mem a) : t.graphFault a = s.graphFault a := by
  unfold State.graphFault
  rw [h.header]
  dsimp only
  rw [nodes_congr h fun x => x]

/-- The node records of the graph of a header. -/
def graphNodes (s : State) (a : Nat) : List NodeRec :=
  (upFrom 0 (field (s.mem.read a 64) 0 4)).map (fun j => nodeOf (s.mem.read (field (s.mem.read a 64) 16 8 + 192 * j) 192))

theorem graphNodes_length (s : State) (a : Nat) : (graphNodes s a).length = field (s.mem.read a 64) 0 4 := by
  rw [graphNodes, List.length_map, upFrom_length]

theorem graphNodes_get {s : State} {a j : Nat} (h : j < field (s.mem.read a 64) 0 4) :
    (graphNodes s a)[j]? = some (nodeOf (s.mem.read (field (s.mem.read a 64) 16 8 + 192 * j) 192)) := by
  rw [graphNodes, List.getElem?_map, upFrom_getElem? _ _ _ h, Nat.zero_add]
  rfl

theorem graphNodes_congr {s t : State} {a : Nat} (h : SameGraph s.mem t.mem a) : graphNodes t a = graphNodes s a := by
  unfold graphNodes
  rw [h.header, nodes_congr h nodeOf]

theorem badNode_none : ∀ {l : List Nat} {i : Nat} {seen : Bool}, badNode i seen l = none →
    ∀ (j x : Nat), l[j]? = some x → ∀ k ∈ (nodeOf x).preds, k < i + j
  | [], _, _, _, _, _, hx => by simp at hx
  | y :: r, i, seen, h, j, x, hx => by
    unfold badNode at h
    dsimp only at h
    split at h
    · cases h
    · next hok =>
      cases j with
      | zero =>
        obtain rfl : y = x := by simpa using hx
        intro k hk
        have hall : ¬(nodeOf y).preds.any (fun p => decide (i ≤ p)) = true := fun hb => hok (by rw [hb, Bool.or_true])
        by_contra hlt
        exact hall (List.any_eq_true.mpr ⟨k, hk, decide_eq_true (by omega)⟩)
      | succ j =>
        intro k hk
        have := badNode_none h j x (by simpa using hx) k hk
        omega

/-- A graph that passes has between 1 and 1024 nodes, each of whose predecessors comes before it. -/
theorem graphFault_none {s : State} {a : Nat} (h : s.graphFault a = none) : field (s.mem.read a 64) 0 4 ≤ 1024 ∧
    ∀ (j : Nat) (rec : NodeRec), (graphNodes s a)[j]? = some rec → ∀ k ∈ rec.preds, k < j := by
  unfold State.graphFault at h
  dsimp only at h
  split at h
  · cases h
  · next hok =>
    refine ⟨?_, fun j rec hrec k hk => ?_⟩
    · unfold headerOk at hok
      simp only [Bool.not_eq_true', Bool.not_eq_false, Bool.and_eq_true, decide_eq_true_eq] at hok
      exact hok.1.1.1.1.2
    · have hj : j < field (s.mem.read a 64) 0 4 := by
        have := (List.getElem?_eq_some_iff.mp hrec).1
        rwa [graphNodes_length] at this
      rw [graphNodes_get hj] at hrec
      cases hrec
      have := badNode_none h j (s.mem.read (field (s.mem.read a 64) 16 8 + 192 * j) 192) (by
        rw [List.getElem?_map, upFrom_getElem? _ _ _ hj, Nat.zero_add]
        rfl) k hk
      omega

/-! ### Nodes enter in order (R62) -/

/-- The append number of the node that is appended after j others. -/
def appNumber (p : Part) (j : Nat) : Nat := (p.append + BitVec.ofNat 32 (j + 1)).toNat

theorem appNumber_ne {p : Part} {j k : Nat} (hj : j < k) (hk : k < 4096) : appNumber p j ≠ appNumber p k := by
  unfold appNumber
  intro h
  have := BitVec.eq_of_toNat_eq h
  bv_omega

/-- A node of a list of records has entered the live table of a partition: in its graph, at its index, with the append numbers of its
predecessors. -/
def Entered (p : Part) (g : Nat) (live : Tab Node) (j : Nat) (rec : NodeRec) : Prop :=
  ∃ nd, look live (appNumber p j) = some nd ∧ nd.graph = g ∧ nd.index = j ∧ nd.desc = rec ∧
    ((∀ k ∈ rec.preds, k < j) → nd.preds = rec.preds.map (appNumber p))

theorem Entered.put {p : Part} {g j k : Nat} {live : Tab Node} {rec : NodeRec} (h : Entered p g live j rec) (hj : j < k) (hk : k < 4096)
    (x : Node) : Entered p g (put live (appNumber p k) x) j rec := by
  obtain ⟨nd, hl, hrest⟩ := h
  exact ⟨nd, (look_put_other _ _ _ _ (appNumber_ne hj hk)).trans hl, hrest⟩

/-- The records of a list have entered, in their order. -/
structure Appended (p : Part) (g : Nat) (recs : List NodeRec) (r : Part × List Nat) : Prop where
  rest : ∃ live, r.1 = { p with append := p.append + BitVec.ofNat 32 recs.length, live := live }
  apps : r.2 = (upFrom 0 recs.length).map (appNumber p)
  wf : p.live.wf → r.1.live.wf
  nodes : recs.length < 4096 → ∀ j rec, recs[j]? = some rec → Entered p g r.1.live j rec

theorem upFrom_succ : ∀ (n a : Nat), upFrom a (n + 1) = upFrom a n ++ [a + n]
  | 0, _ => rfl
  | n + 1, a => by
    show a :: upFrom (a + 1) (n + 1) = a :: upFrom (a + 1) n ++ [a + (n + 1)]
    rw [upFrom_succ n (a + 1), Nat.add_right_comm]
    rfl

theorem appendAll_append (p : Part) (g : Nat) (recs : List NodeRec) (x : NodeRec) (after : Option (Nat × Nat)) (vc : Clock) :
    p.appendAll g (recs ++ [x]) after vc =
      let r := p.appendAll g recs after vc
      let a := r.1.appendNode g r.2.length x r.2 false after vc
      (a.1, r.2 ++ [a.2]) := by
  unfold Part.appendAll
  rw [List.foldl_append]
  rfl

theorem appendAll_appended (p : Part) (g : Nat) (after : Option (Nat × Nat)) (vc : Clock) (recs : List NodeRec) :
    Appended p g recs (p.appendAll g recs after vc) := by
  induction recs using List.reverseRecOn with
  | nil => exact ⟨⟨p.live, by simp [Part.appendAll]⟩, rfl, fun h => h, fun _ j rec h => by simp at h⟩
  | append_singleton recs x ih =>
    rw [appendAll_append]
    generalize p.appendAll g recs after vc = r at ih
    obtain ⟨q, l⟩ := r
    obtain ⟨⟨live, rfl⟩, hl, hwf, hnodes⟩ := ih
    dsimp only at hl hwf hnodes ⊢
    have hlen : l.length = recs.length := by rw [hl, List.length_map, upFrom_length]
    have happ : p.append + BitVec.ofNat 32 recs.length + 1 = p.append + BitVec.ofNat 32 (recs.length + 1) := by bv_omega
    unfold Part.appendNode
    dsimp only
    rw [happ, hlen]
    change Appended p g (recs ++ [x]) (_, l ++ [appNumber p recs.length])
    refine ⟨⟨_, by rw [List.length_append, List.length_singleton]⟩, ?_, fun h => put_wf _ _ _ (hwf h), fun hlt j rec hrec => ?_⟩
    · rw [hl, List.length_append, List.length_singleton, upFrom_succ, List.map_append, Nat.zero_add]
      rfl
    · rw [List.length_append, List.length_singleton] at hlt
      by_cases hj : j < recs.length
      · rw [List.getElem?_append_left hj] at hrec
        exact (hnodes (by omega) j rec hrec).put hj (by omega) _
      · have hlast : j = recs.length := by
          have := (List.getElem?_eq_some_iff.mp hrec).1
          simp at this
          omega
        subst hlast
        obtain rfl : x = rec := by simpa using hrec
        refine ⟨_, look_put_same _ _ _, rfl, rfl, rfl, fun hp => List.map_congr_left fun k hk => ?_⟩
        rw [hl]
        exact getD_map_upFrom _ _ _ _ (hp k hk)

/-! ### Ready nodes (R65, R66) -/

/-- Live tables agree but for where their nodes stand. -/
def SameNodes (l l' : Tab Node) : Prop :=
  ∀ a, (look l' a).map (fun m => { m with st := .waiting }) = (look l a).map (fun m => { m with st := .waiting })

theorem SameNodes.none {l l' : Tab Node} (h : SameNodes l l') {a : Nat} (ha : look l a = .none) : look l' a = .none := by
  have := h a
  rw [ha] at this
  simpa using this

theorem SameNodes.entered {p : Part} {g j : Nat} {rec : NodeRec} {l l' : Tab Node} (h : SameNodes l l') (he : Entered p g l j rec) :
    Entered p g l' j rec := by
  obtain ⟨nd, hl, hg, hi, hd, hp⟩ := he
  have hs := h (appNumber p j)
  rw [hl, Option.map_some, Option.map_eq_some_iff] at hs
  obtain ⟨nd', hl', e⟩ := hs
  obtain ⟨eg, ei, ed, ep, -⟩ := Node.mk.injEq .. ▸ e
  exact ⟨nd', hl', eg.trans hg, ei.trans hi, ed.trans hd, fun k => ep.trans (hp k)⟩

/-- Nodes of a partition have changed where they stand, and nothing else of it has. -/
def Readied (p p' : Part) : Prop := ∃ l, p' = { p with live := l } ∧ SameNodes p.live l

theorem look_of_mem {α : Type} : ∀ {t : Tab α} {k : Nat} {v : α}, t.wf → (k, v) ∈ t → look t k = some v
  | (a, x) :: _, k, v, hw, h => by
    obtain ⟨h1, h2⟩ := List.pairwise_cons.mp hw
    rcases List.mem_cons.mp h with h | h
    · cases h
      exact if_pos rfl
    · have hlt := h1 _ h
      rw [look, if_neg (by dsimp only at hlt; omega)]
      exact look_of_mem h2 h

theorem mem_insertBy {α : Type} (before : α → α → Bool) (x y : α) : ∀ (l : List α), y ∈ insertBy before x l → y = x ∨ y ∈ l
  | [], h => .inl (by simpa [insertBy] using h)
  | z :: r, h => by
    unfold insertBy at h
    split at h
    · exact List.mem_cons.mp h
    · rcases List.mem_cons.mp h with h | h
      · exact .inr (h ▸ List.mem_cons_self)
      · exact (mem_insertBy before x y r h).imp_right (List.mem_cons_of_mem _)

theorem mem_sortBy {α : Type} {before : α → α → Bool} {y : α} {l : List α} (h : y ∈ sortBy before l) : y ∈ l := by
  suffices hs : ∀ (l acc : List α), y ∈ l.foldl (fun acc x => insertBy before x acc) acc → y ∈ l ∨ y ∈ acc from
    (hs l [] h).resolve_right (by simp)
  intro l
  induction l with
  | nil => exact fun acc h => .inr h
  | cons x r ih =>
    intro acc h
    rcases ih _ h with h | h
    · exact .inl (List.mem_cons_of_mem _ h)
    · rcases mem_insertBy before x y acc h with h | h
      · exact .inl (h ▸ List.mem_cons_self)
      · exact .inr h

/-- What each round of a loop over members of a list keeps, the loop keeps. -/
theorem forEach_keeps_mem {s : State} {α : Type} {f : Trail s → α → Trail s} {P : Trail s → Prop} :
    ∀ {l : List α} (_ : ∀ t, ∀ a ∈ l, P t → P (f t a)) (t : Trail s), P t → P (forEach t l f)
  | [], _, _, ht => ht
  | a :: _, h, t, ht =>
    forEach_keeps_mem (fun u b hb => h u b (List.mem_cons_of_mem _ hb)) (f t a) (h t a List.mem_cons_self ht)

/-- A node of a live table that stands elsewhere is the same node. -/
theorem SameNodes.put {l l' : Tab Node} (h : SameNodes l l') {a : Nat} {m : Node} (hm : look l a = some m) (st : NodeState) :
    SameNodes l (put l' a { m with st := st }) := fun k => by
  by_cases e : k = a
  · subst e
    rw [look_put_same, hm]
    rfl
  · rw [look_put_other _ _ _ _ e]
    exact h k

/-- A ready task node stands as ready, and is to be placed. -/
theorem place_keeps {s : State} {u : Trail s} {t : State} {n a : Nat} {p : Part} {m : Node} (hm : look p.live a = some m)
    (h : Keeps n (fun _ => Readied p) t u.1) : Keeps n (fun _ => Readied p) t
      ((u.modPart n (fun p => { p with live := put p.live a { m with st := .ready } })).pend .poolPlace [n, a]).1 := by
  refine (h.comp (S := fun _ => Readied p) (modPart_same _ u) ?_).comp (.of_adds (pend_adds _ _ _)) fun _ _ _ h e => e ▸ h
  rintro - _ _ ⟨l, rfl, hl⟩ rfl
  exact ⟨_, rfl, hl.put hm .ready⟩

theorem pokeReady_keeps {s : State} {t : Trail s} {n : Nat} {p : Part} (hp : t.1.part? n = some p) (hw : p.live.wf) :
    Keeps n (fun _ => Readied p) t.1 (t.pokeReady n).1 := by
  unfold Trail.pokeReady
  rw [hp]
  dsimp only
  refine forEach_keeps_mem (P := fun u => Keeps n (fun _ => Readied p) t.1 u.1) (fun u x hx hu => ?_) t ⟨.refl _, fun _ h => h, fun p' h => ?_⟩
  · have hm : look p.live x.1 = some x.2 := look_of_mem hw (mem_sortBy (List.mem_filter.mp hx).1)
    split
    · exact place_keeps hm hu
    · split
      · exact hu.comp (.of_adds (pendOnce_adds _ _ _)) fun _ _ _ h e => e ▸ h
      · exact hu
  · exact ⟨p, hp, p.live, rfl, fun _ => rfl⟩

/-! ### A graph is accepted (R61, R62) -/

theorem modDie_val {s : State} (t : Trail s) (d : Nat) (f : Die → Die) : ∃ ds, (t.modDie d f).1 = { t.1 with dies := ds } := ⟨_, rfl⟩

theorem dropCached_val {s : State} (t : Trail s) (f : Tlb → Bool) : ∃ ds, (t.dropCached f).1 = { t.1 with dies := ds } :=
  forEach_keeps (P := fun u => ∃ ds, u.1 = { t.1 with dies := ds })
    (fun u d ⟨ds, e⟩ => by
      obtain ⟨ds', e'⟩ := modDie_val u d fun d => { d with tlb := d.tlb.filter (fun e => !f e) }
      exact ⟨ds', by rw [e', e]⟩) _ t ⟨_, rfl⟩

/-- The graph of a launch record. -/
def graphOf (s : State) (i : Nat) (l : Launch) : Graph :=
  { queue := i, seq := l.seq, space := field (s.mem.read l.graph 64) 8 8, nnodes := field (s.mem.read l.graph 64) 0 4
    nodes := graphNodes s l.graph, arg := l.arg, cword := l.cword, cval := l.cval, iter := 1, spawned := 0, aborted := false, err := none
    lastDone := none, vc := [] }

/-- A partition with a graph among its graphs and its nodes among the live ones. -/
def withGraph (g : Nat) (x : Graph) (rec : Option (Nat × Nat)) (vc : Clock) (p : Part) : Part :=
  (({ p with graphs := put p.graphs g x } : Part).appendAll g x.nodes rec vc).1

theorem withGraph_spec (g : Nat) (x : Graph) (rec : Option (Nat × Nat)) (vc : Clock) (p : Part) :
    (∃ live, withGraph g x rec vc p =
      { p with graphs := put p.graphs g x, append := p.append + BitVec.ofNat 32 x.nodes.length, live := live }) ∧
    (p.live.wf → (withGraph g x rec vc p).live.wf) ∧
    (x.nodes.length < 4096 → ∀ j r, x.nodes[j]? = some r → Entered p g (withGraph g x rec vc p).live j r) := by
  obtain ⟨hrest, -, hwf, hnodes⟩ := appendAll_appended { p with graphs := put p.graphs g x } g rec vc x.nodes
  exact ⟨hrest, hwf, hnodes⟩

/-- A graph with its nodes stands in a partition, up to where its nodes stand. -/
structure HasGraph (p : Part) (g : Nat) (x : Graph) (p' : Part) : Prop where
  graph : look p'.graphs g = some x
  append : p'.append = p.append + BitVec.ofNat 32 x.nodes.length
  mode : p'.mode = p.mode
  nodes : x.nodes.length < 4096 → ∀ j r, x.nodes[j]? = some r → Entered p g p'.live j r

/-- The nodes of a graph enter, and those that are ready go on. -/
theorem enter_keeps {s : State} {t : Trail s} {n : Nat} {p : Part} (hp : t.1.part? n = some p) (hw : p.live.wf) (g : Nat) (x : Graph)
    (rec : Option (Nat × Nat)) (vc : Clock) :
    Keeps n (fun _ => HasGraph p g x) t.1 ((t.modPart n (withGraph g x rec vc)).pokeReady n).1 := by
  obtain ⟨⟨live, e⟩, hwf, hnodes⟩ := withGraph_spec g x rec vc p
  have hk := modPart_same (n := n) (withGraph g x rec vc) t
  obtain ⟨p', hp', rfl⟩ := hk.part p hp
  refine hk.comp (pokeReady_keeps hp' (hwf hw)) ?_
  rintro - - _ - ⟨l, rfl, hl⟩
  refine ⟨?_, by rw [e], by rw [e], fun h j r hr => hl.entered (hnodes h j r hr)⟩
  rw [e]
  exact look_put_same _ _ _

theorem acceptGraph_fails {s : State} {t : Trail s} {l : Launch} {f : Nat} (h : t.1.graphFault l.graph = some f) (n i : Nat)
    (rec : Option (Nat × Nat)) : t.acceptGraph n i l rec = t.recordDone n i l.seq l.cword l.cval
      (some { kind := 2, node := f, thread := 0, lane := 0, reason := 0, adr := 0 }) [] := by
  unfold Trail.acceptGraph
  rw [h]

theorem acceptGraph_keeps {s : State} {t : Trail s} {n : Nat} {p : Part} {l : Launch} (h : t.1.graphFault l.graph = none)
    (hp : t.1.part? n = some p) (hw : p.live.wf) (i : Nat) (rec : Option (Nat × Nat)) :
    Keeps n (fun _ => HasGraph p (t.1.graphCount + 1) (graphOf t.1 i l)) t.1 (t.acceptGraph n i l rec).1 := by
  unfold Trail.acceptGraph
  rw [h]
  extract_lets hdr recs g x u v w
  obtain ⟨ds, e⟩ := dropCached_val u (fun e => decide (e.space = x.space))
  have hv : Keeps n Eq t.1 v.1 := by
    show Keeps n Eq t.1 (u.dropCached (fun e => decide (e.space = x.space))).1
    rw [e]
    exact .of_eq rfl rfl rfl fun _ h => h
  obtain ⟨p', hp', rfl⟩ := hv.part p hp
  exact hv.comp (enter_keeps hp' hw g x rec []) fun _ _ _ _ h => h

/-- Acting on a graph record that has been taken. -/
theorem actRecord_graph {s : State} {t : Trail s} {n : Nat} {p : Part} {l : Launch} (hp : t.1.part? n = some p) (hb : l.bad = false)
    (hk : l.kind = 1) (i : Nat) (rec : Option (Nat × Nat)) : t.actRecord n i l rec = t.acceptGraph n i l rec := by
  rw [actRecord_valid hp hb (by omega), if_neg (by omega), if_neg (by omega)]

section Graphs

variable {s : State} {n i : Nat} {p : Part} {q : Queue} {l : Launch} (h : TakesRecord s n i p q l) (hb : l.bad = false) (hk : l.kind = 1)
  (hr : s.graphRoom p l.graph = true) (ha : GraphApart s q l)
include h hb hk hr ha

theorem graph_fails {f : Nat} (hf : s.graphFault l.graph = some f) : ∃ t, exec .recordAccept s = .next t ∧
    RecordEnds s t n i q l.seq (some { kind := 2, node := f, thread := 0, lane := 0, reason := 0, adr := 0 }) := by
  obtain ⟨w, hpart, -, hmem, -⟩ := taken_spec h
  have hfault : ((begin s).takeRecord n i).1.graphFault l.graph = some f := by
    rw [graphFault_congr (s := s) (by rw [hmem]; exact sameGraph_writeBacked ha w), hf]
  have hends := fun rec => takeAndAct_ends h (rec := rec) ((actRecord_graph hpart hb hk i rec).trans (acceptGraph_fails hfault n i rec))
  obtain ⟨rec, e⟩ := exec_recordAccept_graph h (by simp [Launch.isGraph, hb, hk]) hr fun rec => (hends rec).2
  exact ⟨_, e, (hends rec).1⟩

theorem graph_enters (hw : p.live.wf) (hf : s.graphFault l.graph = none) : ∃ t p', exec .recordAccept s = .next t ∧ t.part? n = some p' ∧
    HasGraph p (s.graphCount + 1) (graphOf s i l) p' := by
  obtain ⟨w, hpart, -, hmem, hcount⟩ := taken_spec h
  have hsame : SameGraph s.mem ((begin s).takeRecord n i).1.mem l.graph := by
    rw [hmem]
    exact sameGraph_writeBacked ha w
  have hgraph : graphOf ((begin s).takeRecord n i).1 i l = graphOf s i l := by
    unfold graphOf
    rw [graphNodes_congr hsame, hsame.header]
  have hends : ∀ rec, ∃ p', (takeAndAct n i l rec (begin s)).1.part? n = some p' ∧
      HasGraph p (s.graphCount + 1) (graphOf s i l) p' := fun rec => by
    obtain ⟨p', hp', hg⟩ := (acceptGraph_keeps ((graphFault_congr hsame).trans hf) hpart hw i rec).part _ hpart
    rw [hcount, hgraph] at hg
    refine ⟨p', ?_, hg.graph, hg.append, hg.mode, hg.nodes⟩
    unfold takeAndAct
    rw [part?_of_addsDue (pendOnce_adds _ _ _), actRecord_graph hpart hb hk]
    exact hp'
  obtain ⟨rec, e⟩ := exec_recordAccept_graph h (by simp [Launch.isGraph, hb, hk]) hr fun rec =>
    let ⟨p', hp', hg⟩ := hends rec
    ⟨p', hp', hg.mode⟩
  obtain ⟨p', hp', hg⟩ := hends rec
  exact ⟨_, p', e, hp', hg⟩

end Graphs

theorem recordsHold : Claims.RecordsHold := by
  refine ⟨fun s n i p q l h _ => ⟨?marker, ?invalid, ?fence, ?full⟩, fun s n i p q l f h _ hb hk hr ha hf => ?fails,
    fun s n i p q l h _ hw hb hk hr ha hf => ?enters, fun s n i p q l ha hw hq hf _ => ⟨?held, ?released⟩,
    fun s n i p q l x ha hw hq hf ho hl => ⟨?fullBehind, ?behind⟩⟩
  case marker => exact fun hb hk => marker_ends h hb hk
  case invalid => exact fun hl => invalid_ends h hl
  case fence => exact fun hb hk hg => fence_waits h hb hk hg
  case full => exact fun hb hk hr => exec_recordAccept_noRoom h (by simp [Launch.isGraph, hb, hk]) hr
  case fails => exact graph_fails h hb hk hr ha hf
  case enters =>
    obtain ⟨t, p', hex, hp', hgraph, happend, -, hnodes⟩ := graph_enters h hb hk hr ha hw hf
    obtain ⟨hcount, hpreds⟩ := graphFault_none hf
    have hlen : (graphOf s i l).nodes.length = field (s.mem.read l.graph 64) 0 4 := graphNodes_length s l.graph
    rw [hlen] at happend hnodes
    refine ⟨t, p', _, hex, hp', hgraph, rfl, rfl, rfl, rfl, rfl, rfl, rfl, rfl, happend, fun j hj => ?_⟩
    have hget := graphNodes_get hj
    obtain ⟨nd, hlook, hg, hi, hd, hp⟩ := hnodes (by omega) j _ hget
    exact ⟨nd, hlook, hg, hi, hd, by rw [hd]; exact hp (hpreds j _ hget)⟩
  case held =>
    intro hg
    rw [exec_fenceRelease ha hw.part hq hf, if_pos (graphOf_queue.mpr hg), begin_val]
  case released => exact fun hg => fence_released ha hw.part hq hf hg
  case fullBehind =>
    intro hg hr
    rw [exec_recordAccept_behind ha hw.part hq hf ho, ← hl, hg, hr]
    rfl
  case behind => exact fun hr => record_held ha hw.part hq hf ho hl hr

end Sys2Proof.Proofs
end

section
/-!
PROOFS. Repeat nodes: a node that goes leaves the live table, a graph that goes round again enters it anew, and a repeat node reads its
predicate and decides.
-/

namespace Sys2Proof.Proofs

open Sys2Proof Sys2Proof.Machine Sys2Proof.Claims

/-! ### A node goes (R63, R65) -/

theorem look_map {α β : Type} (f : α → β) : ∀ (t : Tab α) (k : Nat), look (t.map (fun m => (m.1, f m.2))) k = (look t k).map f
  | [], _ => rfl
  | (a, x) :: r, k => by
    by_cases h : a = k
    · simp [look, h]
    · simpa [look, h] using look_map f r k

theorem map_wf {α β : Type} {t : Tab α} (f : α → β) (h : t.wf) : Tab.wf (t.map (fun m => (m.1, f m.2))) := List.pairwise_map.mpr h

/-- A node has gone from a partition's live table. -/
structure Left (app : Nat) (p p' : Part) : Prop where
  rest : ∃ ls rs gs fr, p' = { p with live := ls, residency := rs, graphs := gs, frames := fr }
  gone : look p'.live app = none
  wf : p.live.wf → p'.live.wf
  graphs : ∀ k g, look p.graphs k = some g → ∃ vc ld, look p'.graphs k = some { g with vc := vc, lastDone := ld }

/-- The graphs of a partition with one of them changed. -/
theorem look_changed {gs : Tab Graph} {k j : Nat} {g : Graph} (h : look gs k = some g) (vc : Graph → Clock) (ld : Graph → Option (Nat × Nat)) :
    ∃ v d, look (match look gs j with | some g => put gs j { g with vc := vc g, lastDone := ld g } | none => gs) k =
      some { g with vc := v, lastDone := d } := by
  split
  · next x hx =>
    rw [look_put]
    split
    · next e =>
      subst e
      rw [h] at hx
      cases hx
      exact ⟨_, _, rfl⟩
    · exact ⟨g.vc, g.lastDone, h⟩
  · exact ⟨g.vc, g.lastDone, h⟩

theorem nodeGone_keeps {s : State} {n : Nat} (t : Trail s) (app : Nat) (endRec : Option (Nat × Nat)) (vc : Clock) :
    Keeps n (Left app) t.1 (t.nodeGone n app endRec vc).1 := by
  unfold Trail.nodeGone
  split
  · next hnone => exact ⟨.refl _, fun _ h => h, fun p hp => by rw [hnone] at hp; cases hp⟩
  · next p hp =>
    split
    · next hnone =>
      refine ⟨.refl _, fun _ h => h, fun p' hp' => ?_⟩
      rw [hp] at hp'
      cases hp'
      exact ⟨p, hp, ⟨_, _, _, _, rfl⟩, hnone, fun h => h, fun k g hg => ⟨g.vc, g.lastDone, hg⟩⟩
    · next x hx =>
      extract_lets t1 t2 free
      have h2 : Keeps n Eq t1.1 t2.1 := by
        show Keeps n Eq t1.1 (match x.st.place with | some cl => t1.pendOnce .nodeTake [cl] | none => t1 : Trail s).1
        split
        · exact .of_adds (pendOnce_adds _ _ _)
        · exact .of_eq rfl rfl rfl fun _ h => h
      refine ((dropLeases_keeps t (x.leases.map (·.1))).comp h2 fun _ _ _ h e => e ▸ h).comp (modPart_same _ t2) ?_
      rintro p _ _ ⟨fr, rfl⟩ rfl
      refine ⟨⟨_, _, _, _, rfl⟩, ?_, fun h => map_wf free (del_wf _ _ h), fun k g hg => look_changed hg _ _⟩
      dsimp only
      rw [look_map free, look_del_same]
      rfl

/-! ### What follows when a node has gone -/

theorem pokePools_adds {s : State} (t : Trail s) (n : Nat) : AddsDue t.1 (t.pokePools n).1 := by
  unfold Trail.pokePools
  split
  · exact .refl _
  · exact forEach_adds _ (fun t m => pendOnce_adds t _ _) _ t

theorem pokeRoom_adds {s : State} (t : Trail s) (n : Nat) : AddsDue t.1 (t.pokeRoom n).1 := by
  unfold Trail.pokeRoom
  split
  · exact .refl _
  · next p _ =>
    extract_lets t1 t2 t3
    have h1 : AddsDue t.1 t1.1 := forEach_adds _ (fun t m => by
      split
      · exact pendOnce_adds _ _ _
      · exact .refl _) _ t
    have h2 : AddsDue t1.1 t2.1 := forEach_adds _ (fun t c => forEach_adds _ (fun t th => by
      split
      · split
        · exact pendOnce_adds _ _ _
        · exact .refl _
      · exact .refl _) _ t) _ t1
    have h3 : AddsDue t2.1 t3.1 := forEach_adds _ (fun t q => by
      split
      · exact .refl _
      · exact pendOnce_adds _ _ _) _ t2
    refine h1.trans (h2.trans (h3.trans (forEach_adds _ (fun t d => ?_) _ t3)))
    split
    · exact .refl _
    · exact pendOnce_adds _ _ _

theorem modQueue_goes {s : State} (t : Trail s) (n i : Nat) (f : Queue → Queue) :
    Goes n (fun p p' => ∃ qs, p' = { p with queues := qs }) t.1 (t.modQueue n i f).1 := fun p hp => by
  cases hq : look p.queues i with
  | none =>
    have e : t.modQueue n i f = t := by
      unfold Trail.modQueue
      rw [hp]
      dsimp only
      rw [hq]
    rw [e]
    exact ⟨p, hp, p.queues, rfl⟩
  | some q =>
    obtain ⟨h, b, cs, e⟩ := modQueue_val hp hq f
    rw [e]
    exact ⟨_, look_put_same _ _ _, _, rfl⟩

theorem postEvent_part {s : State} (t : Trail s) (n f src kind : Nat) (payload : List Nat) :
    (t.postEvent f src kind payload).1.part? n = t.1.part? n := rfl

theorem recordDone_goes {s : State} (t : Trail s) (n i seq cword cval : Nat) (e : Option RecError) (vc : Clock) :
    Goes n (fun p p' => ∃ qs, p' = { p with queues := qs }) t.1 (t.recordDone n i seq cword cval e vc).1 := fun p hp => by
  unfold Trail.recordDone
  extract_lets u v
  obtain ⟨p', hp', rfl⟩ := (putCword_keeps t n cword cval vc).part p hp
  obtain ⟨p', hp', hr⟩ := modQueue_goes u n i _ p hp'
  refine ⟨p', ?_, hr⟩
  split
  · rw [postEvent_part]
    exact hp'
  · exact hp'

/-- A partition whose graphs and queues alone have changed. -/
def WorkKept (p p' : Part) : Prop := p'.mode = p.mode ∧ p'.append = p.append ∧ p'.live = p.live

theorem graphDone_goes {s : State} (t : Trail s) (n g : Nat) : Goes n WorkKept t.1 (t.graphDone n g).1 := fun p hp => by
  have hself : ∃ p', t.1.part? n = some p' ∧ WorkKept p p' := ⟨p, hp, rfl, rfl, rfl⟩
  unfold Trail.graphDone
  rw [hp]
  dsimp only
  split
  · exact hself
  · next x _ =>
    split
    · exact hself
    · obtain ⟨p₁, hp₁, rfl⟩ := (modPart_same (n := n) (fun p => { p with graphs := del p.graphs g }) t).part p hp
      obtain ⟨_, hp₂, qs, rfl⟩ := recordDone_goes _ n x.queue x.seq x.cword x.cval x.err x.vc _ hp₁
      exact ⟨_, (part?_of_addsDue (pendOnce_adds _ _ _) n).trans hp₂, rfl, rfl, rfl⟩

/-- A node goes, and what waited for that goes on. -/
theorem gone_goes {s : State} {t : Trail s} {n : Nat} {p : Part} (hp : t.1.part? n = some p) (hw : p.live.wf) (app g : Nat) :
    ∃ p', ((t.nodeGone n app none []).afterGone n g).1.part? n = some p' ∧ p'.mode = p.mode ∧ p'.append = p.append ∧
      look p'.live app = none := by
  obtain ⟨p₁, hp₁, ⟨ls, rs, gs, fr, rfl⟩, hgone, hwf, -⟩ := (nodeGone_keeps (n := n) t app none []).part p hp
  generalize t.nodeGone n app none [] = u at hp₁
  obtain ⟨_, hp₂, l, rfl, hl⟩ := (pokeReady_keeps hp₁ (hwf hw)).part _ hp₁
  obtain ⟨p₃, hp₃, hmode, happ, hlive⟩ := graphDone_goes (u.pokeReady n) n g _ hp₂
  refine ⟨p₃, ?_, hmode, happ, by rw [hlive]; exact hl.none hgone⟩
  unfold Trail.afterGone
  rw [part?_of_addsDue (pokeRoom_adds _ _), part?_of_addsDue (pokePools_adds _ _)]
  exact hp₃

/-! ### A graph goes round again (R82) -/

theorem rearmGraph_goes {s : State} {t : Trail s} {n gid : Nat} {p : Part} {g : Graph} (hp : t.1.part? n = some p) (hw : p.live.wf)
    (hg : look p.graphs gid = some g) (app : Nat) (rec : Option (Nat × Nat)) : ∃ p' vc, (t.rearmGraph n app gid rec).1.part? n = some p' ∧
      HasGraph p gid { g with iter := g.iter + 1, lastDone := none, vc := vc } p' := by
  obtain ⟨p₁, hp₁, ⟨ls, rs, gs, fr, rfl⟩, -, hwf, hgraphs⟩ := (nodeGone_keeps (n := n) t app none []).part p hp
  obtain ⟨vc, ld, hg₁⟩ := hgraphs gid g hg
  unfold Trail.rearmGraph
  extract_lets u
  change u.1.part? n = _ at hp₁
  rw [hp₁]
  dsimp only at hg₁ ⊢
  rw [hg₁]
  dsimp only
  obtain ⟨ds, e⟩ := dropCached_val u (fun e => decide (e.space = g.space))
  have hv : (u.dropCached (fun e => decide (e.space = g.space))).1.part? n = u.1.part? n := by rw [e]; rfl
  rw [hp₁] at hv
  obtain ⟨p', hp', hgraph, happ, hmode, hnodes⟩ := (enter_keeps hv (hwf hw) gid { g with vc := vc, iter := g.iter + 1, lastDone := none } rec
    vc).part _ hv
  exact ⟨p', vc, (part?_of_addsDue (pokeRoom_adds _ _) n).trans hp', hgraph, happ, hmode, hnodes⟩

theorem rearmed_of_hasGraph {t : State} {n : Nat} {p p' : Part} {m : Node} {g : Graph} {vc : Clock} (hp' : t.part? n = some p')
    (h : HasGraph p m.graph { g with iter := g.iter + 1, lastDone := none, vc := vc } p') (hlen : g.nodes.length < 4096) :
    Rearmed t n p m g := by
  refine ⟨p', _, hp', h.graph, rfl, h.append, fun j hj => ?_⟩
  have hget : g.nodes[j]? = some g.nodes[j] := List.getElem?_eq_getElem hj
  obtain ⟨nd, hlook, hgr, hi, hd, -⟩ := h.nodes hlen j _ hget
  exact ⟨nd, hlook, hgr, hi, hget.trans (congrArg some hd.symm)⟩

theorem rearmed_of_frames {t u : State} {n : Nat} {p : Part} {m : Node} {g : Graph} (h : Rearmed t n p m g) (k : Keeps n FramesChange t u) :
    Rearmed u n p m g := by
  obtain ⟨p', g', hp', hrest⟩ := h
  obtain ⟨_, hq, fr, rfl⟩ := k.part p' hp'
  exact ⟨_, g', hq, hrest⟩

/-! ### A repeat node decides (R82) -/

/-- A repeat node that has read v goes round again. -/
def Again (m : Node) (g : Graph) (v : Nat) : Prop := v ≠ 0 ∧ (m.desc.codelen = 0 ∨ g.iter < m.desc.codelen)

/-- What the dispatcher looks at to tell whether a repeat node goes round again. -/
def goesRound (m : Node) (g : Graph) (v : Nat) : Bool :=
  decide (v ≠ 0) && (decide (m.desc.codelen = 0) || decide (g.iter < m.desc.codelen))

theorem goesRound_iff {m : Node} {g : Graph} {v : Nat} : goesRound m g v = true ↔ Again m g v := by
  rw [goesRound, Again, Bool.and_eq_true, Bool.or_eq_true, decide_eq_true_eq, decide_eq_true_eq, decide_eq_true_eq]

section Decision

variable {s : State} {t : Trail s} {n app v : Nat} {p : Part} {m : Node} {g : Graph} (hp : t.1.part? n = some p) (hm : look p.live app = some m)
  (hg : look p.graphs m.graph = some g)
include hp hm hg

/-- The course of a decision. -/
theorem decideRepeat_eq (step : Instr) : ∃ r rec, t.decideRepeat n app v step =
    if !goesRound m g v then t.unitLogged n r ⟨step, [n, app]⟩ (fun t => (t.nodeGone n app none []).afterGone n m.graph)
    else if 4096 < p.live.length - 1 + g.nnodes then t.nodeState n app (.rearm v)
    else t.unitLogged n r ⟨step, [n, app]⟩ (fun t => t.rearmGraph n app m.graph rec) := by
  refine ⟨repeatRec n (if goesRound m g v then 0 else 1) v g.iter g.lastDone,
    t.1.recName n (repeatRec n (if goesRound m g v then 0 else 1) v g.iter g.lastDone).source, ?_⟩
  unfold Trail.decideRepeat
  rw [hp]
  dsimp only
  rw [hm]
  dsimp only
  rw [hg]
  rfl

theorem decideRepeat_removes (hu : p.mode ≠ 1 ∧ p.mode ≠ 2) (hw : p.live.wf) (ha : ¬Again m g v) (step : Instr) :
    ∃ p', (t.decideRepeat n app v step).1.part? n = some p' ∧ look p'.live app = none ∧ p'.append = p.append := by
  obtain ⟨r, rec, e⟩ := decideRepeat_eq (v := v) hp hm hg step
  obtain ⟨p', hp', hmode, happ, hgone⟩ := gone_goes hp hw app m.graph
  have hlog := unitLogged_unlogged (go := fun t => (t.nodeGone n app none []).afterGone n m.graph) hp hu hp' hmode r ⟨step, [n, app]⟩
  rw [e, if_pos (by simpa [← goesRound_iff] using ha), hlog]
  exact ⟨p', hp', hgone, happ⟩

theorem decideRepeat_waits (ha : Again m g v) (hroom : 4096 < p.live.length - 1 + g.nnodes) (step : Instr) :
    ∃ p' m', (t.decideRepeat n app v step).1.part? n = some p' ∧ look p'.live app = some m' ∧ m'.st = .rearm v ∧ p'.append = p.append := by
  obtain ⟨r, rec, e⟩ := decideRepeat_eq (v := v) hp hm hg step
  rw [e, if_neg (by simpa [← goesRound_iff] using ha), if_pos hroom]
  obtain ⟨p', hp', rfl⟩ := (modPart_same (n := n) (fun p => match look p.live app with
    | some m => { p with live := put p.live app { m with st := .rearm v, wants := none, returned := false } }
    | none => p) t).part p hp
  refine ⟨_, { m with st := .rearm v, wants := none, returned := false }, hp', ?_, rfl, ?_⟩
  · rw [hm]
    exact look_put_same _ _ _
  · rw [hm]

theorem decideRepeat_rearms (hu : p.mode ≠ 1 ∧ p.mode ≠ 2) (hw : p.live.wf) (ha : Again m g v) (hroom : p.live.length - 1 + g.nnodes ≤ 4096)
    (hlen : g.nodes.length < 4096) (step : Instr) : Rearmed (t.decideRepeat n app v step).1 n p m g := by
  obtain ⟨r, rec, e⟩ := decideRepeat_eq (v := v) hp hm hg step
  obtain ⟨p', vc, hp', hh⟩ := rearmGraph_goes hp hw hg app rec
  have hlog := unitLogged_unlogged (go := fun t => t.rearmGraph n app m.graph rec) hp hu hp' hh.mode r ⟨step, [n, app]⟩
  rw [e, if_neg (by simpa [← goesRound_iff] using ha), if_neg (by omega), hlog]
  exact rearmed_of_hasGraph hp' hh hlen

end Decision

/-! ### A repeat node reads its predicate (R82) -/

theorem cache_val {s : State} (t : Trail s) (die space va : Nat) (l : Leaf) : ∃ ds, (t.cache die space va l).1 = { t.1 with dies := ds } := by
  unfold Trail.cache
  split
  · exact ⟨_, rfl⟩
  · exact modDie_val _ _ _

theorem takeLeases_val {s : State} (t : Trail s) (pages : List Nat) : ∃ pg, (t.takeLeases pages).1 = { t.1 with pages := pg } :=
  forEach_keeps (P := fun u => ∃ pg, u.1 = { t.1 with pages := pg })
    (fun u d ⟨pg, e⟩ => ⟨put u.1.pages d { u.1.page d with leases := (u.1.page d).leases + 1 }, by
      show ({ u.1 with pages := _ } : State) = _
      rw [e]⟩) _ t ⟨_, rfl⟩

theorem countAccess_kept {s : State} (t : Trail s) (die a : Nat) :
    (t.countAccess die a).1.mem = t.1.mem ∧ (t.countAccess die a).1.parts = t.1.parts := by
  unfold Trail.countAccess
  split
  · exact ⟨rfl, rfl⟩
  · split
    · exact ⟨rfl, rfl⟩
    · dsimp only
      split
      · exact ⟨rfl, rfl⟩
      · split
        · exact ⟨rfl, rfl⟩
        · split
          · exact ⟨rfl, rfl⟩
          · split
            · exact ⟨rfl, rfl⟩
            · exact ⟨rfl, rfl⟩

/-- Where the predicate of a repeat node stands. -/
def predicateAt (m : Node) (l : Leaf) : Nat := l.frame + m.desc.code % l.size

/-- A repeat node has leased the page of its predicate, and looks at it. -/
def predicateLeased (s : State) (n : Nat) (m : Node) (g : Graph) (l : Leaf) : Trail s :=
  let hs := (s.headsOf (predicateAt m l) 8).filter (fun h => meets h 2 (n * 8))
  let t := (begin s).cache (dieOfCluster n) g.space m.desc.code l
  let t := t.modPart n (fun p => { p with graphs := put p.graphs m.graph { g with vc := hs.foldl (fun v h => v.join h.vc) g.vc } })
  (t.takeLeases (leafPages [(m.desc.code, l)])).countAccess (dieOfCluster n) (predicateAt m l)

theorem predicateLeased_spec {s : State} {n : Nat} {p : Part} (hp : s.part? n = some p) (m : Node) (g : Graph) (l : Leaf) :
    ∃ vc, (predicateLeased s n m g l).1.part? n = some { p with graphs := put p.graphs m.graph { g with vc := vc } } ∧
      (predicateLeased s n m g l).1.mem = s.mem := by
  unfold predicateLeased
  extract_lets hs t1 t2
  obtain ⟨ds, e1⟩ := cache_val (begin s) (dieOfCluster n) g.space m.desc.code l
  change t1.1 = _ at e1
  have hp1 : t1.1.part? n = some p := by rw [e1]; exact hp
  have e2 := modPart_part hp1 (fun p => { p with graphs := put p.graphs m.graph { g with vc := hs.foldl (fun v h => v.join h.vc) g.vc } })
  change t2.1 = _ at e2
  obtain ⟨pg, e3⟩ := takeLeases_val t2 (leafPages [(m.desc.code, l)])
  obtain ⟨hmem, hparts⟩ := countAccess_kept (t2.takeLeases (leafPages [(m.desc.code, l)])) (dieOfCluster n) (predicateAt m l)
  refine ⟨hs.foldl (fun v h => v.join h.vc) g.vc, ?_, ?_⟩
  · unfold State.part?
    rw [hparts, e3, e2]
    exact look_put_same _ _ _
  · rw [hmem, e3, e2, e1]
    rfl

theorem exec_repeatDecide_eq (s : State) : exec .repeatDecide s = execRepeatDecide s := rfl
theorem exec_repeatRearm_eq (s : State) : exec .repeatRearm s = execRepeatRearm s := rfl

theorem dispatching_of_works {s : State} {n : Nat} {p : Part} (h : Works s n p) : p.dispatching = true := by
  simp [Part.dispatching, h.dispatches.1, h.dispatches.2]

/-- The course of REPEAT_DECIDE for a node whose predicate can be read. -/
theorem exec_repeatDecide {s : State} {n app : Nat} {p : Part} {m : Node} {g : Graph} {l : Leaf} (h : Decides s n app p m g l) :
    exec .repeatDecide s = .next
      (if s.leaseWaits (leafPages [(m.desc.code, l)]) then begin s
       else ((predicateLeased s n m g l).decideRepeat n app ((predicateLeased s n m g l).1.mem.read (predicateAt m l) 8)
        .repeatDecide).dropLeases (leafPages [(m.desc.code, l)])).1 := by
  have h0 : s.arg 0 = n := by rw [State.arg, h.args]; rfl
  have h1 : s.arg 1 = app := by rw [State.arg, h.args]; rfl
  have hpath : l.path.any (fun a => !s.mayAccess (sysMaster s.pkg.num) a permRd) = false := by
    rw [List.any_eq_false]
    intro a ha
    simp [h.granted a ha]
  rw [exec_repeatDecide_eq]
  unfold execRepeatDecide
  rw [event_val]
  simp only [begin_val, h0, h1, h.works.part, h.node, h.graph, h.leaf, dispatching_of_works h.works, h.ready, h.kind, hpath, h.resident, h.reads]
  rfl

theorem exec_repeatRearm {s : State} {n app v : Nat} {p : Part} {m : Node} (ha : s.args = [n, app]) (hp : s.part? n = some p)
    (hm : look p.live app = some m) (hst : m.st = .rearm v) : exec .repeatRearm s = .next
      (if p.dispatching then (begin s).decideRepeat n app v .repeatRearm else begin s).1 := by
  have h0 : s.arg 0 = n := by rw [State.arg, ha]; rfl
  have h1 : s.arg 1 = app := by rw [State.arg, ha]; rfl
  rw [exec_repeatRearm_eq]
  unfold execRepeatRearm
  rw [event_val]
  simp only [begin_val, h0, h1, hp, hm, Option.map_some, hst]

theorem repeatsHold : Claims.RepeatsHold := by
  refine ⟨fun s n app p m g l h hw => ?decide, fun s n app p m g v ha hwk hw hm hg hst hv hr => ?rearm,
    fun s n app p m v ha hp hd hm hst => ?drains⟩
  case decide =>
    intro v again waits
    have hex := exec_repeatDecide h
    obtain ⟨vc, hp, hmem⟩ := predicateLeased_spec h.works.part m g l
    rw [hmem] at hex
    have hstay : waits = false → exec .repeatDecide s = .next (((predicateLeased s n m g l).decideRepeat n app v
        .repeatDecide).dropLeases (leafPages [(m.desc.code, l)])).1 := fun hwt => by
      rw [hex, if_neg (by rw [show s.leaseWaits (leafPages [(m.desc.code, l)]) = false from hwt]; decide)]
      rfl
    generalize predicateLeased s n m g l = t at hp hstay
    have hdrop := dropLeases_keeps (n := n) (t.decideRepeat n app v .repeatDecide) (leafPages [(m.desc.code, l)])
    have hg := look_put_same p.graphs m.graph { g with vc := vc }
    refine ⟨fun hwt => ?_, fun hwt ha => ?_, fun hwt ha hroom => ?_, fun hwt ha hroom hlen => ⟨_, hstay hwt, ?_⟩⟩
    · rw [hex, if_pos hwt, begin_val]
    · obtain ⟨p', hp', hgone, happ⟩ := decideRepeat_removes hp h.node hg h.works.unlogged hw ha .repeatDecide
      obtain ⟨_, hq, fr, rfl⟩ := hdrop.part p' hp'
      exact ⟨_, _, hstay hwt, hq, hgone, happ⟩
    · obtain ⟨p', m', hp', hm', hst, happ⟩ := decideRepeat_waits hp h.node hg ha hroom .repeatDecide
      obtain ⟨_, hq, fr, rfl⟩ := hdrop.part p' hp'
      exact ⟨_, _, m', hstay hwt, hq, hm', hst, happ⟩
    · exact rearmed_of_frames (decideRepeat_rearms hp h.node hg h.works.unlogged hw ha hroom hlen .repeatDecide) hdrop
  case rearm =>
    have hex := exec_repeatRearm ha hwk.part hm hst
    rw [if_pos (dispatching_of_works hwk)] at hex
    refine ⟨fun hroom => ?_, fun hroom hlen => ⟨_, hex, ?_⟩⟩
    · obtain ⟨p', m', hp', hm', hst', -⟩ := decideRepeat_waits (t := begin s) hwk.part hm hg ⟨hv, hr⟩ hroom .repeatRearm
      exact ⟨_, p', m', hex, hp', hm', hst'⟩
    · exact decideRepeat_rearms (t := begin s) hwk.part hm hg hwk.unlogged hw ⟨hv, hr⟩ hroom hlen .repeatRearm
  case drains =>
    rw [exec_repeatRearm ha hp hm hst, hd]
    rfl

/-- Settles O40: the course of each step for its case; a graph's nodes enter by induction on the list of its records, and nothing that
goes on after them changes more than where nodes stand. -/
theorem records : Obligations.Records := ⟨recordsHold, repeatsHold⟩

end Sys2Proof.Proofs
end

section
/-!
PROOFS. The extent check of a lane address (R72, R195): which entry a user thread's access goes through.
-/

namespace Sys2Proof.Proofs

open Sys2Proof Sys2Proof.Machine Sys2Proof.Claims

/-- The entry holds the run of bytes and permits the access, below 2^56 (R72). -/
def Permits (va size perm : Nat) (e : Nat × Extent) : Prop :=
  va + size ≤ 2 ^ 56 ∧ e.2.vbase ≤ va ∧ va + size ≤ e.2.vbase + e.2.len ∧ bit e.2.perm perm = true

/-- The test by which the lookup picks its entry. -/
def permitTest (va size perm : Nat) (e : Nat × Extent) : Bool :=
  decide ((e.2.vbase : Int) ≤ va) && decide ((va : Int) + size ≤ (e.2.vbase : Int) + e.2.len) && bit e.2.perm perm

theorem findExtent_above {x : Ctx} {va size : Nat} (hsl : x.sl ≠ 15) (h : 2 ^ 56 < va + size) (perm : Nat) :
    x.findExtent (va : Int) size perm = none := by
  have hst : x.steward = false := decide_eq_false hsl
  have hlt : (2 : Int) ^ 56 < (va : Int) + size := by exact_mod_cast h
  simp only [Ctx.findExtent, hst, if_pos hlt]
  rfl

theorem findExtent_below {x : Ctx} {n : Task} {va size : Nat} (hsl : x.sl ≠ 15) (hn : x.task = some n) (h : va + size ≤ 2 ^ 56)
    (perm : Nat) : x.findExtent (va : Int) size perm = n.ext.find? (permitTest va size perm) := by
  have hst : x.steward = false := decide_eq_false hsl
  have hle : ¬ (2 : Int) ^ 56 < (va : Int) + size := by exact_mod_cast Nat.not_lt.mpr h
  simp only [Ctx.findExtent, hst, hn, if_neg hle]
  rfl

theorem permits_iff {va size : Nat} (h : va + size ≤ 2 ^ 56) (perm : Nat) (e : Nat × Extent) :
    permitTest va size perm e = true ↔ Permits va size perm e := by
  simp only [permitTest, Permits, Bool.and_eq_true, decide_eq_true_eq]
  constructor
  · rintro ⟨⟨hlo, hhi⟩, hb⟩
    exact ⟨h, by omega, by omega, hb⟩
  · rintro ⟨-, hlo, hhi, hb⟩
    exact ⟨⟨by omega, by omega⟩, hb⟩

theorem findExtent_none {x : Ctx} {n : Task} {va size perm : Nat} (hsl : x.sl ≠ 15) (hn : x.task = some n)
    (hno : ∀ e ∈ n.ext, ¬ Permits va size perm e) : x.findExtent (va : Int) size perm = none := by
  by_cases h : va + size ≤ 2 ^ 56
  · rw [findExtent_below hsl hn h, List.find?_eq_none]
    exact fun e he hp => hno e he ((permits_iff h perm e).mp hp)
  · exact findExtent_above hsl (Nat.lt_of_not_le h) perm

theorem findExtent_lowest {x : Ctx} {n : Task} {va size perm : Nat} {p q : List (Nat × Extent)} {e : Nat × Extent} (hsl : x.sl ≠ 15)
    (hn : x.task = some n) (hext : n.ext = p ++ e :: q) (hno : ∀ f ∈ p, ¬ Permits va size perm f) (he : Permits va size perm e) :
    x.findExtent (va : Int) size perm = some e := by
  have h : va + size ≤ 2 ^ 56 := he.1
  have hp : p.find? (permitTest va size perm) = none := List.find?_eq_none.mpr fun f hf hb => hno f hf ((permits_iff h perm f).mp hb)
  rw [findExtent_below hsl hn h, hext, List.find?_append, hp, List.find?_cons_of_pos (p := permitTest va size perm) ((permits_iff h perm e).mpr he)]
  rfl

theorem showAddr_natCast {va : Nat} (h : va < 2 ^ 64) : showAddr (va : Int) = va := by
  unfold showAddr bitsOf
  omega

section
variable {x : Ctx} {va size l : Nat} {e : Nat × Extent}

theorem readLane_none (hva : va < 2 ^ 64) (h : x.findExtent (va : Int) size extRd = none) (sc : Bool) :
    x.readLane sc size (l, (va : Int)) = extent 1 l va := by
  simp only [Ctx.readLane, h, showAddr_natCast hva]

theorem writeLane_none (hva : va < 2 ^ 64) (h : x.findExtent (va : Int) size extWr = none) :
    x.writeLane size (l, (va : Int)) = extent 1 l va := by
  simp only [Ctx.writeLane, h, showAddr_natCast hva]

/-- A read through an entry in good order: a vector of an ATOMIC range is refused, then a compressed page (R195). -/
theorem readLane_some (hva : va < 2 ^ 64) (h : x.findExtent (va : Int) size extRd = some e) (hecc : x.entryEcc e.1 = .ok ())
    (sc : Bool) : x.readLane sc size (l, (va : Int)) =
      if e.2.mode = 3 ∧ !(sc && decide (4 ≤ size) && bit e.2.perm extAtom) then extent 9 l va
      else if e.2.inComp va size then extent 5 l va
      else .ok (x.vlane l va e) := by
  simp only [Ctx.readLane, h, hecc, showAddr_natCast hva]
  rfl

theorem writeLane_some (hva : va < 2 ^ 64) (h : x.findExtent (va : Int) size extWr = some e) (hecc : x.entryEcc e.1 = .ok ()) :
    x.writeLane size (l, (va : Int)) =
      if e.2.share ≠ 0 ∧ e.2.owner va ≠ some x.th.tid.toNat then extent 2 l va else .ok (x.vlane l va e) := by
  simp only [Ctx.writeLane, h, hecc, showAddr_natCast hva]
  rfl

end

/-- Settles O13: the lookup finds the lowest entry that permits the access, and the lane's answer follows from that entry. -/
theorem extentChecks : Obligations.ExtentChecks := by
  intro x n l size va hsl hn hva holds
  refine ⟨fun hno => readLane_none hva (findExtent_none hsl hn hno),
    fun hno => writeLane_none hva (findExtent_none hsl hn hno),
    fun p e q hext hno he hecc sc => ?read, fun p e q hext hno he hecc => ?write⟩
  case read =>
    rw [readLane_some hva (findExtent_lowest hsl hn hext hno he) hecc sc]
    refine ⟨fun hm hc => ?_, fun hm hc => ⟨x.vlane l va e, ?_, rfl, rfl, rfl, rfl, ?_⟩, fun hm hs hsz hb hc => ?_, fun hm hor => ?_⟩
    · rw [if_neg (fun h => hm h.1), if_pos hc]
    · rw [if_neg (fun h => hm h.1), if_neg (by simp [hc])]
    · exact beq_false_of_ne hm
    · rw [if_neg (by simp [hs, hsz, extAtom, hb]), if_pos hc]
    · refine if_pos ⟨hm, ?_⟩
      rcases hor with h | h | h
      · simp [h]
      · simp [Nat.not_le.mpr h]
      · simp [extAtom, h]
  case write =>
    rw [writeLane_some hva (findExtent_lowest hsl hn hext hno he) hecc]
    refine ⟨fun hs => ⟨x.vlane l va e, if_neg ?_, rfl, rfl, rfl, rfl⟩, fun hs ho => if_pos ⟨hs, ho⟩⟩
    rintro ⟨h0, ho⟩
    exact hs.elim h0 ho

end Sys2Proof.Proofs
end


section
/-!
PROOFS. The order log's poll: the thread that it lets go on may wait on a word of the log's own header, which the poll writes.
-/

namespace Sys2Proof.Proofs

open Sys2Proof Sys2Proof.Machine Sys2Proof.Claims

/-- What the `waitw` of a core's slot has been shown when a step has ended. -/
def sawAfter (c sl : Nat) : Host.Outcome State Fault Refusal → Option (List (Nat × List Head))
  | .next t => (t.thread? c sl).map (·.saw)
  | _ => none

/-- A thread that waits for a place in the log, in a `waitw.x` on the third word of a header at 0x100000 that waits for a value other than 1. -/
def headerWaiter : Thread :=
  { Thread.start 0 0 0 0 0 0 0 0 [] none with
    status := .blocked, logWait := true, op := some { instr := .waitwX 0 0 0, pc := 0, hint := none, args := [0x100010, 1] } }

/-- A partition whose log stands there, has stalled, and holds that thread's operation only. -/
def stalledPart : Part :=
  { strayPart with logbase := 0x100000, logbytes := 4096, log := { emptyLog with flags := 8, held := [.thread 0 0] } }

def stalledState : State :=
  { State.reset with args := [0], parts := [(0, stalledPart)], cores := [(0, { Core.reset with threads := [(0, headerWaiter)] })] }

/-- The poll clears the header's stalled flag (R218), and the waiter sees the value 0 that its word then has (R341). -/
theorem logRdPoll_shows_header : sawAfter 0 0 (exec .logRdPoll stalledState) = some [(0, [])] := rfl

/-- Refutes O45 in its clause on a freed place: the thread that goes on is not the one that waited but for its status, where it waits on a
word of the log's header, since the poll clears the header's stalled flag and so shows that word to it. -/
theorem not_movesAndWaits : ¬ Obligations.MovesAndWaits := by
  rintro ⟨-, -, -, -, granted, -, -⟩
  obtain ⟨t, q, hex, -, -, -, hth⟩ := granted stalledState 0 stalledPart 0 0 headerWaiter rfl rfl rfl (by decide) rfl rfl
  have hsaw := logRdPoll_shows_header
  rw [hex, sawAfter, hth rfl] at hsaw
  exact absurd hsaw (by decide)

end Sys2Proof.Proofs
end


section
/-!
PROOFS. The porter's code for a `lease` whose pages take the place of a table: the walk that it checks is the one before its pages are
resident.
-/

namespace Sys2Proof.Proofs

open Sys2Proof Sys2Proof.Machine Sys2Proof.Claims

/-- The lower half of `st` of a core's slot when a step has ended. -/
def replyAfter (c sl : Nat) : Host.Outcome State Fault Refusal → Option Word64
  | .next t => (t.thread? c sl).map (·.st)
  | _ => none

/-- A thread in a `lease` of the last 64 bytes of the first GiB and the first 64 of the second. -/
def clobberThread : Thread :=
  { Thread.start 1 1 0x40000000 512 0 0 0 0 [] none with
    status := .blocked, op := some { instr := .lease 0 0, pc := 0x40000000, hint := none, args := [0x3FFFFFC0, 128, 0] } }

/-- Its task holds an extent at the second GiB already (code 3 of R76). -/
def clobberTask : Machine.Task := { placedTask with ext := [(0, codeExtent 0x40000000 0x40000000 64)] }

def clobberNode : Node :=
  { graph := 1, index := 0
    desc := { code := 0x40000000, codelen := 64, entry := 0, argoff := 0, arglen := 0, hw := 1, threads := 1, prio := 0, aff := 0, kind := 0
              preds := [], ranges := [] }
    preds := [], derived := [], st := .running 1, spawned := false, after := none, leases := [], ext := [], vc := [], wants := none
    returned := false }

def clobberGraph : Graph :=
  { queue := 0, seq := 1, space := 0x500000, nnodes := 1, nodes := [], arg := 0, cword := 0x600000, cval := 1, iter := 1, spawned := 0
    aborted := false, err := none, lastDone := none, vc := [] }

def clobberPart : Part :=
  { strayPart with live := [(0, clobberNode)], graphs := [(1, clobberGraph)], ladder := .none, halted := false, saved := none }

/-- Tables at 0x500000, 0x510000 and 0x520000 map the first GiB of the space to a resident leaf; the home slice of the second of them lets
the porter write there and not read. Die 0 holds the second GiB's first page, absent and to be filled with zeros, in its translation cache;
its frame is the place of the second table's first entries. -/
def clobberState : State :=
  { State.reset with
    args := [0, 0], parts := [(0, clobberPart)], tasks := [(1, clobberTask)]
    cores := [(0, { Core.reset with threads := [(0, clobberThread)] })]
    mem := [(0x500000, 1), (0x500002, 0x51), (0x510000, 1), (0x510002, 0x52), (0x520000, 0x47), (0x520003, 0x40)]
    acl := [(tableAt 0 0 0 (homeSlice 0x510000), 2 ^ 63 + 2 ^ permWr + sysMaster 0)]
    dies := [(0, { Die.reset with tlb :=
      [{ space := 0x500000, va := 0x40000000, size := 64, leaf := 0x700000, word0 := 0x49, word1 := 0 }] })]
    frameChoice := [0x510000] }

def clobberCtx : Ctx :=
  { s := clobberState, c := 0, sl := 0, k := clobberState.core 0, th := clobberThread, i := .lease 0 0, hint := none }

/-- The leaves of the range as the walk finds them. -/
def clobberLeaves : List (Nat × Leaf) :=
  [(0x3FFFFFC0, { at_ := 0x520000, word0 := 0x40000047, word1 := 0, size := 2 ^ 30, path := [0x500000, 0x510000, 0x520000] }),
    (0x40000000, { at_ := 0x700000, word0 := 0x49, word1 := 0, size := 64, path := [] })]

theorem clobber_leasing : Leasing clobberState clobberCtx 0x3FFFFFC0 128 0 clobberTask clobberPart clobberNode :=
  ⟨rfl, rfl, ⟨0, 0, rfl⟩, rfl, rfl, rfl, rfl, by decide, by decide⟩

theorem clobber_leaves : leaseLeaves clobberState clobberCtx 0x3FFFFFC0 128 clobberPart clobberNode = some clobberLeaves := rfl

def clobberTrial : Trail clobberState × Served := leaseTrial clobberState clobberCtx clobberTask clobberPart clobberNode clobberLeaves

/-- Both pages are made resident. -/
theorem clobber_trial : clobberTrial.2 = .done := by decide +kernel

/-- The first page is then mapped no more, so no table is left to check. -/
theorem clobber_code : leaseCodeIn clobberTrial.1.1 clobberCtx
    0x3FFFFFC0 128 0 clobberTask clobberPart clobberNode = 3 := by decide +kernel

/-- The table that was walked may not be read (code 2). -/
theorem clobber_answer : replyAfter 0 0 (exec .leaseServe clobberState) = some (clobberThread.replied 2 0).st := by decide +kernel

/-- Refutes O23 in its clause on the first failing check: the porter checks that it may read the tables by the leaves as it walked them
(code 2), and the statement by the leaves as they stand when the pages are resident, of which none is left where a page's frame is the place of
a table; so the statement's code is 3, that the task holds the range already, and the porter's 2. -/
theorem not_leases : ¬ Obligations.Leases := by
  rintro ⟨-, serve, -⟩
  obtain ⟨-, -, -, fails, -⟩ := serve _ _ _ _ _ _ _ _ clobber_leasing
  obtain ⟨t, hex, hth, -⟩ := fails clobberLeaves clobberTrial.1 clobber_leaves (Prod.ext rfl clobber_trial) (by rw [clobber_code]; decide)
  rw [clobber_code] at hth
  replace hth : t.thread? 0 0 = some ((clobberThread.replied 3 0).retire (clobberThread.pc + 4)) := hth
  have hst := clobber_answer
  rw [hex, replyAfter, hth] at hst
  exact absurd hst (by decide)

end Sys2Proof.Proofs
end


section
/-!
PROOFS. What an instruction's end leaves of other threads: some that wait look again, and nothing else of them changes.
-/

namespace Sys2Proof.Proofs

open Sys2Proof Sys2Proof.Machine Sys2Proof.Claims

theorem put_put {α : Type} (t : Tab α) (k : Nat) (v w : α) : put (put t k v) k w = put t k w := by
  induction t with
  | nil => simp [put]
  | cons e r ih =>
    obtain ⟨a, x⟩ := e
    unfold put
    by_cases hlt : k < a
    · simp [hlt, put]
    · by_cases heq : a = k
      · simp [heq, put]
      · simp [hlt, heq, put, ih]

theorem withThread_withThread (s : State) (c sl : Nat) (th th' : Thread) : withThread (withThread s c sl th) c sl th' = withThread s c sl th' := by
  unfold withThread
  simp only [put_core, put_put]

/-! ### Looking again -/

theorem sameOrAgain_refl (s : State) (c sl : Nat) : SameOrAgain s s c sl := .inl rfl

theorem sameOrAgain_trans {s t u : State} {c sl : Nat} (h : SameOrAgain s t c sl) (k : SameOrAgain t u c sl) : SameOrAgain s u c sl := by
  rcases k with e | ⟨th, e, ho, e'⟩
  · unfold SameOrAgain
    rw [e]
    exact h
  · rcases h with f | ⟨th', f, ho', f'⟩
    · exact .inr ⟨th, f ▸ e, ho, e'⟩
    · rw [f'] at e
      cases e
      exact .inr ⟨th', f, ho', e'⟩

/-- Steps are due beyond those that were, and some threads that wait in an instruction look again; nothing else changes. -/
structure LooksAgain (s t : State) : Prop where
  rest : t = { s with cores := t.cores, pending := t.pending }
  due : ∀ i ∈ s.pending, i ∈ t.pending
  core : ∀ c, { t.core c with threads := [] } = { s.core c with threads := [] }
  thread : ∀ c sl, SameOrAgain s t c sl

theorem LooksAgain.refl (s : State) : LooksAgain s s := ⟨rfl, fun _ h => h, fun _ => rfl, fun _ _ => .inl rfl⟩

theorem LooksAgain.trans {s t u : State} (h : LooksAgain s t) (k : LooksAgain t u) : LooksAgain s u :=
  ⟨by rw [k.rest, h.rest], fun i hi => k.due i (h.due i hi), fun c => (k.core c).trans (h.core c),
    fun c sl => sameOrAgain_trans (h.thread c sl) (k.thread c sl)⟩

theorem looksAgain_of_addsDue {s t : State} (h : AddsDue s t) : LooksAgain s t := by
  obtain ⟨p, rfl, hp⟩ := h
  exact ⟨rfl, hp, fun _ => rfl, fun _ _ => .inl rfl⟩

theorem forEach_looksAgain {s : State} {α : Type} {f : Trail s → α → Trail s} (h : ∀ t a, LooksAgain t.1 (f t a).1) :
    ∀ (l : List α) (t : Trail s), LooksAgain t.1 (forEach t l f).1
  | [], _ => .refl _
  | a :: r, t => (h t a).trans (forEach_looksAgain h r (f t a))

/-- A thread that waits in `lease.rel` looks again. -/
theorem againRelease_looksAgain {s : State} (t : Trail s) (c sl : Nat) :
    LooksAgain t.1 (t.modThread c sl (fun th => if th.waitsRelease then th.again else th)).1 := by
  cases ht : t.1.thread? c sl with
  | none =>
    unfold Trail.modThread
    rw [ht]
    exact .refl _
  | some th =>
    rw [modThread_val t c sl _ th ht]
    refine ⟨rfl, fun _ h => h, fun c' => ?_, fun c' sl' => ?_⟩
    · rcases eq_or_ne c' c with rfl | hc
      · rw [withThread_core]
      · rw [withThread_core_other _ _ _ _ _ hc]
    · by_cases e : c' = c ∧ sl' = sl
      · obtain ⟨rfl, rfl⟩ := e
        split
        · next h => exact .inr ⟨th, ht, waitsRelease_op h, withThread_thread _ _ _ _⟩
        · exact .inl ((withThread_thread _ _ _ _).trans ht.symm)
      · exact .inl (withThread_thread_other _ _ _ _ _ _ (not_and_pair e))

theorem wakeReleases_looksAgain {s : State} (t : Trail s) (c : Nat) : LooksAgain t.1 (t.wakeReleases c).1 :=
  forEach_looksAgain (fun t (p : Nat × Thread) => againRelease_looksAgain t c p.1) _ t

theorem ite_pendOnce_adds {s : State} (t : Trail s) (b : Prop) [Decidable b] (i : Instr) (a : List Nat) :
    AddsDue t.1 (if b then t.pendOnce i a else t).1 := by
  split
  · exact pendOnce_adds _ _ _
  · exact .refl _

theorem settle_looksAgain {s : State} (t : Trail s) (c sl : Nat) : LooksAgain t.1 (t.settle c sl).1 := by
  unfold Trail.settle
  cases t.1.thread? c sl with
  | none => exact .refl _
  | some th =>
    dsimp only
    cases t.1.task? th.task with
    | none => exact .refl _
    | some x =>
      dsimp only
      have hend : LooksAgain t.1 (if x.ending.isSome then (t.wakeReleases c).pendOnce .taskExtentEnd [th.task] else t.wakeReleases c).1 :=
        (wakeReleases_looksAgain t c).trans (looksAgain_of_addsDue (ite_pendOnce_adds _ _ _ _))
      generalize (if x.ending.isSome then (t.wakeReleases c).pendOnce .taskExtentEnd [th.task] else t.wakeReleases c) = u at hend ⊢
      refine hend.trans (looksAgain_of_addsDue ?_)
      split
      · split
        · exact pendOnce_adds _ _ _
        · exact ite_pendOnce_adds _ _ _ _
      · exact .refl _

/-- The thread that has retired is as it retired, and the others are as they were or look again: s is the state before, b the same but
for what no thread is part of. -/
theorem LooksAgain.only {s b t : State} {c sl : Nat} {th : Thread} (h : LooksAgain (withThread b c sl th) t) (hb : b.cores = s.cores)
    (ho : th.op = none) : t.thread? c sl = some th ∧ ThreadsOnly s t (fun c' sl' => c' = c ∧ sl' = sl) := by
  have hcore (c') : b.core c' = s.core c' := by rw [State.core, hb]; rfl
  have hthread (c' sl') : b.thread? c' sl' = s.thread? c' sl' := by rw [State.thread?, hcore]; rfl
  refine ⟨?_, fun c' => ?_, fun c' sl' hne => ?_⟩
  · rcases h.thread c sl with e | ⟨th', e, hop, -⟩
    · rw [e, withThread_thread]
    · rw [withThread_thread] at e
      cases e
      rw [ho] at hop
      cases hop
  · rw [h.core c', ← hcore c']
    rcases eq_or_ne c' c with rfl | hc
    · rw [withThread_core]
    · rw [withThread_core_other _ _ _ _ _ hc]
  · have hsame : SameOrAgain s (withThread b c sl th) c' sl' :=
      .inl ((withThread_thread_other _ _ _ _ _ _ (not_and_pair hne)).trans (hthread c' sl'))
    exact sameOrAgain_trans hsame (h.thread c' sl')

end Sys2Proof.Proofs
end


section
/-!
PROOFS. Task instructions: `spawn` and the append of its node, `tidq`, `done` and `yield`.
-/

namespace Sys2Proof.Proofs

open Sys2Proof Sys2Proof.Machine Sys2Proof.Claims

/-! ### spawn (R370) -/

theorem pend_val {s : State} (t : Trail s) (i : Instr) (args : List Nat) : (t.pend i args).1 = due t.1 i args := rfl

theorem sendTo_val {s : State} (t : Trail s) (src dst : Nat) (i : Instr) (args : List Nat) :
    (t.sendTo src dst i args).1 = sent t.1 src dst i args := by
  unfold Trail.sendTo sent
  by_cases h : src = dst
  · rw [if_pos h, if_pos h]
    rfl
  · rw [if_neg h, if_neg h]
    dsimp only
    by_cases hb : lookD t.1.unsent (src * 4 + nextHop src dst) [] = []
    · cases ha : t.1.linkAllows src (nextHop src dst) <;> simp [hb, pend_val]
    · simp [hb, pend_val]

theorem waits_val {s : State} {i : Instr} {x : Ctx} (h : Issues s i x) (st : Status) (args : List Nat) :
    (waits x st args (begin s)).1 = withThread s x.c x.sl (x.th.wait i x.hint st args) := by
  unfold waits
  rw [modThread_val _ _ _ _ _ h.thread, h.i_eq]
  rfl

theorem exec_spawn_misaligned {s : State} {x : Ctx} {a : Nat} {da : Desc} (h : Issues s (.spawn a) x) (ha : Operand x a isInt da)
    (hal : (val x a).headD 0 % 64 ≠ 0) : exec (.spawn a) s = .next (trapped s x ALIGN ((val x a).headD 0)) := by
  refine issue_traps h ?_
  simp only [check_int ha.dest, ha.read0, bind, Except.bind, if_pos hal]

theorem exec_spawn_leaves {s : State} {x : Ctx} {a va : Nat} {da : Desc} {e : Nat × Extent} (h : Issues s (.spawn a) x)
    (ha : Operand x a isInt da) (hva : va = (val x a).headD 0) (hal : va % 64 = 0) (he : x.findExtent va 192 extRd = some e)
    (hr : x.recordRace va e = .ok ()) (hd : x.drained = true) : exec (.spawn a) s =
      .next (sent (withThread s x.c x.sl (x.th.wait (.spawn a) x.hint .inFlight [va, e.2.pbase + (va - e.2.vbase)]))
        (dieOf x.c) (match x.part with | some n => dieOfCluster n | none => dieOf x.c) .spawnAppend [x.c, x.sl]) := by
  subst hva
  rw [← waits_val h, ← sendTo_val]
  refine issue_next (g := fun t => (waits x .inFlight _ t).sendTo _ _ _ _) h ?_
  have hal' : ¬ (val x a).headD 0 % 64 ≠ 0 := fun hne => hne hal
  simp only [check_int ha.dest, ha.read0, bind, Except.bind, if_neg hal', he, hr]
  exact congrArg Except.ok (if_pos hd)

/-! ### tidq (R373) -/

theorem taskWord_of {s : State} {x : Ctx} {n : Machine.Task} {b w : Nat} (hs : x.s = s) (hn : x.task = some n) (h : TaskWord s x n b w) :
    x.taskWord b = w := by
  unfold Ctx.taskWord
  rw [hn, hs]
  rcases h with ⟨rfl, rfl⟩ | ⟨rfl, p, m, hp, hm, rfl⟩ | ⟨rfl, rfl⟩ | ⟨rfl, rfl⟩ | ⟨rfl, rfl⟩ | ⟨hb, rfl⟩
  · rfl
  · dsimp only
    rw [hp, Option.bind_some, hm]
    rfl
  · rfl
  · rfl
  · rfl
  · dsimp only
    obtain ⟨c, rfl⟩ : ∃ c, b = c + 5 := ⟨b - 5, by omega⟩
    rfl

theorem not_isFloat {k : Kind} (h : k.isInt = true) : k.isFloat = false := by simpa [Kind.isInt] using h

/-- An integer name takes a value by fit() in every lane. -/
theorem assignAll_int {x : Ctx} {d : Nat} {dd : Desc} (hd : Dest x d isInt dd) {v : Int} {r : List Nat}
    (h : PerLane dd.lanes r (fun _ w => fitInt dd v = some w)) : x.assignAll dd v = .ok r := by
  have hint : dd.kind.isFloat = false := not_isFloat hd.fits
  obtain ⟨hlen, hl⟩ := h
  refine eachLane_ok _ _ _ hlen fun i hi => ?_
  unfold Ctx.assignInt
  rw [hint, Nat.zero_add]
  exact orTrap_some (hl i hi)

theorem exec_tidq {s : State} {x : Ctx} {d b w : Nat} {dd : Desc} {n : Machine.Task} {r : List Nat} (h : Issues s (.tidq d b) x)
    (hd : Dest x d isInt dd) (hn : x.task = some n) (hw : TaskWord s x n b w)
    (hr : PerLane dd.lanes r (fun _ v => fitInt dd w = some v)) : exec (.tidq d b) s = .next (retired s x (x.th.setLanes d r)) := by
  rw [← own_val x fun th => th.setLanes d r]
  refine issue_next h ?_
  have hassigned : x.assigned dd d r = fun th => th.setLanes d r := by
    funext th
    unfold Ctx.assigned Thread.drawn
    rw [not_isFloat hd.fits]
    rfl
  simp only [check_int hd, taskWord_of h.s_eq hn hw, assignAll_int hd hr, bind, Except.bind, hassigned]

/-! ### done and yield (R371, R372) -/

theorem pokeTask_adds {s : State} (t : Trail s) (n : Nat) : AddsDue t.1 (t.pokeTask n).1 := by
  unfold Trail.pokeTask
  split
  · split
    · exact pendOnce_adds _ _ _
    · exact ite_pendOnce_adds _ _ _ _
  · exact .refl _

/-- The course of `done`. -/
def doneEffect {s : State} (x : Ctx) : Effect s := fun t =>
  ((own x (fun th => { th with relFence := none }) t).modThread x.c x.sl (fun th => { th with status := .finished })).pokeTask x.th.task

theorem exec_done {s : State} {x : Ctx} (h : Issues s .done x) :
    Answered s .done x.c x.sl { ({ x.th with relFence := none } : Thread).retire (x.th.pc + 4) with status := .finished } := by
  have hval := modThread_val (own x (fun th => { th with relFence := none }) (begin s)) x.c x.sl
    (fun th => { th with status := .finished }) _ (withThread_thread s x.c x.sl _)
  rw [own_val, retired, withThread_withThread] at hval
  have hlook := looksAgain_of_addsDue (pokeTask_adds ((own x (fun th => { th with relFence := none }) (begin s)).modThread x.c x.sl
    (fun th => { th with status := .finished })) x.th.task)
  rw [hval] at hlook
  obtain ⟨hth, honly⟩ := hlook.only (s := s) rfl rfl
  exact ⟨_, issue_next (g := doneEffect x) h rfl, hth, honly, hlook.rest⟩

/-- The course of `yield`. -/
def yieldEffect {s : State} (x : Ctx) : Effect s := fun t =>
  (((retireNext x t).modThread x.c x.sl (fun th => { th with status := .yielding })).noTimer .yieldEnd [x.c, x.sl]).timer
    (dieOf x.c) true (x.th.busy + 16) .yieldEnd [x.c, x.sl]

theorem exec_yield {s : State} {x : Ctx} (h : Issues s .yield x) : exec .yield s =
    .next (onClock (noTimers (withThread s x.c x.sl { x.th.retire (x.th.pc + 4) with status := .yielding }) .yieldEnd [x.c, x.sl])
      (dieOf x.c) (x.th.busy + 16) .yieldEnd [x.c, x.sl]) := by
  have hret : (retireNext x (begin s)).1 = withThread s x.c x.sl (x.th.retire (x.th.pc + 4)) := retireAt_val h _
  have hval : ((retireNext x (begin s)).modThread x.c x.sl (fun th => { th with status := .yielding })).1 =
      withThread s x.c x.sl { x.th.retire (x.th.pc + 4) with status := .yielding } := by
    rw [modThread_val _ _ _ _ _ (by rw [hret]; exact withThread_thread _ _ _ _), hret, withThread_withThread]
  rw [← hval]
  exact issue_next (g := yieldEffect x) h rfl

theorem exec_yieldEnd {s : State} {c sl : Nat} (ha : s.args = [c, sl]) : exec .yieldEnd s =
    .next (onThread s c sl (fun th => if th.status = .yielding ∧ !((s.partOfCore c).bind s.part?).any (·.halted) ∧ !th.stopped then
      { th with status := .ready } else th)) := by
  have h0 : s.arg 0 = c := by rw [State.arg, ha]; rfl
  have h1 : s.arg 1 = sl := by rw [State.arg, ha]; rfl
  show execYieldEnd s = _
  unfold execYieldEnd
  rw [event_val]
  simp only [begin_val, h0, h1]
  unfold Trail.modThread onThread
  rw [begin_val]
  cases s.thread? c sl <;> rfl

theorem haltedCore_iff (s : State) (c : Nat) : HaltedCore s c ↔ ((s.partOfCore c).bind s.part?).any (·.halted) = true := by
  unfold HaltedCore
  cases s.partOfCore c with
  | none => simp
  | some n => cases hp : s.part? n <;> simp [hp]

end Sys2Proof.Proofs
end


section
/-!
PROOFS. The append of a spawned node.
-/

namespace Sys2Proof.Proofs

open Sys2Proof Sys2Proof.Machine Sys2Proof.Claims

/-! ### Reading counts (R77) -/

/-- Reads of memory are counted in the pages, and may give notices; nothing else changes. -/
def Counted (s t : State) : Prop := t = { s with pages := t.pages, notices := t.notices, pending := t.pending }

theorem Counted.trans {s t u : State} (h : Counted s t) (k : Counted t u) : Counted s u := by
  unfold Counted at h k ⊢
  rw [k, h]

theorem countAccess_counted {s : State} (t : Trail s) (die a : Nat) : Counted t.1 (t.countAccess die a).1 := by
  unfold Trail.countAccess
  cases memDie a with
  | none => rfl
  | some home =>
    dsimp only
    by_cases hp : pkgOf a ≠ t.1.pkg.num
    · rw [if_pos hp]
      rfl
    · rw [if_neg hp]
      split
      · rfl
      · split
        · rfl
        · split
          · rfl
          · split <;> rfl

theorem countAll_counted {s : State} (die : Nat) : ∀ (l : List Nat) (t : Trail s), Counted t.1 (t.countAll die l).1
  | [], _ => rfl
  | a :: r, t => (countAccess_counted t die a).trans (countAll_counted die r (t.countAccess die a))

/-! ### The course of the append -/

/-- The lead dispatcher has read the node record. -/
def spawnRead {s : State} (phys : Nat) (k : Machine.Task) : Effect s := fun t => t.countAll (dieOfCluster k.part) (unitsOf phys 192)

/-- The record is no node that may be spawned (R370). -/
def spawnBad (r : Nat) : Bool := !nodeOk r || decide (field r 33 1 ≠ 0) || decide (field r 35 1 = 1)

theorem spawnBad_iff (r : Nat) : spawnBad r = true ↔ nodeOk r = false ∨ field r 33 1 ≠ 0 ∨ field r 35 1 = 1 := by
  simp [spawnBad, or_assoc]

/-- The record of an append at the order log, and the append itself. -/
def spawnRec (x : Ctx) (va : Nat) (k : Machine.Task) (p : Part) : Rec :=
  x.threadRec 0 (dispatcherSource k.part) 2 (leBytes (p.append + 1).toNat 4 ++ leBytes va 8)

def spawnGo {s : State} (x : Ctx) (va phys : Nat) (k : Machine.Task) (p : Part) (m : Node) : Effect s := fun t =>
  own x (fun th => th.released.replied 0 (p.append + 1).toNat) ((spawnRead phys k t).appendSpawned k.part m.graph
    (nodeOf (s.mem.read phys 192)) (s.recName k.part (spawnRec x va k p).source) x.th.vc)

/-- What the lead dispatcher does with a spawn, by its record and the room in the live table. -/
def spawnCourse {s : State} (x : Ctx) (va phys : Nat) (k : Machine.Task) (p : Part) (m : Node) : Effect s := fun t =>
  if spawnBad (s.mem.read phys 192) then own x (fun th => th.replied 1 0) (spawnRead phys k t)
  else if 4096 ≤ p.live.length then
    (if p.mode = 1 ∨ p.mode = 2 then t else own x (fun th => th.replied 2 0) (spawnRead phys k t))
  else x.loggedAt (spawnRec x va k p) ⟨.spawnAppend, [x.c, x.sl]⟩ (spawnGo x va phys k p m) t

section
variable {s : State} {x : Ctx} {va phys : Nat} {k : Machine.Task} {p : Part} {m : Node}

theorem exec_spawnAppend (h : Spawning s x va phys k p m) :
    exec .spawnAppend s = .next ((spawnCourse x va phys k p m (begin s)).settle x.c x.sl).1 := by
  obtain ⟨a, hi⟩ := h.spawn
  have h0 : s.arg 0 = x.c := by rw [State.arg, h.args]; rfl
  have h1 : s.arg 1 = x.sl := by rw [State.arg, h.args]; rfl
  have hp : (begin s).1.part? k.part = some p := h.part
  show execSpawnAppend s = _
  unfold execSpawnAppend
  rw [event_val, h0, h1, resume_ok (begin s) h.op (by rw [hi, h.task])]
  dsimp only
  rw [hp]
  dsimp only
  rw [h.node]
  rfl

/-- The record is refused, or found no room: the reply lands in `st`. -/
theorem spawn_replies (h : Spawning s x va phys k p m) (code : Nat)
    (hc : spawnCourse x va phys k p m (begin s) = own x (fun th => th.replied code 0) (spawnRead phys k (begin s))) :
    AnsweredReading s .spawnAppend x.c x.sl ((x.th.replied code 0).retire (x.th.pc + 4)) := by
  have hread : Counted s (spawnRead phys k (begin s)).1 := countAll_counted _ _ _
  have hlook : LooksAgain (withThread (spawnRead phys k (begin s)).1 x.c x.sl ((x.th.replied code 0).retire (x.th.pc + 4))) _ :=
    settle_looksAgain (own x (fun th => th.replied code 0) (spawnRead phys k (begin s))) x.c x.sl
  obtain ⟨hth, honly⟩ := hlook.only (s := s) (by rw [hread]) rfl
  refine ⟨_, by rw [exec_spawnAppend h, hc], hth, honly, ?_⟩
  rw [hlook.rest, withThread, hread]

end

/-! ### The node enters the live table (R62, R83) -/

/-- Beside what is due only partitions have changed since b, and partition n, of a mode, has given append numbers up to a and holds a node
at one of them. -/
structure HoldsNode (b : State) (n mode app : Nat) (a : BitVec 32) (t : State) : Prop where
  rest : t = { b with parts := t.parts, pending := t.pending }
  part : ∃ q, t.part? n = some q ∧ q.append = a ∧ q.mode = mode ∧ ∃ nd, look q.live app = some nd

section
variable {s b : State} {n mode app : Nat} {a : BitVec 32}

theorem HoldsNode.due {t u : State} (h : HoldsNode b n mode app a t) (hu : AddsDue t u) : HoldsNode b n mode app a u := by
  obtain ⟨d, rfl, -⟩ := hu
  exact ⟨by rw [h.rest], h.part⟩

theorem HoldsNode.readies {t : Trail s} (h : HoldsNode b n mode app a t.1) (c : Nat) (m : Node) :
    HoldsNode b n mode app a (t.modPart n (fun p => { p with live := put p.live c m })).1 := by
  obtain ⟨q, hq, ha, hm, nd, hnd⟩ := h.part
  rw [modPart_part hq]
  refine ⟨by rw [h.rest], _, look_put_same _ _ _, ha, hm, ?_⟩
  by_cases e : app = c
  · exact ⟨m, by rw [e]; exact look_put_same _ _ _⟩
  · exact ⟨nd, (look_put_other _ _ _ _ e).trans hnd⟩

theorem pokeReady_holdsNode {t : Trail s} (h : HoldsNode b n mode app a t.1) : HoldsNode b n mode app a (t.pokeReady n).1 := by
  unfold Trail.pokeReady
  split
  · exact h
  · refine forEach_keeps (P := fun t => HoldsNode b n mode app a t.1) (fun t m ht => ?_) _ _ h
    split
    · exact (ht.readies _ _).due (pend_adds _ _ _)
    · exact ht.due (ite_pendOnce_adds _ _ _ _)

/-- The graph of the spawner's node is not aborted: the node enters the live table. -/
theorem appendSpawned_holdsNode {t : Trail s} {p : Part} {g : Graph} {gr : Nat} (hp : t.1.part? n = some p)
    (hg : look p.graphs gr = some g) (hab : g.aborted = false) (rec : NodeRec) (name : Option (Nat × Nat)) (vc : Clock) :
    HoldsNode t.1 n p.mode (p.append + 1).toNat (p.append + 1) (t.appendSpawned n gr rec name vc).1 := by
  unfold Trail.appendSpawned
  rw [hp]
  dsimp only
  rw [hg]
  dsimp only
  rw [hab]
  exact pokeReady_holdsNode ⟨rfl, _, look_put_same _ _ _, rfl, rfl, _, look_put_same _ _ _⟩

end

/-- Outside recording and replay an operation of a thread that a unit performs writes no record. -/
theorem loggedAt_unlogged {s : State} {t : Trail s} {x : Ctx} {n : Nat} {p p' : Part} {go : Effect s} (hx : x.part = none ∨ x.part = some n)
    (hp : t.1.part? n = some p) (hm : p.mode ≠ 1 ∧ p.mode ≠ 2) (hp' : (go t).1.part? n = some p') (hm' : p'.mode = p.mode) (r : Rec)
    (d : Due) : x.loggedAt r d go t = go t := by
  unfold Ctx.loggedAt Trail.logged
  rcases hx with hx | hx
  · rw [hx]
  · have hgate : t.1.gate n r (.step d) = .run := by
      unfold State.gate
      rw [hp]
      dsimp only
      rw [if_neg hm.1, if_neg hm.2]
    have hrec : (go t).recordAs n r (.step d) = (go t, none) := by
      unfold Trail.recordAs
      rw [hp']
      dsimp only
      rw [hm', if_neg hm.1, if_neg hm.2]
    rw [hx]
    dsimp only
    rw [hgate]
    dsimp only
    rw [hrec]

theorem part_of_task {x : Ctx} {k : Machine.Task} (h : x.task = some k) : x.part = none ∨ x.part = some k.part := by
  unfold Ctx.part
  split
  · exact .inl rfl
  · exact .inr (by rw [h]; rfl)

section
variable {s : State} {x : Ctx} {va phys : Nat} {k : Machine.Task} {p : Part} {m : Node}

theorem spawn_appends {g : Graph} (h : Spawning s x va phys k p m) (hbad : spawnBad (s.mem.read phys 192) = false)
    (hroom : p.live.length < 4096) (hm : p.mode ≠ 1 ∧ p.mode ≠ 2) (hg : look p.graphs m.graph = some g) (hab : g.aborted = false) :
    ∃ t q, exec .spawnAppend s = .next t ∧
      t.thread? x.c x.sl = some ((x.th.released.replied 0 (p.append + 1).toNat).retire (x.th.pc + 4)) ∧
      t.part? k.part = some q ∧ q.append = p.append + 1 ∧ (∃ nd, look q.live (p.append + 1).toNat = some nd) ∧
      (∀ c sl, ¬(c = x.c ∧ sl = x.sl) → SameOrAgain s t c sl) ∧ t.mem = s.mem ∧ t.loc = s.loc := by
  have hread : Counted s (spawnRead phys k (begin s)).1 := countAll_counted _ _ _
  have hpr : (spawnRead phys k (begin s)).1.part? k.part = some p := by rw [hread]; exact h.part
  have hnode := appendSpawned_holdsNode hpr hg hab (nodeOf (s.mem.read phys 192))
    (s.recName k.part (spawnRec x va k p).source) x.th.vc
  generalize hu : (spawnRead phys k (begin s)).appendSpawned k.part m.graph (nodeOf (s.mem.read phys 192))
    (s.recName k.part (spawnRec x va k p).source) x.th.vc = u at hnode
  obtain ⟨q, hq, happ, hmode, hnd⟩ := hnode.part
  have hgo : spawnGo x va phys k p m (begin s) = own x (fun th => th.released.replied 0 (p.append + 1).toNat) u := by
    unfold spawnGo
    rw [hu]
  have hcourse : spawnCourse x va phys k p m (begin s) = own x (fun th => th.released.replied 0 (p.append + 1).toNat) u := by
    unfold spawnCourse
    rw [if_neg (by rw [hbad]; decide), if_neg (Nat.not_le.mpr hroom), ← hgo]
    exact loggedAt_unlogged (part_of_task h.task) h.part hm (by rw [hgo]; exact hq) hmode _ _
  have hlook : LooksAgain (withThread u.1 x.c x.sl ((x.th.released.replied 0 (p.append + 1).toNat).retire (x.th.pc + 4))) _ :=
    settle_looksAgain (own x (fun th => th.released.replied 0 (p.append + 1).toNat) u) x.c x.sl
  have hframe : u.1 = { s with pages := u.1.pages, notices := u.1.notices, parts := u.1.parts, pending := u.1.pending } := by
    rw [hnode.rest, hread]
  obtain ⟨hth, -, hothers⟩ := hlook.only (s := s) (by rw [hframe]) rfl
  refine ⟨_, q, by rw [exec_spawnAppend h, hcourse], hth, ?_, happ, hnd, hothers, ?_, ?_⟩
  · rw [hlook.rest]
    exact hq
  · rw [hlook.rest, withThread, hframe]
  · rw [hlook.rest, withThread, hframe]

end

end Sys2Proof.Proofs
end


section
/-!
PROOFS. The end of a task.
-/

namespace Sys2Proof.Proofs

open Sys2Proof Sys2Proof.Machine Sys2Proof.Claims

/-! ### What the end of a task leaves of the bytes and of other tasks -/

/-- No byte of memory or of a local store has changed, and no task. -/
structure BytesKept (s t : State) : Prop where
  mem : t.mem = s.mem
  loc : t.loc = s.loc
  tasks : t.tasks = s.tasks

theorem BytesKept.refl (s : State) : BytesKept s s := ⟨rfl, rfl, rfl⟩

theorem BytesKept.trans {s t u : State} (h : BytesKept s t) (k : BytesKept t u) : BytesKept s u :=
  ⟨k.mem.trans h.mem, k.loc.trans h.loc, k.tasks.trans h.tasks⟩

theorem bytesKept_of_addsDue {s t : State} (h : AddsDue s t) : BytesKept s t := by
  obtain ⟨p, rfl, -⟩ := h
  exact ⟨rfl, rfl, rfl⟩

theorem forEach_bytesKept {s : State} {α : Type} {f : Trail s → α → Trail s} {t u : Trail s} {l : List α} (e : u = forEach t l f)
    (h : ∀ t a, BytesKept t.1 (f t a).1) : BytesKept t.1 u.1 := by
  rw [e]
  exact forEach_keeps (P := fun u => BytesKept t.1 u.1) (fun u a hu => hu.trans (h u a)) l t (.refl _)

theorem modPart_bytesKept {s : State} (t : Trail s) (n : Nat) (f : Part → Part) : BytesKept t.1 (t.modPart n f).1 := by
  obtain ⟨ps, e⟩ := modPart_val t n f
  rw [e]
  exact ⟨rfl, rfl, rfl⟩

theorem dropWaits_bytesKept {s : State} (t : Trail s) (c sl : Nat) : BytesKept t.1 (t.dropWaits c sl).1 := by
  obtain ⟨ps, ts, v, hw, ⟨p, e, -⟩⟩ := dropWaits_spec t c sl
  rw [e, hw.rest]
  exact ⟨rfl, rfl, rfl⟩

theorem sent_bytesKept (s : State) (src dst : Nat) (i : Instr) (a : List Nat) : BytesKept s (sent s src dst i a) := by
  unfold sent
  split
  · exact ⟨rfl, rfl, rfl⟩
  · dsimp only
    split <;> exact ⟨rfl, rfl, rfl⟩

theorem contextFree_bytesKept {s : State} (t : Trail s) (c : Nat) : BytesKept t.1 (t.contextFree c).1 := by
  unfold Trail.contextFree
  dsimp only
  split
  · exact .refl _
  · have hu : BytesKept t.1 (t.modCore c (fun k => { k with refusals := [] })).1 := ⟨rfl, rfl, rfl⟩
    exact hu.trans (forEach_bytesKept rfl fun t p => by rw [sendTo_val]; exact sent_bytesKept _ _ _ _ _)

theorem dropLeases_bytesKept {s : State} (t : Trail s) (pages : List Nat) : BytesKept t.1 (t.dropLeases pages).1 := by
  unfold Trail.dropLeases
  split
  · exact .refl _
  · extract_lets u r v w
    have hu : BytesKept t.1 u.1 := forEach_bytesKept rfl fun t m => by exact ⟨rfl, rfl, rfl⟩
    have hv : BytesKept u.1 v.1 := ⟨rfl, rfl, rfl⟩
    have hw : BytesKept v.1 w.1 := forEach_bytesKept rfl fun t p => modPart_bytesKept t _ _
    exact hu.trans (hv.trans (hw.trans (bytesKept_of_addsDue (pokeLeases_adds w))))

theorem freeTask_bytes {s : State} (t : Trail s) (k : Nat) :
    (t.freeTask k).1.mem = t.1.mem ∧ (t.freeTask k).1.loc = t.1.loc ∧ (t.freeTask k).1.task? k = none := by
  unfold Trail.freeTask
  split
  · next h => exact ⟨rfl, rfl, h⟩
  · next x _ =>
    extract_lets slots u js v w y z
    have hu : BytesKept t.1 u.1 := forEach_bytesKept rfl fun t sl => (dropWaits_bytesKept t x.core sl).trans ⟨rfl, rfl, rfl⟩
    have hw : BytesKept u.1 w.1 := by
      have hv : BytesKept u.1 v.1 := forEach_bytesKept rfl fun t j => by exact ⟨rfl, rfl, rfl⟩
      exact hv.trans ⟨rfl, rfl, rfl⟩
    have hy : y.1 = { w.1 with tasks := del w.1.tasks k } := rfl
    have hz : BytesKept y.1 z.1 := by
      show BytesKept y.1 (if _ then _ else _ : Trail s).1
      split
      · exact .refl _
      · exact ⟨rfl, rfl, rfl⟩
    have hend := hz.trans ((contextFree_bytesKept z x.core).trans (dropLeases_bytesKept _ (x.leases.map (·.1))))
    have hstart := hu.trans hw
    refine ⟨hend.mem.trans (by rw [hy]; exact hstart.mem), hend.loc.trans (by rw [hy]; exact hstart.loc), ?_⟩
    unfold State.task?
    rw [hend.tasks, hy]
    exact look_del_same _ _

theorem pokeStarts_adds {s : State} (t : Trail s) (die : Nat) : AddsDue t.1 (t.pokeStarts die).1 :=
  forEach_adds _ (fun t p => forEach_adds _ (fun t m => by
    split
    · exact ite_pendOnce_adds _ _ _ _
    · exact .refl _) _ t) _ t

/-- A task goes: its second part is due first, it is gone, and no byte has changed. -/
theorem taskGone_bytes {s : State} {t : Trail s} {k : Nat} {n : Machine.Task} (hu : ∀ sl ∈ n.slots, Untraced t.1 n.core sl) :
    (t.taskGone k n).1.task? k = none ∧ (t.taskGone k n).1.pending.head? = some ⟨.taskEnd, endArgs k n⟩ ∧
      (t.taskGone k n).1.mem = t.1.mem ∧ (t.taskGone k n).1.loc = t.1.loc := by
  unfold Trail.taskGone
  dsimp only
  rw [forEach_fixed (t := t) fun sl hsl => trace_untraced t n.core sl 6 _ (hu sl hsl)]
  generalize hv : t.modPart n.part _ = v
  have hkept : BytesKept t.1 v.1 := hv ▸ modPart_bytesKept t _ _
  obtain ⟨hmem, hloc, htask⟩ := freeTask_bytes v k
  have hpoke := bytesKept_of_addsDue (pokeStarts_adds (v.freeTask k) (dieOf n.core))
  refine ⟨?_, rfl, (hpoke.mem.trans hmem).trans hkept.mem, (hpoke.loc.trans hloc).trans hkept.loc⟩
  show look ((v.freeTask k).pokeStarts (dieOf n.core)).1.tasks k = none
  rw [hpoke.tasks]
  exact htask

/-! ### The two ends (R75, R196) -/

section
variable {s : State} {k : Nat} {n : Machine.Task}

theorem quits_idle (h : Quits s k n) : s.taskBusy k n = false := by
  unfold State.taskBusy
  rw [Bool.or_eq_false_iff, List.any_eq_false, List.any_eq_false]
  exact ⟨fun p hp => by simpa using h.stores p hp, fun j hj => by simp [h.jobs j hj]⟩

theorem exec_taskEnd (h : Quits s k n) (hend : n.ending = none)
    (hall : ∀ p ∈ (s.core n.core).threads, p.2.task = k → p.2.status = .finished) :
    exec .taskEnd s = .next ((begin s).taskGone k n).1 := by
  have hdone : s.allDone k n = true := by
    unfold State.allDone
    rw [Bool.not_eq_true', List.any_eq_false]
    intro p hp
    simpa using hall p hp
  have ht : (begin s).1.task? k = some n := h.task
  show execTaskEnd s = _
  unfold execTaskEnd
  rw [event_val, h.args]
  dsimp only
  rw [ht]
  dsimp only
  rw [hend, begin_val, hdone, quits_idle h]
  rfl

theorem forEach_nil {s : State} {α : Type} (t : Trail s) (f : Trail s → α → Trail s) : forEach t [] f = t := rfl

/-- No job of the task is queued or runs: nothing of it is stopped, but that its core's port is looked through. -/
theorem stopJobs_val (h : Quits s k n) : ((begin s).stopJobs k n.core).1 = onCore s n.core (fun c => { c with
    portQ := c.portQ.filter (fun j => !([] : List Nat).contains j), tags := c.tags.filter (fun g => !([] : List Nat).contains g.job) }) := by
  have hnone (b : Nat × Job → Bool) : s.jobs.filter (fun j => decide (j.2.task = k) && b j) = [] :=
    List.filter_eq_nil_iff.mpr fun j hj => by simp [h.jobs j hj]
  unfold Trail.stopJobs
  dsimp only
  rw [begin_val, hnone]
  generalize hv : ((forEach (begin s) (([] : List (Nat × Job)).map (·.1)) _).modCore n.core _) = v
  have hjobs : v.1.jobs = s.jobs := by rw [← hv]; rfl
  rw [hjobs, hnone, ← hv]
  rfl

theorem exec_taskExtentEnd (h : Quits s k n) {e : ExtentEnd} (hend : n.ending = some e)
    (hstand : ∀ p ∈ (s.core n.core).threads, p.2.task = k → p.2.abandonable = false ∧ p.2.atBoundary = true) :
    exec .taskExtentEnd s = .next (((begin s).stopJobs k n.core).taskGone k n).1 := by
  have h0 : s.arg 0 = k := by rw [State.arg, h.args]; rfl
  have ht : (begin s).1.task? k = some n := h.task
  have hmine : ((s.core n.core).threads.filter (fun p => decide (p.2.task = k))).filter (fun p => p.2.abandonable) = [] := by
    rw [List.filter_filter]
    refine List.filter_eq_nil_iff.mpr fun p hp hb => ?_
    obtain ⟨hab, htask⟩ := Bool.and_eq_true_iff.mp hb
    rw [(hstand p hp (of_decide_eq_true htask)).1] at hab
    cases hab
  have hany : (s.core n.core).threads.any (fun p => decide (p.2.task = k) && !p.2.atBoundary) = false := by
    rw [List.any_eq_false]
    intro p hp hb
    obtain ⟨htask, hat⟩ := Bool.and_eq_true_iff.mp hb
    rw [(hstand p hp (of_decide_eq_true htask)).2] at hat
    cases hat
  have hbusy : ((begin s).stopJobs k n.core).1.taskBusy k n = false := by
    rw [stopJobs_val h]
    refine Eq.trans ?_ (quits_idle h)
    unfold onCore State.taskBusy
    rw [put_core]
  show execTaskExtentEnd s = _
  unfold execTaskExtentEnd
  rw [event_val, h0]
  dsimp only
  rw [ht]
  simp only [hend, begin_val, hmine, forEach_nil, hany, hbusy, Option.isNone_some, Bool.false_eq_true, if_false]

theorem untraced_stopJobs (h : Quits s k n) : ∀ sl ∈ n.slots, Untraced ((begin s).stopJobs k n.core).1 n.core sl := by
  intro sl hsl
  unfold Untraced
  rw [traced_of_dies n.core sl (show ((begin s).stopJobs k n.core).1.dies = s.dies by rw [stopJobs_val h]; rfl)]
  exact h.untraced sl hsl

end

theorem endArgs_done {k : Nat} {n : Machine.Task} (h : n.ending = none) : endArgs k n = [k, n.part, n.app, n.core] := by
  rw [endArgs, h]
  rfl

theorem endArgs_extent {k : Nat} {n : Machine.Task} {e : ExtentEnd} (h : n.ending = some e) :
    endArgs k n = [k, n.part, n.app, n.core, e.thread, e.lane, e.reason, e.adr] := by
  rw [endArgs, h]
  rfl

/-- Settles O22: each instruction by the course of its checks; an append by what readiness keeps of the live table; the ends of a task by
what frees it. -/
theorem tasks : Obligations.Tasks := by
  refine ⟨fun s x a da e va h ha hva => ⟨fun hal => ?_, fun hal he hr hd => exec_spawn_leaves h ha hva hal he hr hd⟩,
    fun s x va phys k p m h => ?append, fun s x d b dd n w r h hd hn hw hr => exec_tidq h hd hn hw hr, fun s x h => exec_done h,
    fun s x h => exec_yield h, fun s c sl ha hrun => ?_, fun s c sl ha hhalt => ?_, fun s k n h hend hall => ?_,
    fun s k n e h hend hstand => ?_⟩
  case append =>
    intro r bad
    refine ⟨fun hbad => spawn_replies h 1 ?_, fun hbad hfull h1 h2 => spawn_replies h 2 ?_, fun g hbad hroom h1 h2 hg hab =>
      spawn_appends h (Bool.eq_false_iff.mpr fun hb => hbad ((spawnBad_iff _).mp hb)) hroom ⟨h1, h2⟩ hg hab⟩
    · exact if_pos ((spawnBad_iff _).mpr hbad)
    · unfold spawnCourse
      rw [if_neg (fun hb => hbad ((spawnBad_iff _).mp hb)), if_pos hfull, if_neg (fun h => h.elim h1 h2)]
  · subst hva
    exact exec_spawn_misaligned h ha hal
  · rw [exec_yieldEnd ha, Bool.eq_false_iff.mpr fun hb => hrun ((haltedCore_iff s c).mpr hb)]
    simp
  · rw [exec_yieldEnd ha, (haltedCore_iff s c).mp hhalt]
    simp
    rfl
  · obtain ⟨hgone, hhead, hmem, hloc⟩ := taskGone_bytes (t := begin s) (k := k) (n := n) h.untraced
    exact ⟨_, exec_taskEnd h hend hall, hgone, endArgs_done hend ▸ hhead, hmem, hloc⟩
  · obtain ⟨hgone, hhead, hmem, hloc⟩ := taskGone_bytes (k := k) (n := n) (untraced_stopJobs h)
    rw [stopJobs_val h] at hmem hloc
    exact ⟨_, exec_taskExtentEnd h hend hstand, hgone, endArgs_extent hend ▸ hhead, hmem, hloc⟩

end Sys2Proof.Proofs
end


section
/-!
PROOFS. Pools: a ready node's place, and the moves that balance loads.
-/

namespace Sys2Proof.Proofs

open Sys2Proof Sys2Proof.Machine Sys2Proof.Claims

/-! ### Where a node stands -/

theorem nodeState_val {s : State} {t : Trail s} {n app : Nat} {p : Part} {m : Node} (hp : t.1.part? n = some p)
    (hm : look p.live app = some m) (st : NodeState) : (t.nodeState n app st).1 =
      { t.1 with parts := put t.1.parts n { p with live := put p.live app { m with st := st, wants := none, returned := false } } } := by
  unfold Trail.nodeState
  rw [modPart_part hp, hm]

/-- Nodes that wait for room are placed again only where there are some. -/
theorem pokePools_idle {s : State} {t : Trail s} {n : Nat} {p : Part} (hp : t.1.part? n = some p) (hno : ∀ m ∈ p.live, m.2.st ≠ .ready) :
    t.pokePools n = t := by
  have hnone : p.inOrder.filter (fun m => decide (m.2.st = .ready)) = [] :=
    List.filter_eq_nil_iff.mpr fun m hm hd => hno m (mem_sortBy hm) (of_decide_eq_true hd)
  unfold Trail.pokePools
  rw [hp]
  dsimp only
  rw [hnone, forEach_nil]

/-! ### A ready node's place (R66) -/

section
variable {s : State} {n app cl : Nat} {p : Part} {m : Node}

/-- The pool is full, or an earlier node waits for it. -/
theorem poolFull_iff : (decide (256 ≤ (p.pool cl).length) || p.waitsBefore app cl) = true ↔
    256 ≤ (p.pool cl).length ∨ ∃ q ∈ p.live, q.2.st = .ready ∧ q.2.wants = some cl ∧ appendLt q.1 app = true := by
  simp [Part.waitsBefore, and_assoc]

theorem exec_poolPlace (ha : s.args = [n, app]) (hp : s.part? n = some p) (hm : look p.live app = some m)
    (hcl : m.wants.or (p.placeFor m) = some cl) : exec .poolPlace s = .next (
      if m.st ≠ .ready then begin s
      else if 256 ≤ (p.pool cl).length || p.waitsBefore app cl then
        (begin s).modPart n (fun p => { p with live := put p.live app { m with wants := some cl } })
      else if p.live.any (fun q => decide (q.1 ≠ app) && q.2.wants == some cl) then
        (((begin s).nodeState n app (.pooled cl)).pendOnce .nodeTake [cl]).pokePools n
      else ((begin s).nodeState n app (.pooled cl)).pendOnce .nodeTake [cl]).1 := by
  have h0 : s.arg 0 = n := by rw [State.arg, ha]; rfl
  have h1 : s.arg 1 = app := by rw [State.arg, ha]; rfl
  show execPoolPlace s = _
  unfold execPoolPlace
  rw [event_val]
  simp only [begin_val, h0, h1, hp, hm, hcl]

theorem poolPlace_enters (ha : s.args = [n, app]) (hp : s.part? n = some p) (hm : look p.live app = some m)
    (hcl : m.wants.or (p.placeFor m) = some cl) (hst : m.st = .ready)
    (hroom : ¬ (decide (256 ≤ (p.pool cl).length) || p.waitsBefore app cl) = true) : ∃ t, exec .poolPlace s = .next t ∧
      t = { s with parts := put s.parts n { p with live := put p.live app { m with st := .pooled cl, wants := none, returned := false } }
                   pending := t.pending } ∧
      ⟨.nodeTake, [cl]⟩ ∈ t.pending := by
  rw [exec_poolPlace ha hp hm hcl, if_neg (fun h => h hst), if_neg hroom]
  have hval := nodeState_val (t := begin s) hp hm (.pooled cl)
  generalize (begin s).nodeState n app (.pooled cl) = u at hval ⊢
  have hdue := pendOnce_due u .nodeTake [cl]
  have hadds : AddsDue (u.pendOnce .nodeTake [cl]).1 (if p.live.any (fun q => decide (q.1 ≠ app) && q.2.wants == some cl) then
      (u.pendOnce .nodeTake [cl]).pokePools n else u.pendOnce .nodeTake [cl]).1 := by
    split
    · exact pokePools_adds _ _
    · exact .refl _
  refine ⟨_, rfl, ?_, due_of_addsDue hadds hdue⟩
  obtain ⟨d, e, -⟩ := (pendOnce_adds u .nodeTake [cl]).trans hadds
  rw [e, hval]
  rfl

end

/-! ### Moves between pools (R80) -/

section
variable {s : State} {cl n : Nat} {p : Part}

/-- The lighter neighbours of a cluster, each with the number of nodes that move to it. -/
def lighter (p : Part) (cl : Nat) : List (Nat × Nat) :=
  ((meshNext cl).filter (fun c => p.clusters.contains c && decide (p.load c + 4 < p.load cl))).map (fun c => (c, (p.load cl - p.load c) / 4))

theorem exec_loadBalance (ha : s.args = [cl]) (hn : s.partOfCluster cl = some n) (hp : s.part? n = some p)
    (hr : (s.die (dieOfCluster cl)).restart = false) : exec .loadBalance s = .next
      (((forEach (begin s) (lighter p cl) (fun t q => Trail.moveNodes n cl q.1 q.2 t)).pokePools n).armBalance cl).1 := by
  have h0 : s.arg 0 = cl := by rw [State.arg, ha]; rfl
  show execLoadBalance s = _
  unfold execLoadBalance
  rw [event_val]
  simp only [begin_val, h0, hn, hp, hr]
  rfl

theorem loadBalance_balanced (ha : s.args = [cl]) (hn : s.partOfCluster cl = some n) (hp : s.part? n = some p)
    (hr : (s.die (dieOfCluster cl)).restart = false) (hbal : ∀ c ∈ meshNext cl, c ∈ p.clusters → p.load cl ≤ p.load c + 4)
    (hno : ∀ m ∈ p.live, m.2.st ≠ .ready) :
    exec .loadBalance s = .next (onTime s (dieOfCluster cl) 288000 .loadBalance [cl]) := by
  have hnone : lighter p cl = [] := by
    unfold lighter
    rw [List.map_eq_nil_iff, List.filter_eq_nil_iff]
    intro c hc hb
    obtain ⟨hin, hlt⟩ := Bool.and_eq_true_iff.mp hb
    exact absurd (of_decide_eq_true hlt) (Nat.not_lt.mpr (hbal c hc (List.contains_iff_mem.mp hin)))
  rw [exec_loadBalance ha hn hp hr, hnone, forEach_nil, pokePools_idle (t := begin s) hp hno]
  rfl

/-- One node moves, the last of its pool. -/
theorem loadBalance_moves {dst app : Nat} {m : Node} (ha : s.args = [cl]) (hn : s.partOfCluster cl = some n) (hp : s.part? n = some p)
    (hr : (s.die (dieOfCluster cl)).restart = false)
    (hdst : (meshNext cl).filter (fun c => p.clusters.contains c && decide (p.load c + 4 < p.load cl)) = [dst])
    (hone : (p.load cl - p.load dst) / 4 = 1) (hroom : (p.pool dst).length < 256) (hlast : p.lastIn cl = some (app, m))
    (hm : look p.live app = some m) : ∃ t p', exec .loadBalance s = .next t ∧ t.part? n = some p' ∧
      p'.live = put p.live app { m with st := .pooled dst, wants := none, returned := false } ∧ ⟨.nodeTake, [dst]⟩ ∈ t.pending := by
  have hlighter : lighter p cl = [(dst, 1)] := by
    unfold lighter
    rw [hdst, List.map_singleton, hone]
  have hmove : Trail.moveNodes n cl dst 1 (begin s) = ((begin s).nodeState n app (.pooled dst)).pendOnce .nodeTake [dst] := by
    have hb : (begin s).1.part? n = some p := hp
    unfold Trail.moveNodes
    rw [hb]
    dsimp only
    rw [if_neg (Nat.not_le.mpr hroom), hlast]
    rfl
  have hval := nodeState_val (t := begin s) hp hm (.pooled dst)
  rw [exec_loadBalance ha hn hp hr, hlighter]
  have hfold : forEach (begin s) [(dst, 1)] (fun t q => Trail.moveNodes n cl q.1 q.2 t) = Trail.moveNodes n cl dst 1 (begin s) := rfl
  rw [hfold, hmove]
  generalize (begin s).nodeState n app (.pooled dst) = u at hval ⊢
  have hdue := pendOnce_due u .nodeTake [dst]
  have hpoke := pokePools_adds (u.pendOnce .nodeTake [dst]) n
  refine ⟨_, { p with live := put p.live app { m with st := .pooled dst, wants := none, returned := false } }, rfl, ?_, rfl, due_of_addsDue hpoke hdue⟩
  show State.part? ((u.pendOnce .nodeTake [dst]).pokePools n).1 n = _
  rw [part?_of_addsDue ((pendOnce_adds u .nodeTake [dst]).trans hpoke), hval]
  exact look_put_same _ _ _

end

theorem placeFor_affine (p : Part) (m : Node) (h : m.desc.aff ∈ p.clusters) : p.placeFor m = some m.desc.aff := by
  unfold Part.placeFor
  rw [if_pos (List.contains_iff_mem.mpr h)]

/-- Without an affinity a node is placed where the load is least, in the lowest such cluster. -/
theorem placeFor_least {p : Part} {m : Node} {cl : Nat} (h : m.desc.aff ∉ p.clusters) (hcl : p.placeFor m = some cl) :
    cl ∈ p.clusters ∧ ∀ d ∈ p.clusters, p.load cl < p.load d ∨ (p.load cl = p.load d ∧ cl ≤ d) := by
  unfold Part.placeFor at hcl
  rw [if_neg (fun hc => h (List.contains_iff_mem.mp hc))] at hcl
  refine ⟨List.mem_of_find?_eq_some hcl, fun d hd => ?_⟩
  have hleast := List.find?_some hcl
  simpa using List.all_eq_true.mp hleast d hd

end Sys2Proof.Proofs
end


section
/-!
PROOFS. The start of a task: its threads, one per slot.
-/

namespace Sys2Proof.Proofs

open Sys2Proof Sys2Proof.Machine Sys2Proof.Claims

/-! ### Threads start (R85, R387) -/

/-- A thread, made of its number, its agent's and the package's, starts in a slot of core c. -/
def startNext {s : State} (c : Nat) (mk : Nat → Nat → Nat → Thread) (t : Trail s) (p : Nat × Nat) : Trail s :=
  t.newAgent.1.startThread c p.2 (mk p.1 t.newAgent.2 t.newAgent.1.1.pkg.num)

theorem startThread_val {s : State} {t : Trail s} {c sl : Nat} (h : Untraced t.1 c sl) (th : Thread) :
    (t.startThread c sl th).1 = onCore t.1 c (fun k => { k with
      threads := put k.threads sl th, pigeons := del k.pigeons sl, arrivals := k.arrivals.filter (fun m => decide (m.1 ≠ sl))
      hWin := k.hWin.filter (fun h => decide (h.1 / 256 ≠ sl)) }) := by
  unfold Trail.startThread
  dsimp only
  rw [trace_untraced _ c sl _ _ (by exact h)]
  rfl

/-- Threads in slots of their own start, and nothing else changes but their core and the count of agents. -/
structure StartsAll (s t : State) (c : Nat) (mk : Nat → Nat → Nat → Thread) (l : List (Nat × Nat)) : Prop where
  rest : t = { s with cores := t.cores, agents := t.agents }
  started : ∀ p ∈ l, ∃ a, t.thread? c p.2 = some (mk p.1 a s.pkg.num)
  others : ∀ sl, (∀ p ∈ l, p.2 ≠ sl) → t.thread? c sl = s.thread? c sl

theorem startNext_starts {s : State} (c : Nat) (mk : Nat → Nat → Nat → Thread) {t : Trail s} {p : Nat × Nat}
    (h : Untraced t.1 c p.2) : StartsAll t.1 (startNext c mk t p).1 c mk [p] := by
  have hval := startThread_val (t := t.newAgent.1) (c := c) (sl := p.2) h (mk p.1 t.newAgent.2 t.newAgent.1.1.pkg.num)
  have hthread (sl) : (startNext c mk t p).1.thread? c sl =
      if sl = p.2 then some (mk p.1 t.newAgent.2 t.1.pkg.num) else t.1.thread? c sl := by
    unfold startNext
    rw [hval]
    unfold State.thread? onCore
    rw [put_core]
    exact look_put _ _ _ _
  refine ⟨by unfold startNext; rw [hval]; rfl, fun q hq => ?_, fun sl hsl => ?_⟩
  · rw [List.mem_singleton.mp hq]
    exact ⟨_, (hthread p.2).trans (if_pos rfl)⟩
  · exact (hthread sl).trans (if_neg fun e => hsl p (List.mem_singleton.mpr rfl) e.symm)

theorem StartsAll.cons {s t u : State} {c : Nat} {mk : Nat → Nat → Nat → Thread} {p : Nat × Nat} {r : List (Nat × Nat)}
    (h : StartsAll s t c mk [p]) (k : StartsAll t u c mk r) (hp : ∀ q ∈ r, q.2 ≠ p.2) : StartsAll s u c mk (p :: r) := by
  have hpkg : t.pkg = s.pkg := by rw [h.rest]
  refine ⟨by rw [k.rest, h.rest], fun q hq => ?_, fun sl hsl => ?_⟩
  · rcases List.mem_cons.mp hq with rfl | hq
    · obtain ⟨a, ha⟩ := h.started q (List.mem_singleton.mpr rfl)
      exact ⟨a, (k.others q.2 hp).trans ha⟩
    · rw [← hpkg]
      exact k.started q hq
  · exact (k.others sl fun q hq => hsl q (List.mem_cons_of_mem _ hq)).trans
      (h.others sl fun q hq => by rw [List.mem_singleton.mp hq]; exact hsl p List.mem_cons_self)

theorem startAll_starts {s : State} (c : Nat) (mk : Nat → Nat → Nat → Thread) : ∀ (l : List (Nat × Nat)) (t : Trail s),
    (l.map (·.2)).Nodup → (∀ p ∈ l, Untraced t.1 c p.2) → StartsAll t.1 (forEach t l (startNext c mk)).1 c mk l
  | [], _, _, _ => ⟨rfl, fun _ h => absurd h List.not_mem_nil, fun _ _ => rfl⟩
  | p :: r, t, hn, hu => by
    obtain ⟨hp, hr⟩ := List.nodup_cons.mp hn
    have hnext := startNext_starts c mk (hu p List.mem_cons_self)
    have hdies : (startNext c mk t p).1.dies = t.1.dies := by rw [hnext.rest]
    refine hnext.cons (startAll_starts c mk r (startNext c mk t p) hr fun q hq => ?_) fun q hq e => hp (List.mem_map.mpr ⟨q, hq, e⟩)
    unfold Untraced
    rw [traced_of_dies _ _ hdies]
    exact hu q (List.mem_cons_of_mem _ hq)

theorem freeSlots_nodup (k : Core) : k.freeSlots.Nodup := ((upFrom_pairwise 15 0).imp Nat.ne_of_lt).filter _

/-! ### The task (R69) -/

section
variable {s : State} {cl n app c base : Nat} {p : Part} {m : Node} {g : Graph}

/-- The task of a node that starts. -/
def startedTask (s : State) (n app c base : Nat) (m : Node) (g : Graph) : Machine.Task :=
  { part := n, core := c, app := app, hw := m.desc.hw, localBase := base, ta := (g.arg + m.desc.argoff) % 2 ^ 64, code := m.desc.code
    codelen := m.desc.codelen, threads := m.desc.threads, slots := (s.core c).freeSlots.take m.desc.threads, ext := m.ext, handler := none
    leases := m.leases, ending := none, hShare := [], vc := m.vc }

/-- A thread of it, by its number and its agent's. -/
def startedThread (s : State) (c : Nat) (m : Node) (g : Graph) (i a pkg : Nat) : Thread :=
  Thread.start (s.taskCount + 1) a (m.desc.code + m.desc.entry) m.desc.hw i ((g.arg + m.desc.argoff) % 2 ^ 64) c pkg m.vc none

/-- The task has been entered, its node runs, and the histories of its run of local store are dropped. -/
def entered (s : State) (n app c base : Nat) (p : Part) (m : Node) (g : Graph) : State :=
  onCore { s with
    taskCount := s.taskCount + 1, tasks := put s.tasks (s.taskCount + 1) (startedTask s n app c base m g)
    parts := put s.parts n { p with live := put p.live app { m with st := .running (s.taskCount + 1), leases := [], ext := [] } } } c
    (fun q => { q with hGran := q.hGran.filter (fun h => !(decide (base / 32 ≤ h.1) && decide (h.1 < (base + m.desc.hw * 4096) / 32))) })

/-- Threads by number, each with its slot. -/
def startedSlots (s : State) (c : Nat) (m : Node) : List (Nat × Nat) :=
  (upFrom 0 m.desc.threads).zip ((s.core c).freeSlots.take m.desc.threads)

theorem startedSlots_map (s : State) (c : Nat) (m : Node) :
    (startedSlots s c m).map (·.2) = (s.core c).freeSlots.take m.desc.threads := by
  unfold startedSlots
  rw [List.map_snd_zip]
  rw [upFrom_length]
  exact List.length_take_le _ _

theorem startTask_val (hp : s.part? n = some p) (hu : ∀ sl ∈ (s.core c).freeSlots.take m.desc.threads, Untraced s c sl) :
    ∃ u, StartsAll (entered s n app c base p m g) u c (startedThread s c m g) (startedSlots s c m) ∧
      AddsDue u ((begin s).startTask n app cl c base m g).1 := by
  unfold Trail.startTask
  extract_lets k slots ta task t1 t2 t3 t4 t5
  have hpart : t3.1 = { t2.1 with parts := put t2.1.parts n { p with live := put p.live app { m with st := .running k, leases := [], ext := [] } } } :=
    modPart_part (t := t2) hp _
  have hval : t4.1 = entered s n app c base p m g := (modCore_val t3 c _).trans (by rw [hpart]; rfl)
  have hloop : t5 = forEach t4 (startedSlots s c m) (startNext c (startedThread s c m g)) := rfl
  have huntraced : ∀ q ∈ startedSlots s c m, Untraced t4.1 c q.2 := fun q hq => by
    unfold Untraced
    rw [traced_of_dies c q.2 (show t4.1.dies = s.dies by rw [hval]; rfl)]
    exact hu q.2 (startedSlots_map s c m ▸ List.mem_map_of_mem hq)
  have hstarts := startAll_starts c (startedThread s c m g) (startedSlots s c m) t4
    (by rw [startedSlots_map]; exact (freeSlots_nodup _).sublist (List.take_sublist _ _)) huntraced
  rw [hval, ← hloop] at hstarts
  exact ⟨t5.1, hstarts, pendOnce_adds _ _ _⟩

/-- Outside recording and replay a prepared node starts on the core that fits it, and writes no record (R68, R69). -/
theorem exec_nodeStart (ha : s.args = [cl, app]) (hn : s.partOfCluster cl = some n) (hw : Works s n p) (hm : look p.live app = some m)
    (hg : look p.graphs m.graph = some g) (hst : m.st = .prepared cl) (hcore : s.coreFor cl m.desc none = some (c, base))
    (hu : ∀ sl ∈ (s.core c).freeSlots.take m.desc.threads, Untraced s c sl) :
    exec .nodeStart s = .next ((begin s).startTask n app cl c base m g).1 := by
  obtain ⟨h1, h2⟩ := hw.unlogged
  have h0 : s.arg 0 = cl := by rw [State.arg, ha]; rfl
  have ha1 : s.arg 1 = app := by rw [State.arg, ha]; rfl
  have hname (src : Nat) : s.recName n src = none := by
    unfold State.recName
    rw [hw.part]
    dsimp only
    rw [if_neg h1, if_neg h2]
  have hgate (r : Rec) (w : Waiter) : s.gate n r w = .run := by
    unfold State.gate
    rw [hw.part]
    dsimp only
    rw [if_neg h1, if_neg h2]
  have hrec (r : Rec) (w : Waiter) :
      ((begin s).startTask n app cl c base m g).recordAs n r w = ((begin s).startTask n app cl c base m g, none) := by
    obtain ⟨u, hstarts, hdue⟩ := startTask_val (cl := cl) (app := app) (base := base) (g := g) hw.part hu
    have hpart : ((begin s).startTask n app cl c base m g).1.part? n = some
        { p with live := put p.live app { m with st := .running (s.taskCount + 1), leases := [], ext := [] } } := by
      rw [part?_of_addsDue hdue, hstarts.rest]
      exact look_put_same _ _ _
    unfold Trail.recordAs
    rw [hpart]
    dsimp only
    rw [if_neg h1, if_neg h2]
  show execNodeStart s = _
  unfold execNodeStart
  rw [event_val]
  simp only [begin_val, h0, ha1, hn, hw.part, hm, hg, if_neg h2, Option.map_none, hcore, hst, dispatching_of_works hw, Trail.logged, hgate,
    hname, Option.isNone_none, if_true, hrec, ne_eq, not_true_eq_false, decide_false, Bool.not_true, Bool.or_false, Bool.false_eq_true, if_false]

/-- Each thread of the task stands at its entry, in its slot. -/
theorem nodeStart_starts (ha : s.args = [cl, app]) (hn : s.partOfCluster cl = some n) (hw : Works s n p) (hm : look p.live app = some m)
    (hg : look p.graphs m.graph = some g) (hst : m.st = .prepared cl) (hcore : s.coreFor cl m.desc none = some (c, base))
    (hu : ∀ sl ∈ (s.core c).freeSlots.take m.desc.threads, Untraced s c sl) :
    ∃ t p' m', exec .nodeStart s = .next t ∧ t.task? (s.taskCount + 1) = some (startedTask s n app c base m g) ∧ t.part? n = some p' ∧
      look p'.live app = some m' ∧ m'.st = .running (s.taskCount + 1) ∧
      (∀ i sl : Nat, ((s.core c).freeSlots.take m.desc.threads)[i]? = some sl →
        ∃ a, t.thread? c sl = some (startedThread s c m g i a s.pkg.num)) ∧ t.mem = s.mem ∧ t.loc = s.loc := by
  obtain ⟨u, hstarts, hdue⟩ := startTask_val (cl := cl) (app := app) (base := base) (g := g) hw.part hu
  refine ⟨_, { p with live := put p.live app { m with st := .running (s.taskCount + 1), leases := [], ext := [] } }, _,
    exec_nodeStart ha hn hw hm hg hst hcore hu, ?_, ?_, look_put_same _ _ _, rfl, fun i sl hi => ?_, ?_, ?_⟩
  all_goals obtain ⟨d, e, -⟩ := hdue
  · rw [e, hstarts.rest]
    exact look_put_same _ _ _
  · rw [e, hstarts.rest]
    exact look_put_same _ _ _
  · have hlt : i < m.desc.threads := by
      have hlen := (List.getElem?_eq_some_iff.mp hi).1
      rw [List.length_take] at hlen
      omega
    have hmem : (i, sl) ∈ startedSlots s c m := by
      refine List.mem_of_getElem? (i := i) ?_
      unfold startedSlots
      rw [List.getElem?_zip_eq_some]
      exact ⟨by rw [upFrom_getElem? 0 _ i hlt, Nat.zero_add], hi⟩
    obtain ⟨a, hth⟩ := hstarts.started _ hmem
    exact ⟨a, by rw [e]; exact hth⟩
  · rw [e, hstarts.rest]
    rfl
  · rw [e, hstarts.rest]
    rfl

end

end Sys2Proof.Proofs
end


section
/-!
PROOFS. A dispatcher takes a node and prepares it.
-/

namespace Sys2Proof.Proofs

open Sys2Proof Sys2Proof.Machine Sys2Proof.Claims

/-! ### What a walk of the tables depends on (R70, R71) -/

section
variable {s t : State}

theorem onDie_congr (hp : t.pkg = s.pkg) (a len : Nat) : t.onDie a len = s.onDie a len := by
  unfold State.onDie State.inDomain
  rw [hp]

theorem leafOk_congr (hp : t.pkg = s.pkg) (w0 w1 size : Nat) : t.leafOk w0 w1 size = s.leafOk w0 w1 size := by
  unfold State.leafOk State.onSecond State.inDomain
  rw [onDie_congr hp, hp]

theorem walkFrom_congr (hm : t.mem = s.mem) (hp : t.pkg = s.pkg) (va : Nat) : ∀ (l : List (Nat × Nat × Option Nat)) (table : Nat)
    (path : List Nat), t.walkFrom va l table path = s.walkFrom va l table path
  | [], _, _ => rfl
  | (lo, n, leaf) :: r, table, path => by
    unfold State.walkFrom
    simp only [hm, onDie_congr hp, leafOk_congr hp, walkFrom_congr hm hp va r]

theorem translate_congr (hm : t.mem = s.mem) (hp : t.pkg = s.pkg) (hd : t.dies = s.dies) (die space va : Nat) :
    t.translate die space va = s.translate die space va := by
  unfold State.translate State.cached State.walk State.die
  rw [hd, walkFrom_congr hm hp]

theorem leaves_congr (hm : t.mem = s.mem) (hp : t.pkg = s.pkg) (hd : t.dies = s.dies) (die space : Nat) : ∀ fuel va len : Nat,
    t.leaves die space fuel va len = s.leaves die space fuel va len
  | 0, _, _ => rfl
  | fuel + 1, va, len => by
    unfold State.leaves
    simp only [translate_congr hm hp hd, leaves_congr hm hp hd die space fuel]

theorem spanLeaves_congr (hm : t.mem = s.mem) (hp : t.pkg = s.pkg) (hd : t.dies = s.dies) (die space : Nat) : ∀ l : List (Nat × Nat),
    t.spanLeaves die space l = s.spanLeaves die space l
  | [] => rfl
  | (va, len) :: r => by
    unfold State.spanLeaves State.leavesOf
    simp only [leaves_congr hm hp hd, spanLeaves_congr hm hp hd die space r]

end

/-! ### Preparation (R68) -/

section
variable {s : State} {n app cl : Nat} {m : Node} {g : Graph} {ls : List (List (Nat × Leaf))}

/-- The runs of a node's spans. -/
def spanRuns (m : Node) (g : Graph) (ls : List (List (Nat × Leaf))) : List (List PRun) :=
  ((m.desc.spans g.arg).zip ls).map (fun q => physRuns q.1.1 q.1.2 q.2)

/-- A node that has been prepared: its pages are leased, and its extent table is filled. -/
def preparedNode (cl : Nat) (m : Node) (g : Graph) (ls : List (List (Nat × Leaf))) : Node :=
  { m with
    st := .prepared cl, leases := (leafPages (eachLeaf ls)).map (fun a => (a, 0))
    ext := fillTable m.desc (m.desc.spans g.arg) (spanRuns m g ls) }

/-- Every page that a node needs is mapped and resident, within the budget and free to lease, and its ranges fit its extent table. -/
structure Preparable (s : State) (cl : Nat) (p : Part) (m : Node) (g : Graph) (ls : List (List (Nat × Leaf))) : Prop where
  graph : look p.graphs m.graph = some g
  mapped : s.spanLeaves (dieOfCluster cl) g.space (m.desc.spans g.arg) = some ls
  granted : ∀ q ∈ eachLeaf ls, q.2.res = true ∧ ∀ a ∈ q.2.path, s.mayAccess (sysMaster s.pkg.num) a permRd = true
  budget : ((eachLeaf ls).map (fun q => q.2.size)).sum ≤ p.mem - 2 ^ 23
  runs : ((spanRuns m g ls).getD 0 []).length ≤ 1 ∧ ((spanRuns m g ls).getD 1 []).length ≤ 1 ∧
    (((spanRuns m g ls).drop 2).map (·.length)).sum ≤ 14
  free : s.leaseWaits (leafPages (eachLeaf ls)) = false

theorem cacheAll_val (t : Trail s) (die space : Nat) (l : List (Nat × Leaf)) :
    ∃ ds, (forEach t l (fun t q => t.cache die space q.1 q.2)).1 = { t.1 with dies := ds } :=
  forEach_keeps (P := fun u => ∃ ds, u.1 = { t.1 with dies := ds }) (fun u q ⟨ds, e⟩ => by
    obtain ⟨ds', e'⟩ := cache_val u die space q.1 q.2
    exact ⟨ds', by rw [e', e]⟩) _ t ⟨_, rfl⟩

/-- The course of a preparation that nothing stops: its leaves are cached, its pages leased, and its start is due. -/
theorem prepare_course {t : Trail s} {p : Part} (hp : t.1.part? n = some p) (hm : look p.live app = some m)
    (h : Preparable t.1 cl p m g ls) : t.prepare n app cl =
      ((((forEach t (eachLeaf ls) (fun t q => t.cache (dieOfCluster cl) g.space q.1 q.2)).takeLeases (leafPages (eachLeaf ls))).modPart n
        (fun p => { p with live := put p.live app (preparedNode cl m g ls) })).pend .nodeStart [cl, app]) := by
  obtain ⟨ds, hcache⟩ := cacheAll_val t (dieOfCluster cl) g.space (eachLeaf ls)
  obtain ⟨hcode, harg, hranges⟩ := h.runs
  have hpath : ¬ (eachLeaf ls).any (fun q => q.2.path.any (fun a => !({ t.1 with dies := ds } : State).mayAccess
      (sysMaster t.1.pkg.num) a permRd)) = true := by
    rw [List.any_eq_true]
    rintro ⟨q, hq, hany⟩
    obtain ⟨a, ha, hno⟩ := List.any_eq_true.mp hany
    have hyes : ({ t.1 with dies := ds } : State).mayAccess (sysMaster t.1.pkg.num) a permRd = true := (h.granted q hq).2 a ha
    rw [hyes] at hno
    cases hno
  have hres : ¬ (eachLeaf ls).any (fun q => !q.2.res) = true := by
    rw [List.any_eq_true]
    rintro ⟨q, hq, hno⟩
    rw [(h.granted q hq).1] at hno
    cases hno
  have hfits : ¬ (1 < ((spanRuns m g ls).getD 0 []).length ∨ 1 < ((spanRuns m g ls).getD 1 []).length ∨
      14 < (((spanRuns m g ls).drop 2).map (·.length)).sum) := by omega
  have hfree : ¬ ({ t.1 with dies := ds } : State).leaseWaits (leafPages (eachLeaf ls)) = true := by
    have hno : ({ t.1 with dies := ds } : State).leaseWaits (leafPages (eachLeaf ls)) = false := h.free
    rw [hno]
    decide
  unfold spanRuns at hfits
  unfold Trail.prepare
  simp only [hp, hm, h.graph, h.mapped, hcache, if_neg hpath, if_neg (Nat.not_lt.mpr h.budget), if_neg hres, if_neg hfits, if_neg hfree]
  rfl

theorem prepare_prepares {t : Trail s} {p : Part} (hp : t.1.part? n = some p) (hm : look p.live app = some m)
    (h : Preparable t.1 cl p m g ls) :
    (t.prepare n app cl).1.part? n = some { p with live := put p.live app (preparedNode cl m g ls) } ∧
      ⟨.nodeStart, [cl, app]⟩ ∈ (t.prepare n app cl).1.pending ∧ (t.prepare n app cl).1.mem = t.1.mem := by
  obtain ⟨ds, hcache⟩ := cacheAll_val t (dieOfCluster cl) g.space (eachLeaf ls)
  rw [prepare_course hp hm h]
  generalize forEach t (eachLeaf ls) (fun t q => t.cache (dieOfCluster cl) g.space q.1 q.2) = u at hcache ⊢
  obtain ⟨pg, htake⟩ := takeLeases_val u (leafPages (eachLeaf ls))
  generalize u.takeLeases (leafPages (eachLeaf ls)) = v at htake ⊢
  have hv : v.1 = { t.1 with dies := ds, pages := pg } := by rw [htake, hcache]
  have hpart := modPart_part (t := v) (n := n) (p := p) (by rw [hv]; exact hp) fun p => { p with live := put p.live app (preparedNode cl m g ls) }
  refine ⟨?_, ?_, ?_⟩
  · show State.part? (v.modPart n _).1 n = _
    rw [hpart]
    exact look_put_same _ _ _
  · rw [Trail.pend_pending]
    exact List.mem_append_right _ (List.mem_singleton.mpr rfl)
  · rw [Trail.pend_mem, hpart, hv]

/-! ### Taking a node (R67) -/

/-- The one node of a pool is what its dispatcher takes next. -/
theorem nextIn_single {p : Part} (h : p.pool cl = [(app, m)]) : p.nextIn cl = some (app, m) := by
  unfold Part.nextIn
  rw [h]
  cases hr : m.returned <;> simp [hr]

theorem nextIn_empty {p : Part} (h : p.pool cl = []) : p.nextIn cl = none := by
  unfold Part.nextIn
  rw [h]
  rfl

theorem takeNode_none {t : Trail s} {p : Part} (hp : t.1.part? n = some p) (h : p.pool cl = []) : t.takeNode n cl = t := by
  unfold Trail.takeNode
  rw [hp]
  dsimp only
  rw [nextIn_empty h]
  split <;> rfl

theorem takeNode_single {t : Trail s} {p : Part} (hp : t.1.part? n = some p) (hd : p.dispatching = true) (htaken : p.taken cl = 0)
    (h : p.pool cl = [(app, m)]) :
    t.takeNode n cl = ((t.nodeState n app (.preparing cl)).pokePools n).prepare n app cl := by
  unfold Trail.takeNode
  rw [hp]
  dsimp only
  rw [hd, htaken, nextIn_single h]
  rfl

/-- Once its one node is prepared, nothing stands in the pool. -/
theorem pool_prepared {p : Part} (hw : p.live.wf) (h : p.pool cl = [(app, m)]) (m' : Node) :
    Part.pool { p with live := put p.live app (preparedNode cl m' g ls) } cl = [] := by
  refine List.filter_eq_nil_iff.mpr fun q hq hd => ?_
  have hlook := look_of_mem (put_wf p.live app (preparedNode cl m' g ls) hw) (show (q.1, q.2) ∈ _ from hq)
  by_cases e : q.1 = app
  · rw [e, look_put_same] at hlook
    rw [← Option.some.inj hlook] at hd
    cases of_decide_eq_true hd
  · rw [look_put_other _ _ _ _ e] at hlook
    have hin : q ∈ p.pool cl := List.mem_filter.mpr ⟨mem_of_look hlook, hd⟩
    rw [h] at hin
    exact e (congrArg Prod.fst (List.mem_singleton.mp hin))

/-- The node as its dispatcher takes it. -/
def takenNode (cl : Nat) (m : Node) : Node := { m with st := .preparing cl, wants := none, returned := false }

theorem preparable_taken {p : Part} {u : State} {ps : Tab Part} {d : List Due} (h : Prepares s cl n p app m g ls)
    (hu : u = { s with parts := ps, pending := d }) :
    Preparable u cl { p with live := put p.live app (takenNode cl m) } (takenNode cl m) g ls := by
  have hmapped : u.spanLeaves (dieOfCluster cl) g.space (m.desc.spans g.arg) = some ls :=
    (spanLeaves_congr (by rw [hu]) (by rw [hu]) (by rw [hu]) _ _ _).trans h.mapped
  subst hu
  exact ⟨h.graph, hmapped, h.granted, h.budget, h.runs, h.free⟩

theorem exec_nodeTake {p : Part} (h : Prepares s cl n p app m g ls) :
    exec .nodeTake s = .next (forEach (begin s) [0, 1, 2, 3] (fun t _ => t.takeNode n cl)).1 := by
  have h0 : s.arg 0 = cl := by rw [State.arg, h.args]; rfl
  have hgoing : p.live.filter (fun q => decide (q.2.st = .preparing cl) && !p.residency.any (fun r => decide (r.app = q.1))) = [] :=
    List.filter_eq_nil_iff.mpr fun q hq hd => (h.idle q hq).1 (of_decide_eq_true (Bool.and_eq_true_iff.mp hd).1)
  show execNodeTake s = _
  unfold execNodeTake
  rw [event_val]
  simp only [begin_val, h0, h.grant, h.works.part, dispatching_of_works h.works, if_true, hgoing]
  rfl

theorem nodeTake_prepares {p : Part} (h : Prepares s cl n p app m g ls) : ∃ t, exec .nodeTake s = .next t ∧
    t.part? n = some { p with live := put p.live app (preparedNode cl (takenNode cl m) g ls) } ∧ ⟨.nodeStart, [cl, app]⟩ ∈ t.pending ∧
      t.mem = s.mem := by
  have htaken : p.taken cl = 0 := by
    unfold Part.taken
    rw [List.length_eq_zero_iff]
    refine List.filter_eq_nil_iff.mpr fun q hq hd => ?_
    obtain ⟨h1, h2⟩ := h.idle q hq
    simp [h1, h2] at hd
  have hstate := nodeState_val (t := begin s) h.works.part h.node (.preparing cl)
  obtain ⟨d, hpoke, -⟩ := pokePools_adds ((begin s).nodeState n app (.preparing cl)) n
  rw [hstate] at hpoke
  replace hpoke : (((begin s).nodeState n app (.preparing cl)).pokePools n).1 = { s with
    parts := put s.parts n { p with live := put p.live app (takenNode cl m) }, pending := d } := hpoke
  have hfirst := takeNode_single (t := begin s) h.works.part (dispatching_of_works h.works) htaken h.pool
  generalize ((begin s).nodeState n app (.preparing cl)).pokePools n = u at hpoke hfirst
  have hpart : u.1.part? n = some { p with live := put p.live app (takenNode cl m) } := by
    rw [hpoke]
    exact look_put_same _ _ _
  obtain ⟨hp', hdue, hmem⟩ := prepare_prepares hpart (look_put_same _ _ _) (preparable_taken h hpoke)
  rw [← hfirst] at hp' hdue hmem
  have hp'' : ((begin s).takeNode n cl).1.part? n = some { p with live := put p.live app (preparedNode cl (takenNode cl m) g ls) } := by
    rw [hp', put_put]
  have hlater := takeNode_none hp'' (pool_prepared h.table h.pool _)
  refine ⟨_, exec_nodeTake h, ?_⟩
  have hall : forEach (begin s) [0, 1, 2, 3] (fun t _ => t.takeNode n cl) = (begin s).takeNode n cl := by
    show (((begin s).takeNode n cl).takeNode n cl |>.takeNode n cl).takeNode n cl = _
    rw [hlater, hlater, hlater]
  rw [hall]
  exact ⟨hp'', hdue, hmem.trans (by rw [hpoke])⟩

end

/-- Settles O38: each step by its course; a preparation depends on nothing that taking the node changes, and the threads of a task start
in slots of their own, by induction on the list of them. -/
theorem nodesStart : Obligations.NodesStart := by
  refine ⟨fun s n app p m cl ha hp hm hcl => ⟨fun hst hroom => ?_, fun hst hfull => ?_, fun hst => ?_⟩,
    fun p m => ⟨placeFor_affine p m, fun cl => placeFor_least⟩, fun s cl n p app m g ls h => ?prepare,
    fun s cl n p app m g c base ha hn hw hm hg hst hcore hu => ?start, fun s cl n p ha hn hp hr =>
      ⟨loadBalance_balanced ha hn hp hr, fun dst app m => loadBalance_moves ha hn hp hr⟩⟩
  · exact poolPlace_enters ha hp hm hcl hst fun hb => hroom (poolFull_iff.mp hb)
  · rw [exec_poolPlace ha hp hm hcl, if_neg (fun h => h hst), if_pos (poolFull_iff.mpr hfull), modPart_part (t := begin s) hp]
    rfl
  · rw [exec_poolPlace ha hp hm hcl, if_pos hst]
    rfl
  case prepare =>
    obtain ⟨t, hex, hpart, hdue, hmem⟩ := nodeTake_prepares h
    exact ⟨t, _, _, hex, hpart, look_put_same _ _ _, rfl, rfl, rfl, hdue, hmem⟩
  case start =>
    obtain ⟨t, p', m', hex, htask, hpart, hnode, hrun, hthreads, hmem, hloc⟩ := nodeStart_starts ha hn hw hm hg hst hcore hu
    refine ⟨t, _, p', m', hex, htask, rfl, rfl, rfl, rfl, rfl, rfl, rfl, rfl, rfl, rfl, hpart, hnode, hrun, fun i sl hi => ?_, hmem, hloc⟩
    obtain ⟨a, hth⟩ := hthreads i sl hi
    exact ⟨_, hth, rfl, rfl, rfl, rfl, rfl, rfl, rfl, rfl, rfl, rfl, rfl, rfl⟩

end Sys2Proof.Proofs
end


section
/-!
PROOFS. Names: what a write of one leaves to read, by its field and its frame.
-/

namespace Sys2Proof.Proofs

open Sys2Proof Sys2Proof.Machine Sys2Proof.Claims

/-! ### Lists with an entry replaced -/

theorem getElem?_setAt_same {α : Type} : ∀ {l : List α} {j : Nat} {x : α} (v : α), l[j]? = some x → (setAt l j v)[j]? = some v
  | [], _, _, _, h => by simp at h
  | _ :: _, 0, _, _, _ => rfl
  | _ :: r, j + 1, _, v, h => getElem?_setAt_same (l := r) v h

theorem getElem?_setAt_other {α : Type} : ∀ (l : List α) {j k : Nat} (v : α), k ≠ j → (setAt l j v)[k]? = l[k]?
  | [], _, _, _, _ => rfl
  | _ :: _, 0, 0, _, h => absurd rfl h
  | _ :: _, 0, _ + 1, _, _ => rfl
  | _ :: _, _ + 1, 0, _, _ => rfl
  | _ :: r, _ + 1, _ + 1, v, h => getElem?_setAt_other r v fun e => h (congrArg (· + 1) e)

/-! ### Writing a name (R93, R95, R106) -/

/-- The place among a name's fields of the one that the thread's frame denotes. -/
def frameSlot (th : Thread) (x : NameSt) : Nat := if x.desc.win then th.depth % 4 else 0

/-- A declared name with the lanes of one field replaced. -/
def withLanes (x : NameSt) (j : Nat) (f : Field) (v : List Nat) : NameSt := { x with fields := setAt x.fields j { f with lanes := v } }

theorem field?_some {th : Thread} {n : Nat} {f : Field} (h : th.field? n = some f) :
    ∃ x, look th.names n = some x ∧ x.fields[frameSlot th x]? = some f := by
  unfold Thread.field? at h
  cases hx : look th.names n with
  | none => simp [hx] at h
  | some x =>
    rw [hx] at h
    exact ⟨x, rfl, h⟩

theorem setLanes_field {th : Thread} {n : Nat} {x : NameSt} {f : Field} (hn : n < 56) (hx : look th.names n = some x)
    (hf : x.fields[frameSlot th x]? = some f) (v : List Nat) :
    th.setLanes n v = { th with names := put th.names n (withLanes x (frameSlot th x) f v) } := by
  unfold Thread.setLanes
  rw [if_pos hn, hx]
  dsimp only
  rw [show x.fields[if x.desc.win then th.depth % 4 else 0]? = some f from hf]
  rfl

theorem setLanes_noField {th : Thread} {n : Nat} (hn : n < 56) (h : th.field? n = none) (v : List Nat) : th.setLanes n v = th := by
  unfold Thread.field? at h
  unfold Thread.setLanes
  rw [if_pos hn]
  cases hx : look th.names n with
  | none => rfl
  | some x =>
    rw [hx] at h
    dsimp only at h ⊢
    rw [h]

/-- A write of a name is discarded, or replaces the lanes of its field, or is of `lk`, `ws` or `st`. -/
theorem setLanes_cases (th : Thread) (n : Nat) (v : List Nat) :
    th.setLanes n v = th ∨
    (n < 56 ∧ ∃ x f, look th.names n = some x ∧ x.fields[frameSlot th x]? = some f ∧
      th.setLanes n v = { th with names := put th.names n (withLanes x (frameSlot th x) f v) }) ∨
    (n = 57 ∧ th.setLanes n v = { th with lk := BitVec.ofNat 64 (v.headD 0) }) ∨
    (n = 58 ∧ th.setLanes n v = { th with ws := BitVec.ofNat 64 (v.headD 0) }) ∨
    (n = 63 ∧ th.setLanes n v = { th with st := BitVec.ofNat 64 (v.headD 0) }) := by
  by_cases hn : n < 56
  · cases hf : th.field? n with
    | none => exact .inl (setLanes_noField hn hf v)
    | some f =>
      obtain ⟨x, hx, hf⟩ := field?_some hf
      exact .inr (.inl ⟨hn, x, f, hx, hf, setLanes_field hn hx hf v⟩)
  · unfold Thread.setLanes
    rw [if_neg hn]
    split_ifs with h57 h58 h63
    · exact .inr (.inr (.inl ⟨h57, rfl⟩))
    · exact .inr (.inr (.inr (.inl ⟨h58, rfl⟩)))
    · exact .inr (.inr (.inr (.inr ⟨h63, rfl⟩)))
    · exact .inl rfl

theorem setLanes_lanes_same {th : Thread} {n : Nat} {f : Field} (hn : n < 56) (hf : th.field? n = some f) (vt : Word64) (v : List Nat) :
    (th.setLanes n v).lanes vt n = v := by
  obtain ⟨x, hx, hf⟩ := field?_some hf
  have hread : (withLanes x (frameSlot th x) f v).fields[frameSlot th x]? = some { f with lanes := v } := getElem?_setAt_same _ hf
  rw [setLanes_field hn hx hf]
  unfold Thread.lanes Thread.field?
  rw [if_pos hn, look_put_same]
  dsimp only
  rw [show (withLanes x (frameSlot th x) f v).fields[if (withLanes x (frameSlot th x) f v).desc.win then th.depth % 4 else 0]? =
    some { f with lanes := v } from hread]

theorem setLanes_desc (th : Thread) (n m : Nat) (v : List Nat) : (th.setLanes n v).desc? m = th.desc? m := by
  rcases setLanes_cases th n v with h | ⟨-, x, f, hx, -, h⟩ | ⟨-, h⟩ | ⟨-, h⟩ | ⟨-, h⟩
  case inr.inl =>
    rw [h]
    unfold Thread.desc?
    by_cases hm : m = n
    · rw [hm, look_put_same, hx]
      rfl
    · rw [look_put_other _ _ _ _ hm]
  all_goals exact (congrArg (fun t : Thread => t.desc? m) h).trans rfl

theorem setLanes_lanes_other {th : Thread} {n m : Nat} (hm : m ≠ n) (vt : Word64) (v : List Nat) :
    (th.setLanes n v).lanes vt m = th.lanes vt m := by
  rcases setLanes_cases th n v with h | ⟨-, x, f, -, -, h⟩ | ⟨rfl, h⟩ | ⟨rfl, h⟩ | ⟨rfl, h⟩
  · rw [h]
  · rw [h]
    unfold Thread.lanes Thread.field?
    rw [look_put_other _ _ _ _ hm]
  all_goals
    rw [h]
    unfold Thread.lanes
    simp only [if_neg hm]
    rfl

theorem setLanes_otherFrame {th : Thread} {n j : Nat} {e : NameSt} (he : look th.names n = some e) (hw : e.desc.win = true)
    (hj : j ≠ th.depth % 4) (v : List Nat) : ∃ e', look (th.setLanes n v).names n = some e' ∧ e'.fields[j]? = e.fields[j]? := by
  rcases setLanes_cases th n v with h | ⟨-, x, f, hx, -, h⟩ | ⟨-, h⟩ | ⟨-, h⟩ | ⟨-, h⟩
  case inr.inl =>
    rw [he] at hx
    cases hx
    rw [h]
    refine ⟨_, look_put_same _ _ _, getElem?_setAt_other _ _ ?_⟩
    rwa [frameSlot, if_pos hw]
  all_goals exact ⟨e, by rw [h]; exact he, rfl⟩

theorem setLanes_lanes_register {th : Thread} {n : Nat} (hn : n = 57 ∨ n = 58 ∨ n = 63) (vt : Word64) (v : List Nat) :
    (th.setLanes n v).lanes vt n = [v.headD 0 % 2 ^ 64] := by
  rcases hn with rfl | rfl | rfl <;> exact congrArg (fun w => [w]) (BitVec.toNat_ofNat _ _)

/-- Settles O54: a write of a name is one of the cases of `setLanes_cases`, each of which changes what its own name reads alone. -/
theorem namesHold : Obligations.NamesHold := fun th vt n v =>
  ⟨fun _ hn hf => setLanes_lanes_same hn hf vt v, fun _ => setLanes_desc th n n v,
    fun m hm => ⟨setLanes_lanes_other hm vt v, setLanes_desc th n m v⟩, fun _ _ he hw hj => setLanes_otherFrame he hw hj v,
    fun hn => setLanes_lanes_register hn vt v, rfl, rfl, rfl, rfl, rfl, rfl, Thread.setLanes_tid _ _ _, Thread.setLanes_ta _ _ _,
    Thread.setLanes_cid _ _ _, Thread.setLanes_pc _ _ _, fun hn _ => if_neg (Nat.not_lt.mpr hn)⟩

end Sys2Proof.Proofs
end


section
/-!
PROOFS. Shared operations on a core, in the terms of the statements: an update of a part of it or of a thread, an operation that nothing
records, what entering the histories leaves, and a write of local store with those that wait on its words.
-/

namespace Sys2Proof.Proofs

open Sys2Proof Sys2Proof.Machine Sys2Proof.Claims

/-! ### Updates of a core and of a thread -/

theorem modCore_onCore {s : State} (t : Trail s) (c : Nat) (f : Core → Core) : (t.modCore c f).1 = onCore t.1 c f := rfl

theorem modThread_onThread {s : State} (t : Trail s) (c sl : Nat) (f : Thread → Thread) : (t.modThread c sl f).1 = onThread t.1 c sl f := by
  unfold Trail.modThread onThread
  cases t.1.thread? c sl <;> rfl

theorem onThread_of {s : State} {c sl : Nat} {th : Thread} (h : s.thread? c sl = some th) (f : Thread → Thread) :
    onThread s c sl f = withThread s c sl (f th) := by
  unfold onThread
  rw [h]

theorem onCore_core (s : State) (c : Nat) (f : Core → Core) : (onCore s c f).core c = f (s.core c) := put_core _ _ _

theorem onCore_core_other (s : State) {c c' : Nat} (f : Core → Core) (h : c' ≠ c) : (onCore s c f).core c' = s.core c' :=
  put_core_other _ _ _ _ h

theorem onCore_onCore (s : State) (c : Nat) (f g : Core → Core) : onCore (onCore s c f) c g = onCore s c (fun k => g (f k)) := by
  unfold onCore
  simp only [put_core, put_put]

theorem onCore_congr {s : State} {c : Nat} {f g : Core → Core} (h : f (s.core c) = g (s.core c)) : onCore s c f = onCore s c g := by
  unfold onCore
  rw [h]

theorem withThread_onCore (s : State) (c sl : Nat) (th : Thread) :
    withThread s c sl th = onCore s c (fun k => { k with threads := put k.threads sl th }) := rfl

/-- An update of a core that leaves its threads leaves each thread of every core. -/
theorem onCore_thread {s : State} {c : Nat} {f : Core → Core} (h : (f (s.core c)).threads = (s.core c).threads) (c' sl : Nat) :
    (onCore s c f).thread? c' sl = s.thread? c' sl := by
  unfold State.thread?
  by_cases hc : c' = c
  · rw [hc, onCore_core, h]
  · rw [onCore_core_other _ _ hc]

/-- The thread that issues waits, in a state where it is still as it was at its issue. -/
theorem waits_of {s : State} {t : Trail s} {x : Ctx} (h : t.1.thread? x.c x.sl = some x.th) (st : Status) (args : List Nat) :
    (waits x st args t).1 = withThread t.1 x.c x.sl (x.th.wait x.i x.hint st args) := modThread_val _ _ _ _ _ h

/-- The second argument of a step of another agent, and so on. -/
theorem arg_of {s : State} {l : List Nat} (h : s.args = l) (n : Nat) : s.arg n = l.getD n 0 := by rw [State.arg, h]

/-! ### Operations that nothing records (R217, R218) -/

theorem gate_quiet {s : State} {n : Nat} (h : Quiet s (some n)) (r : Rec) (w : Waiter) : s.gate n r w = .run := by
  unfold State.gate
  cases hp : s.part? n with
  | none => rfl
  | some p =>
    obtain ⟨h1, h2⟩ := h n p rfl hp
    dsimp only
    rw [if_neg h1, if_neg h2]

theorem recordAs_quiet {s : State} {t : Trail s} {n : Nat} (h : Quiet t.1 (some n)) (r : Rec) (w : Waiter) :
    t.recordAs n r w = (t, none) := by
  unfold Trail.recordAs
  cases hp : t.1.part? n with
  | none => rfl
  | some p =>
    obtain ⟨h1, h2⟩ := h n p rfl hp
    dsimp only
    rw [if_neg h1, if_neg h2]

theorem quiet_of_parts {s t : State} {n : Option Nat} (h : Quiet s n) (hp : t.parts = s.parts) : Quiet t n := fun m p hm ht =>
  h m p hm (by rw [State.part?, ← hp]; exact ht)

/-- Outside record and replay a logged operation that leaves the partitions is performed, and that is all. -/
theorem logged_quiet {s : State} {t : Trail s} {n : Option Nat} {go : Effect s} (h : Quiet t.1 n) (hp : (go t).1.parts = t.1.parts)
    (r : Rec) (w : Waiter) (wait : Effect s) (bad : Nat → Effect s) : t.logged n r w wait bad go = go t := by
  unfold Trail.logged
  cases n with
  | none => rfl
  | some m =>
    dsimp only
    rw [gate_quiet h]
    dsimp only
    rw [recordAs_quiet (quiet_of_parts h hp)]

theorem ctxLogged_quiet {s : State} {t : Trail s} {x : Ctx} {go : Effect s} (h : Unlogged t.1 x) (hp : (go t).1.parts = t.1.parts) (r : Rec) :
    x.logged r go t = go t := logged_quiet (n := x.part) h hp _ _ _ _

theorem partOfCore_of_parts {s t : State} (h : t.parts = s.parts) (c : Nat) : t.partOfCore c = s.partOfCore c := by
  unfold State.partOfCore State.partOfCluster
  rw [h]

theorem onThread_parts (s : State) (c sl : Nat) (f : Thread → Thread) : (onThread s c sl f).parts = s.parts := by
  unfold onThread
  cases s.thread? c sl <;> rfl

theorem sent_form (s : State) (src dst : Nat) (i : Instr) (a : List Nat) :
    sent s src dst i a = { s with pending := (sent s src dst i a).pending, links := (sent s src dst i a).links, unsent := (sent s src dst i a).unsent } := by
  unfold sent
  dsimp only
  split_ifs <;> rfl

theorem sent_parts (s : State) (src dst : Nat) (i : Instr) (a : List Nat) : (sent s src dst i a).parts = s.parts := by
  rw [sent_form]

theorem sent_cores (s : State) (src dst : Nat) (i : Instr) (a : List Nat) : (sent s src dst i a).cores = s.cores := by
  rw [sent_form]

/-- What a request does depends on no core. -/
theorem sent_withCores (s : State) (cs : Tab Core) (src dst : Nat) (i : Instr) (a : List Nat) :
    sent { s with cores := cs } src dst i a = { sent s src dst i a with cores := cs } := by
  unfold sent
  dsimp only
  have hallows : ({ s with cores := cs } : State).linkAllows src (nextHop src dst) = s.linkAllows src (nextHop src dst) := rfl
  rw [hallows]
  split_ifs <;> rfl

/-! ### Entering the histories (R174) -/

/-- The histories of race detection alone change. -/
structure HistoriesOnly (s t : State) : Prop where
  rest : t = { s with cores := t.cores }
  bare : ∀ c, bare (t.core c) = bare (s.core c)
  threads : ∀ c, (t.core c).threads = (s.core c).threads

theorem HistoriesOnly.thread {s t : State} (h : HistoriesOnly s t) (c sl : Nat) : t.thread? c sl = s.thread? c sl := by
  unfold State.thread?
  rw [h.threads]

theorem HistoriesOnly.refusals {s t : State} (h : HistoriesOnly s t) (c : Nat) : (t.core c).refusals = (s.core c).refusals := by
  show (Claims.bare (t.core c)).refusals = (Claims.bare (s.core c)).refusals
  rw [h.bare]

theorem enterAll_bare (k : Core) (th : Thread) (sl : Nat) (w a : Bool) (ls : List Loc) :
    bare (k.enterAll th sl w a ls) = bare k := by
  unfold Core.enterAll
  induction ls generalizing k with
  | nil => rfl
  | cons l r ih =>
    rw [List.foldl_cons, ih]
    cases l <;> rfl

theorem enterAll_histories {s : State} (t : Trail s) (x : Ctx) (w a : Bool) (ls : List Loc) : HistoriesOnly t.1 (t.enterAll x w a ls).1 := by
  unfold Trail.enterAll
  split
  · exact ⟨rfl, fun _ => rfl, fun _ => rfl⟩
  · rw [modCore_onCore]
    refine ⟨rfl, fun c => ?_, fun c => ?_⟩
    · by_cases hc : c = x.c
      · rw [hc, onCore_core, enterAll_bare]
      · rw [onCore_core_other _ _ hc]
    · by_cases hc : c = x.c
      · rw [hc, onCore_core, (enterAll_fields _ _ _ _ _ _).1]
      · rw [onCore_core_other _ _ hc]

/-- A thread changes after its accesses have entered the histories. -/
theorem HistoriesOnly.readsOnly {s u : State} (h : HistoriesOnly s u) (c sl : Nat) (th : Thread) : ReadsOnly s (withThread u c sl th) c sl th where
  own := withThread_thread _ _ _ _
  others c' sl' hne := .inl ((withThread_thread_other _ _ _ _ _ _ (not_and_pair hne)).trans (h.thread c' sl'))
  cores c' := by
    rw [← h.bare c']
    by_cases hc : c' = c
    · rw [hc, withThread_core]
      rfl
    · rw [withThread_core_other _ _ _ _ _ hc]
  rest := by rw [withThread, h.rest]

/-! ### Threads that see a word written (R341) -/

/-- A thread is as it was; or it waits in an instruction and has seen the word that it waits on. -/
def SameOrSaw (s t : State) (c sl : Nat) : Prop :=
  t.thread? c sl = s.thread? c sl ∨ ∃ th st saw w, s.thread? c sl = some th ∧ th.op.isSome = true ∧
    t.thread? c sl = some { th with status := st, saw := saw, logWait := w }

theorem SameOrSaw.trans {s t u : State} {c sl : Nat} (h : SameOrSaw s t c sl) (k : SameOrSaw t u c sl) : SameOrSaw s u c sl := by
  rcases k with e | ⟨th, st, saw, w, e, ho, e'⟩
  · unfold SameOrSaw
    rw [e]
    exact h
  · rcases h with f | ⟨th', st', saw', w', f, ho', f'⟩
    · exact .inr ⟨th, st, saw, w, f ▸ e, ho, e'⟩
    · rw [f'] at e
      cases e
      exact .inr ⟨th', st, saw, w, f, ho', e'⟩

/-- A thread that is in no instruction sees nothing. -/
theorem SameOrSaw.idle {s t : State} {c sl : Nat} {th : Thread} (h : SameOrSaw s t c sl) (hth : s.thread? c sl = some th) (ho : th.op = none) :
    t.thread? c sl = some th := by
  rcases h with e | ⟨th', _, _, _, e, ho', -⟩
  · rw [e, hth]
  · rw [hth] at e
    cases e
    rw [ho] at ho'
    cases ho'

/-- A core but for its threads and the releases that its local words carry. -/
def wordless (k : Core) : Core := { k with threads := [], heads := [] }

/-- Bytes are written to a core's local store from an offset up: those that wait on them see them, and steps become due. -/
structure Stored (s t : State) (c off : Nat) (bs : List Byte) : Prop where
  rest : t = { s with loc := t.loc, cores := t.cores, bad := t.bad, pending := t.pending }
  loc : t.loc = writeLocal s.loc (locKey c off) bs
  core : ∀ c', wordless (t.core c') = wordless (s.core c')
  thread : ∀ c' sl, SameOrSaw s t c' sl

theorem writeLocal_append : ∀ (as bs : List Byte) (m : Mem) (k : Nat),
    writeLocal m k (as ++ bs) = writeLocal (writeLocal m k as) (k + as.length) bs
  | [], _, _, _ => rfl
  | a :: r, bs, m, k => by
    rw [List.cons_append, writeLocal, writeLocal_append r, writeLocal, List.length_cons, Nat.add_assoc, Nat.add_comm 1]

theorem Stored.nil {s t : State} (h : t = { s with cores := t.cores, pending := t.pending }) (hc : ∀ c', wordless (t.core c') = wordless (s.core c'))
    (hth : ∀ c' sl, SameOrSaw s t c' sl) (c off : Nat) : Stored s t c off [] :=
  ⟨by rw [h], by rw [h]; rfl, hc, hth⟩

theorem Stored.refl (s : State) (c off : Nat) : Stored s s c off [] := .nil rfl (fun _ => rfl) (fun _ _ => .inl rfl) c off

/-- A write right above another. -/
theorem Stored.append {s t u : State} {c off : Nat} {as bs : List Byte} (h : Stored s t c off as) (k : Stored t u c (off + as.length) bs) :
    Stored s u c off (as ++ bs) where
  rest := by rw [k.rest, h.rest]
  loc := by rw [k.loc, h.loc, writeLocal_append, locKey, locKey, Nat.add_assoc]
  core c' := (k.core c').trans (h.core c')
  thread c' sl := (h.thread c' sl).trans (k.thread c' sl)

/-- One thread sees a word. -/
theorem saw_stored {s : State} (t : Trail s) (c sl a len off v : Nat) (hs : List Head) (bad : Bool) :
    Stored t.1 (t.modThread c sl (fun th => if th.waitsOn true a len then th.sees v hs bad else th)).1 c off [] := by
  rw [modThread_onThread]
  cases hth : t.1.thread? c sl with
  | none =>
    unfold onThread
    rw [hth]
    exact .refl _ _ _
  | some th =>
    rw [onThread_of hth]
    refine .nil rfl (fun c' => ?_) (fun c' sl' => ?_) c off
    · by_cases hc : c' = c
      · rw [hc, withThread_core]
        rfl
      · rw [withThread_core_other _ _ _ _ _ hc]
    · by_cases hsame : c' = c ∧ sl' = sl
      · obtain ⟨rfl, rfl⟩ := hsame
        unfold SameOrSaw
        rw [withThread_thread, hth]
        split
        · next hw =>
          obtain ⟨st, saw, w, hsees⟩ := sees_form v hs bad th
          exact .inr ⟨th, st, saw, w, rfl, waitsOn_op hw, congrArg some hsees⟩
        · exact .inl rfl
      · exact .inl (withThread_thread_other _ _ _ _ _ _ (not_and_pair hsame))

/-- Threads of a core that wait on words see them. -/
theorem wakeWord_stored {s : State} (t : Trail s) (c a len off : Nat) : Stored t.1 (t.wakeWord c true a len).1 c off [] := by
  unfold Trail.wakeWord
  generalize (t.1.core c).threads.filter (fun p => p.2.waitsOn true a len) = l
  induction l generalizing t with
  | nil => exact .refl _ _ _
  | cons p r ih => exact Stored.append (saw_stored t c p.1 a len off _ _ _) (ih _)

theorem stored_of_addsDue {s t : State} (h : AddsDue s t) (c off : Nat) : Stored s t c off [] := by
  obtain ⟨p, rfl, -⟩ := h
  exact Stored.nil (t := { s with pending := p }) rfl (fun _ => rfl) (fun _ _ => .inl rfl) c off

theorem setHeads_wordless (k : Core) (off len : Nat) (hs : List Head) : wordless (k.setHeads off len hs) = wordless k := by
  unfold Core.setHeads
  dsimp only
  split <;> rfl

theorem localWrite_stored {s : State} (t : Trail s) (c off : Nat) (bs : List Byte) (hs : List Head) :
    Stored t.1 (t.localWrite c off bs hs).1 c off bs := by
  have hput : Stored t.1 (((t.locWrite c off bs).modCore c (fun k => k.setHeads off bs.length hs)).mendRun (some c) off bs.length).1 c off bs := by
    have hloc := locWrite_val bs t c off
    refine ⟨?_, ?_, fun c' => ?_, fun c' sl => .inl ?_⟩
    · unfold Trail.mendRun
      rw [Trail.act_val, Act.apply_errors, modCore_onCore, onCore, hloc]
    · unfold Trail.mendRun
      rw [Trail.act_val, Act.apply_errors, modCore_onCore, onCore, hloc]
    all_goals
      have hcore : (((t.locWrite c off bs).modCore c (fun k => k.setHeads off bs.length hs)).mendRun (some c) off bs.length).1.core c' =
          (onCore t.1 c (fun k => k.setHeads off bs.length hs)).core c' := by
        unfold Trail.mendRun
        rw [Trail.act_val, Act.apply_errors, modCore_onCore, onCore, hloc]
        rfl
    · rw [hcore]
      by_cases hc : c' = c
      · rw [hc, onCore_core, setHeads_wordless]
      · rw [onCore_core_other _ _ hc]
    · unfold State.thread?
      rw [hcore]
      by_cases hc : c' = c
      · rw [hc, onCore_core, setHeads_threads]
      · rw [onCore_core_other _ _ hc]
  have hwake := wakeWord_stored (((t.locWrite c off bs).modCore c (fun k => k.setHeads off bs.length hs)).mendRun (some c) off bs.length)
    c off bs.length (off + bs.length)
  have hring := stored_of_addsDue (wakeRing_adds ((((t.locWrite c off bs).modCore c (fun k => k.setHeads off bs.length hs)).mendRun (some c) off
    bs.length).wakeWord c true off bs.length) c off bs.length) c (off + bs.length)
  have hall := hput.append (hwake.append hring)
  rwa [List.append_nil, List.append_nil] at hall

/-! ### Bytes written -/

theorem bytes_eq_of_get {m : Mem} : ∀ {bs : List Byte} {a : Nat}, (∀ i, i < bs.length → m.get (a + i) = bs.getD i 0) → m.bytes a bs.length = bs
  | [], _, _ => rfl
  | b :: r, a, h => by
    rw [List.length_cons, Mem.bytes, bytes_eq_of_get (bs := r) fun i hi => ?_]
    · exact congrArg (· :: r) (h 0 (Nat.zero_lt_succ _))
    · rw [Nat.add_assoc, Nat.add_comm 1]
      exact h (i + 1) (Nat.succ_lt_succ hi)

/-- Bytes written within a core's local store are read back. -/
theorem bytes_writeLocal {m : Mem} {a : Nat} {bs : List Byte} (hm : m.wf) (h : a + bs.length ≤ 512 * 2097152) :
    (writeLocal m a bs).bytes a bs.length = bs :=
  bytes_eq_of_get fun i hi => writeLocal_at bs m a i hm hi (decide_eq_true (by omega))

theorem locKey_add (c off n : Nat) : locKey c (off + n) = locKey c off + n := (Nat.add_assoc _ _ _).symm

/-- A run within the 2 MiB of a core stands in local store. -/
theorem locKey_inside {c off n : Nat} (hc : c < 512) (h : off + n ≤ 2097152) : locKey c off + n ≤ 512 * 2097152 := by
  unfold locKey
  omega

end Sys2Proof.Proofs
end


section
/-!
PROOFS. Calls, returns, and the frames that go to memory and come back.
-/

namespace Sys2Proof.Proofs

open Sys2Proof Sys2Proof.Machine Sys2Proof.Claims

/-! ### Calls (R106, R107, R304) -/

theorem noSpill_iff {x : Ctx} : NoSpill x ↔ ¬(4 ≤ x.th.depth + 1 ∧ 0 < x.th.frameLanes ∧ (!x.th.spilled.contains (x.th.depth - 3)) = true) := by
  unfold NoSpill
  by_cases hin : x.th.depth - 3 ∈ x.th.spilled
  · simp [hin]
  · simp only [hin, or_false, List.contains_eq_mem, decide_false, Bool.not_false, and_true]
    omega

/-- Steps become due after a change of cores. -/
theorem rest_of_addsDue {s t u : State} (h : t = { s with cores := t.cores }) (k : AddsDue t u) :
    u = { s with cores := u.cores, pending := u.pending } := by
  obtain ⟨p, rfl, -⟩ := k
  rw [h]

theorem jumpTrace_untraced {b s : State} {x : Ctx} {t : Trail b} (h : Untraced s x.c x.sl) (ht : t.1.dies = s.dies) (pc : Nat) :
    t.jumpTrace x pc = t := trace_untraced _ _ _ _ _ ((traced_of_dies _ _ ht).trans h)

section
variable {s : State} {x : Ctx} {i : Instr} {tgt : Ctx → Except Stop Int} {traced : Bool} {a : Int} {pc : Nat}

theorem callTo_enters (h : Issues s i x) (ht : tgt x = .ok a) (hpc : x.target a = .ok pc) (hd : x.th.depth ≠ 65535) (hn : NoSpill x)
    (hu : traced = true → Untraced s x.c x.sl) : callTo i tgt traced s = .next (withThread s x.c x.sl (called x pc)) := by
  refine (issue_next (g := fun t =>
    let t := t.setThread x.c x.sl ((x.th.enterFrame (x.th.pc + 4)).retire pc)
    if traced then t.jumpTrace x pc else t) h ?_).trans ?_
  · simp only [ht, hpc, bind, Except.bind, if_neg hd, if_neg (noSpill_iff.mp hn)]
  · cases traced with
    | false => rfl
    | true =>
      dsimp only
      rw [if_pos rfl, jumpTrace_untraced (hu rfl) (Trail.setThread_dies _ _ _ _)]
      rfl

/-- A call whose frame slot is taken: the thread is Held, and the spill is due. -/
theorem callTo_held (h : Issues s i x) (he : exec i s = callTo i tgt traced s) (ht : tgt x = .ok a) (hpc : x.target a = .ok pc)
    (hd : x.th.depth ≠ 65535) (hs : Spills x) : CallHeld s x i := by
  have hspill : 4 ≤ x.th.depth + 1 ∧ 0 < x.th.frameLanes ∧ (!x.th.spilled.contains (x.th.depth - 3)) = true :=
    ⟨Nat.succ_le_succ hs.deep, hs.lanes, by simpa using hs.inside⟩
  have hrun : ¬((decide (x.th.ws.toNat < 8 * x.th.frameLanes) || !x.inRun (x.th.ws.toNat - 8 * x.th.frameLanes : Nat) (8 * x.th.frameLanes)) = true) := by
    rw [decide_eq_false (Nat.not_lt.mpr hs.fits), hs.run]
    exact Bool.false_ne_true
  have hist := enterAll_histories (begin s) x true false
    ((granules (x.runBase + (x.th.ws.toNat - 8 * x.th.frameLanes)) (8 * x.th.frameLanes)).map .gran)
  have hval := waits_of ((hist.thread x.c x.sl).trans h.thread) .held [pc]
  refine ⟨_, x.th.wait x.i x.hint .held [pc], he.trans (issue_next (g := fun t => (waits x .held [pc]
    (t.enterRun x (x.th.ws.toNat - 8 * x.th.frameLanes) (8 * x.th.frameLanes) true false)).pend .frameSpillDone [x.c, x.sl]) h ?_),
    ?_, rfl, rfl, rfl, rfl, rfl, rfl, ?_, ?_⟩
  · simp only [ht, hpc, bind, Except.bind, if_neg hd, if_pos hspill, if_neg (fun e : x.th.ws.toNat % 8 ≠ 0 => e hs.aligned), if_neg hrun,
      hs.noRace, hs.sound]
  · show (waits x .held [pc] _).1.thread? x.c x.sl = _
    rw [Trail.enterRun, hval]
    exact withThread_thread _ _ _ _
  · exact List.mem_append_right _ (List.mem_singleton.mpr rfl)
  · refine rest_of_addsDue (t := (waits x .held [pc] ((begin s).enterRun x _ _ true false)).1) ?_ (pend_adds _ _ _)
    rw [Trail.enterRun, hval]
    exact (hist.readsOnly _ _ _).rest

end

theorem callr_target {x : Ctx} {c : Nat} {d : Desc} (hc : Operand x c isInt d) :
    (do let _ ← x.check c .int; let v ← x.read0 c; .ok (v : Int) : Except Stop Int) = .ok ((val x c).headD 0 : Nat) := by
  simp only [check_int hc.dest, hc.read0, bind, Except.bind]

theorem callsHold : CallsHold := by
  refine ⟨fun s x disp pc h hpc hd hn => callTo_enters h rfl hpc hd hn nofun,
    fun s x c d pc h hc hu hpc hd hn => callTo_enters h (callr_target hc) hpc hd hn fun _ => hu,
    fun s x disp pc h hpc hd hs => callTo_held h rfl rfl hpc hd hs,
    fun s x c d pc h hc hpc hd hs => callTo_held h rfl (callr_target hc) hpc hd hs, fun s x disp pc h hpc hd => ?_⟩
  refine issue_traps h ?_
  have hpc' : x.target (x.relative 26 disp) = .ok pc := hpc
  simp only [hpc', bind, Except.bind, if_pos hd]

/-! ### Returns (R108, R305) -/

section
variable {s : State} {x : Ctx} {pc : Nat}

/-- The effect of a return from a frame above depth 0, when nothing is to be filled. -/
def leaves (x : Ctx) (pc : Nat) : Effect s := fun t =>
  (t.setThread x.c x.sl ({ x.th with depth := x.th.depth - 1 }.retire pc)).jumpTrace x pc

theorem leaves_untraced {t : Trail s} (h : Untraced t.1 x.c x.sl) :
    leaves x pc t = t.setThread x.c x.sl ({ x.th with depth := x.th.depth - 1 }.retire pc) :=
  jumpTrace_untraced h (Trail.setThread_dies _ _ _ _) pc

/-- A thread that leaves its frame while the fill of the frame below, to end in the slot that is freed, begins at `a`. -/
def leftFilling (x : Ctx) (pc a : Nat) : Thread :=
  { x.th with depth := x.th.depth - 1, fill := x.th.fill ++ [(x.th.depth - 4, a)] }.retire pc

/-- The effect of a return from a frame above depth 0 whose fill begins. -/
def leavesFilling (x : Ctx) (pc a : Nat) : Effect s := fun t =>
  (((t.enterRun x a (8 * x.th.frameLanes) false false).setThread x.c x.sl (leftFilling x pc a)).jumpTrace x pc).pendOnce
    .frameFillDone [x.c, x.sl]

/-- No frame in memory belongs in the slot that is freed: the frame is left. -/
theorem leaveFrame_plain (h : x.th.depth < 4 ∨ x.th.depth - 4 ∉ x.th.spilled) : x.leaveFrame (s := s) pc = .ok (leaves x pc) := by
  have hno : ¬(3 ≤ x.th.depth - 1 ∧ x.th.spilled.contains (x.th.depth - 1 - 3) = true) := by
    rintro ⟨hdeep, hin⟩
    rw [Nat.sub_sub, List.contains_iff_mem] at hin
    exact h.elim (fun e => by omega) fun e => e hin
  unfold Ctx.leaveFrame
  exact if_neg hno

/-- The frame that belongs in the slot that is freed is in memory: its fill begins. -/
theorem leaveFrame_fills {a : Nat} (ha : a = x.th.ws.toNat + 8 * x.th.frameLanes * x.th.fill.length) (h4 : 4 ≤ x.th.depth)
    (hin : x.th.depth - 4 ∈ x.th.spilled) (hal : a % 8 = 0) (hrun : x.inRun a (8 * x.th.frameLanes) = true)
    (hrace : x.runRace a (8 * x.th.frameLanes) false false = .ok ()) (hecc : x.runEcc a (8 * x.th.frameLanes) = .ok ()) :
    x.leaveFrame (s := s) pc = .ok (leavesFilling x pc a) := by
  subst ha
  have hyes : 3 ≤ x.th.depth - 1 ∧ x.th.spilled.contains (x.th.depth - 1 - 3) = true := by
    rw [Nat.sub_sub, List.contains_iff_mem]
    exact ⟨by omega, hin⟩
  unfold Ctx.leaveFrame
  dsimp only
  rw [if_pos hyes, if_neg fun e => e hal, if_neg (by rw [hrun]; exact Bool.false_ne_true), hrace, hecc, Nat.sub_sub]
  rfl

/-- What a return leaves whose fill begins: the thread, the fill's end due, and histories entered. -/
theorem leavesFilling_begin {a : Nat} (hu : Untraced s x.c x.sl) (t : State) (h : t = (leavesFilling x pc a (begin s)).1) :
    t.thread? x.c x.sl = some (leftFilling x pc a) ∧ ⟨.frameFillDone, [x.c, x.sl]⟩ ∈ t.pending ∧
      t = { s with cores := t.cores, pending := t.pending } := by
  have hist := enterAll_histories (begin s) x false false ((granules (x.runBase + a) (8 * x.th.frameLanes)).map .gran)
  have hreads := hist.readsOnly x.c x.sl (leftFilling x pc a)
  generalize hw : ((begin s).enterRun x a (8 * x.th.frameLanes) false false).setThread x.c x.sl (leftFilling x pc a) = w
  replace hreads : ReadsOnly s w.1 x.c x.sl (leftFilling x pc a) := by rw [← hw]; exact hreads
  have hval : t = (w.pendOnce .frameFillDone [x.c, x.sl]).1 := by
    unfold leavesFilling at h
    rw [h, hw, jumpTrace_untraced hu (by rw [hreads.rest]) pc]
  subst hval
  have hadds := pendOnce_adds w .frameFillDone [x.c, x.sl]
  refine ⟨?_, pendOnce_due _ _ _, rest_of_addsDue hreads.rest hadds⟩
  obtain ⟨d, hd, -⟩ := hadds
  rw [hd]
  exact hreads.own

theorem awaitsFill_iff {th : Thread} : th.awaitsFill = true ↔ th.depth - 1 ∈ th.spilled := List.contains_iff_mem

/-- The course of a `ret` above depth 0 whose frame is at hand. -/
theorem exec_ret_leaves {g : Effect s} (h : Issues s .ret x) (hpc : x.target x.th.lk.toNat = .ok pc) (hd : x.th.depth ≠ 0)
    (hin : x.th.depth - 1 ∉ x.th.spilled) (hg : x.leaveFrame pc = .ok g) : exec .ret s = .next (g (begin s)).1 := by
  refine issue_next h ?_
  simp only [hpc, bind, Except.bind, if_neg hd, if_neg (fun e => hin (awaitsFill_iff.mp e)), hg]

end

/-- The course of FRAME_FILL_DONE. -/
theorem exec_frameFillDone {s : State} {c sl f a : Nat} {x : Ctx} {r : List (Nat × Nat)} (ha : s.args = [c, sl]) (hx : s.ctx? c sl .ret = some x)
    (hf : x.th.fill = (f, a) :: r) : exec .frameFillDone s = .next
      (((if r.isEmpty then (begin s).setThread c sl (x.th.filled f (s.locWords c (x.runBase + a) x.th.frameLanes))
        else ((begin s).setThread c sl (x.th.filled f (s.locWords c (x.runBase + a) x.th.frameLanes))).pendOnce .frameFillDone
          [c, sl]).resumeRet c sl).settle c sl).1 := by
  show execFrameFillDone s = _
  unfold execFrameFillDone
  rw [event_val]
  simp only [begin_val, arg_of ha, List.getD_cons_zero, List.getD_cons_succ, hx, hf]

/-- A thread that is in no instruction is in no `ret`. -/
theorem resumeRet_idle {s : State} {t : Trail s} {c sl : Nat} {th : Thread} (h : t.1.thread? c sl = some th) (ho : th.op = none) :
    t.resumeRet c sl = t := by
  unfold Trail.resumeRet Trail.resume State.opCtx?
  rw [h]
  dsimp only
  rw [ho]
  rfl

theorem frameFillDone_fills {s : State} {c sl f a : Nat} {x : Ctx} {r : List (Nat × Nat)} (ha : s.args = [c, sl])
    (hx : s.ctx? c sl .ret = some x) (hf : x.th.fill = (f, a) :: r) (ho : x.th.op = none) :
    ∃ t, exec .frameFillDone s = .next t ∧
      t.thread? c sl = some (x.th.filled f (s.locWords c (x.runBase + a) x.th.frameLanes)) ∧
      (r ≠ [] → ⟨.frameFillDone, [c, sl]⟩ ∈ t.pending) ∧
      t = { s with cores := t.cores, pending := t.pending } ∧ ThreadsOnly s t (fun c' sl' => c' = c ∧ sl' = sl) := by
  have hex := exec_frameFillDone ha hx hf
  generalize hth : x.th.filled f (s.locWords c (x.runBase + a) x.th.frameLanes) = th at hex
  have hop : th.op = none := by rw [← hth]; exact ho
  generalize hu : (if r.isEmpty then (begin s).setThread c sl th else ((begin s).setThread c sl th).pendOnce .frameFillDone [c, sl]) = u at hex
  have hlook : LooksAgain (withThread s c sl th) u.1 ∧ u.1.thread? c sl = some th ∧ (r ≠ [] → ⟨.frameFillDone, [c, sl]⟩ ∈ u.1.pending) := by
    rw [← hu]
    cases r with
    | nil => exact ⟨.refl _, withThread_thread _ _ _ _, fun h => absurd rfl h⟩
    | cons p q =>
      obtain ⟨d, hd, -⟩ := pendOnce_adds ((begin s).setThread c sl th) .frameFillDone [c, sl]
      exact ⟨looksAgain_of_addsDue (pendOnce_adds _ _ _), (congrArg (fun v => v.thread? c sl) hd).trans (withThread_thread _ _ _ _),
        fun _ => pendOnce_due _ _ _⟩
  obtain ⟨hlook, hthread, hdue⟩ := hlook
  rw [resumeRet_idle hthread hop] at hex
  have hsettle := settle_looksAgain u c sl
  obtain ⟨hown, honly⟩ := (hlook.trans hsettle).only (s := s) rfl hop
  exact ⟨_, hex, hown, fun hr => hsettle.due _ (hdue hr), (hlook.trans hsettle).rest, honly⟩

theorem opCtx_place {s : State} {c sl : Nat} {x : Ctx} {a : List Nat} (h : s.opCtx? c sl = some (x, a)) : x.c = c ∧ x.sl = sl := by
  obtain ⟨th, o, -, -, rfl, -⟩ := opCtx_eq h
  exact ⟨rfl, rfl⟩

/-- The slot of an instruction in progress, seen by another instruction. -/
theorem ctx?_of_opCtx {s : State} {c sl : Nat} {x : Ctx} {a : List Nat} (h : s.opCtx? c sl = some (x, a)) (i : Instr) :
    s.ctx? c sl i = some { x with i := i, hint := x.th.hint } := by
  obtain ⟨th, o, hth, -, rfl, -⟩ := opCtx_eq h
  rw [State.ctx?, hth]
  rfl

/-- A thread changes and its instruction is still in progress. -/
theorem opCtx?_withThread {s : State} {c sl : Nat} {x : Ctx} {a : List Nat} {th : Thread} (h : s.opCtx? c sl = some (x, a)) (ho : th.op = x.th.op) :
    (withThread s c sl th).opCtx? c sl = some ({ x with s := withThread s c sl th, k := (withThread s c sl th).core c, th := th }, a) := by
  obtain ⟨th', o, -, ho', rfl, rfl⟩ := opCtx_eq h
  rw [State.opCtx?, withThread_thread]
  dsimp only
  rw [ho, show (Ctx.th _).op = some o from ho']
  rfl

theorem resumeRet_leaves {s : State} {t : Trail s} {c sl pc : Nat} {x : Ctx} (h : t.1.opCtx? c sl = some (x, [pc])) (hi : x.i = .ret)
    (hst : x.th.status = .held) (haw : x.th.awaitsFill = false) (hin : x.th.depth < 4 ∨ x.th.depth - 4 ∉ x.th.spilled) (hu : Untraced t.1 c sl) :
    t.resumeRet c sl = (t.setThread c sl ({ x.th with depth := x.th.depth - 1 }.retire pc)).settle c sl := by
  obtain ⟨rfl, rfl⟩ := opCtx_place h
  have hf : (if x.i = .ret ∧ x.th.status = .held ∧ x.th.awaitsFill = false then x.leaveFrame ([pc].headD 0) else .ok id) =
      (.ok (leaves x pc) : Except Stop (Effect s)) := (if_pos ⟨hi, hst, haw⟩).trans (leaveFrame_plain hin)
  unfold Trail.resumeRet
  rw [resume_ok t h hf, leaves_untraced hu]

/-- A `ret` that was Held for its frame goes on when the fill has ended. -/
theorem frameFillDone_returns {s : State} {c sl a pc : Nat} {x : Ctx} (ha : s.args = [c, sl]) (hx : s.opCtx? c sl = some (x, [pc]))
    (hi : x.i = .ret) (hst : x.th.status = .held) (hf : x.th.fill = [(x.th.depth - 1, a)])
    (hin : x.th.depth < 4 ∨ x.th.depth - 4 ∉ x.th.spilled) (hu : Untraced s c sl) :
    ∃ t, exec .frameFillDone s = .next t ∧ t.thread? c sl =
        some ({ x.th.filled (x.th.depth - 1) (s.locWords c (x.runBase + a) x.th.frameLanes) with depth := x.th.depth - 1 }.retire pc) ∧
      t = { s with cores := t.cores, pending := t.pending } ∧ ThreadsOnly s t (fun c' sl' => c' = c ∧ sl' = sl) := by
  have hex := exec_frameFillDone ha (ctx?_of_opCtx hx .ret) hf
  generalize hth : x.th.filled (x.th.depth - 1) (s.locWords c (x.runBase + a) x.th.frameLanes) = th
  replace hex : exec .frameFillDone s = .next ((((begin s).setThread c sl th).resumeRet c sl).settle c sl).1 := by rw [hex, ← hth]; rfl
  have hspilled : th.spilled = x.th.spilled.filter (fun g => decide (g ≠ x.th.depth - 1)) := by rw [← hth]; rfl
  have hdepth : th.depth = x.th.depth := by rw [← hth]; rfl
  have hawaits : th.awaitsFill = false := by
    rw [Bool.eq_false_iff, ne_eq, awaitsFill_iff, hspilled, hdepth]
    simp
  have hplain : th.depth < 4 ∨ th.depth - 4 ∉ th.spilled := by
    rw [hdepth, hspilled]
    exact hin.imp_right fun e hmem => e (List.mem_filter.mp hmem).1
  have hop := opCtx?_withThread (th := th) hx (by rw [← hth]; rfl)
  have hgoes := resumeRet_leaves (t := (begin s).setThread c sl th) hop hi (by rw [← hth]; exact hst) hawaits hplain
    ((traced_of_dies c sl rfl).trans hu)
  rw [hgoes] at hex
  have hlook := (settle_looksAgain (((begin s).setThread c sl th).setThread c sl ({ th with depth := th.depth - 1 }.retire pc)) c sl).trans
    (settle_looksAgain _ c sl)
  rw [setThread_val, setThread_val, begin_val, withThread_withThread] at hlook
  obtain ⟨hown, honly⟩ := hlook.only (s := s) rfl rfl
  refine ⟨_, hex, ?_, hlook.rest, honly⟩
  rw [← hdepth]
  exact hown

/-- A return at depth 0 is a jump. -/
theorem ret_ends {s : State} {x : Ctx} {pc : Nat} (h : Issues s .ret x) (hu : Untraced s x.c x.sl) (hpc : x.target x.th.lk.toNat = .ok pc)
    (hd : x.th.depth = 0) : exec .ret s = .next (withThread s x.c x.sl (x.th.retire pc)) := by
  have hval := retireAt_val h pc
  have hgo : (retireAt x pc (begin s)).jumpTrace x pc = retireAt x pc (begin s) := jumpTrace_untraced hu (by rw [hval]; rfl) pc
  have hex : exec .ret s = .next ((retireAt x pc (begin s)).jumpTrace x pc).1 := by
    refine issue_next (g := fun t => (retireAt x pc t).jumpTrace x pc) h ?_
    simp only [hpc, bind, Except.bind, if_pos hd]
  rw [hex, hgo, hval]

/-- A return whose frame is at hand while the frame three below is in memory: the fill of that frame begins. -/
theorem ret_fills {s : State} {x : Ctx} {pc a : Nat} (h : Issues s .ret x) (hu : Untraced s x.c x.sl) (hpc : x.target x.th.lk.toNat = .ok pc)
    (h4 : 4 ≤ x.th.depth) (hin : x.th.depth - 1 ∉ x.th.spilled) (hout : x.th.depth - 4 ∈ x.th.spilled)
    (ha : a = x.th.ws.toNat + 8 * x.th.frameLanes * x.th.fill.length) (hal : a % 8 = 0) (hrun : x.inRun a (8 * x.th.frameLanes) = true)
    (hrace : x.runRace a (8 * x.th.frameLanes) false false = .ok ()) (hecc : x.runEcc a (8 * x.th.frameLanes) = .ok ()) :
    ∃ t, exec .ret s = .next t ∧ t.thread? x.c x.sl = some (leftFilling x pc a) ∧ ⟨.frameFillDone, [x.c, x.sl]⟩ ∈ t.pending ∧
      t = { s with cores := t.cores, pending := t.pending } :=
  have hd : x.th.depth ≠ 0 := Nat.pos_iff_ne_zero.mp (Nat.lt_of_lt_of_le (by decide) h4)
  ⟨_, exec_ret_leaves h hpc hd hin (leaveFrame_fills ha h4 hout hal hrun hrace hecc), leavesFilling_begin hu _ rfl⟩

theorem returnsHold : ReturnsHold := by
  refine ⟨fun s x pc h hu hpc hd => ?_, fun s x pc h hu hpc hd hin hno => ?_, fun s x pc h hu hpc h4 hin hout => ?_,
    fun s x pc h hpc hd hin => ?_, fun s c sl x f a r ha hx hf ho => frameFillDone_fills ha hx hf ho,
    fun s c sl x a pc ha hx hi hst hf hin hu => frameFillDone_returns ha hx hi hst hf hin hu⟩
  case refine_1 =>
    exact ret_ends h hu hpc hd
  case refine_2 =>
    rw [exec_ret_leaves h hpc hd hin (leaveFrame_plain hno), leaves_untraced (t := begin s) hu]
    rfl
  case refine_3 => exact ret_fills h hu hpc h4 hin hout rfl
  case refine_4 =>
    refine (issue_next (g := waits x .held [pc]) h ?_).trans (congrArg Host.Outcome.next (waits_val h .held [pc]))
    simp only [hpc, bind, Except.bind, if_neg hd, if_pos (awaitsFill_iff.mpr hin)]

/-! ### Frames that are spilled (R107, R304) -/

/-- The call's thread when the frame below `ws` has gone to memory: `ws` has fallen, and the thread is in its new frame. -/
def spilledThread (x : Ctx) (pc : Nat) : Thread :=
  ({ x.th with
      spilled := x.th.spilled ++ [x.th.depth - 3]
      ws := BitVec.ofNat 64 (x.th.ws.toNat - 8 * x.th.frameLanes) }.enterFrame (x.th.pc + 4)).retire pc

/-- A frame goes to memory, below `ws`, and the call that waits for it enters its frame. -/
def spillsFrame {s : State} (x : Ctx) (pc : Nat) : Effect s := fun t =>
  (t.localStore x.c (x.runBase + (x.th.ws.toNat - 8 * x.th.frameLanes))
    (packWords 8 (x.th.frameWords ((x.th.depth - 3) % 4)))).setThread x.c x.sl (spilledThread x pc)

theorem spillsFrame_stored {s : State} (x : Ctx) (pc : Nat) : ∃ u : State,
    Stored s u x.c (x.runBase + (x.th.ws.toNat - 8 * x.th.frameLanes)) (packWords 8 (x.th.frameWords ((x.th.depth - 3) % 4))) ∧
      (spillsFrame x pc (begin s)).1 = withThread u x.c x.sl (spilledThread x pc) :=
  ⟨_, localWrite_stored (begin s) _ _ _ [], setThread_val _ _ _ _⟩

/-- The course of FRAME_SPILL_DONE for a call. -/
theorem exec_frameSpillDone {s : State} {c sl pc : Nat} {x : Ctx} (ha : s.args = [c, sl]) (hx : s.opCtx? c sl = some (x, [pc]))
    (hi : (∃ n, x.i = .call n) ∨ ∃ n, x.i = .callr n) (hu : Untraced s c sl) (hst : x.th.status = .held)
    (hecc : x.frameEcc ((x.th.depth - 3) % 4) = .ok ()) :
    exec .frameSpillDone s = .next ((spillsFrame x pc (begin s)).settle c sl).1 := by
  obtain ⟨rfl, rfl⟩ := opCtx_place hx
  have hjump : (spillsFrame x pc (begin s)).jumpTrace x pc = spillsFrame x pc (begin s) := by
    obtain ⟨u, hstored, hval⟩ := spillsFrame_stored (s := s) x pc
    exact jumpTrace_untraced hu (by rw [hval, withThread, hstored.rest]) pc
  show execFrameSpillDone s = _
  unfold execFrameSpillDone
  rw [event_val]
  simp only [arg_of ha, List.getD_cons_zero, List.getD_cons_succ]
  rcases hi with ⟨n, hi⟩ | ⟨n, hi⟩
  · rw [resume_ok (g := spillsFrame x pc) (begin s) hx]
    simp only [if_pos hst, hecc, hi, bind, Except.bind]
    rfl
  · rw [resume_ok (g := fun t => (spillsFrame x pc t).jumpTrace x pc) (begin s) hx, hjump]
    simp only [if_pos hst, hecc, hi, bind, Except.bind]
    rfl

theorem spillWritesFrameHold : SpillWritesFrameHold := by
  intro s c sl x pc ha hx hi hu hst hecc hwf hfit hc hin base bytes
  have hex := exec_frameSpillDone ha hx hi hu hst hecc
  obtain ⟨rfl, rfl⟩ := opCtx_place hx
  obtain ⟨u, hstored, hval⟩ := spillsFrame_stored (s := s) x pc
  have hlook := settle_looksAgain (spillsFrame x pc (begin s)) x.c x.sl
  rw [hval] at hlook
  have hrest := hlook.rest
  have hloc : (((spillsFrame x pc (begin s)).settle x.c x.sl).1).loc = writeLocal s.loc base bytes := by
    rw [hrest]
    exact hstored.loc
  refine ⟨_, hex, (hlook.only (s := u) rfl rfl).1, fun k _ hk => ?_, fun j hlen hj => ?_, ?_⟩
  · rw [hloc, writeLocal_other _ _ _ _ hk]
  · rw [hloc]
    have hinside : base + 8 * x.th.frameLanes ≤ 512 * 2097152 := locKey_inside hc (by omega)
    exact writeLocal_at bytes s.loc base j hwf hj (decide_eq_true (by omega))
  · rw [hrest, withThread, hstored.rest]

/-- Settles O11, from the courses of calls, of returns and fills, and of the end of a spill. -/
theorem callsAndReturns : Obligations.CallsAndReturns := ⟨callsHold, returnsHold, spillWritesFrameHold⟩

end Sys2Proof.Proofs
end


section
/-!
PROOFS. Patterns: loading one, the locks of its rows, and a name resized with its values.
-/

namespace Sys2Proof.Proofs

open Sys2Proof Sys2Proof.Machine Sys2Proof.Claims

/-! ### Locked rows (R103 to R105) -/

/-- A slot's rows are locked, with the step that ends the lock, and nothing else. -/
structure Locked (s t : State) (c sl : Nat) (rows : List Nat) (n : Nat) (i : Instr) : Prop where
  locks : LocksFor t c sl rows n i
  thread : ∀ c' sl', t.thread? c' sl' = s.thread? c' sl'
  claims : ∀ c', (t.core c').claims = (s.core c').claims
  refusals : ∀ c', (t.core c').refusals = (s.core c').refusals
  rest : t = { s with cores := t.cores, timers := t.timers }

/-- A core with a slot's rows locked, in place of those that it had locked. -/
def relocked (sl : Nat) (rows : List Nat) (k : Core) : Core :=
  { k with locks := k.locks.filter (fun l => decide (l.1 ≠ sl)) ++ [(sl, rows)] }

theorem lockRows_locked {s : State} (t : Trail s) (c sl : Nat) (rows : List Nat) (n : Nat) (i : Instr) :
    Locked t.1 (t.lockRows c sl rows n i).1 c sl rows n i := by
  have hcore (c') : (t.lockRows c sl rows n i).1.core c' = (onCore t.1 c (relocked sl rows)).core c' := rfl
  have hfield {α : Type} (g : Core → α) (hg : ∀ k, g (relocked sl rows k) = g k) (c') :
      g ((t.lockRows c sl rows n i).1.core c') = g (t.1.core c') := by
    rw [hcore]
    by_cases hc : c' = c
    · rw [hc, onCore_core, hg]
    · rw [onCore_core_other _ _ hc]
  refine ⟨⟨?_, List.mem_append_right _ (List.mem_singleton.mpr rfl)⟩, fun c' sl' => ?_, hfield _ fun _ => rfl, hfield _ fun _ => rfl, rfl⟩
  · rw [hcore, onCore_core]
    exact List.mem_append_right _ (List.mem_singleton.mpr rfl)
  · exact congrArg (fun l => look l sl') (hfield Core.threads (fun _ => rfl) c')

/-! ### Unlocked rows -/

/-- A thread as it is when rows of its core are freed. -/
def rowsFreedThread (th : Thread) : Thread :=
  if th.status = .held ∧ (match th.op with | some o => waitsForRows o.instr | none => false) = true then th.again else th

theorem rowsFreedThread_cases (th : Thread) :
    rowsFreedThread th = th ∨ th.op.isSome = true ∧ rowsFreedThread th = th.again := by
  unfold rowsFreedThread
  by_cases hw : th.status = .held ∧ (match th.op with | some o => waitsForRows o.instr | none => false) = true
  · refine .inr ⟨?_, if_pos hw⟩
    cases ho : th.op with
    | none => rw [ho] at hw; exact absurd hw.2 Bool.false_ne_true
    | some o => rfl
  · exact .inl (if_neg hw)

theorem look_rowsFreed (k : Core) (sl : Nat) : look k.rowsFreed.threads sl = (look k.threads sl).map rowsFreedThread :=
  look_map rowsFreedThread k.threads sl

theorem unlock_thread (s : State) (c sl c' sl' : Nat) : (onCore s c (fun k => k.unlock sl)).thread? c' sl' =
    if c' = c then (s.thread? c' sl').map rowsFreedThread else s.thread? c' sl' := by
  unfold State.thread?
  by_cases hc : c' = c
  · rw [if_pos hc, hc, onCore_core]
    exact look_rowsFreed _ sl'
  · rw [if_neg hc, onCore_core_other _ _ hc]

theorem unlock_sameOrAgain (s : State) (c sl c' sl' : Nat) : SameOrAgain s (onCore s c (fun k => k.unlock sl)) c' sl' := by
  unfold SameOrAgain
  rw [unlock_thread]
  split
  · cases hth : s.thread? c' sl' with
    | none => exact .inl rfl
    | some th =>
      rcases rowsFreedThread_cases th with e | ⟨ho, e⟩
      · exact .inl (congrArg some e)
      · exact .inr ⟨th, rfl, ho, congrArg some e⟩
  · exact .inl rfl

/-- The locks and claims that are left are those of other slots. -/
theorem mem_unlock_locks {k : Core} {sl : Nat} {l : Nat × List Nat} : l ∈ (k.unlock sl).locks ↔ l ∈ k.locks ∧ l.1 ≠ sl := by
  show l ∈ k.locks.filter _ ↔ _
  rw [List.mem_filter, decide_eq_true_iff]

theorem mem_unlock_claims {k : Core} {sl : Nat} {l : Nat × Nat × Nat} : l ∈ (k.unlock sl).claims ↔ l ∈ k.claims ∧ l.1 ≠ sl := by
  show l ∈ k.claims.filter _ ↔ _
  rw [List.mem_filter, decide_eq_true_iff]

/-! ### mapld (R96, R105, R292) -/

/-- A thread whose rows are busy for as long as its load takes. -/
def loaded (x : Ctx) (names : Tab NameSt) (m : RMode) : Thread :=
  let th := { x.th with relFence := none }.loadPattern names m
  { th with busy := max th.busy (2 * th.rows.length) }.retire (x.th.pc + 4)

/-- The rows that a pattern load writes. -/
def loadedRows (x : Ctx) (names : Tab NameSt) (m : RMode) : List Nat := ({ x.th with relFence := none }.loadPattern names m).rows

/-- A pattern of n bytes is loaded: its bytes enter the histories, the thread has its names, and their rows are locked. -/
def loads {s : State} (x : Ctx) (i : Instr) (p n : Nat) (names : Tab NameSt) (m : RMode) : Effect s := fun t =>
  ((t.enterRun x p n false false).setThread x.c x.sl (loaded x names m)).lockRows x.c x.sl (loadedRows x names m)
    (2 * (loadedRows x names m).length) i

theorem inRun_shorter {x : Ctx} {a : Int} {m n : Nat} (h : x.inRun a n = true) (hmn : m ≤ n) : x.inRun a m = true := by
  unfold Ctx.inRun at h ⊢
  simp only [Bool.and_eq_true, decide_eq_true_iff] at h ⊢
  omega

theorem runEcc_sound {x : Ctx} {a n : Nat} (h : x.localBad (x.runBase + a) n = none) : x.runEcc a n = .ok () := by
  unfold Ctx.runEcc
  rw [h]

/-- A pattern's load, where nobody waits for what it frees: its state, and what its locks leave. -/
theorem loads_locked {s : State} {x : Ctx} (i : Instr) (p n : Nat) (names : Tab NameSt) (m : RMode) : ∃ w : State,
    HistoriesOnly s w ∧ Locked (withThread w x.c x.sl (loaded x names m)) (loads x i p n names m (begin s)).1 x.c x.sl
      (loadedRows x names m) (2 * (loadedRows x names m).length) i :=
  ⟨((begin s).enterRun x p n false false).1, enterAll_histories (begin s) x false false _,
    lockRows_locked (((begin s).enterRun x p n false false).setThread x.c x.sl (loaded x names m)) _ _ _ _ _⟩

theorem withThread_refusals (s : State) (c sl : Nat) (th : Thread) (c' : Nat) :
    ((withThread s c sl th).core c').refusals = (s.core c').refusals := by
  by_cases hc : c' = c
  · rw [hc, withThread_core]
  · rw [withThread_core_other _ _ _ _ _ hc]

theorem loads_contextFree {s : State} {x : Ctx} {i : Instr} {p n : Nat} {names : Tab NameSt} {m : RMode}
    (hr : (s.core x.c).refusals = []) :
    (loads x i p n names m (begin s)).contextFree x.c = loads x i p n names m (begin s) := by
  obtain ⟨w, hist, hlocked⟩ := loads_locked (s := s) (x := x) i p n names m
  exact contextFree_none _ _ ((hlocked.refusals x.c).trans ((withThread_refusals _ _ _ _ _).trans ((hist.refusals x.c).trans hr)))

theorem patternLoadHold : PatternLoadHold := by
  intro s x a imm d p m ds names h ha hp hal hrun hhead hbad hrace hm hds hcharge hplace hr th
  have hrefusals : (s.core x.c).refusals = [] := h.k_eq ▸ hr
  have hex : exec (.mapld a imm) s =
      .next (loads x (.mapld a imm) p (8 + 4 * (x.locNum p 8 % 64)) names m (begin s)).1 := by
    show execMapld a imm s = _
    unfold execMapld
    rw [h.cur]
    refine (issue_next (g := fun t =>
      let t := loads x (.mapld a imm) p (8 + 4 * (x.locNum p 8 % 64)) names m t
      if x.steward || x.th.names.isEmpty then t else t.contextFree x.c) h ?_).trans ?_
    · have hal' : ¬((p : Int) % 8 ≠ 0) := by omega
      simp only [check_int ha.dest, ha.read0, bind, Except.bind, hp, if_neg hal', inRun_shorter hrun (Nat.le_add_right _ _), hrun,
        Int.toNat_natCast, runEcc_sound hhead, runEcc_sound hbad, hrace, hm, hds, if_neg (Nat.not_lt.mpr hcharge), hplace,
        Bool.not_true, Bool.false_eq_true, if_false]
      rfl
    · dsimp only
      rw [loads_contextFree hrefusals, ite_self]
  obtain ⟨w, hist, hlocked⟩ := loads_locked (s := s) (x := x) (.mapld a imm) p (8 + 4 * (x.locNum p 8 % 64)) names m
  refine ⟨_, hex, (hlocked.thread _ _).trans (withThread_thread _ _ _ _), hlocked.locks, ?_, fun c sl hne => ?_⟩
  · rw [hlocked.rest, withThread, hist.rest]
  · rw [hlocked.thread, withThread_thread_other _ _ _ _ _ _ (not_and_pair hne), hist.thread]

theorem patternUnlocksHold : PatternUnlocksHold := by
  intro s c sl a imm hcur hargs
  refine ⟨onCore s c (fun k => k.unlock sl), ?_, fun l hl => ?_, fun l hl hne => ?_, rfl, unlock_sameOrAgain s c sl⟩
  · show execMapld a imm s = _
    unfold execMapld
    rw [hcur, hargs]
    rfl
  · rw [onCore_core] at hl
    exact (mem_unlock_locks.mp hl).2
  · rw [onCore_core]
    exact mem_unlock_locks.mpr ⟨hl, hne⟩

/-! ### Patterns placed (R97, R98) -/

/-- Fields that are placed, as many as asked for, with every lane zero. -/
theorem placeCopies_zero {sl size lanes : Nat} : ∀ {n : Nat} {occ occ' : List (Nat × Nat)} {fs : List Field},
    placeCopies sl size lanes n occ = some (fs, occ') → fs.length = n ∧ ∀ f ∈ fs, f.lanes = List.replicate lanes 0
  | 0, occ, occ', fs, h => by
    cases h
    exact ⟨rfl, nofun⟩
  | n + 1, occ, occ', fs, h => by
    unfold placeCopies at h
    split at h
    · cases h
    · next row b _ =>
      split at h
      · cases h
      · next fs' occ'' hrec =>
        cases h
        obtain ⟨hlen, hz⟩ := placeCopies_zero hrec
        exact ⟨congrArg Nat.succ hlen, List.forall_mem_cons.mpr ⟨rfl, hz⟩⟩

/-- A name of a list of descriptors, with fields that have every lane zero. -/
def ZeroName (ds : List (Nat × Desc)) (n : Nat) (e : NameSt) : Prop :=
  (n, e.desc) ∈ ds ∧ e.fields.length = (if e.desc.win then 4 else 1) ∧ ∀ f ∈ e.fields, f.lanes = List.replicate e.desc.lanes 0

theorem placeAll_zero {sl : Nat} : ∀ {ds : List (Nat × Desc)} {occ : List (Nat × Nat)} {l : List (Nat × NameSt)},
    placeAll sl ds occ = some l → ∀ p ∈ l, ZeroName ds p.1 p.2
  | [], occ, l, h => by
    cases h
    exact nofun
  | (n, d) :: r, occ, l, h => by
    unfold placeAll at h
    split at h
    · cases h
    · next fs occ' hcopies =>
      obtain ⟨l', hl', rfl⟩ := Option.map_eq_some_iff.mp h
      obtain ⟨hlen, hz⟩ := placeCopies_zero hcopies
      refine List.forall_mem_cons.mpr ⟨⟨List.mem_cons_self, hlen, hz⟩, fun p hp => ?_⟩
      obtain ⟨hmem, hrest⟩ := placeAll_zero hl' p hp
      exact ⟨List.mem_cons_of_mem _ hmem, hrest⟩

/-- What a table that is filled from a list holds comes from the list. -/
theorem look_foldl_put {α : Type} : ∀ {l : List (Nat × α)} {t : Tab α} {n : Nat} {e : α},
    look (l.foldl (fun t p => put t p.1 p.2) t) n = some e → (n, e) ∈ l ∨ look t n = some e
  | [], _, _, _, h => .inr h
  | (k, v) :: r, t, n, e, h => by
    rcases look_foldl_put (l := r) h with hmem | hlook
    · exact .inl (List.mem_cons_of_mem _ hmem)
    · by_cases hk : n = k
      · subst hk
        rw [look_put_same] at hlook
        cases hlook
        exact .inl List.mem_cons_self
      · rw [look_put_other _ _ _ _ hk] at hlook
        exact .inr hlook

theorem placedPatternsAreZeroHold : PlacedPatternsAreZeroHold := by
  intro sl ds occ names h n e hlook
  obtain ⟨l, hl, rfl⟩ := Option.map_eq_some_iff.mp h
  have hmem : (n, e) ∈ l := (look_foldl_put hlook).resolve_right nofun
  obtain ⟨hin, hrest⟩ := placeAll_zero hl (n, e) hmem
  exact ⟨mem_sortBy hin, hrest⟩

/-! ### resz (R101 to R104, R293) -/

section
variable {x : Ctx} {d kind wd : Nat} {dd : Desc} {f : Field} {r : List Nat}

theorem resizes_field (h : Resizes x d kind wd dd f r) : x.th.field? d = some f := by
  unfold Thread.field?
  rw [h.name]
  dsimp only
  rw [h.plain]
  rfl

theorem fmt?_of_isInt {k : Kind} (h : k.isInt = true) : k.fmt? = none := by
  revert h
  cases k <;> decide

/-- A sound `resz` of an integer name has its new descriptor and values. -/
theorem resize_of (h : Resizes x d kind wd dd f r) : x.resize d kind wd = .ok ({ dd with width := wd + 1 }, r, f) := by
  have hint : dd.kind.isInt = true := h.operand.fits
  have hlanes : eachLane (fun l => resizeLane dd dd.kind (wd + 1) l (lane (val x d) l)) 0 dd.lanes = .ok r := by
    obtain ⟨hlen, hl⟩ := h.values
    refine eachLane_ok _ _ _ hlen fun i hi => ?_
    unfold resizeLane
    rw [fmt?_of_isInt hint, Nat.zero_add]
    exact orTrap_some (hl i hi)
  have hkind : ¬((dd.win || (dd.kind.isInt && decide (dd.kind ≠ dd.kind)) || (dd.kind.isFloat && !dd.kind.isFloat) ||
      !kindFits dd.kind (wd + 1)) = true) := by
    simp [h.plain, not_isFloat hint, kindFits, fmt?_of_isInt hint]
  unfold Ctx.resize
  simp only [check_any h.operand.dest, h.kind, resizes_field h, bind, Except.bind, if_neg hkind, if_neg (Nat.not_lt.mpr h.charge), h.operand.read, hlanes]

end

/-- A slot claims the bits that a move needs, or none. -/
structure Claimed (s t : State) (c sl : Nat) (moved : Bool) (place size : Nat) : Prop where
  claim : moved = true → (sl, place, size) ∈ (t.core c).claims
  thread : ∀ c' sl', t.thread? c' sl' = s.thread? c' sl'
  rest : t = { s with cores := t.cores }

/-- A core with bits claimed for a slot. -/
def claimedCore (sl place size : Nat) (k : Core) : Core := { k with claims := k.claims ++ [(sl, place, size)] }

/-- The bits of a moved field are claimed. -/
def claims {s : State} (c sl : Nat) (moved : Bool) (place size : Nat) : Effect s := fun t =>
  if moved then t.modCore c (claimedCore sl place size) else t

theorem claims_claimed {s : State} (t : Trail s) (c sl : Nat) (moved : Bool) (place size : Nat) :
    Claimed t.1 (claims c sl moved place size t).1 c sl moved place size := by
  cases moved with
  | false => exact ⟨nofun, fun _ _ => rfl, rfl⟩
  | true =>
    refine ⟨fun _ => ?_, fun c' sl' => onCore_thread (f := claimedCore sl place size) rfl c' sl', rfl⟩
    show _ ∈ ((onCore t.1 c (claimedCore sl place size)).core c).claims
    rw [onCore_core]
    exact List.mem_append_right _ (List.mem_singleton.mpr rfl)

/-- A `resz` is in flight for n clocks. -/
def resizing {s : State} (x : Ctx) (row bit n : Nat) (moved : Bool) (size : Nat) (rows : List Nat) : Effect s := fun t =>
  (claims x.c x.sl moved (row * 512 + bit) (span size) ((waits x .inFlight [row, bit, bitAt moved 0] t).modThread x.c x.sl
    (fun th => { th with busy := n }))).lockRows x.c x.sl rows n x.i

theorem reszInFlight {s : State} {i : Instr} {x : Ctx} (h : Issues s i x) (args : List Nat) (n : Nat) :
    ((waits x .inFlight args (begin s)).modThread x.c x.sl (fun th => { th with busy := n })).1 =
      withThread s x.c x.sl { x.th.wait i x.hint .inFlight args with busy := n } := by
  have hval := waits_val h .inFlight args
  rw [modThread_val _ _ _ _ _ (hval ▸ withThread_thread _ _ _ _), hval, withThread_withThread]

theorem reszIssuesHold {s : State} {x : Ctx} {d kind wd : Nat} {dd : Desc} {f : Field} {r : List Nat} {row bit : Nat} {moved : Bool}
    (h : Issues s (.resz d kind wd) x) (hx : Resizes x d kind wd dd f r)
    (hp : x.resizePlace d (dd.width * dd.lanes) ((wd + 1) * dd.lanes) f = some (row, bit, moved)) (hfree : moved = false ∨ x.k.moveRuns x.sl = false) :
    let rows := reszRows f (dd.width * dd.lanes) row bit ((wd + 1) * dd.lanes)
    let n := reszClocks moved rows
    ∃ t, exec (.resz d kind wd) s = .next t ∧
      t.thread? x.c x.sl = some { x.th.wait (.resz d kind wd) x.hint .inFlight [row, bit, bitAt moved 0] with busy := n } ∧
      LocksFor t x.c x.sl rows n (.resz d kind wd) ∧ (moved = true → (x.sl, row * 512 + bit, span ((wd + 1) * dd.lanes)) ∈ (t.core x.c).claims) ∧
      t = { s with cores := t.cores, timers := t.timers } ∧ ∀ c sl, ¬(c = x.c ∧ sl = x.sl) → t.thread? c sl = s.thread? c sl := by
  intro rows n
  have hnot : ¬((moved && x.k.moveRuns x.sl) = true) := by
    rcases hfree with e | e <;> simp [e]
  have hex : exec (.resz d kind wd) s = .next (resizing x row bit n moved ((wd + 1) * dd.lanes) rows (begin s)).1 := by
    show execResz d kind wd s = _
    unfold execResz
    rw [h.cur]
    refine issue_next h ?_
    unfold Ctx.reszIssues
    simp only [resize_of hx, hx.operand.desc, Desc.size, hp, bind, Except.bind, if_neg hnot]
    rfl
  have hclaimed := claims_claimed ((waits x .inFlight [row, bit, bitAt moved 0] (begin s)).modThread x.c x.sl (fun th => { th with busy := n }))
    x.c x.sl moved (row * 512 + bit) (span ((wd + 1) * dd.lanes))
  have hlocked := lockRows_locked (claims x.c x.sl moved (row * 512 + bit) (span ((wd + 1) * dd.lanes))
    ((waits x .inFlight [row, bit, bitAt moved 0] (begin s)).modThread x.c x.sl (fun th => { th with busy := n }))) x.c x.sl rows n x.i
  rw [reszInFlight h] at hclaimed
  rw [h.i_eq] at hlocked
  refine ⟨_, hex.trans (by rw [resizing, h.i_eq]), ?_, hlocked.locks, fun hm => ?_, ?_, fun c sl hne => ?_⟩
  · rw [hlocked.thread, hclaimed.thread, withThread_thread]
  · rw [hlocked.claims]
    exact hclaimed.claim hm
  · rw [hlocked.rest, hclaimed.rest, withThread]
  · rw [hlocked.thread, hclaimed.thread, withThread_thread_other _ _ _ _ _ _ (not_and_pair hne)]

theorem reszHeld {s : State} {x : Ctx} {d kind wd : Nat} {dd : Desc} {f : Field} {r : List Nat} {row bit : Nat} {moved : Bool}
    (h : Issues s (.resz d kind wd) x) (hx : Resizes x d kind wd dd f r)
    (hp : x.resizePlace d (dd.width * dd.lanes) ((wd + 1) * dd.lanes) f = some (row, bit, moved)) (hm : moved = true)
    (hruns : x.k.moveRuns x.sl = true) :
    ∃ t, exec (.resz d kind wd) s = .next t ∧ t.thread? x.c x.sl = some (x.th.wait (.resz d kind wd) x.hint .held []) ∧
      (x.sl, f.rows (dd.width * dd.lanes)) ∈ (t.core x.c).locks ∧ t = { s with cores := t.cores } := by
  have hboth : (moved && x.k.moveRuns x.sl) = true := by rw [hm, hruns]; rfl
  have hex : exec (.resz d kind wd) s =
      .next (onCore (waits x .held [] (begin s)).1 x.c (relocked x.sl (f.rows (dd.width * dd.lanes)))) := by
    show execResz d kind wd s = _
    unfold execResz
    rw [h.cur]
    refine issue_next (g := fun t => (waits x .held [] t).modCore x.c (relocked x.sl (f.rows (dd.width * dd.lanes)))) h ?_
    unfold Ctx.reszIssues
    simp only [resize_of hx, hx.operand.desc, Desc.size, hp, bind, Except.bind, if_pos hboth]
    rfl
  rw [waits_val h] at hex
  refine ⟨_, hex, ?_, ?_, rfl⟩
  · exact (onCore_thread rfl _ _).trans (withThread_thread _ _ _ _)
  · rw [onCore_core]
    exact List.mem_append_right _ (List.mem_singleton.mpr rfl)

/-- The thread of a `resz` that retires: its name stands in its place. -/
def resized (x : Ctx) (d wd : Nat) (dd : Desc) (fd : Field) (moved : Bool) : Thread :=
  (x.th.resized d { dd with width := wd + 1 } fd moved).retire (x.th.pc + 4)

/-- A `resz` of an integer name retires, and what a move or a smaller width frees is told to those that wait for it. -/
def retiresResized {s : State} (x : Ctx) (d wd : Nat) (dd : Desc) (fd : Field) (moved : Bool) : Effect s := fun t =>
  let t := t.setThread x.c x.sl (resized x d wd dd fd moved)
  if !x.steward && (moved || decide (({ dd with width := wd + 1 } : Desc).size < dd.size)) then t.contextFree x.c else t

theorem retiresResized_val {s : State} {x : Ctx} {d wd : Nat} {dd : Desc} {fd : Field} {moved : Bool} (hr : (s.core x.c).refusals = []) :
    retiresResized x d wd dd fd moved (begin s) = (begin s).setThread x.c x.sl (resized x d wd dd fd moved) := by
  unfold retiresResized
  dsimp only
  rw [contextFree_none _ _ ((withThread_refusals _ _ _ _ _).trans hr), ite_self]

/-- The course of the end of a `resz`, where nobody waits for what it frees. -/
theorem exec_resz_retires {s : State} {c sl : Nat} {x : Ctx} {d kind wd : Nat} {dd : Desc} {f : Field} {r : List Nat} {row bit : Nat}
    {moved : Bool} (hcur : s.cur = none) (hargs : s.args = [c, sl]) (hop : s.opCtx? c sl = some (x, [row, bit, bitAt moved 0]))
    (hi : x.i = .resz d kind wd) (hst : x.th.status = .inFlight) (hx : Resizes x d kind wd dd f r) (hfree : (s.core c).rowsInUse sl = false)
    (hr : (s.core c).refusals = []) :
    exec (.resz d kind wd) s = .next (onCore (((begin s).setThread c sl (resized x d wd dd ⟨row, bit, r⟩ moved)).settle c sl).1 c
      (fun k => k.unlock sl)) := by
  obtain ⟨rfl, rfl⟩ := opCtx_place hop
  have hmoved : decide (bitAt moved 0 = 1) = moved := by cases moved <;> rfl
  have hinuse : ¬((begin s).1.core x.c).rowsInUse x.sl = true := by rw [begin_val, hfree]; exact Bool.false_ne_true
  have hgo : ¬(x.i ≠ .resz d kind wd ∨ x.th.status ≠ .inFlight) := by simp [hi, hst]
  show execResz d kind wd s = _
  unfold execResz
  rw [hcur, hargs]
  dsimp only
  rw [event_val]
  unfold Trail.reszRetires
  rw [if_neg hinuse, modCore_onCore, resume_ok (g := retiresResized x d wd dd ⟨row, bit, r⟩ moved) (begin s) hop, retiresResized_val hr]
  simp only [if_neg hgo, resize_of hx, hx.operand.desc, bind, Except.bind, List.getD_cons_zero, List.getD_cons_succ, hmoved]
  rfl

theorem reszRetiresHold {s : State} {c sl : Nat} {x : Ctx} {d kind wd : Nat} {dd : Desc} {f : Field} {r : List Nat} {row bit : Nat}
    {moved : Bool} (hcur : s.cur = none) (hargs : s.args = [c, sl]) (hop : s.opCtx? c sl = some (x, [row, bit, bitAt moved 0]))
    (hi : x.i = .resz d kind wd) (hst : x.th.status = .inFlight) (hx : Resizes x d kind wd dd f r) (hfree : (s.core c).rowsInUse sl = false)
    (hr : (s.core c).refusals = []) :
    ∃ t, exec (.resz d kind wd) s = .next t ∧ t.thread? c sl = some (resized x d wd dd ⟨row, bit, r⟩ moved) ∧
      (∀ l ∈ (t.core c).locks, l.1 ≠ sl) ∧ (∀ l ∈ (t.core c).claims, l.1 ≠ sl) ∧
      t = { s with cores := t.cores, pending := t.pending } ∧ ∀ c' sl', ¬(c' = c ∧ sl' = sl) → SameOrAgain s t c' sl' := by
  have hex := exec_resz_retires hcur hargs hop hi hst hx hfree hr
  have hlook := settle_looksAgain ((begin s).setThread c sl (resized x d wd dd ⟨row, bit, r⟩ moved)) c sl
  generalize (((begin s).setThread c sl (resized x d wd dd ⟨row, bit, r⟩ moved)).settle c sl).1 = v at hex hlook
  obtain ⟨hown, -, honly⟩ := hlook.only (s := s) rfl rfl
  refine ⟨_, hex, ?_, fun l hl => ?_, fun l hl => ?_, ?_, fun c' sl' hne => sameOrAgain_trans (honly c' sl' hne) (unlock_sameOrAgain v c sl c' sl')⟩
  · rw [unlock_thread, if_pos rfl, hown, Option.map_some]
    rcases rowsFreedThread_cases (resized x d wd dd ⟨row, bit, r⟩ moved) with e | ⟨ho, -⟩
    · rw [e]
    · cases ho
  · rw [onCore_core] at hl
    exact (mem_unlock_locks.mp hl).2
  · rw [onCore_core] at hl
    exact (mem_unlock_claims.mp hl).2
  · rw [onCore, hlook.rest]
    rfl

theorem resizeHold : ResizeHold := by
  refine ⟨fun s x d kind wd dd f r row bit moved h hx hp => ⟨reszIssuesHold h hx hp, reszHeld h hx hp⟩,
    fun s c sl x d kind wd dd f r row bit moved hcur hargs hop hi hst hx hfree hr => ?_⟩
  have hk : x.k = s.core c := by
    obtain ⟨th, o, -, -, rfl, -⟩ := opCtx_eq hop
    rfl
  obtain ⟨t, hex, hown, hrest⟩ := reszRetiresHold hcur hargs hop hi hst hx hfree (hk ▸ hr)
  refine ⟨t, hex, hown.trans (congrArg some ?_), hrest⟩
  simp only [resized, Thread.resized, Bool.and_eq_true, decide_eq_true_iff, ne_eq]

/-- Settles O12, from the courses of `mapld` and of `resz`, of the ends of their locks, and of the placing of a pattern. -/
theorem patterns : Obligations.Patterns := ⟨patternLoadHold, patternUnlocksHold, placedPatternsAreZeroHold, resizeHold⟩

end Sys2Proof.Proofs
end


section
/-!
PROOFS. Loads and stores of local store: where a lane address leads, what a load gives, and what a store writes.
-/

namespace Sys2Proof.Proofs

open Sys2Proof Sys2Proof.Machine Sys2Proof.Claims

/-! ### Where a lane address leads (R110, R112, R195, R331) -/

theorem raceCheck_none {x : Ctx} {write atomic : Bool} (h : ∀ loc, x.race loc write atomic = none) :
    ∀ ls, x.raceCheck write atomic ls = .ok ()
  | [] => rfl
  | (l, p) :: r => by
    unfold Ctx.raceCheck
    rw [h]
    exact raceCheck_none h r

/-- One lane of a user thread: its alignment, and then its region, decide. -/
theorem localChecks_one {x : Ctx} {size l : Nat} {a : Int} {write : Bool} (hu : x.steward = false)
    (hr : ∀ loc, x.race loc write false = none) (hw : x.watch false (!write) write [(a, size)] = none) :
    x.localChecks size write [(l, a)] =
      if alignLocal a size = true then (x.region l a size write).map (fun p => [p]) else trap ALIGN (showAddr a) := by
  unfold Ctx.localChecks
  by_cases hal : alignLocal a size = true
  · rw [if_pos hal, List.find?_cons_of_neg (by simp [hal]), List.find?_nil]
    cases hreg : x.region l a size write with
    | error e => simp only [eachOf, hreg, bind, Except.bind, Except.map]
    | ok p =>
      simp only [eachOf, hreg, hu, raceCheck_none hr, Ctx.watchCheck, List.map_cons, List.map_nil, hw, bind, Except.bind, Except.map,
        Bool.false_eq_true, if_false]
  · rw [if_neg hal, List.find?_cons_of_pos (by simp [hal])]

section
variable {x : Ctx} {n : Task} {a l size : Nat} {write : Bool}

theorem alignLocal_iff : alignLocal (a : Int) size = true ↔ a % size = 0 ∧ (size = 8 ∨ a < 0x01000000 ∨ 0x01080000 ≤ a) := by
  unfold alignLocal
  simp only [Bool.and_eq_true, Bool.or_eq_true, Bool.not_eq_true', Bool.and_eq_false_iff, decide_eq_true_iff, decide_eq_false_iff_not]
  omega

/-- The bytes of a user's task, by their number. -/
theorem inRun_iff (hu : x.steward = false) (hn : x.task = some n) : x.inRun (a : Int) size = true ↔ a + size ≤ n.hw * 4096 := by
  unfold Ctx.inRun Ctx.runLen
  rw [hu, hn]
  simp only [Bool.false_eq_true, if_false, Bool.and_eq_true, decide_eq_true_iff]
  omega

theorem runBase_of (hu : x.steward = false) (hn : x.task = some n) : x.runBase = n.localBase := by
  unfold Ctx.runBase
  rw [hu, hn]
  rfl

end

theorem localPlacesHold : LocalPlacesHold := by
  intro x n a l size write hsl hn hhw hsize ha hr hw go
  have hu : x.steward = false := decide_eq_false hsl
  have hrun := inRun_iff (a := a) (size := size) hu hn
  have hpos : 0 < size := by rcases hsize with h | h | h | h <;> omega
  have hgo : go = _ := localChecks_one hu hr hw
  rw [showAddr_natCast ha] at hgo
  have hregion (hal : alignLocal (a : Int) size = true) : go = (x.region l a size write).map (fun p => [p]) := hgo.trans (if_pos hal)
  have htrap (hal : ¬alignLocal (a : Int) size = true) : go = trap ALIGN a := hgo.trans (if_neg hal)
  refine ⟨fun h => htrap fun e => h (alignLocal_iff.mp e).1, fun h hin => ?_, fun hlo hhi hne => htrap fun e => ?_, fun h h8 hlo hhi => ?_,
    fun h hlo hhi => ?_, fun h hout hplace => ?_⟩
  case refine_1 =>
    rw [hregion (alignLocal_iff.mpr ⟨h, by omega⟩), Ctx.region, if_pos (hrun.mpr hin), runBase_of hu hn, Int.toNat_natCast]
    rfl
  case refine_2 =>
    have := (alignLocal_iff.mp e).2
    omega
  case refine_3 =>
    have hnot : ¬x.inRun (a : Int) size = true := fun e => by have := hrun.mp e; omega
    rw [hregion (alignLocal_iff.mpr ⟨h8 ▸ h, .inl h8⟩), Ctx.region, if_neg hnot, if_pos (by omega), Int.toNat_natCast, showAddr_natCast ha]
    dsimp only
    split <;> rfl
  case refine_4 =>
    have hnot : ¬x.inRun (a : Int) size = true := fun e => by have := hrun.mp e; omega
    rw [hregion (alignLocal_iff.mpr ⟨h, by omega⟩), Ctx.region, if_neg hnot, if_neg (by omega), if_pos (by omega), Int.toNat_natCast,
      showAddr_natCast ha, hu]
    cases write <;> rfl
  case refine_5 =>
    have hnot : ¬x.inRun (a : Int) size = true := fun e => by have := hrun.mp e; omega
    rw [hregion (alignLocal_iff.mpr ⟨h, by omega⟩), Ctx.region, if_neg hnot, if_neg (by omega), if_neg (by omega), showAddr_natCast ha]
    rfl

/-! ### Loads (R332, R334) -/

theorem checkData_of {x : Ctx} {d sz : Nat} {dd : Desc} (h : DataName x d sz dd) : x.checkData d (2 ^ sz) = .ok dd := by
  have hfloat : ¬((dd.kind.isFloat && decide (dd.width ≠ 8 * 2 ^ sz)) = true) := by
    simp only [Bool.and_eq_true, decide_eq_true_iff, not_and, not_not]
    exact h.float
  unfold Ctx.checkData
  simp only [check_any h.toDest, bind, Except.bind, if_neg hfloat]

theorem eachOf_ok {α β : Type} {f : α → Except Stop β} : ∀ {l : List α} {r : List β}, List.Forall₂ (fun a b => f a = .ok b) l r →
    eachOf f l = .ok r
  | [], _, .nil => rfl
  | a :: l, _, .cons h hr => by
    unfold eachOf
    simp only [h, eachOf_ok hr, bind, Except.bind]

theorem eachOf_map {α β : Type} {f : α → Except Stop β} {g : α → β} : ∀ {l : List α}, (∀ a ∈ l, f a = .ok (g a)) → eachOf f l = .ok (l.map g)
  | [], _ => rfl
  | a :: l, h => by
    unfold eachOf
    simp only [h a List.mem_cons_self, eachOf_map (fun b hb => h b (List.mem_cons_of_mem _ hb)), bind, Except.bind, List.map_cons]

theorem loadLane_of {dd : Desc} {size l w v : Nat} (h : Loaded dd size w v) : loadLane dd size l w = .ok v := by
  unfold Loaded isFlt at h
  unfold loadLane
  split at h
  · next hf => rw [if_pos hf, h]
  · next hf => rw [if_neg hf]; exact orTrap_some h

/-- The lanes of a load, from the places that they lead to. -/
theorem loadLanes_of {x : Ctx} {dd : Desc} {size : Nat} {ps : List Place3} {r : List Nat}
    (h : PerLane ps.length r (fun l v => ∃ w, (ps[l]?).map (x.readPlace size) = some (.ok w) ∧ Loaded dd size w v)) :
    eachOf (fun p : Nat × Place3 => do
      let v ← x.readPlace size p.2
      loadLane dd size p.1 v) ((upFrom 0 ps.length).zip ps) = .ok r := by
  obtain ⟨hlen, hl⟩ := h
  refine eachOf_ok (List.forall₂_iff_get.mpr ⟨by simp [hlen], fun i hi hr => ?_⟩)
  have hi' : i < ps.length := hlen ▸ hr
  obtain ⟨w, hw, hloaded⟩ := hl i hi'
  rw [List.getElem?_eq_getElem hi', Option.map_some, Option.some.injEq] at hw
  rw [List.getD_eq_getElem?_getD, List.getElem?_eq_getElem hr, Option.getD_some] at hloaded
  simp only [List.get_eq_getElem, List.getElem_zip, hw, bind, Except.bind]
  exact loadLane_of hloaded

theorem startAt_fold (x : Ctx) (a sz off : Nat) : ((val x a).headD 0 : Nat) + x.offM off (2 ^ sz) = startAt x a sz off := rfl

/-- The course of `ld` and `ldv` on windows that no lock holds. -/
theorem localLoad_next {s : State} {i : Instr} {x : Ctx} {d a sz off : Nat} {vec : Bool} {da dd : Desc} {ps : List Place3} {r : List Nat}
    (h : Issues s i x) (ha : Operand x a isInt da) (hd : DataName x d sz dd)
    (hps : x.localChecks (2 ^ sz) false (strided (startAt x a sz off) (2 ^ sz) (if vec then dd.lanes else 1)) = .ok ps)
    (hw : x.windowLocked ps = false)
    (hr : PerLane ps.length r (fun l v => ∃ w, (ps[l]?).map (x.readPlace (2 ^ sz)) = some (.ok w) ∧ Loaded dd (2 ^ sz) w v)) :
    localLoad i d a sz off vec s = .next (withThread ((begin s).enterAll x false false (x.locsOf ps)).1 x.c x.sl
      ((x.th.setLanes d (if vec then r else r.headD 0 :: (val x d).drop 1)).retire (x.th.pc + 4))) := by
  refine (issue_next (g := fun t =>
    own x (fun th => if vec then th.setLanes d r else th.setLane0 x.k.vt d (r.headD 0)) (t.enterAll x false false (x.locsOf ps))) h ?_).trans ?_
  · have hlanes := loadLanes_of hr
    simp only [bind, Except.bind] at hlanes
    simp only [check_int ha.dest, checkData_of hd, ha.read0, bind, Except.bind, startAt_fold, hps, heldOnWindow, hw, Bool.false_eq_true, if_false, hlanes]
  · cases vec <;> rfl

theorem localLoad_reads {s : State} {i : Instr} {x : Ctx} {d a sz off : Nat} {vec : Bool} {da dd : Desc} {ps : List Place3} {r : List Nat}
    (h : Issues s i x) (ha : Operand x a isInt da) (hd : DataName x d sz dd)
    (hps : x.localChecks (2 ^ sz) false (strided (startAt x a sz off) (2 ^ sz) (if vec then dd.lanes else 1)) = .ok ps)
    (hw : x.windowLocked ps = false)
    (hr : PerLane ps.length r (fun l v => ∃ w, (ps[l]?).map (x.readPlace (2 ^ sz)) = some (.ok w) ∧ Loaded dd (2 ^ sz) w v)) :
    ∃ t, localLoad i d a sz off vec s = .next t ∧
      ReadsOnly s t x.c x.sl ((x.th.setLanes d (if vec then r else r.headD 0 :: (val x d).drop 1)).retire (x.th.pc + 4)) ∧
      ∀ c sl, ¬(c = x.c ∧ sl = x.sl) → t.thread? c sl = s.thread? c sl := by
  have hist := enterAll_histories (begin s) x false false (x.locsOf ps)
  refine ⟨_, localLoad_next h ha hd hps hw hr, hist.readsOnly _ _ _, fun c sl hne => ?_⟩
  exact (withThread_thread_other _ _ _ _ _ _ (not_and_pair hne)).trans (hist.thread c sl)

/-- An access that a lock holds is Held. -/
theorem localLoad_held {s : State} {i : Instr} {x : Ctx} {d a sz off : Nat} {vec : Bool} {da dd : Desc} {ps : List Place3}
    (h : Issues s i x) (ha : Operand x a isInt da) (hd : DataName x d sz dd)
    (hps : x.localChecks (2 ^ sz) false (strided (startAt x a sz off) (2 ^ sz) (if vec then dd.lanes else 1)) = .ok ps)
    (hw : x.windowLocked ps = true) : localLoad i d a sz off vec s = .next (withThread s x.c x.sl (x.th.wait i x.hint .held [])) := by
  refine (issue_next (g := waits x .held []) h ?_).trans (congrArg Host.Outcome.next (waits_val h .held []))
  simp only [check_int ha.dest, checkData_of hd, ha.read0, bind, Except.bind, startAt_fold, hps, heldOnWindow, hw, if_true]

theorem localStoreOp_held {s : State} {i : Instr} {x : Ctx} {d a sz off : Nat} {vec : Bool} {da dd : Desc} {ps : List Place3}
    (h : Issues s i x) (ha : Operand x a isInt da) (hd : DataName x d sz dd) (hrow : x.rowBad d = none)
    (hps : x.localChecks (2 ^ sz) true (strided (startAt x a sz off) (2 ^ sz) (if vec then dd.lanes else 1)) = .ok ps)
    (hw : x.windowLocked ps = true) : localStoreOp i d a sz off vec s = .next (withThread s x.c x.sl (x.th.wait i x.hint .held [])) := by
  have hval : Operand x d isAny dd := ⟨hd.desc, rfl, hrow⟩
  refine (issue_next (g := waits x .held []) h ?_).trans (congrArg Host.Outcome.next (waits_val h .held []))
  simp only [check_int ha.dest, checkData_of hd, ha.read0, hval.read, bind, Except.bind, startAt_fold, hps, heldOnWindow, hw, if_true]

theorem localLoadsHold : LocalLoadsHold := by
  refine ⟨fun s x d a sz off da dd ps r h ha hd hps hw hr => localLoad_reads (vec := false) h ha hd hps hw hr,
    fun s x d a sz off da dd ps r h ha hd hps hw hr => localLoad_reads (vec := true) h ha hd hps hw hr,
    fun s x d a sz off da dd ps h ha hd _ hps hw => localLoad_held (vec := false) h ha hd hps hw,
    fun s x d a sz off da dd ps h ha hd _ hps hw => localLoad_held (vec := true) h ha hd hps hw,
    fun s x d a sz off da dd ps h ha hd hrow hps hw => localStoreOp_held (vec := false) h ha hd (hrow rfl) hps hw,
    fun s x d a sz off da dd ps h ha hd hrow hps hw => localStoreOp_held (vec := true) h ha hd (hrow rfl) hps hw,
    fun x size off hbad => ?_⟩
  unfold Ctx.readPlace
  dsimp only
  rw [hbad, Mem.read_eq_leNat]

/-! ### Stores (R332, R334) -/

/-- The bytes of n lanes from lane k up. -/
def laneBytes (v : Nat → Nat) (size k n : Nat) : List Byte := (upFrom k n).flatMap (fun l => leBytes (v l) size)

theorem laneBytes_length (v : Nat → Nat) (size : Nat) : ∀ n k, (laneBytes v size k n).length = n * size
  | 0, _ => (Nat.zero_mul _).symm
  | n + 1, k => by
    rw [laneBytes, upFrom, List.flatMap_cons, List.length_append, leBytes_length, Nat.add_one_mul, Nat.add_comm]
    exact congrArg (· + size) (laneBytes_length v size n (k + 1))

theorem laneBytes_getD {v : Nat → Nat} {size i : Nat} (hi : i < size) : ∀ {n k l : Nat}, l < n →
    (laneBytes v size k n).getD (l * size + i) 0 = (leBytes (v (k + l)) size).getD i 0
  | n + 1, k, 0, _ => by
    rw [laneBytes, upFrom, List.flatMap_cons, Nat.zero_mul, Nat.zero_add, List.getD_append _ _ _ _ (by rw [leBytes_length]; exact hi)]
    rfl
  | n + 1, k, l + 1, hl => by
    have hle : (leBytes (v k) size).length ≤ (l + 1) * size + i := by
      rw [leBytes_length, Nat.add_one_mul]
      omega
    have hsub : (l + 1) * size + i - size = l * size + i := by
      rw [Nat.add_one_mul]
      omega
    rw [laneBytes, upFrom, List.flatMap_cons, List.getD_append_right _ _ _ _ hle, leBytes_length, hsub]
    exact (laneBytes_getD hi (n := n) (k := k + 1) (Nat.lt_of_succ_lt_succ hl)).trans (by rw [Nat.add_right_comm, Nat.add_assoc])

/-- A write after a change of cores. -/
theorem Stored.rest_of {b s t : State} {c off : Nat} {bs : List Byte} (h : Stored b t c off bs) (hb : b = { s with cores := b.cores }) :
    t = { s with loc := t.loc, cores := t.cores, bad := t.bad, pending := t.pending } := by
  rw [h.rest, hb]

/-- Lanes of local store written one above another. -/
theorem localPuts_stored {s : State} (c size base : Nat) (v : Nat → Nat) : ∀ (n k : Nat) (t : Trail s),
    Stored t.1 (forEach t ((upFrom k n).map (fun l => LocalPut.bytes (base + l * size) (v l))) (fun t p => t.localPut c size p)).1 c
      (base + k * size) (laneBytes v size k n)
  | 0, _, _ => .refl _ _ _
  | n + 1, k, t => by
    refine (localWrite_stored t c (base + k * size) (leBytes (v k) size) []).append ?_
    rw [leBytes_length, Nat.add_assoc, ← Nat.add_one_mul]
    exact localPuts_stored c size base v n (k + 1) _

theorem strided_map (p size n : Nat) : strided p size n = (upFrom 0 n).map (fun l => (l, ((p + l * size : Nat) : Int))) := by
  unfold strided
  push_cast
  rfl

/-- A store whose lanes all lie in the task's run leads to local store alone. -/
theorem localChecks_run {x : Ctx} {size p n : Nat} {write : Bool} {ps : List Place3} (hin : p + size * n ≤ x.runLen)
    (h : x.localChecks size write (strided p size n) = .ok ps) : ps = (upFrom 0 n).map (fun l => Place3.store (x.runBase + p + l * size)) := by
  have hregion : eachOf (fun q => x.region q.1 q.2 size write) (strided p size n) =
      .ok ((strided p size n).map (fun q => Place3.store (x.runBase + q.2.toNat))) := by
    refine eachOf_map fun q hq => ?_
    rw [strided_map, List.mem_map] at hq
    obtain ⟨l, hl, rfl⟩ := hq
    have hl' : l < n := by have := (mem_upFrom 0 n l).mp hl; omega
    have hmul : (l + 1) * size ≤ size * n := by rw [Nat.mul_comm size]; exact Nat.mul_le_mul_right _ hl'
    rw [Nat.add_one_mul] at hmul
    have hrun : x.inRun ((p + l * size : Nat) : Int) size = true := by
      unfold Ctx.inRun
      simp only [Bool.and_eq_true, decide_eq_true_iff]
      omega
    unfold Ctx.region
    rw [if_pos hrun]
  have hps : ps = (strided p size n).map (fun q => Place3.store (x.runBase + q.2.toNat)) := by
    unfold Ctx.localChecks at h
    rw [hregion] at h
    split at h
    · cases h
    · simp only [bind, Except.bind] at h
      split at h
      · exact (Except.ok.inj h).symm
      · split at h
        · cases h
        · split at h
          · cases h
          · exact (Except.ok.inj h).symm
  rw [hps, strided_map, List.map_map]
  exact List.map_congr_left fun l _ => congrArg Place3.store (by simp only [Int.toNat_natCast, Nat.add_assoc])

theorem windowLocked_stores {x : Ctx} {α : Type} (l : List α) (f : α → Nat) : x.windowLocked (l.map (fun a => Place3.store (f a))) = false := by
  unfold Ctx.windowLocked
  simp

/-- What a store of n lanes to a run writes. -/
theorem localPutsOf {x : Ctx} (base size n : Nat) (v : Nat → Nat) :
    eachOf (fun p : Nat × Place3 => x.putOf p.1 (v p.1) p.2) ((upFrom 0 n).zip ((upFrom 0 n).map (fun l => Place3.store (base + l * size)))) =
      .ok ((upFrom 0 n).map (fun l => LocalPut.bytes (base + l * size) (v l))) := by
  have hzip : (upFrom 0 n).zip ((upFrom 0 n).map (fun l => Place3.store (base + l * size))) =
      (upFrom 0 n).map (fun l => (l, Place3.store (base + l * size))) := by
    rw [← List.map_prod_left_eq_zip]
  rw [hzip, eachOf_map (g := fun p => LocalPut.bytes (base + p.1 * size) (v p.1)) fun p hp => ?_, List.map_map]
  · rfl
  · obtain ⟨l, -, rfl⟩ := List.mem_map.mp hp
    rfl

section
variable {s : State} {i : Instr} {x : Ctx} {d a sz off p : Nat} {vec : Bool} {da dd : Desc} {ps : List Place3}

/-- A store of lanes in the task's run. -/
theorem localStoreOp_next (h : Issues s i x) (ha : Operand x a isInt da) (hd : DataName x d sz dd) (hrow : x.rowBad d = none)
    (hp : startAt x a sz off = (p : Nat)) (hin : p + 2 ^ sz * (if vec then dd.lanes else 1) ≤ x.runLen)
    (hps : x.localChecks (2 ^ sz) true (strided p (2 ^ sz) (if vec then dd.lanes else 1)) = .ok ps) :
    localStoreOp i d a sz off vec s = .next (forEach (own x id ((begin s).enterAll x true false (x.locsOf ps)))
      ((upFrom 0 (if vec then dd.lanes else 1)).map (fun l =>
        LocalPut.bytes (x.runBase + p + l * 2 ^ sz) (storeLane dd (2 ^ sz) ((val x d).getD l 0)))) (fun t p => t.localPut x.c (2 ^ sz) p)).1 := by
  have hval : Operand x d isAny dd := ⟨hd.desc, rfl, hrow⟩
  have hplaces := localChecks_run hin hps
  have hw : x.windowLocked ps = false := hplaces ▸ windowLocked_stores _ _
  have hputs := localPutsOf (x := x) (x.runBase + p) (2 ^ sz) (if vec then dd.lanes else 1)
    (fun l => storeLane dd (2 ^ sz) ((val x d).getD l 0))
  rw [← hplaces] at hputs
  refine issue_next (g := fun t => forEach (own x id (t.enterAll x true false (x.locsOf ps))) _ (fun t p => t.localPut x.c (2 ^ sz) p)) h ?_
  simp only [check_int ha.dest, checkData_of hd, ha.read0, hval.read, bind, Except.bind, startAt_fold, hp, hps, heldOnWindow, hw, Bool.false_eq_true, if_false,
    hputs]

theorem localStoreOp_stores (h : Issues s i x) (ha : Operand x a isInt da) (hd : DataName x d sz dd) (hrow : x.rowBad d = none) (hwf : s.loc.wf)
    (hc : x.c < 512) (hrun : x.runBase + x.runLen ≤ 2097152) (hp : startAt x a sz off = (p : Nat))
    (hin : p + 2 ^ sz * (if vec then dd.lanes else 1) ≤ x.runLen)
    (hps : x.localChecks (2 ^ sz) true (strided p (2 ^ sz) (if vec then dd.lanes else 1)) = .ok ps) :
    ∃ t, localStoreOp i d a sz off vec s = .next t ∧ t.thread? x.c x.sl = some (x.th.retire (x.th.pc + 4)) ∧
      (∀ l, l < (if vec then dd.lanes else 1) → t.loc.bytes (locKey x.c (x.runBase + p + l * 2 ^ sz)) (2 ^ sz) =
        leBytes (storeLane dd (2 ^ sz) ((val x d).getD l 0)) (2 ^ sz)) ∧
      (∀ k, k < locKey x.c (x.runBase + p) ∨ locKey x.c (x.runBase + p) + 2 ^ sz * (if vec then dd.lanes else 1) ≤ k →
        t.loc.get k = s.loc.get k) ∧
      OthersWake s t x.c x.sl ∧ t = { s with loc := t.loc, cores := t.cores, bad := t.bad, pending := t.pending } := by
  have hex := localStoreOp_next h ha hd hrow hp hin hps
  have hist := enterAll_histories (begin s) x true false (x.locsOf ps)
  have hstored := localPuts_stored x.c (2 ^ sz) (x.runBase + p) (fun l => storeLane dd (2 ^ sz) ((val x d).getD l 0))
    (if vec then dd.lanes else 1) 0 (own x id ((begin s).enterAll x true false (x.locsOf ps)))
  generalize forEach (own x id ((begin s).enterAll x true false (x.locsOf ps))) _ _ = t at hex hstored
  generalize (if vec then dd.lanes else 1) = n at hin hstored ⊢
  have hbase : (own x id ((begin s).enterAll x true false (x.locsOf ps))).1 =
    withThread ((begin s).enterAll x true false (x.locsOf ps)).1 x.c x.sl (x.th.retire (x.th.pc + 4)) := rfl
  rw [hbase, Nat.zero_mul, Nat.add_zero] at hstored
  have hloc : t.1.loc = writeLocal s.loc (locKey x.c (x.runBase + p)) (laneBytes (fun l => storeLane dd (2 ^ sz) ((val x d).getD l 0)) (2 ^ sz) 0 n) := by
    rw [hstored.loc, withThread, hist.rest]
    rfl
  have hlen := laneBytes_length (fun l => storeLane dd (2 ^ sz) ((val x d).getD l 0)) (2 ^ sz) n 0
  have hkey := locKey_inside (n := 2 ^ sz * n) hc (show x.runBase + p + 2 ^ sz * n ≤ 2097152 by omega)
  refine ⟨t.1, hex, (hstored.thread _ _).idle (withThread_thread _ _ _ _) rfl, fun l hl => ?_, fun k hk => ?_, fun c' sl' hne => ?_, ?_⟩
  · have hmul : (l + 1) * 2 ^ sz ≤ 2 ^ sz * n := by rw [Nat.mul_comm (2 ^ sz)]; exact Nat.mul_le_mul_right _ hl
    rw [Nat.add_one_mul] at hmul
    have hread := bytes_eq_of_get (m := t.1.loc) (bs := leBytes (storeLane dd (2 ^ sz) ((val x d).getD l 0)) (2 ^ sz))
      (a := locKey x.c (x.runBase + p + l * 2 ^ sz)) fun j hj => by
        rw [leBytes_length] at hj
        have hat : locKey x.c (x.runBase + p + l * 2 ^ sz) + j = locKey x.c (x.runBase + p) + (l * 2 ^ sz + j) := by
          rw [locKey_add, Nat.add_assoc]
        rw [hloc, hat, writeLocal_at _ _ _ _ hwf (by rw [hlen, Nat.mul_comm n]; omega) (decide_eq_true (by omega)),
          laneBytes_getD hj hl, Nat.zero_add]
    rwa [leBytes_length] at hread
  · rw [hloc]
    exact writeLocal_other _ _ _ _ (by rw [hlen, Nat.mul_comm n]; exact hk)
  · have hbefore := (withThread_thread_other ((begin s).enterAll x true false (x.locsOf ps)).1 x.c x.sl c' sl' (x.th.retire (x.th.pc + 4))
      (not_and_pair hne)).trans (hist.thread c' sl')
    have hsaw := hstored.thread c' sl'
    unfold SameOrSaw at hsaw
    rwa [hbefore] at hsaw
  · exact hstored.rest_of (hist.readsOnly x.c x.sl (x.th.retire (x.th.pc + 4))).rest

end

/-! ### Stores to a register window (R112) -/

theorem strided_one (a : Int) (size : Nat) : strided a size 1 = [(0, a)] := by
  simp [strided, upFrom]

section
variable {s : State} {x : Ctx} {d a off sl n j : Nat} {da dd : Desc}

/-- The lane of a store of 8 bytes leads to a register window that no lock holds, and writes a lane of a name. -/
theorem windowStore_next {w : Nat} (h : Issues s (.st d a 3 off) x) (ha : Operand x a isInt da) (hd : DataName x d 3 dd) (hrow : x.rowBad d = none)
    (hps : x.localChecks 8 true [(0, startAt x a 3 off)] = .ok [.window sl n j]) (hw : x.windowLocked [.window sl n j] = false)
    (hlane : windowLane x.k sl n j (storeLane dd 8 ((val x d).getD 0 0)) = .ok (some w)) :
    exec (.st d a 3 off) s =
      .next ((own x id ((begin s).enterAll x true false (x.locsOf [.window sl n j]))).modThread x.c sl (fun th => th.setLane n j w)).1 := by
  have hval : Operand x d isAny dd := ⟨hd.desc, rfl, hrow⟩
  have hcheck : x.checkData d (2 ^ 3) = .ok dd := checkData_of hd
  have hps' : x.localChecks (2 ^ 3) true (strided (((val x a).headD 0 : Nat) + x.offM off (2 ^ 3)) (2 ^ 3) 1) = .ok [.window sl n j] := by
    rw [strided_one]
    exact hps
  have hput : x.putOf 0 (storeLane dd (2 ^ 3) ((val x d).getD 0 0)) (.window sl n j) = .ok (.name sl n j w) := by
    have hlane' : windowLane x.k sl n j (storeLane dd (2 ^ 3) ((val x d).getD 0 0)) = .ok (some w) := hlane
    unfold Ctx.putOf
    dsimp only
    rw [hlane']
  refine issue_next (g := fun t =>
    forEach (own x id (t.enterAll x true false (x.locsOf [.window sl n j]))) [.name sl n j w] (fun t p => t.localPut x.c (2 ^ 3) p)) h ?_
  simp only [check_int ha.dest, hcheck, ha.read0, hval.read, bind, Except.bind, hps', heldOnWindow, hw, Bool.false_eq_true, if_false, upFrom,
    List.zip_cons_cons, List.zip_nil_left, eachOf, hput]

/-- A lane that the name of a register window cannot take raises OVF. -/
theorem windowStore_traps (h : Issues s (.st d a 3 off) x) (ha : Operand x a isInt da) (hd : DataName x d 3 dd) (hrow : x.rowBad d = none)
    (hps : x.localChecks 8 true [(0, startAt x a 3 off)] = .ok [.window sl n j]) (hw : x.windowLocked [.window sl n j] = false)
    (hlane : windowLane x.k sl n j (storeLane dd 8 ((val x d).getD 0 0)) = .error ()) :
    exec (.st d a 3 off) s = .next (trapped s x OVF 0) := by
  have hval : Operand x d isAny dd := ⟨hd.desc, rfl, hrow⟩
  have hcheck : x.checkData d (2 ^ 3) = .ok dd := checkData_of hd
  have hps' : x.localChecks (2 ^ 3) true (strided (((val x a).headD 0 : Nat) + x.offM off (2 ^ 3)) (2 ^ 3) 1) = .ok [.window sl n j] := by
    rw [strided_one]
    exact hps
  have hput : x.putOf 0 (storeLane dd (2 ^ 3) ((val x d).getD 0 0)) (.window sl n j) = trap OVF 0 := by
    have hlane' : windowLane x.k sl n j (storeLane dd (2 ^ 3) ((val x d).getD 0 0)) = .error () := hlane
    unfold Ctx.putOf
    dsimp only
    rw [hlane']
  refine issue_traps h ?_
  simp only [check_int ha.dest, hcheck, ha.read0, hval.read, bind, Except.bind, hps', heldOnWindow, hw, Bool.false_eq_true, if_false, upFrom,
    List.zip_cons_cons, List.zip_nil_left, eachOf, hput, trap]

end

theorem windowStore_writes {s : State} {x : Ctx} {d a off sl n j : Nat} {da dd : Desc} {th : Thread} {w : Nat} (h : Issues s (.st d a 3 off) x)
    (ha : Operand x a isInt da) (hd : DataName x d 3 dd) (hrow : x.rowBad d = none)
    (hps : x.localChecks 8 true [(0, startAt x a 3 off)] = .ok [.window sl n j]) (hw : x.windowLocked [.window sl n j] = false)
    (hne : sl ≠ x.sl) (hth : s.thread? x.c sl = some th) (hlane : windowLane x.k sl n j (storeLane dd 8 ((val x d).getD 0 0)) = .ok (some w)) :
    ∃ t, exec (.st d a 3 off) s = .next t ∧ t.thread? x.c sl = some (th.setLane n j w) ∧
      t.thread? x.c x.sl = some (x.th.retire (x.th.pc + 4)) ∧
      (∀ c' sl', ¬(c' = x.c ∧ (sl' = x.sl ∨ sl' = sl)) → t.thread? c' sl' = s.thread? c' sl') ∧ t = { s with cores := t.cores } := by
  have hex := windowStore_next h ha hd hrow hps hw hlane
  have hist := enterAll_histories (begin s) x true false (x.locsOf [.window sl n j])
  generalize hu : (own x id ((begin s).enterAll x true false (x.locsOf [.window sl n j]))) = u at hex
  have hbase : u.1 = withThread ((begin s).enterAll x true false (x.locsOf [.window sl n j])).1 x.c x.sl (x.th.retire (x.th.pc + 4)) := by
    rw [← hu]
    rfl
  have hother (c' sl') (hno : ¬(c' = x.c ∧ sl' = x.sl)) : u.1.thread? c' sl' = s.thread? c' sl' := by
    rw [hbase, withThread_thread_other _ _ _ _ _ _ (not_and_pair hno)]
    exact hist.thread c' sl'
  rw [modThread_val _ _ _ _ _ ((hother x.c sl fun e => hne e.2).trans hth)] at hex
  refine ⟨_, hex, withThread_thread _ _ _ _, ?_, fun c' sl' hno => ?_, ?_⟩
  · rw [withThread_thread_other _ _ _ _ _ _ (.inr hne.symm), hbase, withThread_thread]
  · rw [withThread_thread_other _ _ _ _ _ _ (not_and_pair fun e => hno ⟨e.1, .inr e.2⟩), hother _ _ fun e => hno ⟨e.1, .inl e.2⟩]
  · rw [withThread, hbase, withThread, hist.rest]
    rfl

theorem localStoresHold : LocalStoresHold :=
  ⟨fun _ _ _ _ _ _ _ _ _ _ h ha hd hrow hwf hc hrun hp hin hps => localStoreOp_stores (vec := false) h ha hd hrow hwf hc hrun hp hin hps,
    fun _ _ _ _ _ _ _ _ _ _ h ha hd hrow hwf hc hrun hp hin hps => localStoreOp_stores (vec := true) h ha hd hrow hwf hc hrun hp hin hps,
    fun _ _ _ _ _ _ _ _ _ _ _ _ h ha hd hrow hps hw hne hth hlane => windowStore_writes h ha hd hrow hps hw hne hth hlane,
    fun _ _ _ _ _ _ _ _ _ _ h ha hd hrow hps hw hlane => windowStore_traps h ha hd hrow hps hw hlane⟩

/-- Settles O14, from where a lane address leads, and from the courses of a local load and of a local store. -/
theorem localAccesses : Obligations.LocalAccesses := ⟨localPlacesHold, localLoadsHold, localStoresHold⟩

end Sys2Proof.Proofs
end


section
/-!
PROOFS. Barriers, stages and queues of a core.
-/

namespace Sys2Proof.Proofs

open Sys2Proof Sys2Proof.Machine Sys2Proof.Claims

/-! ### Loops, and operations on a core's barriers, stages and queues -/

theorem forEach_foldl {s : State} {α : Type} {f : Trail s → α → Trail s} {g : State → α → State} (h : ∀ t a, (f t a).1 = g t.1 a) :
    ∀ (l : List α) (t : Trail s), (forEach t l f).1 = l.foldl g t.1
  | [], _ => rfl
  | a :: r, t => (forEach_foldl h r (f t a)).trans (by rw [h, List.foldl_cons])

theorem foldl_parts {α : Type} {g : State → α → State} (h : ∀ s a, (g s a).parts = s.parts) : ∀ (l : List α) (s : State), (l.foldl g s).parts = s.parts
  | [], _ => rfl
  | a :: r, s => (foldl_parts h r (g s a)).trans (h s a)

theorem modBarrier_val {s : State} (t : Trail s) (c b : Nat) (f : Barrier → Barrier) : (t.modBarrier c b f).1 = onBarrier t.1 c b f := rfl

theorem modStage_val {s : State} (t : Trail s) (c n : Nat) (f : Stage → Stage) : (t.modStage c n f).1 = onStage t.1 c n f := rfl

theorem modQueueReg_val {s : State} (t : Trail s) (c q : Nat) (f : QueueReg → QueueReg) : (t.modQueueReg c q f).1 = Claims.onQueue t.1 c q f := rfl

theorem onBarrier_barrier (s : State) (c b : Nat) (f : Barrier → Barrier) : ((onBarrier s c b f).core c).barrier b = f ((s.core c).barrier b) := by
  rw [onBarrier, onCore_core]
  exact lookD_put_same _ _ _ _

theorem onStage_stage (s : State) (c n : Nat) (f : Stage → Stage) : ((onStage s c n f).core c).stage n = f ((s.core c).stage n) := by
  rw [onStage, onCore_core]
  exact lookD_put_same _ _ _ _

theorem onQueue_queue (s : State) (c q : Nat) (f : QueueReg → QueueReg) : ((Claims.onQueue s c q f).core c).queue q = f ((s.core c).queue q) := by
  rw [Claims.onQueue, onCore_core]
  exact lookD_put_same _ _ _ _

theorem withThread_barrier (s : State) (c sl : Nat) (th : Thread) (b : Nat) : ((withThread s c sl th).core c).barrier b = (s.core c).barrier b := by
  rw [withThread_core]
  rfl

theorem withThread_stage (s : State) (c sl : Nat) (th : Thread) (n : Nat) : ((withThread s c sl th).core c).stage n = (s.core c).stage n := by
  rw [withThread_core]
  rfl

theorem withThread_queue (s : State) (c sl : Nat) (th : Thread) (q : Nat) : ((withThread s c sl th).core c).queue q = (s.core c).queue q := by
  rw [withThread_core]
  rfl

theorem onThread_queue (s : State) (c sl : Nat) (f : Thread → Thread) (q : Nat) : ((onThread s c sl f).core c).queue q = (s.core c).queue q := by
  unfold onThread
  cases s.thread? c sl with
  | none => rfl
  | some th => exact withThread_queue _ _ _ _ _

theorem onThread_thread_other (s : State) (c sl : Nat) (f : Thread → Thread) {c' sl' : Nat} (h : c' ≠ c ∨ sl' ≠ sl) :
    (onThread s c sl f).thread? c' sl' = s.thread? c' sl' := by
  unfold onThread
  cases s.thread? c sl with
  | none => rfl
  | some th => exact withThread_thread_other _ _ _ _ _ _ h

theorem onBarrier_thread (s : State) (c b : Nat) (f : Barrier → Barrier) (c' sl : Nat) : (onBarrier s c b f).thread? c' sl = s.thread? c' sl :=
  onCore_thread (f := fun k => { k with barriers := put k.barriers b (f (k.barrier b)) }) rfl c' sl

theorem onStage_thread (s : State) (c n : Nat) (f : Stage → Stage) (c' sl : Nat) : (onStage s c n f).thread? c' sl = s.thread? c' sl :=
  onCore_thread (f := fun k => { k with stages := put k.stages n (f (k.stage n)) }) rfl c' sl

theorem onQueue_thread (s : State) (c q : Nat) (f : QueueReg → QueueReg) (c' sl : Nat) : (Claims.onQueue s c q f).thread? c' sl = s.thread? c' sl :=
  onCore_thread (f := fun k => { k with queues := put k.queues q (f (k.queue q)) }) rfl c' sl

/-- A thread's change and then its core's, after another change of the thread. -/
theorem withThread_onBarrier (s : State) (c sl b : Nat) (th th' : Thread) (f : Barrier → Barrier) :
    withThread (onBarrier (withThread s c sl th) c b f) c sl th' = onBarrier (withThread s c sl th') c b f := by
  simp only [withThread_onCore, onBarrier, onCore_onCore, put_put]
  rfl

theorem afterStores_drained {s : State} {x : Ctx} {go : Effect s} (h : x.drained = true) : afterStores x go = go := if_pos h

/-! ### Arrivals (R116, R344) -/

theorem assignInt_gives {x : Ctx} {dd : Desc} {v : Int} {l n : Nat} (h : Gives x dd v l n) : x.assignInt dd v l = .ok n := by
  unfold Gives isFlt at h
  unfold Ctx.assignInt
  split at h
  · next hf => rw [if_pos hf]; exact orTrap_some h
  · next hf => rw [if_neg hf]; exact orTrap_some h

theorem completePhase_val {s : State} (t : Trail s) (c b : Nat) : (t.completePhase c b).1 = phaseDone t.1 c b :=
  forEach_foldl (fun t sl => modThread_onThread t c sl _) _ _

theorem phaseDone_parts (s : State) (c b : Nat) : (phaseDone s c b).parts = s.parts :=
  foldl_parts (fun s sl => onThread_parts s c sl _) _ _

/-- Outside record and replay an arrival is counted at once. -/
theorem arrival_quiet {s : State} {t : Trail s} {x : Ctx} {go : Effect s} (h : Unlogged s x) (hs : x.s = s) (b : Nat) (k : Barrier) :
    x.arrival b k go t = go t := by
  have hno (n) (hn : x.part = some n) : s.ordered n = false := by
    unfold State.ordered
    cases hp : s.part? n with
    | none => rfl
    | some p =>
      obtain ⟨h1, h2⟩ := h n p hn hp
      simp [h1, h2]
  unfold Ctx.arrival
  cases hn : x.part with
  | none => rfl
  | some n =>
    dsimp only
    rw [hs, hno n hn]
    rfl

/-- A thread that has become th arrives. -/
theorem arrive_val {s : State} {t : Trail s} {x : Ctx} {th : Thread} (h : t.1 = withThread s x.c x.sl th) (b : Nat) :
    (t.arrive x b).1 = onBarrier (withThread s x.c x.sl th.released) x.c b (arrivedIn x) := by
  have hbar : (t.modBarrier x.c b (arrivedIn x)).1 = onBarrier (withThread s x.c x.sl th) x.c b (arrivedIn x) := by rw [modBarrier_val, h]
  have hth : (t.modBarrier x.c b (arrivedIn x)).1.thread? x.c x.sl = some th := by
    rw [hbar, onBarrier_thread, withThread_thread]
  refine (modThread_val _ _ _ _ _ hth).trans ?_
  rw [hbar, withThread_onBarrier]

theorem barrierTry_waits {s : State} {t : Trail s} {c b : Nat} (w : Waiter) (h : ((t.1.core c).barrier b).full = false) : t.barrierTry c b w = t := by
  unfold Trail.barrierTry
  dsimp only
  rw [h]
  rfl

theorem barrierTry_completes {s : State} {t : Trail s} {c b : Nat} (w : Waiter) (h : ((t.1.core c).barrier b).full = true)
    (hl : ((t.1.core c).barrier b).level = 0) (hq : Quiet t.1 (t.1.partOfCore c)) : (t.barrierTry c b w).1 = phaseDone t.1 c b := by
  unfold Trail.barrierTry
  dsimp only
  rw [h, if_neg (by decide), if_pos hl, logged_quiet hq (by rw [completePhase_val, phaseDone_parts]), completePhase_val]

theorem barrierTry_sends {s : State} {t : Trail s} {c b : Nat} (w : Waiter) (h : ((t.1.core c).barrier b).full = true)
    (hl : ((t.1.core c).barrier b).level ≠ 0) (hs : ((t.1.core c).barrier b).sent = false) :
    (t.barrierTry c b w).1 = sent (onBarrier t.1 c b (fun k => { k with sent := true })) (dieOf c) (unitDie (clusterOf c)) .barrierUnitArrival
      [clusterOf c, (t.1.partOfCore c).getD 0, b, c, ((t.1.core c).barrier b).last] := by
  unfold Trail.barrierTry Trail.sendArrival
  dsimp only
  rw [h, if_neg (by decide), if_neg hl, hs, if_neg (by decide), sendTo_val, modBarrier_val]

/-- An arrival of a thread that has become th, as the core's barrier then looks at what it waits for. -/
theorem arrives_of {s : State} {i : Instr} {x : Ctx} {b : Nat} {th : Thread} {t : Trail s} (h : Issues s i x)
    (ht : t.1 = onBarrier (withThread s x.c x.sl th.released) x.c b (arrivedIn x)) (hq : Quiet s (s.partOfCore x.c)) (w : Waiter)
    (hex : exec x.i s = .next (t.barrierTry x.c b w).1) : Arrives s x b th := by
  have hparts : t.1.parts = s.parts := by rw [ht]; rfl
  have hbar : (t.1.core x.c).barrier b = arrivedIn x (x.k.barrier b) := by
    rw [ht, onBarrier_barrier, withThread_barrier, h.k_eq]
  refine ⟨fun hf => ?_, fun hf hl => ?_, fun hf hl hs => ?_⟩
  · rw [hex, barrierTry_waits w (hbar ▸ hf), ht]
  · rw [hex, barrierTry_completes w (hbar ▸ hf) (by rw [hbar]; exact hl)
      (partOfCore_of_parts hparts x.c ▸ quiet_of_parts hq hparts), ht]
  · rw [hex, barrierTry_sends w (hbar ▸ hf) (by rw [hbar]; exact hl) (by rw [hbar]; exact hs), partOfCore_of_parts hparts, hbar, ht]
    rfl

theorem mayArrive_of {x : Ctx} {b : Nat} (hm : bit (x.k.barrier b).mask x.sl = true) (ha : bit (x.k.barrier b).arrived x.sl = false) :
    x.mayArrive b = .ok (x.k.barrier b) := by
  unfold Ctx.mayArrive
  dsimp only
  rw [hm, ha]
  rfl

section
variable {s : State} {x : Ctx} {d a b : Nat}

theorem barArr_arrives {dd : Desc} {v : Nat} (h : Issues s (.barArr d b) x) (hd : Dest x d isAny dd) (hb : x.syncBad (0x580 + 8 * b) = .ok ())
    (hm : bit (x.k.barrier b).mask x.sl = true) (ha : bit (x.k.barrier b).arrived x.sl = false) (hdr : x.drained = true) (hu : Unlogged s x)
    (hq : Quiet s (s.partOfCore x.c)) (hv : Gives x dd (x.k.barrier b).phase.toNat 0 v) :
    Arrives s x b ((drawnFor x dd (x.th.setLane0 x.k.vt d v)).retire (x.th.pc + 4)) := by
  generalize hth : (drawnFor x dd (x.th.setLane0 x.k.vt d v)).retire (x.th.pc + 4) = th
  have hval := arrive_val (t := (begin s).setThread x.c x.sl th) (x := x) rfl b
  refine arrives_of h hval hq (.thread x.c x.sl) ?_
  have hgo := arrival_quiet (t := begin s) (go := fun t => ((t.setThread x.c x.sl th).arrive x b).barrierTry x.c b (.thread x.c x.sl)) hu h.s_eq b
    (x.k.barrier b)
  rw [h.i_eq, ← hgo]
  refine issue_next (g := x.arrival b (x.k.barrier b) fun t => ((t.setThread x.c x.sl th).arrive x b).barrierTry x.c b (.thread x.c x.sl)) h ?_
  simp only [check_any hd, hb, mayArrive_of hm ha, assignInt_gives hv, bind, Except.bind, afterStores_drained hdr]
  rw [← hth]
  rfl

theorem barSync_arrives (h : Issues s (.barSync b) x) (hb : x.syncBad (0x580 + 8 * b) = .ok ())
    (hm : bit (x.k.barrier b).mask x.sl = true) (ha : bit (x.k.barrier b).arrived x.sl = false) (hdr : x.drained = true) (hu : Unlogged s x)
    (hq : Quiet s (s.partOfCore x.c)) : Arrives s x b (x.th.wait (.barSync b) x.hint .blocked [(x.k.barrier b).phase.toNat]) := by
  have hval := arrive_val (x := x) (waits_val h .blocked [(x.k.barrier b).phase.toNat]) b
  refine arrives_of h hval hq (.thread x.c x.sl) ?_
  have hgo := arrival_quiet (t := begin s)
    (go := fun t => ((waits x .blocked [(x.k.barrier b).phase.toNat] t).arrive x b).barrierTry x.c b (.thread x.c x.sl)) hu h.s_eq b (x.k.barrier b)
  rw [h.i_eq, ← hgo]
  refine issue_next h ?_
  simp only [hb, mayArrive_of hm ha, bind, Except.bind, afterStores_drained hdr]

theorem barWait_next {da : Desc} (h : Issues s (.barWait a b) x) (ha : Operand x a isInt da) (hb : x.syncBad (0x580 + 8 * b) = .ok ()) :
    let v := (val x a).headD 0 % 65536
    exec (.barWait a b) s = .next (if (x.k.barrier b).phase.toNat ≠ v then retired s x (x.th.acquired (lookD (x.k.barrier b).past v []))
      else withThread s x.c x.sl (x.th.wait (.barWait a b) x.hint .blocked [v])) := by
  intro v
  by_cases hp : (x.k.barrier b).phase.toNat ≠ v
  · rw [if_pos hp]
    refine issue_next (g := own x (fun th => th.acquired (lookD (x.k.barrier b).past v []))) h ?_
    simp only [check_int ha.dest, ha.read0, hb, bind, Except.bind]
    exact if_pos hp
  · rw [if_neg hp]
    refine (issue_next (g := waits x .blocked [v]) h ?_).trans (congrArg Host.Outcome.next (waits_val h .blocked [v]))
    simp only [check_int ha.dest, ha.read0, hb, bind, Except.bind]
    exact if_neg hp

/-! ### Configuring a barrier (R343) -/

/-- A count of a core's barrier goes to a unit. -/
def countSent (p c b : Nat) (t : State) (u : Nat × Nat) : State := sent t (dieOf c) (unitDie u.1) .barrierCountArrive [u.1, p, b, u.2]

/-- The partitions and the package are as they were. -/
def SamePlace (s t : State) : Prop := t.parts = s.parts ∧ t.pkg = s.pkg

theorem countSent_place (p c b : Nat) (t : State) (u : Nat × Nat) : SamePlace t (countSent p c b t u) := by
  unfold SamePlace countSent
  rw [sent_form]
  exact ⟨rfl, rfl⟩

theorem foldl_countSent_place (p c b : Nat) : ∀ (l : List (Nat × Nat)) (t : State), SamePlace t (l.foldl (countSent p c b) t)
  | [], _ => ⟨rfl, rfl⟩
  | u :: r, t => by
    obtain ⟨h1, h2⟩ := countSent_place p c b t u
    obtain ⟨h3, h4⟩ := foldl_countSent_place p c b r (countSent p c b t u)
    exact ⟨h3.trans h1, h4.trans h2⟩

/-- A count that goes to its unit where the level reaches it, after those that have. -/
theorem sendCount_val {v : State} {t : Trail s} {l : List (Nat × Nat)} {c p : Nat} (hp : (v.partOfCore c).getD 0 = p)
    (h : t.1 = l.foldl (countSent p c b) v) {q q' : Prop} [Decidable q] [Decidable q'] (hq : q ↔ q') (u n : Nat) :
    (if q then t.sendCount c u b n else t).1 = (l ++ if q' then [(u, n)] else []).foldl (countSent p c b) v := by
  by_cases hyes : q
  · rw [if_pos hyes, if_pos (hq.mp hyes)]
    unfold Trail.sendCount
    rw [sendTo_val, List.foldl_append, ← h, partOfCore_of_parts (s := v) (by rw [h]; exact (foldl_countSent_place p c b l v).1) c, hp]
    rfl
  · rw [if_neg hyes, if_neg fun e => hyes (hq.mpr e), List.append_nil, h]

/-- A barrier is configured by a word, and its counts go to their units. -/
def configures (x : Ctx) (b w : Nat) : Effect s := fun t =>
  let t := (own x id t).modBarrier x.c b (configured w)
  let t := if 1 ≤ bits w 42 40 then t.sendCount x.c (clusterOf x.c) b (bits w 45 43 + 1) else t
  let t := if 2 ≤ bits w 42 40 then t.sendCount x.c (64 + dieOf x.c) b (bits w 49 46 + 1) else t
  let t := if 3 ≤ bits w 42 40 then t.sendCount x.c 68 b (bits w 51 50 + 1) else t
  if bits w 42 40 = 4 && bits w 63 58 == t.1.pkg.num then t.sendCount x.c 69 b (bits w 57 52 + 1) else t

theorem configures_val (x : Ctx) (b w : Nat) : (configures x b w (begin s)).1 =
    (unitCounts w x.c s.pkg.num).foldl (countSent ((s.partOfCore x.c).getD 0) x.c b) (onBarrier (retired s x x.th) x.c b (configured w)) := by
  have hp : ((onBarrier (retired s x x.th) x.c b (configured w)).partOfCore x.c).getD 0 = (s.partOfCore x.c).getD 0 := rfl
  have h0 : ((own x id (begin s)).modBarrier x.c b (configured w)).1 =
    [].foldl (countSent ((s.partOfCore x.c).getD 0) x.c b) (onBarrier (retired s x x.th) x.c b (configured w)) := rfl
  have h1 := sendCount_val hp h0 (Iff.refl (1 ≤ bits w 42 40)) (clusterOf x.c) (bits w 45 43 + 1)
  have h2 := sendCount_val hp h1 (Iff.refl (2 ≤ bits w 42 40)) (64 + dieOf x.c) (bits w 49 46 + 1)
  have h3 := sendCount_val hp h2 (Iff.refl (3 ≤ bits w 42 40)) 68 (bits w 51 50 + 1)
  refine sendCount_val hp h3 ?_ 69 (bits w 57 52 + 1)
  rw [h3, (foldl_countSent_place _ _ _ _ _).2, Bool.and_eq_true, decide_eq_true_iff, beq_iff_eq]
  rfl

theorem barCfg_next {da : Desc} (h : Issues s (.barCfg a b) x) (ha : Operand x a isInt da) (hb : x.syncBad (0x580 + 8 * b) = .ok ())
    (hidle : (x.k.barrier b).arrived = 0) (hsent : (x.k.barrier b).sent = false) :
    let w := (val x a).headD 0
    bits w 42 40 ≤ 4 → bits w 38 32 = 0 → bit w 15 = false → bits w 14 0 ≠ 0 → x.foreignSlots (bits w 14 0) = false →
    exec (.barCfg a b) s = .next ((unitCounts w x.c s.pkg.num).foldl (fun t u =>
      sent t (dieOf x.c) (unitDie u.1) .barrierCountArrive [u.1, (s.partOfCore x.c).getD 0, b, u.2])
      (onBarrier (retired s x x.th) x.c b (configured w))) := by
  intro w hlevel hzero hbit hmask hslots
  have hgood : ¬((x.k.barrier b).arrived ≠ 0 ∨ (x.k.barrier b).sent = true ∨ 4 < bits w 42 40 ∨ bits w 38 32 ≠ 0 ∨ bit w 15 = true ∨
      bits w 14 0 = 0 ∨ x.foreignSlots (bits w 14 0) = true) := by
    simp [hidle, hsent, Nat.not_lt.mpr hlevel, hzero, hbit, hmask, hslots]
  refine (issue_next (g := configures x b w) h ?_).trans (congrArg Host.Outcome.next (configures_val x b w))
  simp only [check_int ha.dest, ha.read0, hb, bind, Except.bind]
  exact if_neg hgood

end

/-! ### Units (R116, R344) -/

/-- A unit of a domain as a count. -/
def unitSet (s : State) (key : Nat) (y : BarUnit) : State := { s with barUnits := put s.barUnits key y }

theorem awaitsUnit_unitSet (s : State) (key : Nat) (y : BarUnit) (c sl b : Nat) : (unitSet s key y).awaitsUnit c sl b = s.awaitsUnit c sl b := by
  unfold State.awaitsUnit State.opCtx?
  have hth : (unitSet s key y).thread? c sl = s.thread? c sl := rfl
  rw [hth]
  cases s.thread? c sl with
  | none => rfl
  | some th =>
    dsimp only
    cases th.op <;> rfl

theorem arrived_idle {s : State} {t : Trail s} {c sl b : Nat} (h : t.1.awaitsUnit c sl b = false) : t.arrived c sl b = t := by
  unfold Trail.arrived
  rw [h]
  rfl

theorem opCtx?_of {s : State} {c sl : Nat} {th : Thread} {o : Op} (hth : s.thread? c sl = some th) (ho : th.op = some o) :
    s.opCtx? c sl = some ({ s := s, c := c, sl := sl, k := s.core c, th := th, i := o.instr, hint := o.hint }, o.args) := by
  unfold State.opCtx?
  rw [hth]
  dsimp only
  rw [ho]
  rfl

/-- A core's barrier with the arrival of a slot's thread. -/
def arrivedBy (sl : Nat) (th : Thread) (k : Barrier) : Barrier := { k with arrived := k.arrived + 2 ^ sl, last := sl, vc := k.vc.join th.vc }

/-- The arrival of a `bar.sync` that waits for the units is counted at its core. -/
theorem arrived_barSync {s : State} {t : Trail s} {c sl b : Nat} {th : Thread} {o : Op} (hw : t.1.awaitsUnit c sl b = true)
    (hth : t.1.thread? c sl = some th) (ho : th.op = some o) (hi : o.instr = .barSync b) :
    LooksAgain (withThread (onBarrier t.1 c b (arrivedBy sl th)) c sl th.released) (t.arrived c sl b).1 := by
  have hop := opCtx?_of hth ho
  generalize hx : ({ s := t.1, c := c, sl := sl, k := t.1.core c, th := th, i := o.instr, hint := o.hint } : Ctx) = x at hop
  have hval : (t.arrive x b).1 = withThread (onBarrier t.1 c b (arrivedBy sl th)) c sl th.released := by
    subst hx
    exact modThread_val (t.modBarrier c b (arrivedBy sl th)) _ _ _ _ ((onBarrier_thread _ _ _ _ _ _).trans hth)
  unfold Trail.arrived
  rw [if_pos hw, resume_ok (g := fun t => t.arrive x b) t hop, ← hval]
  · exact settle_looksAgain _ _ _
  · rw [show x.i = .barSync b by rw [← hx]; exact hi]

/-- An arrival at a unit, by the numbers that its step is about. -/
def unitArrival {s : State} (u part b c sl : Nat) : Effect s := fun t =>
  let key := unitKey u part b
  let x := s.barUnit key
  let k := (s.core c).barrier b
  let left := x.left.getD x.expect - 1
  let t := t.act (.barUnit key { x with left := some left })
  if left ≠ 0 then t.arrived c sl b
  else if unitLevel u < k.level then
    if u = 68 && k.root ≠ s.pkg.num then (t.act (.barUnit key { x with left := none })).arrived c sl b
    else (t.act (.barUnit key { x with left := none })).sendTo (unitDie u) (unitDie (unitAbove u)) .barrierUnitArrival [unitAbove u, part, b, c, sl]
  else
    t.logged (some part) (barRecord t.1 (barrierSource (min u 68)) c sl k.level b k.phase.toNat) (.step ⟨.barrierUnitArrival, s.args⟩) id
      (fun seq t => t.stopSlot c sl (.trap DIVERGE seq none))
      (fun t => ((t.arrived c sl b).act (.barUnit key { x with left := none })).raiseLine u part b)

section
variable {s : State} {u part b c sl : Nat}

theorem exec_barrierUnitArrival (h : s.args = [u, part, b, c, sl]) :
    exec .barrierUnitArrival s = .next (unitArrival u part b c sl (begin s)).1 := by
  show execBarrierUnitArrival s = _
  unfold execBarrierUnitArrival
  rw [event_val]
  simp only [arg_of h, List.getD_cons_zero, List.getD_cons_succ]
  rfl

/-- The count that a unit has left after one more arrival. -/
def unitLeft (x : BarUnit) : Nat := x.left.getD x.expect - 1

theorem unitArrival_counts (hl : unitLeft (s.barUnit (unitKey u part b)) ≠ 0) : unitArrival u part b c sl (begin s) =
    ((begin s).act (.barUnit (unitKey u part b) { s.barUnit (unitKey u part b) with
      left := some (unitLeft (s.barUnit (unitKey u part b))) })).arrived c sl b := if_pos hl

/-- The unit's count has reached zero, and its barrier reaches above it. -/
theorem unitArrival_above (hl : unitLeft (s.barUnit (unitKey u part b)) = 0) (hlevel : unitLevel u < ((s.core c).barrier b).level) :
    unitArrival u part b c sl (begin s) =
      let t := ((begin s).act (.barUnit (unitKey u part b) { s.barUnit (unitKey u part b) with
        left := some (unitLeft (s.barUnit (unitKey u part b))) })).act (.barUnit (unitKey u part b) { s.barUnit (unitKey u part b) with left := none })
      if u = 68 && ((s.core c).barrier b).root ≠ s.pkg.num then t.arrived c sl b
      else t.sendTo (unitDie u) (unitDie (unitAbove u)) .barrierUnitArrival [unitAbove u, part, b, c, sl] :=
  (if_neg (fun e => e hl)).trans (if_pos hlevel)

theorem unitSet_unitSet (s : State) (key : Nat) (y z : BarUnit) : unitSet (unitSet s key y) key z = unitSet s key z := by
  unfold unitSet
  rw [put_put]

theorem raiseLine_val (t : Trail s) : (t.raiseLine u part b).1 = lineRises t.1 u part b :=
  forEach_foldl (fun v d => by rw [sendTo_val, modBarrier_val]) _ _

theorem lineRises_parts (v : State) : (lineRises v u part b).parts = v.parts :=
  foldl_parts (fun w d => by rw [sent_parts]; rfl) _ _

/-- The unit's count has reached zero at the barrier's own level: its line rises. -/
theorem unitArrival_rises (hl : unitLeft (s.barUnit (unitKey u part b)) = 0) (hlevel : ((s.core c).barrier b).level ≤ unitLevel u)
    (hq : Quiet s (some part)) (hw : s.awaitsUnit c sl b = false) : (unitArrival u part b c sl (begin s)).1 =
      lineRises (unitSet s (unitKey u part b) { s.barUnit (unitKey u part b) with left := none }) u part b := by
  generalize ht : (begin s).act (.barUnit (unitKey u part b) { s.barUnit (unitKey u part b) with
    left := some (unitLeft (s.barUnit (unitKey u part b))) }) = t
  have hval : t.1 = unitSet s (unitKey u part b) { s.barUnit (unitKey u part b) with left := some (unitLeft (s.barUnit (unitKey u part b))) } := by
    rw [← ht]
    rfl
  have hidle : t.arrived c sl b = t := arrived_idle (by rw [hval, awaitsUnit_unitSet, hw])
  have hgo : (((t.arrived c sl b).act (.barUnit (unitKey u part b) { s.barUnit (unitKey u part b) with left := none })).raiseLine u part b).1 =
      lineRises (unitSet s (unitKey u part b) { s.barUnit (unitKey u part b) with left := none }) u part b := by
    rw [raiseLine_val, hidle, ← unitSet_unitSet s (unitKey u part b) _ _, ← hval]
    rfl
  have hall : unitArrival u part b c sl (begin s) = _ := (if_neg (fun e => e hl)).trans (if_neg (Nat.not_lt.mpr hlevel))
  have hparts : t.1.parts = s.parts := by rw [hval]; rfl
  rw [hall]
  change (Trail.logged ((begin s).act _) _ _ _ _ _ _).1 = _
  unfold unitLeft at ht
  rw [ht, logged_quiet (quiet_of_parts hq hparts)]
  · exact hgo
  · rw [hgo, lineRises_parts, hparts]
    rfl

end

theorem barriersHold : BarriersHold := by
  refine ⟨fun s x a b da h ha hb hidle hsent => barCfg_next h ha hb hidle hsent,
    fun s x d b dd v h hd hb hm ha hdr hu hq hv => barArr_arrives h hd hb hm ha hdr hu hq hv,
    fun s x b h hb hm ha hdr hu hq => barSync_arrives h hb hm ha hdr hu hq, fun s x a b da h ha hb => barWait_next h ha hb,
    fun s u part b n h => ?_, fun s u part b c sl h => ⟨fun hl hw => ?_, fun hl hw th o hth ho hi => ?_, fun hl hlevel hu hroot hw => ?_,
      fun hl hlevel hor => ?_, fun hl hlevel hq hw => ?_⟩, fun s n b c h hlevel hsent => ?_⟩
  case refine_1 =>
    show execBarrierCountArrive s = _
    unfold execBarrierCountArrive
    rw [event_val]
    simp only [arg_of h, List.getD_cons_zero, List.getD_cons_succ]
    rfl
  case refine_2 =>
    rw [exec_barrierUnitArrival h, unitArrival_counts hl, arrived_idle ((awaitsUnit_unitSet _ _ _ _ _ _).trans hw)]
    rfl
  case refine_3 =>
    have hlook := arrived_barSync (t := (begin s).act (.barUnit (unitKey u part b) { s.barUnit (unitKey u part b) with
      left := some (unitLeft (s.barUnit (unitKey u part b))) })) ((awaitsUnit_unitSet _ _ _ _ _ _).trans hw) hth ho hi
    refine ⟨_, (exec_barrierUnitArrival h).trans (congrArg (fun t : Trail s => Host.Outcome.next t.1) (unitArrival_counts hl)), ?_, ?_⟩
    · rw [hlook.rest]
      rfl
    · have hbar := congrArg (fun k : Core => k.barrier b) (hlook.core c)
      refine hbar.trans ?_
      show ((withThread _ c sl _).core c).barrier b = _
      rw [withThread_barrier, onBarrier_barrier]
      rfl
  case refine_4 =>
    rw [exec_barrierUnitArrival h, unitArrival_above hl hlevel]
    dsimp only
    rw [if_pos (by simp [hu, hroot]), arrived_idle ((awaitsUnit_unitSet _ _ _ _ _ _).trans ((awaitsUnit_unitSet _ _ _ _ _ _).trans hw))]
    exact congrArg Host.Outcome.next (unitSet_unitSet _ _ _ _)
  case refine_5 =>
    rw [exec_barrierUnitArrival h, unitArrival_above hl hlevel]
    dsimp only
    rw [if_neg (by simpa [or_iff_not_imp_left] using hor), sendTo_val]
    exact congrArg (fun v => Host.Outcome.next (sent v _ _ _ _)) (unitSet_unitSet _ _ _ _)
  case refine_6 => exact (exec_barrierUnitArrival h).trans (congrArg Host.Outcome.next (unitArrival_rises hl hlevel hq hw))
  case refine_7 =>
    show execBarrierLineRise s = _
    unfold execBarrierLineRise
    rw [event_val]
    simp only [begin_val, arg_of h, List.getD_cons_zero, List.getD_cons_succ]
    rw [if_neg hlevel, if_pos hsent, completePhase_val]
    rfl

end Sys2Proof.Proofs
end


section
/-!
PROOFS. Stages and queues of a core.
-/

namespace Sys2Proof.Proofs

open Sys2Proof Sys2Proof.Machine Sys2Proof.Claims

/-! ### Stages (R115, R346) -/

section
variable {s : State} {x : Ctx} {b : Nat}

/-- A slot has a stage, and no longer waits for it. -/
def stageTaken (sl : Nat) (k : Stage) : Stage := { k with owner := some sl, wait := k.wait.filter (fun p => decide (p.1 ≠ sl)) }

theorem takeStage_val (t : Trail s) (c sl n : Nat) : (t.takeStage c sl n).1 =
    onThread (onStage t.1 c n (stageTaken sl)) c sl (fun th => (th.acquired ((t.1.core c).stage n).vc).retire (th.pc + 4)) :=
  modThread_onThread _ _ _ _

theorem takeStage_parts (t : Trail s) (c sl n : Nat) : (t.takeStage c sl n).1.parts = t.1.parts := by
  rw [takeStage_val, onThread_parts]
  rfl

/-- A stage whose state nobody waits for, after its release. -/
theorem giveStage_none {t : Trail s} {c n : Nat} {y : Stage} (hy : (t.1.core c).stage n = y) (ho : y.owner = none)
    (hf : y.wait.find? (fun p => p.2 == y.full) = none) : t.giveStage c n = t := by
  unfold Trail.giveStage
  dsimp only
  rw [hy, ho, hf]
  rfl

/-- An unowned stage goes to the earliest slot that waits for its state. -/
theorem giveStage_some {t : Trail s} {c n sl : Nat} {w : Bool} {y : Stage} (hy : (t.1.core c).stage n = y) (ho : y.owner = none)
    (hf : y.wait.find? (fun p => p.2 == y.full) = some (sl, w)) (hq : Quiet t.1 (t.1.partOfCore c)) : t.giveStage c n = t.takeStage c sl n := by
  unfold Trail.giveStage
  dsimp only
  rw [hy, ho, hf]
  simp only [Option.isSome_none, Bool.false_eq_true, if_false]
  exact logged_quiet (go := fun t => t.takeStage c sl n) hq (takeStage_parts _ _ _ _) _ _ _ _

theorem acqs_takes (h : Issues s (.acqs b) x) (hb : x.syncBad (0x540 + 8 * (b % 8)) = .ok ()) (ho : (x.k.stage (b % 8)).owner = none)
    (hf : (x.k.stage (b % 8)).full = decide (8 ≤ b)) (hu : Unlogged s x) : exec (.acqs b) s =
      .next (withThread (onStage s x.c (b % 8) (stageTaken x.sl)) x.c x.sl ((x.th.acquired (x.k.stage (b % 8)).vc).retire (x.th.pc + 4))) := by
  have hval := takeStage_val (begin s) x.c x.sl (b % 8)
  rw [begin_val, onThread_of ((onStage_thread _ _ _ _ _ _).trans h.thread), ← h.k_eq] at hval
  rw [← hval]
  have hgo := ctxLogged_quiet (t := begin s) (go := fun t => t.takeStage x.c x.sl (b % 8)) hu (takeStage_parts _ _ _ _)
  refine (issue_next (g := x.logged (stageRecord x.s x.c x.sl 0 (b % 8) (x.k.stage (b % 8)).full) (fun t => t.takeStage x.c x.sl (b % 8))) h ?_).trans ?_
  · have hown : ¬(x.k.stage (b % 8)).owner = some x.sl := by rw [ho]; nofun
    simp only [hb, bind, Except.bind, if_neg hown]
    exact if_pos ⟨ho, hf⟩
  · rw [hgo]

/-- A slot waits for a stage in a state, after those that do. -/
def stageAwaited (sl : Nat) (want : Bool) (k : Stage) : Stage := { k with wait := k.wait.filter (fun p => decide (p.1 ≠ sl)) ++ [(sl, want)] }

theorem acqs_waits (h : Issues s (.acqs b) x) (hb : x.syncBad (0x540 + 8 * (b % 8)) = .ok ()) (ho : (x.k.stage (b % 8)).owner ≠ some x.sl)
    (hf : (x.k.stage (b % 8)).owner ≠ none ∨ (x.k.stage (b % 8)).full ≠ decide (8 ≤ b)) : exec (.acqs b) s =
      .next (withThread (onStage s x.c (b % 8) (stageAwaited x.sl (decide (8 ≤ b)))) x.c x.sl (x.th.wait (.acqs b) x.hint .blocked [])) := by
  have hval := waits_of (t := (begin s).modStage x.c (b % 8) (stageAwaited x.sl (decide (8 ≤ b)))) ((onStage_thread _ _ _ _ _ _).trans h.thread) .blocked []
  rw [h.i_eq, modStage_val, begin_val] at hval
  rw [← hval]
  refine issue_next (g := fun t => waits x .blocked [] (t.modStage x.c (b % 8) (stageAwaited x.sl (decide (8 ≤ b))))) h ?_
  have hno : ¬((x.k.stage (b % 8)).owner = none ∧ (x.k.stage (b % 8)).full = decide (8 ≤ b)) := fun e => hf.elim (fun n => n e.1) fun n => n e.2
  simp only [hb, bind, Except.bind, if_neg ho, if_neg hno]
  rfl

/-- A stage released by the thread that holds it. -/
def releasedStage (x : Ctx) (k : Stage) : Stage := { k with full := !k.full, owner := none, vc := x.th.vc }

/-- The course of a `rels` by the owner, up to the stage's next owner. -/
theorem rels_next (h : Issues s (.rels b) x) (hb : x.syncBad (0x540 + 8 * b) = .ok ()) (ho : (x.k.stage b).owner = some x.sl)
    (hd : x.drained = true) (hu : Unlogged s x) :
    exec (.rels b) s = .next (((own x Thread.released (begin s)).modStage x.c b (releasedStage x)).giveStage x.c b).1 := by
  have hgo := ctxLogged_quiet (t := begin s) (go := fun t => (own x Thread.released t).modStage x.c b (releasedStage x)) hu rfl
    (stageRecord x.s x.c x.sl 1 b (x.k.stage b).full)
  rw [← hgo]
  refine issue_next (g := fun t => (x.logged (stageRecord x.s x.c x.sl 1 b (x.k.stage b).full)
    (fun t => (own x Thread.released t).modStage x.c b (releasedStage x)) t).giveStage x.c b) h ?_
  simp only [hb, bind, Except.bind, if_neg (fun e : (x.k.stage b).owner ≠ some x.sl => e ho), afterStores_drained hd]
  rfl

theorem rels_stage (h : Issues s (.rels b) x) :
    ((onStage (retired s x x.th.released) x.c b (releasedStage x)).core x.c).stage b = releasedStage x (x.k.stage b) := by
  rw [onStage_stage, retired, withThread_stage, h.k_eq]

end

theorem stagesHold : StagesHold := by
  refine ⟨fun s x b h hb => ⟨fun ho => ?_, fun ho hf hu => acqs_takes h hb ho hf hu, fun ho hf => acqs_waits h hb ho hf⟩,
    fun s x b h hb => ⟨fun ho => ?_, fun ho hd hu hq => ?_⟩⟩
  · refine issue_traps h ?_
    simp only [hb, bind, Except.bind, if_pos ho]
    rfl
  · refine issue_traps h ?_
    simp only [hb, bind, Except.bind]
    exact if_pos ho
  · have hstage := rels_stage h
    have hq' : Quiet (onStage (retired s x x.th.released) x.c b (releasedStage x))
      ((onStage (retired s x x.th.released) x.c b (releasedStage x)).partOfCore x.c) := hq
    refine ⟨fun hf => ?_, fun sl w hf => ?_⟩
    · rw [rels_next h hb ho hd hu, giveStage_none hstage rfl hf]
      rfl
    · have hval := takeStage_val ((own x Thread.released (begin s)).modStage x.c b (releasedStage x)) x.c sl b
      rw [modStage_val, own_val, hstage] at hval
      rw [rels_next h hb ho hd hu, giveStage_some hstage rfl hf hq', hval]
      rfl

/-! ### Queues (R114, R346) -/

section
variable {s : State} {x : Ctx} {a d b : Nat}

/-- A queue whose oldest value a slot takes. -/
def queueTaken (sl : Nat) (k : QueueReg) : QueueReg := { k with vals := k.vals.drop 1, readers := k.readers.filter (fun n => decide (n ≠ sl)) }

theorem takeValue_val {t : Trail s} {c q v : Nat} {vc : Clock} {r : List (Nat × Clock)} (h : ((t.1.core c).queue q).vals = (v, vc) :: r)
    (sl : Nat) (i : Instr) : (t.takeValue c sl q i).1 = taken t.1 c sl q i v vc := by
  have hqueue : Claims.onQueue t.1 c q (fun k => { k with vals := r, readers := k.readers.filter (fun n => decide (n ≠ sl)) }) =
      Claims.onQueue t.1 c q (queueTaken sl) := by
    refine onCore_congr ?_
    unfold queueTaken
    dsimp only
    rw [h]
    rfl
  unfold Trail.takeValue
  dsimp only
  rw [h]
  dsimp only
  rw [modThread_onThread, modQueueReg_val, hqueue]
  rfl

theorem taken_parts (s : State) (c sl q : Nat) (i : Instr) (v : Nat) (vc : Clock) : (taken s c sl q i v vc).parts = s.parts :=
  (onThread_parts _ _ _ _).trans rfl

theorem taken_queue (s : State) (c sl q : Nat) (i : Instr) (v : Nat) (vc : Clock) :
    ((taken s c sl q i v vc).core c).queue q = queueTaken sl ((s.core c).queue q) :=
  (onThread_queue _ _ _ _ _).trans (onQueue_queue _ _ _ _)

theorem taken_thread_other (s : State) {c sl sl' : Nat} (q : Nat) (i : Instr) (v : Nat) (vc : Clock) (h : sl' ≠ sl) :
    (taken s c sl q i v vc).thread? c sl' = s.thread? c sl' :=
  (onThread_thread_other _ _ _ _ (.inr h)).trans (onQueue_thread _ _ _ _ _ _)

/-- A queue that nobody waits for is at rest; so is an empty one, and a full one, that nobody waits for on the other side. -/
theorem serveQueue_rest {t : Trail s} {c q : Nat} {y : QueueReg} (hy : (t.1.core c).queue q = y) (fuel : Nat)
    (h : y.readers = [] ∧ (y.writers = [] ∨ 4 ≤ y.vals.length) ∨ y.vals = [] ∧ y.writers = []) : Trail.serveQueue c q fuel t = t := by
  cases fuel with
  | zero => rfl
  | succ n =>
    obtain ⟨vals, readers, writers⟩ := y
    unfold Trail.serveQueue
    dsimp only
    rw [hy]
    rcases h with ⟨hr, hw | hf⟩ | ⟨hv, hw⟩
    · cases hr; cases hw; cases vals <;> rfl
    · cases hr
      cases writers with
      | nil => cases vals <;> rfl
      | cons w ws =>
        cases vals with
        | nil => cases hf
        | cons p r => exact if_pos hf
    · cases hv; cases hw; rfl

/-- The earliest reader of a queue takes its oldest value. -/
theorem serveQueue_reader {t : Trail s} {c q r v : Nat} {vc : Clock} {vs : List (Nat × Clock)} {rs : List Nat} {o : Op}
    (hv : ((t.1.core c).queue q).vals = (v, vc) :: vs) (hr : ((t.1.core c).queue q).readers = r :: rs) (ho : t.1.blockedOp c r = some o)
    (hq : Quiet t.1 (t.1.partOfCore c)) (n : Nat) : Trail.serveQueue c q (n + 1) t = Trail.serveQueue c q n (t.takeValue c r q o.instr) := by
  conv_lhs => unfold Trail.serveQueue
  dsimp only
  rw [hv, hr]
  dsimp only
  rw [ho]
  exact congrArg (Trail.serveQueue c q n)
    (logged_quiet (go := fun t => t.takeValue c r q o.instr) hq (by rw [takeValue_val hv, taken_parts]) _ _ _ _)

theorem onQueue_onQueue (s : State) (c q : Nat) (f g : QueueReg → QueueReg) :
    Claims.onQueue (Claims.onQueue s c q f) c q g = Claims.onQueue s c q (fun k => g (f k)) := by
  unfold Claims.onQueue
  rw [onCore_onCore]
  refine onCore_congr ?_
  have hq : ({ s.core c with queues := put (s.core c).queues q (f ((s.core c).queue q)) } : Core).queue q = f ((s.core c).queue q) :=
    lookD_put_same _ _ _ _
  rw [hq, put_put]

/-- A queue that no longer holds a writer back, with its value. -/
def queuePut (w v : Nat) (vc : Clock) (k : QueueReg) : QueueReg :=
  { k with writers := k.writers.filter (fun m => decide (m ≠ w)), vals := k.vals ++ [(v, vc)] }

/-- A blocked writer's value goes to the queue, and its `qput` retires. -/
def writerPuts (c q w v : Nat) : Effect s := fun t =>
  ((t.modQueueReg c q (fun x => { x with writers := x.writers.filter (fun m => decide (m ≠ w)) })).modQueueReg c q (fun x => { x with
    vals := x.vals ++ [(v, match t.1.thread? c w with | some th => th.vc | none => [])] })).modThread c w (fun th => th.released.retire (th.pc + 4))

theorem writerPuts_val {t : Trail s} {c w : Nat} {th : Thread} (hth : t.1.thread? c w = some th) (q v : Nat) : (writerPuts c q w v t).1 =
    onThread (Claims.onQueue t.1 c q (queuePut w v th.vc)) c w (fun th => th.released.retire (th.pc + 4)) := by
  unfold writerPuts
  rw [modThread_onThread, modQueueReg_val, modQueueReg_val, onQueue_onQueue, hth]
  rfl

/-- The earliest writer that waits for a place puts its value. -/
theorem serveQueue_writer {t : Trail s} {c q w : Nat} {p : Nat × Clock} {vs : List (Nat × Clock)} {ws : List Nat} {o : Op}
    (hv : ((t.1.core c).queue q).vals = p :: vs) (hlen : vs.length < 3) (hr : ((t.1.core c).queue q).readers = [])
    (hw : ((t.1.core c).queue q).writers = w :: ws) (ho : t.1.blockedOp c w = some o) (hq : Quiet t.1 (t.1.partOfCore c)) (n : Nat) :
    Trail.serveQueue c q (n + 1) t = Trail.serveQueue c q n (writerPuts c q w (o.args.headD 0) t) := by
  conv_lhs => unfold Trail.serveQueue
  dsimp only
  rw [hv, hr, hw]
  dsimp only
  rw [if_neg (by rw [List.length_cons]; omega), ho]
  refine congrArg (Trail.serveQueue c q n) (logged_quiet (go := writerPuts c q w (o.args.headD 0)) hq ?_ _ _ _ _)
  unfold writerPuts
  rw [modThread_onThread, onThread_parts]
  rfl

/-! ### qput -/

/-- A slot waits for a free place of a queue, after those that do. -/
def placeAwaited (sl : Nat) (k : QueueReg) : QueueReg := { k with writers := k.writers.filter (fun m => decide (m ≠ sl)) ++ [sl] }

/-- A slot waits for a value of a queue, after those that do. -/
def valueAwaited (sl : Nat) (k : QueueReg) : QueueReg := { k with readers := k.readers.filter (fun m => decide (m ≠ sl)) ++ [sl] }

/-- The thread that issues waits at a queue. -/
theorem queueWaits_val {i : Instr} (h : Issues s i x) (q : Nat) (f : QueueReg → QueueReg) (args : List Nat) :
    (waits x .blocked args ((begin s).modQueueReg x.c q f)).1 =
      withThread (Claims.onQueue s x.c q f) x.c x.sl (x.th.wait i x.hint .blocked args) := by
  have hval := waits_of (t := (begin s).modQueueReg x.c q f) ((onQueue_thread _ _ _ _ _ _).trans h.thread) .blocked args
  rwa [h.i_eq] at hval

theorem qput_full {da : Desc} (h : Issues s (.qput a b) x) (ha : Operand x a isAny da) (hb : x.syncBad (0x500 + 8 * b) = .ok ())
    (hd : x.drained = true) (hf : 4 ≤ (x.k.queue b).vals.length) :
    exec (.qput a b) s = .next (withThread (Claims.onQueue s x.c b (placeAwaited x.sl)) x.c x.sl
      (x.th.wait (.qput a b) x.hint .blocked [queueWordOf da ((val x a).headD 0)])) := by
  rw [← queueWaits_val h]
  refine issue_next (g := fun t => waits x .blocked [queueWordOf da ((val x a).headD 0)] (t.modQueueReg x.c b (placeAwaited x.sl))) h ?_
  simp only [check_any ha.dest, ha.read0, hb, bind, Except.bind, if_pos hf, afterStores_drained hd]
  rfl

/-- A queue with one more value. -/
def queueGiven (v : Nat) (vc : Clock) (k : QueueReg) : QueueReg := { k with vals := k.vals ++ [(v, vc)] }

/-- The course of a `qput` into a queue with a free place, up to who takes what it gives. -/
theorem qput_next {da : Desc} (h : Issues s (.qput a b) x) (ha : Operand x a isAny da) (hb : x.syncBad (0x500 + 8 * b) = .ok ())
    (hd : x.drained = true) (hf : (x.k.queue b).vals.length < 4) (hu : Unlogged s x) : exec (.qput a b) s = .next (Trail.serveQueue x.c b 32
      ((own x Thread.released (begin s)).modQueueReg x.c b (queueGiven (queueWordOf da ((val x a).headD 0)) x.th.vc))).1 := by
  generalize hv : queueWordOf da ((val x a).headD 0) = v
  have hgo := ctxLogged_quiet (t := begin s) (go := fun t => (own x Thread.released t).modQueueReg x.c b (queueGiven v x.th.vc)) hu rfl
    (queueRecord x.s x.c x.sl 0 b v)
  rw [← hgo]
  refine issue_next (g := fun t => Trail.serveQueue x.c b 32 (x.logged (queueRecord x.s x.c x.sl 0 b v)
    (fun t => (own x Thread.released t).modQueueReg x.c b (queueGiven v x.th.vc)) t)) h ?_
  simp only [check_any ha.dest, ha.read0, hb, bind, Except.bind, if_neg (Nat.not_le.mpr hf), afterStores_drained hd, hv]
  rfl

theorem qput_queue (h : Issues s (.qput a b) x) (v : Nat) :
    ((Claims.onQueue (retired s x x.th.released) x.c b (queueGiven v x.th.vc)).core x.c).queue b = queueGiven v x.th.vc (x.k.queue b) := by
  rw [onQueue_queue, retired, withThread_queue, h.k_eq]

theorem qput_stores {da : Desc} (h : Issues s (.qput a b) x) (ha : Operand x a isAny da) (hb : x.syncBad (0x500 + 8 * b) = .ok ())
    (hd : x.drained = true) (hf : (x.k.queue b).vals.length < 4) (hr : (x.k.queue b).readers = []) (hw : (x.k.queue b).writers = [])
    (hu : Unlogged s x) : exec (.qput a b) s =
      .next (Claims.onQueue (retired s x x.th.released) x.c b (queueGiven (queueWordOf da ((val x a).headD 0)) x.th.vc)) := by
  have hrest := serveQueue_rest (t := (own x Thread.released (begin s)).modQueueReg x.c b (queueGiven (queueWordOf da ((val x a).headD 0)) x.th.vc))
    (qput_queue h _) 32 (.inl ⟨hr, .inl hw⟩)
  rw [qput_next h ha hb hd hf hu, hrest]
  rfl

theorem qput_gives {da : Desc} {r : Nat} {rs : List Nat} {o : Op} (h : Issues s (.qput a b) x) (ha : Operand x a isAny da)
    (hb : x.syncBad (0x500 + 8 * b) = .ok ()) (hd : x.drained = true) (hv : (x.k.queue b).vals = []) (hr : (x.k.queue b).readers = r :: rs)
    (hw : (x.k.queue b).writers = []) (hne : r ≠ x.sl) (ho : s.blockedOp x.c r = some o) (hu : Unlogged s x)
    (hq : Quiet s (s.partOfCore x.c)) : exec (.qput a b) s =
      .next (taken (Claims.onQueue (retired s x x.th.released) x.c b (queueGiven (queueWordOf da ((val x a).headD 0)) x.th.vc)) x.c r b o.instr
        (queueWordOf da ((val x a).headD 0)) x.th.vc) := by
  generalize hword : queueWordOf da ((val x a).headD 0) = v
  have hex := qput_next h ha hb hd (by rw [hv]; decide) hu
  rw [hword] at hex
  have hqueue := qput_queue h v
  generalize ht : (own x Thread.released (begin s)).modQueueReg x.c b (queueGiven v x.th.vc) = t at hex
  have hval : t.1 = Claims.onQueue (retired s x x.th.released) x.c b (queueGiven v x.th.vc) := by rw [← ht]; rfl
  have hvals : ((t.1.core x.c).queue b).vals = [(v, x.th.vc)] := by rw [hval, hqueue, queueGiven, hv]; rfl
  have hop : t.1.blockedOp x.c r = some o := by
    rw [hval, State.blockedOp, onQueue_thread, retired, withThread_thread_other _ _ _ _ _ _ (.inr hne)]
    exact ho
  have hquiet : Quiet t.1 (t.1.partOfCore x.c) := by rw [hval]; exact hq
  have htaken : (t.takeValue x.c r b o.instr).1 = _ := takeValue_val hvals r o.instr
  rw [hex, serveQueue_reader hvals (by rw [hval, hqueue]; exact hr) hop hquiet 31, serveQueue_rest rfl 31 (.inr ?_), htaken, hval]
  rw [htaken, taken_queue, hval, hqueue, queueGiven, hv]
  exact ⟨rfl, hw⟩

/-! ### qget and qtry -/

/-- The course of a `qget` or `qtry` that finds a value, up to who fills the place. -/
theorem takeFrom_val {t : Trail s} {v : Nat} {vc : Clock} {r : List (Nat × Clock)} (hu : Unlogged t.1 x)
    (hv : ((t.1.core x.c).queue b).vals = (v, vc) :: r) : takeFrom x b v t = Trail.serveQueue x.c b 32 (t.takeValue x.c x.sl b x.i) := by
  unfold takeFrom
  rw [ctxLogged_quiet (go := fun t => t.takeValue x.c x.sl b x.i) hu (by rw [takeValue_val hv, taken_parts])]

/-- A value taken by the thread that issues; the earliest writer that waits for the place puts its own. -/
theorem takes_of {mk : Nat → Nat → Instr} (hmk : ∀ {s x d b dd v vc r}, Issues s (mk d b) x → Dest x d isAny dd →
    x.syncBad (0x500 + 8 * b) = .ok () → (x.k.queue b).vals = (v, vc) :: r → exec (mk d b) s = .next (takeFrom x b v (begin s)).1) : Takes mk := by
  intro s x d b dd v vc r h hd hb hu hq hv hr
  have hvals : (((begin s).1.core x.c).queue b).vals = (v, vc) :: r := by rw [begin_val, ← h.k_eq]; exact hv
  have hex := hmk h hd hb hv
  rw [takeFrom_val hu hvals, h.i_eq] at hex
  have hval := takeValue_val hvals x.sl (mk d b)
  rw [begin_val] at hval
  generalize (begin s).takeValue x.c x.sl b (mk d b) = t at hex hval
  have hqueue : (t.1.core x.c).queue b = queueTaken x.sl (x.k.queue b) := by rw [hval, taken_queue, h.k_eq]
  have hreaders : (queueTaken x.sl (x.k.queue b)).readers = [] := by unfold queueTaken; rw [hr]; rfl
  refine ⟨fun hw => ?_, fun w ws th o hw hne hth ho hlen => ?_⟩
  · rw [hex, serveQueue_rest hqueue 32 (.inl ⟨hreaders, .inl hw⟩), hval]
  · obtain ⟨p, vs, rfl⟩ : ∃ p vs, r = p :: vs := by
      cases r with
      | nil => cases hlen
      | cons p vs => exact ⟨p, vs, rfl⟩
    have hlen' : vs.length = 2 := by simpa using hlen
    have hthread : t.1.thread? x.c w = some th := by rw [hval, taken_thread_other _ _ _ _ _ hne, hth]
    have hop : t.1.blockedOp x.c w = some o := by rw [State.blockedOp, hthread]; exact ho
    have hparts : t.1.parts = s.parts := by rw [hval, taken_parts]
    have hquiet : Quiet t.1 (t.1.partOfCore x.c) := by rw [partOfCore_of_parts hparts]; exact quiet_of_parts hq hparts
    have hvals' : ((t.1.core x.c).queue b).vals = p :: vs := by rw [hqueue, queueTaken, hv]; rfl
    have hputs := writerPuts_val hthread b (o.args.headD 0)
    rw [hex, serveQueue_writer hvals' (by omega) (by rw [hqueue]; exact hreaders) (by rw [hqueue]; exact hw) hop hquiet 31,
      serveQueue_rest rfl 31 (.inl ?_), hputs, hval]
    · rfl
    · rw [hputs, onThread_queue, onQueue_queue, hqueue]
      refine ⟨hreaders, .inr ?_⟩
      show 4 ≤ (((x.k.queue b).vals.drop 1) ++ _).length
      rw [hv]
      simp [hlen']

end

theorem qget_empty {s : State} {x : Ctx} {d b : Nat} {dd : Desc} (h : Issues s (.qget d b) x) (hd : Dest x d isAny dd)
    (hb : x.syncBad (0x500 + 8 * b) = .ok ()) (hv : (x.k.queue b).vals = []) :
    exec (.qget d b) s =
      .next (withThread (Claims.onQueue s x.c b (valueAwaited x.sl)) x.c x.sl (x.th.wait (.qget d b) x.hint .blocked [])) := by
  rw [← queueWaits_val h]
  refine issue_next (g := fun t => waits x .blocked [] (t.modQueueReg x.c b (valueAwaited x.sl))) h ?_
  simp only [check_any hd, hb, hv, bind, Except.bind]
  rfl

theorem qtry_empty {s : State} {x : Ctx} {d b : Nat} {dd : Desc} (h : Issues s (.qtry d b) x) (hd : Dest x d isAny dd)
    (hb : x.syncBad (0x500 + 8 * b) = .ok ()) (hv : (x.k.queue b).vals = []) (hu : Unlogged s x) :
    exec (.qtry d b) s = .next (retired s x (x.th.replied 1 0)) := by
  have hgo := ctxLogged_quiet (t := begin s) (go := own x (fun th => th.replied 1 0)) hu rfl (queueRecord x.s x.c x.sl 2 b 0)
  refine (issue_next (g := x.logged (queueRecord x.s x.c x.sl 2 b 0) (own x (fun th => th.replied 1 0))) h ?_).trans (by rw [hgo, own_val])
  simp only [check_any hd, hb, hv, bind, Except.bind]

theorem queuesHold : QueuesHold := by
  refine ⟨fun s x a b da h ha hb hd => ⟨fun hf hr hw hu => qput_stores h ha hb hd hf hr hw hu,
      fun r rs o hv hr hw hne ho hu hq => qput_gives h ha hb hd hv hr hw hne ho hu hq, fun hf => qput_full h ha hb hd hf⟩,
    takes_of fun {s x d b dd v vc r} h hd hb hv => issue_next h ?_, takes_of fun {s x d b dd v vc r} h hd hb hv => issue_next h ?_,
    fun s x d b dd h hd hb hv => qget_empty h hd hb hv, fun s x d b dd h hd hb hv hu => qtry_empty h hd hb hv hu⟩
  all_goals simp only [check_any hd, hb, hv, bind, Except.bind]

/-- Settles O19, from the courses of the barrier instructions and of the units' steps, and from who has a stage or a queue's value next. -/
theorem synchronisation : Obligations.Synchronisation := ⟨barriersHold, stagesHold, queuesHold⟩

end Sys2Proof.Proofs
end


section
/-!
PROOFS. Messages: sending, and what becomes of a message where it arrives.
-/

namespace Sys2Proof.Proofs

open Sys2Proof Sys2Proof.Machine Sys2Proof.Claims

/-! ### Sending (R348) -/

/-- What a thread's reads change, seen from a state with the same cores. -/
theorem readsOnly_elsewhere {s w b : State} {c sl : Nat} {th : Thread} (h : ReadsOnly s w c sl th) (hb : b.cores = s.cores) :
    ReadsOnly b { b with cores := w.cores } c sl th := by
  have hcore (c') : b.core c' = s.core c' := by rw [State.core, hb]; rfl
  have hthread (c' sl') : b.thread? c' sl' = s.thread? c' sl' := by rw [State.thread?, hcore]; rfl
  refine ⟨h.own, fun c' sl' hne => ?_, fun c' => (h.cores c').trans (by rw [hcore]), rfl⟩
  have hother := h.others c' sl' hne
  unfold SameOrAgain at hother ⊢
  rw [hthread]
  exact hother

theorem readsOnly_due {s w : State} {c sl : Nat} {th : Thread} (h : ReadsOnly s w c sl th) (i : Instr) (args : List Nat) :
    ReadsOnly (due s i args) (due w i args) c sl th := by
  have hdue : due w i args = { due s i args with cores := w.cores } := congrArg (fun v => due v i args) h.rest
  rw [hdue]
  exact readsOnly_elsewhere h rfl

theorem readsOnly_sent {s w : State} {c sl : Nat} {th : Thread} (h : ReadsOnly s w c sl th) (src dst : Nat) (i : Instr) (args : List Nat) :
    ReadsOnly (sent s src dst i args) (sent w src dst i args) c sl th := by
  have hsent : sent w src dst i args = { sent s src dst i args with cores := w.cores } :=
    (congrArg (fun v => sent v src dst i args) h.rest).trans (sent_withCores s w.cores _ _ _ _)
  rw [hsent]
  exact readsOnly_elsewhere h (sent_cores _ _ _ _ _)

section
variable {s : State} {i : Instr} {x : Ctx} {a b p : Nat} {da db : Desc}

theorem msgAddr_of (ha : Operand x a isInt da) (hp : p = (val x a).headD 0) (hal : p % 32 = 0) (hrun : x.inRun p 64 = true) :
    x.msgAddr a = .ok p := by
  have hrun' : ¬((!x.inRun (((val x a).headD 0 : Nat) : Int) 64) = true) := by rw [← hp, hrun]; exact Bool.false_ne_true
  unfold Ctx.msgAddr
  simp only [ha.read0, bind, Except.bind, if_neg (fun e : (val x a).headD 0 % 32 ≠ 0 => e (hp ▸ hal)), if_neg hrun']
  rw [hp]

/-- The words that a `send` leaves with: its destination, the message, and the latest record of its thread. -/
def sendArgs (x : Ctx) (p w : Nat) : List Nat := w :: (upFrom 0 8).map (fun j => x.locNum (p + 8 * j) 8) ++ lastRecord x

/-- A message leaves its core, or is refused by it. -/
def sends (x : Ctx) (p w : Nat) (start : Bool) : Effect s := fun t =>
  let t := waits x .inFlight (sendArgs x p w) (t.enterRun x p 64 false false)
  if x.badDest w start then t.pend .sendReply [x.c, x.sl, 5] else t.sendTo (dieOf x.c) (dieOf (bits w 8 0)) .messageArrive [x.c, x.sl]

theorem sendMessage_next {start : Bool} (h : Issues s i x) (ha : Operand x a isInt da) (hb : Operand x b isInt db) (hp : p = (val x a).headD 0)
    (hal : p % 32 = 0) (hrun : x.inRun p 64 = true) (hrace : x.runRace p 64 false false = .ok ())
    (hbad : x.localBad (x.runBase + p) 64 = none) (hd : x.drained = true) :
    sendMessage i a b start s = .next (sends x p ((val x b).headD 0) start (begin s)).1 := by
  refine issue_next (g := sends x p ((val x b).headD 0) start) h ?_
  simp only [check_int ha.dest, check_int hb.dest, msgAddr_of ha hp hal hrun, hb.read0, hrace, runEcc_sound hbad, bind, Except.bind,
    afterStores_drained hd]
  rfl

theorem sends_val (h : Issues s i x) (w : Nat) (start : Bool) :
    ReadsOnly (if x.badDest w start = true then due s .sendReply [x.c, x.sl, 5] else sent s (dieOf x.c) (dieOf (bits w 8 0)) .messageArrive [x.c, x.sl])
      (sends x p w start (begin s)).1 x.c x.sl (x.th.wait i x.hint .inFlight (sendArgs x p w)) := by
  have hist := enterAll_histories (begin s) x false false ((granules (x.runBase + p) 64).map .gran)
  have hwaits := waits_of ((hist.thread x.c x.sl).trans h.thread) .inFlight (sendArgs x p w)
  have hreads := hist.readsOnly x.c x.sl (x.th.wait i x.hint .inFlight (sendArgs x p w))
  rw [h.i_eq] at hwaits
  rw [← hwaits] at hreads
  unfold sends Trail.enterRun
  generalize waits x .inFlight (sendArgs x p w) ((begin s).enterAll x false false ((granules (x.runBase + p) 64).map .gran)) = u at hreads
  dsimp only
  split
  · rw [pend_val]
    exact readsOnly_due hreads _ _
  · rw [sendTo_val]
    exact readsOnly_sent hreads _ _ _ _

end

theorem sends_hold {mk : Nat → Nat → Instr} {start : Bool} (hmk : ∀ a b s, exec (mk a b) s = sendMessage (mk a b) a b start s) : Sends mk start :=
  fun s _ a b _ _ _ h ha hb hp hal hrun hrace hbad hd =>
    ⟨_, (hmk a b s).trans (sendMessage_next h ha hb hp hal hrun hrace hbad hd), sends_val h _ start⟩

/-- The course of a request's return that retires its instruction. -/
theorem answered_own {s : State} {i : Instr} {c sl : Nat} {x : Ctx} {a : List Nat} (hop : s.opCtx? c sl = some (x, a)) (f : Thread → Thread)
    (hex : exec i s = .next ((own x f (begin s)).settle c sl).1) : Answered s i c sl ((f x.th).retire (x.th.pc + 4)) := by
  obtain ⟨rfl, rfl⟩ := opCtx_place hop
  have hlook := settle_looksAgain (own x f (begin s)) x.c x.sl
  rw [own_val] at hlook
  obtain ⟨hown, honly⟩ := hlook.only (s := s) rfl rfl
  exact ⟨_, hex, hown, honly, hlook.rest⟩

theorem sendReply_answers {s : State} {c sl code : Nat} {x : Ctx} {a : List Nat} (hargs : s.args = [c, sl, code])
    (hop : s.opCtx? c sl = some (x, a)) (hst : x.th.status = .inFlight) (ha : a ≠ []) :
    Answered s .sendReply c sl ((x.th.released.replied code 0).retire (x.th.pc + 4)) := by
  refine answered_own hop (fun th => th.released.replied code 0) ?_
  have hyes : x.th.status = .inFlight ∧ (!a.isEmpty) = true := ⟨hst, by simpa using ha⟩
  show execSendReply s = _
  unfold execSendReply
  rw [event_val]
  simp only [arg_of hargs, List.getD_cons_zero, List.getD_cons_succ]
  rw [resume_ok (g := own x (fun th => th.released.replied code 0)) (begin s) hop (if_pos hyes)]

/-! ### Arrival (R117, R348) -/

theorem modPigeon_val {s : State} (t : Trail s) (c sl : Nat) (f : Pigeon → Pigeon) : (t.modPigeon c sl f).1 = onPigeon t.1 c sl f := rfl

theorem onPigeon_pigeon (s : State) (c sl : Nat) (f : Pigeon → Pigeon) : ((onPigeon s c sl f).core c).pigeon sl = f ((s.core c).pigeon sl) := by
  rw [onPigeon, onCore_core]
  exact lookD_put_same _ _ _ _

theorem onPigeon_thread (s : State) (c n : Nat) (f : Pigeon → Pigeon) (c' sl : Nat) : (onPigeon s c n f).thread? c' sl = s.thread? c' sl :=
  onCore_thread (f := fun k => { k with pigeons := put k.pigeons n (f (k.pigeon n)) }) rfl c' sl

theorem wakeRecv_val {s : State} (t : Trail s) (c sl : Nat) : (t.wakeRecv c sl).1 = wokenRecv t.1 c sl := by
  unfold Trail.wakeRecv wokenRecv
  split
  · exact modThread_onThread _ _ _ _
  · rfl

theorem replyTo_val {s : State} (t : Trail s) (rc c sl code : Nat) :
    (t.replyTo rc c sl code).1 = sent t.1 (dieOf rc) (dieOf c) .sendReply [c, sl, code] := sendTo_val _ _ _ _ _

/-- No barrier of a core counts deliveries. -/
def PlainCore (k : Core) : Prop := ∀ b ∈ k.barriers, b.2.pb = false

theorem countDelivery_plain {s : State} {t : Trail s} {c : Nat} (h : PlainCore (t.1.core c)) (m : Bool) : t.countDelivery c m = t := by
  unfold Trail.countDelivery
  rw [List.filter_eq_nil_iff.mpr fun p hp => by rw [h p hp]; exact Bool.false_ne_true, List.map_nil, forEach_nil]

theorem onThread_barriers (s : State) (c sl : Nat) (f : Thread → Thread) : ((onThread s c sl f).core c).barriers = (s.core c).barriers := by
  unfold onThread
  cases s.thread? c sl with
  | none => rfl
  | some th =>
    dsimp only
    rw [withThread_core]

theorem wokenRecv_barriers (s : State) (c sl : Nat) : ((wokenRecv s c sl).core c).barriers = (s.core c).barriers := by
  unfold wokenRecv
  split
  · exact onThread_barriers _ _ _ _
  · rfl

theorem wokenRecv_parts (s : State) (c sl : Nat) : (wokenRecv s c sl).parts = s.parts := by
  unfold wokenRecv
  split
  · exact onThread_parts _ _ _ _
  · rfl

section
variable {s : State} {rc slot : Nat} {m : Msg}

/-- A message to an empty pigeonhole. -/
theorem deliver_pigeon {t : Trail s} (hp : PlainCore (t.1.core rc)) (he : ((t.1.core rc).pigeon slot).msg = none) : (t.deliver rc slot m).1 =
    sent (wokenRecv (onPigeon t.1 rc slot (fun p => { p with msg := some m })) rc slot) (dieOf rc) (dieOf m.core) .sendReply [m.core, m.slot, 0] := by
  have hplain : PlainCore (((t.modPigeon rc slot (fun p => { p with msg := some m })).wakeRecv rc slot).1.core rc) := by
    unfold PlainCore
    rw [wakeRecv_val, wokenRecv_barriers, modPigeon_val, onPigeon, onCore_core]
    exact hp
  unfold Trail.deliver
  dsimp only
  rw [if_pos (Option.isNone_iff_eq_none.mpr he), countDelivery_plain hplain, replyTo_val, wakeRecv_val, modPigeon_val]

/-- A message to a taken pigeonhole goes to the arrival buffer. -/
theorem deliver_buffer {t : Trail s} (hp : PlainCore (t.1.core rc)) (he : ((t.1.core rc).pigeon slot).msg ≠ none) : (t.deliver rc slot m).1 =
    sent (onCore t.1 rc (fun k => { k with arrivals := k.arrivals ++ [(slot, m)] })) (dieOf rc) (dieOf m.core) .sendReply [m.core, m.slot, 0] := by
  have hplain : PlainCore ((t.modCore rc (fun k => { k with arrivals := k.arrivals ++ [(slot, m)] })).1.core rc) := by
    unfold PlainCore
    rw [modCore_onCore, onCore_core]
    exact hp
  unfold Trail.deliver
  dsimp only
  rw [if_neg (by simpa using he), countDelivery_plain hplain, replyTo_val, modCore_onCore]

/-- A refusal with room in the refusal list. -/
theorem refuse_val {t : Trail s} (hr : (t.1.core rc).refusals.length < 32) (c sl : Nat) : (t.refuse rc slot c sl).1 =
    sent (onCore (onPigeon t.1 rc slot (fun p => { p with refused := if p.refused = 0xFFFFFFFF then p.refused else p.refused + 1 })) rc
      (fun k => { k with refusals := k.refusals ++ [(c, sl)] })) (dieOf rc) (dieOf c) .sendReply [c, sl, 1] := by
  unfold Trail.refuse
  dsimp only
  rw [if_pos (by rw [modPigeon_val, onPigeon, onCore_core]; exact hr), replyTo_val, modCore_onCore, modPigeon_val]

end

/-- A message is refused where it arrives, or waits for the log to say so. -/
def refuses {s : State} (x : Ctx) (rc slot : Nat) (words : List Nat) : Effect s := fun t =>
  t.logged (s.partOfCore rc) (t.1.recOf x.c x.sl 2 (coreSource rc) 2 (msgInput x.c x.sl words)) (.step ⟨.messageArrive, s.args⟩) id
    (fun q t => (x.diverges q t).settle x.c x.sl) (fun t => t.refuse rc slot x.c x.sl)

/-- The descriptors of a handler's names. -/
def handlerDescs : List (Nat × Desc) := (upFrom 0 8).map (fun i => (i, { width := 64, lanes := 1, kind := .uns, pol := .wrap, win := false }))

/-- A message in flight arrives at its core, for a slot whose thread is th. -/
def arrivesAtThread {s : State} (x : Ctx) (w : Nat) (words after : List Nat) (th : Thread) : Effect s := fun t =>
  let rc := bits w 8 0
  let slot := bits w 19 16
  let k := s.core rc
  let m := messageOf x words after
  if th.status = .finished then t.replyTo rc x.c x.sl 3
  else if !(match x.i with | .sendh _ _ => true | _ => false) then
    if (k.pigeon slot).msg.isSome && decide (16 ≤ k.arrivals.length) then refuses x rc slot words t else t.deliver rc slot m
  else
    match s.task? th.task with
    | none => t.replyTo rc x.c x.sl 3
    | some tk =>
      if tk.codelen ≤ bits w 55 32 then t.replyTo rc x.c x.sl 4
      else
        match k.freeSlot with
        | none => refuses x rc slot words t
        | some free =>
          match placePattern free handlerDescs (k.occupied free) with
          | none => refuses x rc slot words t
          | some names =>
            t.logged (s.partOfCore rc) { t.1.recOf rc free 2 (coreSource rc) 1 (msgInput x.c x.sl words) with after := m.after }
              (.step ⟨.messageArrive, s.args⟩) id (fun q t => (x.diverges q t).settle x.c x.sl)
              (fun t => t.startHandler rc free th.task (bits w 55 32) tk names m)

section
variable {s : State} {x : Ctx} {w : Nat} {words after : List Nat} {th : Thread}

theorem exec_messageArrive (hargs : s.args = [x.c, x.sl]) (hop : s.opCtx? x.c x.sl = some (x, w :: words ++ after)) (hsize : words.length = 8)
    (hst : x.th.status = .inFlight) : exec .messageArrive s = .next (match s.thread? (bits w 8 0) (bits w 19 16) with
      | none => (begin s).replyTo (bits w 8 0) x.c x.sl 3
      | some th => arrivesAtThread x w words after th (begin s)).1 := by
  have htake : ((w :: words ++ after).drop 1).take 8 = words := by simp [← hsize]
  have hdrop : (w :: words ++ after).drop 9 = after := by
    rw [List.cons_append, List.drop_succ_cons, ← hsize, List.drop_left]
  have hgo : ¬(x.th.status ≠ .inFlight ∨ (w :: words ++ after).length < 9) := by simp [hst, hsize]
  show execMessageArrive s = _
  unfold execMessageArrive
  rw [event_val]
  simp only [begin_val, arg_of hargs, List.getD_cons_zero, List.getD_cons_succ, hop, if_neg hgo, htake, hdrop]
  rfl

theorem arrives_next (h : InTransit s x w words after th) : exec .messageArrive s = .next (arrivesAtThread x w words after th (begin s)).1 := by
  obtain ⟨hargs, hop, hsize, hst, htarget, -, -⟩ := h
  rw [exec_messageArrive hargs hop hsize hst, htarget]

/-- A message for a slot without a thread that runs. -/
theorem arrives_nobody (hargs : s.args = [x.c, x.sl]) (hop : s.opCtx? x.c x.sl = some (x, w :: words ++ after)) (hsize : words.length = 8)
    (hst : x.th.status = .inFlight) (hno : ∀ th, s.thread? (bits w 8 0) (bits w 19 16) = some th → th.status = .finished) :
    exec .messageArrive s = .next (sent s (dieOf (bits w 8 0)) (dieOf x.c) .sendReply [x.c, x.sl, 3]) := by
  rw [exec_messageArrive hargs hop hsize hst]
  cases hth : s.thread? (bits w 8 0) (bits w 19 16) with
  | none => exact congrArg Host.Outcome.next (replyTo_val _ _ _ _ _)
  | some th =>
    dsimp only
    unfold arrivesAtThread
    dsimp only
    rw [if_pos (hno th hth), replyTo_val, begin_val]

/-- A message of a `send` to a thread that runs. -/
theorem arrives_send (h : InTransit s x w words after th) {a b : Nat} (hi : x.i = .send a b) : exec .messageArrive s =
    .next (if ((s.core (bits w 8 0)).pigeon (bits w 19 16)).msg.isSome && decide (16 ≤ (s.core (bits w 8 0)).arrivals.length) then
        refuses x (bits w 8 0) (bits w 19 16) words (begin s)
      else (begin s).deliver (bits w 8 0) (bits w 19 16) (messageOf x words after)).1 := by
  rw [arrives_next h, arrivesAtThread, if_neg h.runs, hi]
  rfl

theorem arrives_refused (h : InTransit s x w words after th) {a b : Nat} (hi : x.i = .send a b)
    (he : ((s.core (bits w 8 0)).pigeon (bits w 19 16)).msg ≠ none) (hfull : 16 ≤ (s.core (bits w 8 0)).arrivals.length)
    (hq : Quiet s (s.partOfCore (bits w 8 0))) (hr : (s.core (bits w 8 0)).refusals.length < 32) : exec .messageArrive s =
      .next (sent (onCore (onPigeon s (bits w 8 0) (bits w 19 16) (fun p => { p with
        refused := if p.refused = 0xFFFFFFFF then p.refused else p.refused + 1 })) (bits w 8 0)
        (fun k => { k with refusals := k.refusals ++ [(x.c, x.sl)] })) (dieOf (bits w 8 0)) (dieOf x.c) .sendReply [x.c, x.sl, 1]) := by
  have hval := refuse_val (t := begin s) (rc := bits w 8 0) (slot := bits w 19 16) hr x.c x.sl
  rw [arrives_send h hi, if_pos (by simp [hfull, Option.isSome_iff_ne_none, he])]
  unfold refuses
  rw [logged_quiet (go := fun t => t.refuse (bits w 8 0) (bits w 19 16) x.c x.sl) hq (by rw [hval, sent_parts]; rfl), hval, begin_val]

/-! ### Handlers (R117, R348) -/

/-- A message of a `sendh` whose handler lies beyond the code. -/
theorem arrives_beyond (h : InTransit s x w words after th) {a b : Nat} {n : Machine.Task} (hi : x.i = .sendh a b) (hn : s.task? th.task = some n)
    (hlen : n.codelen ≤ bits w 55 32) :
    exec .messageArrive s = .next (sent s (dieOf (bits w 8 0)) (dieOf x.c) .sendReply [x.c, x.sl, 4]) := by
  rw [arrives_next h, arrivesAtThread, if_neg h.runs, hi]
  simp only [Bool.not_true, Bool.false_eq_true, if_false, hn, if_pos hlen, replyTo_val, begin_val]

/-- The thread that a message starts at a handler of a task. -/
def handlerThread (s : State) (rc n handler : Nat) (y : Machine.Task) (names : Tab NameSt) (m : Msg) : Thread :=
  let tids := (s.core rc).threads.filterMap (fun p => if p.2.task = n then some p.2.tid.toNat else none)
  let tid := ((upFrom 0 15).find? (fun i => !tids.contains i)).getD 0
  { Thread.start n (s.agents + 1) (y.code + handler) y.hw tid y.ta rc s.pkg.num (y.vc.join m.vc) none with
    names := handlerNames names m.words, st := BitVec.ofNat 64 (senderWord m.core m.slot) }

/-- A core in whose slot a thread starts. -/
def startedCore (slot : Nat) (h : Thread) (k : Core) : Core :=
  { k with
    threads := put k.threads slot h, pigeons := del k.pigeons slot, arrivals := k.arrivals.filter (fun m => decide (m.1 ≠ slot))
    hWin := k.hWin.filter (fun h => decide (h.1 / 256 ≠ slot)) }

/-- A state in which a task's thread has started. -/
def handlerStarted (s : State) (rc slot n : Nat) (y : Machine.Task) (h : Thread) : State :=
  { onCore { s with agents := s.agents + 1 } rc (startedCore slot h) with tasks := put s.tasks n { y with slots := y.slots ++ [slot] } }

theorem handlerStarted_thread (s : State) (rc slot n : Nat) (y : Machine.Task) (h : Thread) (c sl : Nat) :
    (handlerStarted s rc slot n y h).thread? c sl = if c = rc ∧ sl = slot then some h else s.thread? c sl := by
  show look ((onCore { s with agents := s.agents + 1 } rc (startedCore slot h)).core c).threads sl = _
  by_cases hc : c = rc
  · subst hc
    rw [onCore_core]
    by_cases hsl : sl = slot
    · rw [if_pos ⟨rfl, hsl⟩, hsl]
      exact look_put_same _ _ _
    · rw [if_neg fun e => hsl e.2]
      exact look_put_other _ _ _ _ hsl
  · rw [if_neg fun e => hc e.1, onCore_core_other _ _ hc]
    rfl

theorem startHandler_val {t : Trail s} {rc slot n handler : Nat} {y : Machine.Task} {m : Msg} (hu : Untraced t.1 rc slot)
    (hy : t.1.task? n = some y) (hp : PlainCore (t.1.core rc)) (names : Tab NameSt) : (t.startHandler rc slot n handler y names m).1 =
      sent (handlerStarted t.1 rc slot n y (handlerThread t.1 rc n handler y names m)) (dieOf rc) (dieOf m.core) .sendReply
        [m.core, m.slot, 0] := by
  have hstart := startThread_val (t := t.newAgent.1) (c := rc) (sl := slot) hu (handlerThread t.1 rc n handler y names m)
  have htask : ((t.newAgent.1.startThread rc slot (handlerThread t.1 rc n handler y names m)).modTask n
      (fun x => { x with slots := x.slots ++ [slot] })).1 = handlerStarted t.1 rc slot n y (handlerThread t.1 rc n handler y names m) := by
    have hy' : (t.newAgent.1.startThread rc slot (handlerThread t.1 rc n handler y names m)).1.task? n = some y := by rw [hstart]; exact hy
    unfold Trail.modTask
    rw [hy']
    dsimp only
    rw [Trail.act_val, hstart]
    rfl
  have hplain : PlainCore (((t.newAgent.1.startThread rc slot (handlerThread t.1 rc n handler y names m)).modTask n
      (fun x => { x with slots := x.slots ++ [slot] })).1.core rc) := by
    rw [htask]
    show PlainCore ((onCore { t.1 with agents := t.1.agents + 1 } rc _).core rc)
    rw [onCore_core]
    exact hp
  have hreply := replyTo_val (((t.newAgent.1.startThread rc slot (handlerThread t.1 rc n handler y names m)).modTask n
    (fun x => { x with slots := x.slots ++ [slot] })).countDelivery rc true) rc m.core m.slot 0
  rw [countDelivery_plain hplain true, htask] at hreply
  rw [← hreply, ← countDelivery_plain hplain true]
  rfl

/-- A message of a `sendh` starts a thread at its handler. -/
theorem arrives_starts (h : InTransit s x w words after th) {a b free : Nat} {n : Machine.Task} {names : Tab NameSt} (hi : x.i = .sendh a b)
    (hn : s.task? th.task = some n) (hlen : bits w 55 32 < n.codelen) (hfree : (s.core (bits w 8 0)).freeSlot = some free)
    (hplace : placePattern free handlerDescs ((s.core (bits w 8 0)).occupied free) = some names) (hq : Quiet s (s.partOfCore (bits w 8 0)))
    (hu : Untraced s (bits w 8 0) free) : exec .messageArrive s =
      .next (sent (handlerStarted s (bits w 8 0) free th.task n
        (handlerThread s (bits w 8 0) th.task (bits w 55 32) n names (messageOf x words after))) (dieOf (bits w 8 0)) (dieOf x.c) .sendReply
          [x.c, x.sl, 0]) := by
  have hval := startHandler_val (t := begin s) (handler := bits w 55 32) (m := messageOf x words after) hu hn h.plain names
  rw [arrives_next h, arrivesAtThread, if_neg h.runs, hi]
  simp only [Bool.not_true, Bool.false_eq_true, if_false, hn, if_neg (Nat.not_le.mpr hlen), hfree, hplace]
  rw [logged_quiet (go := fun t => t.startHandler (bits w 8 0) free th.task (bits w 55 32) n names (messageOf x words after)) hq (by
    rw [hval, sent_parts]
    rfl), hval]
  rfl

end

theorem sent_thread (s : State) (src dst : Nat) (i : Instr) (args : List Nat) (c sl : Nat) :
    (sent s src dst i args).thread? c sl = s.thread? c sl := by
  unfold State.thread? State.core
  rw [sent_cores]

theorem messagesHold : MessagesHold := by
  refine ⟨sends_hold fun a b s => rfl, sends_hold fun a b s => rfl,
    fun s c sl code x a hargs hop hst ha => sendReply_answers hargs hop hst ha,
    fun s x w words after th a b h hi => ⟨fun he => ?_, fun he hroom => ?_, fun he hfull hq hr => arrives_refused h hi he hfull hq hr⟩,
    fun s x w words after hargs hop hsize hst hno => arrives_nobody hargs hop hsize hst hno,
    fun s x w words after th a b n h hi hn => ⟨fun hlen => arrives_beyond h hi hn hlen, fun free names hlen hfree hplace hq hu => ?_⟩⟩
  · rw [arrives_send h hi, if_neg (by simp [he]), deliver_pigeon (t := begin s) h.plain he]
    rfl
  · rw [arrives_send h hi, if_neg (by simp [hroom]), deliver_buffer (t := begin s) h.plain he]
    rfl
  · have hex := arrives_starts h hi hn hlen hfree hplace hq hu
    refine ⟨_, handlerThread s (bits w 8 0) th.task (bits w 55 32) n names (messageOf x words after), hex, ?_, rfl, rfl, rfl, rfl, rfl, fun c sl hne => ?_, ?_, ?_, ?_⟩
    · rw [sent_thread, handlerStarted_thread, if_pos ⟨rfl, rfl⟩]
    · rw [sent_thread, handlerStarted_thread, if_neg hne]
    · rw [sent_form]
      exact look_put_same _ _ _
    · rw [sent_form]
      rfl
    · rw [sent_form]
      rfl

end Sys2Proof.Proofs
end


section
/-!
PROOFS. Messages: receiving.
-/

namespace Sys2Proof.Proofs

open Sys2Proof Sys2Proof.Machine Sys2Proof.Claims

/-! ### What a receipt changes -/

theorem noTimer_val {s : State} (t : Trail s) (i : Instr) (args : List Nat) : (t.noTimer i args).1 = noTimers t.1 i args := rfl

theorem noTimers_core (s : State) (i : Instr) (args : List Nat) (c : Nat) : (noTimers s i args).core c = s.core c := rfl

theorem noTimers_thread (s : State) (i : Instr) (args : List Nat) (c sl : Nat) : (noTimers s i args).thread? c sl = s.thread? c sl := rfl

theorem timer_val {s : State} (t : Trail s) (d n : Nat) (i : Instr) (args : List Nat) : (t.timer d true n i args).1 = onClock t.1 d n i args := rfl

theorem takeFirst_find {α : Type} (p : α → Bool) : ∀ l : List α, (takeFirst p l).map (·.1) = l.find? p
  | [] => rfl
  | y :: r => by
    have ih := takeFirst_find p r
    unfold takeFirst
    by_cases hy : p y = true
    · rw [if_pos hy, List.find?_cons_of_pos hy]
      rfl
    · rw [if_neg hy, List.find?_cons_of_neg hy, ← ih]
      cases takeFirst p r <;> rfl

/-- A pigeonhole is refilled from the arrival buffer, and nothing but its core changes. -/
structure Refilled (s t : State) (c sl : Nat) : Prop where
  msg : ((t.core c).pigeon sl).msg = ((s.core c).arrivals.find? (fun q => q.1 == sl)).map (·.2)
  thread : ∀ c' sl', t.thread? c' sl' = s.thread? c' sl'
  rest : t = { s with cores := t.cores }

/-- An empty pigeonhole of a core that has refused nobody. -/
theorem refill_refilled {s : State} {t : Trail s} {c sl : Nat} (hr : (t.1.core c).refusals = []) (he : ((t.1.core c).pigeon sl).msg = none) :
    Refilled t.1 (t.refill c sl).1 c sl := by
  have hfind := takeFirst_find (fun q : Nat × Msg => q.1 == sl) (t.1.core c).arrivals
  unfold Trail.refill
  cases htake : takeFirst (fun q : Nat × Msg => q.1 == sl) (t.1.core c).arrivals with
  | none =>
    rw [htake] at hfind
    dsimp only
    exact ⟨by rw [he, ← hfind]; rfl, fun _ _ => rfl, rfl⟩
  | some q =>
    obtain ⟨⟨n, m⟩, r⟩ := q
    rw [htake] at hfind
    dsimp only
    have hnone : (((t.modPigeon c sl (fun p => { p with msg := some m })).modCore c (fun k => { k with arrivals := r })).1.core c).refusals = [] := by
      rw [modCore_onCore, onCore_core, modPigeon_val, onPigeon, onCore_core]
      exact hr
    rw [contextFree_none _ _ hnone, modCore_onCore, modPigeon_val]
    refine ⟨?_, fun c' sl' => (onCore_thread (f := fun k => { k with arrivals := r }) rfl c' sl').trans (onPigeon_thread _ _ _ _ _ _), rfl⟩
    rw [onCore_core, ← hfind]
    exact congrArg Pigeon.msg (onPigeon_pigeon _ _ _ _)

/-- A lane that a thread receives does not depend on what it has acquired. -/
theorem setLane0_acquired (th : Thread) (vc : Clock) (vt : Word64) (n v : Nat) :
    (th.acquired vc).setLane0 vt n v = (th.setLane0 vt n v).acquired vc := by
  have hlanes : (th.acquired vc).lanes vt n = th.lanes vt n := rfl
  unfold Thread.setLane0
  rw [hlanes]
  unfold Thread.setLanes
  have hnames : (th.acquired vc).names = th.names := rfl
  rw [hnames]
  split_ifs
  · cases look th.names n with
    | none => rfl
    | some e =>
      dsimp only
      have hdepth : (th.acquired vc).depth = th.depth := rfl
      rw [hdepth]
      cases e.fields[if e.desc.win = true then th.depth % 4 else 0]? <;> rfl
  all_goals rfl

theorem drawn_fields (th : Thread) (mode : RMode) (n : Nat) :
    (th.drawn mode n).names = th.names ∧ (th.drawn mode n).lk = th.lk ∧ (th.drawn mode n).ws = th.ws := by
  unfold Thread.drawn
  split
  · exact ⟨rfl, rfl, rfl⟩
  · exact ⟨rfl, rfl, rfl⟩

/-- The thread of a `recv` that has taken a message: it has acquired it, and its name holds the sender. -/
def received (x : Ctx) (dd : Desc) (d v : Nat) (vc : Clock) : Thread :=
  ((drawnFor x dd ((x.th.acquired vc).setLane0 x.k.vt d v)).replied 0 0).retire (x.th.pc + 4)

theorem received_fields (x : Ctx) (dd : Desc) (d v : Nat) (vc : Clock) : (received x dd d v vc).names = (x.th.setLane0 x.k.vt d v).names ∧
    (received x dd d v vc).lk = (x.th.setLane0 x.k.vt d v).lk ∧ (received x dd d v vc).ws = (x.th.setLane0 x.k.vt d v).ws := by
  have hdrawn := drawn_fields ((x.th.acquired vc).setLane0 x.k.vt d v) (if isFlt dd = true then x.mode else .rne) dd.lanes
  rw [setLane0_acquired] at hdrawn
  unfold received drawnFor
  rw [setLane0_acquired]
  exact hdrawn

/-! ### recv and recvt (R118, R349) -/

/-- A message that the pigeonhole holds is received: its bytes go to the buffer, and the pigeonhole is filled again. -/
def takesMessage (x : Ctx) (dd : Desc) (d p v : Nat) (m : Msg) {s : State} : Effect s := fun t =>
  ((((((t.enterRun x p 64 true false).localStore x.c (x.runBase + p) (packWords 8 m.words)).setThread x.c x.sl (received x dd d v m.vc)).modPigeon
    x.c x.sl (fun q => { q with msg := none })).noTimer .recvtTimeout [x.c, x.sl])).refill x.c x.sl

/-- What a thread that has passed the checks of `recv` or `recvt` does, by what its pigeonhole holds. -/
def receives (x : Ctx) (dd : Desc) (d p : Nat) (tmo : Option Nat) {s : State} : Except Stop (Effect s) :=
  match (x.k.pigeon x.sl).msg with
  | some m => do
    x.runRace p 64 true false
    let v ← x.assignInt dd (senderWord m.core m.slot) 0
    .ok (x.logged { x.threadRec 2 (coreSource x.c) 0 (msgInput m.core m.slot m.words) with after := m.after } (takesMessage x dd d p v m))
  | none =>
    if 0 < (x.k.pigeon x.sl).notices then
      .ok (fun t => ((own x (fun th => th.replied 1 0) t).modPigeon x.c x.sl (fun q => { q with notices := q.notices - 1 })).noTimer .recvtTimeout
        [x.c, x.sl])
    else
      match tmo with
      | some 0 => .ok (timedOut x)
      | some n =>
        .ok (fun t =>
          let t := waits x .blocked [p] t
          if t.1.timers.any (fun y => decide (y.ev = ⟨.recvtTimeout, [x.c, x.sl]⟩)) then t
          else t.timer (dieOf x.c) true n .recvtTimeout [x.c, x.sl])
      | none => .ok (waits x .blocked [p])

section
variable {s : State} {i : Instr} {x : Ctx} {d a p : Nat} {da dd : Desc}

theorem receive_next {bo : Option Nat} {g : Effect s} (h : Issues s i x) (ha : Operand x a isInt da) (hd : Dest x d isAny dd)
    (hb : ∀ b, bo = some b → ∃ db, Operand x b isInt db) (hsync : x.syncBad (0x400 + 8 * x.sl) = .ok ()) (hp : p = (val x a).headD 0)
    (hal : p % 32 = 0) (hrun : x.inRun p 64 = true) (hg : receives x dd d p (bo.map (fun b => (val x b).headD 0)) = .ok g) :
    receive i d a bo s = .next (g (begin s)).1 := by
  refine issue_next h ?_
  cases bo with
  | none =>
    simp only [check_int ha.dest, check_any hd, msgAddr_of ha hp hal hrun, hsync, bind, Except.bind]
    exact hg
  | some b =>
    obtain ⟨db, hb⟩ := hb b rfl
    simp only [check_int ha.dest, check_int hb.dest, check_any hd, msgAddr_of ha hp hal hrun, hb.read0, hsync, bind, Except.bind]
    exact hg

/-- What becomes of a core by a write of its words, a change of a thread and of a pigeonhole. -/
theorem pigeonTaken_core {w : State} {c sl : Nat} {th : Thread} {f : Pigeon → Pigeon} {α : Type} (g : Core → α)
    (hth : ∀ k l, g { k with threads := l } = g k) (hpg : ∀ k l, g { k with pigeons := l } = g k) :
    g ((onPigeon (withThread w c sl th) c sl f).core c) = g (w.core c) := by
  rw [onPigeon, onCore_core, hpg, withThread_core, hth]

/-- What the receipt of a message leaves: the buffer's bytes, the thread, the pigeonhole, and threads that see the words written. -/
theorem takes_val (v : Nat) (m : Msg) (hr : (s.core x.c).refusals = []) : ∃ u w : State, HistoriesOnly s u ∧
    Stored u w x.c (x.runBase + p) (packWords 8 m.words) ∧
      Refilled (noTimers (onPigeon (withThread w x.c x.sl (received x dd d v m.vc)) x.c x.sl (fun q => { q with msg := none })) .recvtTimeout
        [x.c, x.sl]) (takesMessage x dd d p v m (begin s)).1 x.c x.sl := by
  have hist := enterAll_histories (begin s) x true false ((granules (x.runBase + p) 64).map .gran)
  have hstored := localWrite_stored ((begin s).enterRun x p 64 true false) x.c (x.runBase + p) (packWords 8 m.words) []
  unfold takesMessage Trail.localStore
  generalize ((begin s).enterRun x p 64 true false).localWrite x.c (x.runBase + p) (packWords 8 m.words) [] = t at hstored ⊢
  have hpigeon : (onPigeon (withThread t.1 x.c x.sl (received x dd d v m.vc)) x.c x.sl (fun q => { q with msg := none })) =
    ((t.setThread x.c x.sl (received x dd d v m.vc)).modPigeon x.c x.sl (fun q => { q with msg := none })).1 := rfl
  refine ⟨_, t.1, hist, hstored, ?_⟩
  rw [hpigeon, ← noTimer_val]
  refine refill_refilled ?_ ?_
  · have hwrite := congrArg Core.refusals (hstored.core x.c)
    have hcore := pigeonTaken_core (w := t.1) (c := x.c) (sl := x.sl) (th := received x dd d v m.vc) (f := fun q => { q with msg := none })
      Core.refusals (fun _ _ => rfl) (fun _ _ => rfl)
    exact hcore.trans (hwrite.trans ((hist.refusals x.c).trans hr))
  · have htaken := onPigeon_pigeon (withThread t.1 x.c x.sl (received x dd d v m.vc)) x.c x.sl (fun q => { q with msg := none })
    exact congrArg Pigeon.msg htaken

theorem packWords_length (n : Nat) : ∀ l : List Nat, (packWords n l).length = n * l.length
  | [] => rfl
  | v :: r => by
    have ih := packWords_length n r
    unfold packWords at ih ⊢
    rw [List.flatMap_cons, List.length_append, leBytes_length, ih, List.length_cons, Nat.mul_add_one, Nat.add_comm]

/-- The parts of the state that a receipt leaves. -/
theorem taken_rest {u w t : State} {c off sl : Nat} {bs : List Byte} {th : Thread} {f : Pigeon → Pigeon} {j : Instr} {args : List Nat}
    (hist : HistoriesOnly s u) (hstored : Stored u w c off bs)
    (hfilled : Refilled (noTimers (onPigeon (withThread w c sl th) c sl f) j args) t c sl) :
    t = { s with loc := t.loc, cores := t.cores, bad := t.bad, pending := t.pending, timers := t.timers } := by
  have hw := hstored.rest_of hist.rest
  rw [hfilled.rest, noTimers, onPigeon, onCore, withThread, hw]

theorem recv_takes {bo : Option Nat} {m : Msg} {v : Nat} (h : Issues s i x) (ha : Operand x a isInt da) (hd : Dest x d isAny dd)
    (hb : ∀ b, bo = some b → ∃ db, Operand x b isInt db) (hsync : x.syncBad (0x400 + 8 * x.sl) = .ok ()) (hp : p = (val x a).headD 0)
    (hal : p % 32 = 0) (hrun : x.inRun p 64 = true) (hm : (x.k.pigeon x.sl).msg = some m) (hlen : m.words.length = 8) (hu : Unlogged s x)
    (hrace : x.runRace p 64 true false = .ok ()) (hv : Gives x dd (m.core + m.slot * 65536 : Nat) 0 v) (hr : x.k.refusals = [])
    (hwf : s.loc.wf) (hc : x.c < 512) (hin : x.runBase + p + 64 ≤ 2097152) :
    ∃ t th, receive i d a bo s = .next t ∧ t.thread? x.c x.sl = some th ∧ th.pc = x.th.pc + 4 ∧ th.status = .ready ∧ th.st = reply 0 0 ∧
      th.names = (x.th.setLane0 x.k.vt d v).names ∧ th.lk = (x.th.setLane0 x.k.vt d v).lk ∧ th.ws = (x.th.setLane0 x.k.vt d v).ws ∧
      ((t.core x.c).pigeon x.sl).msg = (x.k.arrivals.find? (fun q => q.1 == x.sl)).map (·.2) ∧
      t.loc.bytes (locKey x.c (x.runBase + p)) 64 = packWords 8 m.words ∧
      (∀ k, k < locKey x.c (x.runBase + p) ∨ locKey x.c (x.runBase + p) + 64 ≤ k → t.loc.get k = s.loc.get k) ∧
      OthersWake s t x.c x.sl ∧ t = { s with loc := t.loc, cores := t.cores, bad := t.bad, pending := t.pending, timers := t.timers } := by
  obtain ⟨u, w, hist, hstored, hfilled⟩ := takes_val (s := s) (x := x) (d := d) (p := p) (dd := dd) v m (h.k_eq ▸ hr)
  have hrest := taken_rest hist hstored hfilled
  have hex : receive i d a bo s = .next (takesMessage x dd d p v m (begin s)).1 := by
    have hgo := ctxLogged_quiet (t := begin s) (go := takesMessage x dd d p v m) hu (by rw [hrest]; rfl)
      { x.threadRec 2 (coreSource x.c) 0 (msgInput m.core m.slot m.words) with after := m.after }
    rw [← hgo]
    refine receive_next h ha hd hb hsync hp hal hrun ?_
    unfold receives
    rw [hm]
    dsimp only
    have hv' : x.assignInt dd (senderWord m.core m.slot) 0 = .ok v := assignInt_gives hv
    simp only [hrace, hv', bind, Except.bind]
  generalize (takesMessage x dd d p v m (begin s)).1 = t at hfilled hrest hex
  have hbytes : (packWords 8 m.words).length = 64 := by rw [packWords_length, hlen]
  have hloc : t.loc = writeLocal s.loc (locKey x.c (x.runBase + p)) (packWords 8 m.words) := by
    rw [hfilled.rest]
    refine hstored.loc.trans ?_
    rw [hist.rest]
  have hthread (c' sl') : t.thread? c' sl' = (withThread w x.c x.sl (received x dd d v m.vc)).thread? c' sl' :=
    (hfilled.thread c' sl').trans ((noTimers_thread _ _ _ _ _).trans (onPigeon_thread _ _ _ _ _ _))
  have harrivals : (w.core x.c).arrivals = x.k.arrivals := by
    have hwrite := congrArg Core.arrivals (hstored.core x.c)
    have hbare := congrArg Core.arrivals (hist.bare x.c)
    rw [h.k_eq]
    exact hwrite.trans hbare
  obtain ⟨hnames, hlk, hws⟩ := received_fields x dd d v m.vc
  refine ⟨t, received x dd d v m.vc, hex, (hthread _ _).trans (withThread_thread _ _ _ _), rfl, rfl, rfl, hnames, hlk, hws, ?_, ?_,
    fun k hk => ?_, fun c' sl' hne => ?_, hrest⟩
  · rw [hfilled.msg, noTimers_core, pigeonTaken_core Core.arrivals (fun _ _ => rfl) (fun _ _ => rfl), harrivals]
  · rw [hloc, ← hbytes]
    exact bytes_writeLocal hwf (by rw [hbytes]; exact locKey_inside hc hin)
  · rw [hloc]
    exact writeLocal_other _ _ _ _ (by rw [hbytes]; exact hk)
  · have hsaw := hstored.thread c' sl'
    unfold SameOrSaw at hsaw
    rw [hist.thread] at hsaw
    rw [hthread, withThread_thread_other _ _ _ _ _ _ (not_and_pair hne)]
    exact hsaw

theorem recv_notice {bo : Option Nat} (h : Issues s i x) (ha : Operand x a isInt da) (hd : Dest x d isAny dd)
    (hb : ∀ b, bo = some b → ∃ db, Operand x b isInt db) (hsync : x.syncBad (0x400 + 8 * x.sl) = .ok ()) (hp : p = (val x a).headD 0)
    (hal : p % 32 = 0) (hrun : x.inRun p 64 = true) (hm : (x.k.pigeon x.sl).msg = none) (hn : 0 < (x.k.pigeon x.sl).notices) :
    receive i d a bo s = .next (noTimers
      (onPigeon (retired s x (x.th.replied 1 0)) x.c x.sl (fun q => { q with notices := q.notices - 1 })) .recvtTimeout [x.c, x.sl]) := by
  refine receive_next h ha hd hb hsync hp hal hrun (g := fun t =>
    ((own x (fun th => th.replied 1 0) t).modPigeon x.c x.sl (fun q => { q with notices := q.notices - 1 })).noTimer .recvtTimeout [x.c, x.sl]) ?_
  unfold receives
  rw [hm]
  exact if_pos hn

/-- A `recv` of an empty pigeonhole without a notice waits. -/
theorem recv_waits (h : Issues s i x) (ha : Operand x a isInt da) (hd : Dest x d isAny dd) (hsync : x.syncBad (0x400 + 8 * x.sl) = .ok ())
    (hp : p = (val x a).headD 0) (hal : p % 32 = 0) (hrun : x.inRun p 64 = true) (hm : (x.k.pigeon x.sl).msg = none)
    (hn : (x.k.pigeon x.sl).notices = 0) : receive i d a none s = .next (withThread s x.c x.sl (x.th.wait i x.hint .blocked [p])) := by
  refine (receive_next (bo := none) h ha hd nofun hsync hp hal hrun (g := waits x .blocked [p]) ?_).trans (congrArg Host.Outcome.next (waits_val h _ _))
  unfold receives
  rw [hm]
  exact if_neg (by rw [hn]; exact Nat.lt_irrefl 0)

section
variable {b : Nat} {db : Desc}

/-- A `recvt` of no clocks is over at once. -/
theorem recvt_zero (h : Issues s i x) (ha : Operand x a isInt da) (hd : Dest x d isAny dd) (hb : Operand x b isInt db)
    (hsync : x.syncBad (0x400 + 8 * x.sl) = .ok ()) (hp : p = (val x a).headD 0) (hal : p % 32 = 0) (hrun : x.inRun p 64 = true)
    (hm : (x.k.pigeon x.sl).msg = none) (hn : (x.k.pigeon x.sl).notices = 0) (hz : (val x b).headD 0 = 0) (hu : Unlogged s x) :
    receive i d a (some b) s = .next (noTimers (retired s x (x.th.replied 2 0)) .recvtTimeout [x.c, x.sl]) := by
  have hgo := ctxLogged_quiet (t := begin s) (go := fun t => (own x (fun th => th.replied 2 0) t).noTimer .recvtTimeout [x.c, x.sl]) hu rfl
    (x.threadRec 2 (coreSource x.c) 4 [])
  have hb' (b' : Nat) (e : some b = some b') : ∃ db, Operand x b' isInt db := by
    cases e
    exact ⟨db, hb⟩
  refine (receive_next h ha hd hb' hsync hp hal hrun (g := timedOut x) ?_).trans (congrArg (fun t : Trail s => Host.Outcome.next t.1) hgo)
  unfold receives
  rw [hm, Option.map_some, hz]
  exact if_neg (by rw [hn]; exact Nat.lt_irrefl 0)

/-- A `recvt` of an empty pigeonhole without a notice waits for its clocks. -/
theorem recvt_waits (h : Issues s i x) (ha : Operand x a isInt da) (hd : Dest x d isAny dd) (hb : Operand x b isInt db)
    (hsync : x.syncBad (0x400 + 8 * x.sl) = .ok ()) (hp : p = (val x a).headD 0) (hal : p % 32 = 0) (hrun : x.inRun p 64 = true)
    (hm : (x.k.pigeon x.sl).msg = none) (hn : (x.k.pigeon x.sl).notices = 0) (hz : (val x b).headD 0 ≠ 0)
    (hfree : ∀ y ∈ s.timers, y.ev ≠ ⟨.recvtTimeout, [x.c, x.sl]⟩) : receive i d a (some b) s =
      .next (onClock (withThread s x.c x.sl (x.th.wait i x.hint .blocked [p])) (dieOf x.c) ((val x b).headD 0) .recvtTimeout [x.c, x.sl]) := by
  have hb' (b' : Nat) (e : some b = some b') : ∃ db, Operand x b' isInt db := by
    cases e
    exact ⟨db, hb⟩
  obtain ⟨n, hval⟩ := Nat.exists_eq_succ_of_ne_zero hz
  have hwaits := waits_val h .blocked [p]
  refine (receive_next h ha hd hb' hsync hp hal hrun (g := fun t =>
    let t := waits x .blocked [p] t
    if t.1.timers.any (fun y => decide (y.ev = ⟨.recvtTimeout, [x.c, x.sl]⟩)) then t
    else t.timer (dieOf x.c) true ((val x b).headD 0) .recvtTimeout [x.c, x.sl]) ?_).trans ?_
  · unfold receives
    rw [hm, Option.map_some, hval]
    exact if_neg (by rw [hn]; exact Nat.lt_irrefl 0)
  · have hno : ¬(waits x .blocked [p] (begin s)).1.timers.any (fun y => decide (y.ev = ⟨.recvtTimeout, [x.c, x.sl]⟩)) = true := by
      rw [hwaits, List.any_eq_true]
      rintro ⟨y, hy, he⟩
      exact hfree y hy (of_decide_eq_true he)
    dsimp only
    rw [if_neg hno, timer_val, hwaits]

end

end

/-! ### Timeouts and notices (R117, R349) -/

theorem recvtTimeout_answers {s : State} {c sl d b e : Nat} {x : Ctx} {a : List Nat} (hargs : s.args = [c, sl])
    (hop : s.opCtx? c sl = some (x, a)) (hi : x.i = .recvt d b e) (hst : x.th.status = .blocked) (hlw : x.th.logWait = false)
    (hu : Unlogged s x) : Answered s .recvtTimeout c sl ((x.th.replied 2 0).retire (x.th.pc + 4)) := by
  refine answered_own hop (fun th => th.replied 2 0) ?_
  have hyes : x.th.status = .blocked ∧ (!x.th.logWait) = true := ⟨hst, by rw [hlw]; rfl⟩
  have hgo := logged_quiet (n := x.part) (t := begin s) (go := own x (fun th => th.replied 2 0)) hu rfl
    (x.threadRec 2 (coreSource x.c) 4 []) (.step ⟨.recvtTimeout, [x.c, x.sl]⟩) id x.diverges
  show execRecvtTimeout s = _
  unfold execRecvtTimeout
  rw [event_val]
  simp only [arg_of hargs, List.getD_cons_zero, List.getD_cons_succ]
  rw [resume_ok (g := fun t => t.logged x.part (x.threadRec 2 (coreSource x.c) 4 []) (.step ⟨.recvtTimeout, [x.c, x.sl]⟩) id x.diverges
    (own x (fun th => th.replied 2 0))) (begin s) hop, hgo]
  rw [hi]
  exact if_pos hyes

/-- A notice is counted at a slot. -/
theorem noticeAt_counts {s : State} {c sl : Nat} (hargs : s.args = [c, sl]) (hq : Quiet s (s.partOfCore c)) (step : Instr) :
    noticeAt s step = .next (wokenRecv (onPigeon s c sl (fun p => { p with notices := min (p.notices + 1) 255 })) c sl) := by
  have hval := wakeRecv_val ((begin s).modPigeon c sl (fun p => { p with notices := min (p.notices + 1) 255 })) c sl
  rw [modPigeon_val, begin_val] at hval
  unfold noticeAt
  rw [event_val]
  simp only [arg_of hargs, List.getD_cons_zero, List.getD_cons_succ, begin_val]
  cases s.thread? c sl with
  | none => exact congrArg Host.Outcome.next hval
  | some th =>
    dsimp only
    rw [logged_quiet (go := fun t => (t.modPigeon c sl (fun p => { p with notices := min (p.notices + 1) 255 })).wakeRecv c sl) hq (by
      rw [hval, wokenRecv_parts]
      rfl), hval]

theorem receivingHold : ReceivingHold := by
  refine ⟨fun s x i d a da dd p hi h ha hd hsync hp hal hrun => ?_,
    fun s c sl x a d b e hargs hop hi hst hlw hu => recvtTimeout_answers hargs hop hi hst hlw hu, fun s c sl i hi hargs hq => ?_⟩
  case refine_2 =>
    rcases hi with rfl | rfl
    · exact noticeAt_counts hargs hq .contextFreeNotice
    · exact noticeAt_counts hargs hq .refusalSelfNotice
  case refine_1 =>
    rcases hi with rfl | ⟨b, db, rfl, hb⟩
    · exact ⟨fun m v hm hlen hu hrace hv hr hwf hc hin => recv_takes (bo := none) h ha hd nofun hsync hp hal hrun hm hlen hu hrace hv hr hwf hc hin,
        fun hm hn => recv_notice (bo := none) h ha hd nofun hsync hp hal hrun hm hn, fun hm hn _ => recv_waits h ha hd hsync hp hal hrun hm hn,
        fun b _ _ he => nomatch he⟩
    · have hb' (b' : Nat) (e : some b = some b') : ∃ db, Operand x b' isInt db := by
        cases e
        exact ⟨db, hb⟩
      refine ⟨fun m v hm hlen hu hrace hv hr hwf hc hin =>
          recv_takes (bo := some b) h ha hd hb' hsync hp hal hrun hm hlen hu hrace hv hr hwf hc hin,
        fun hm hn => recv_notice (bo := some b) h ha hd hb' hsync hp hal hrun hm hn, fun _ _ he => ?_, fun b' hm hn he => ?_⟩
      · cases he
      cases he
      exact ⟨fun hz hu => recvt_zero h ha hd hb hsync hp hal hrun hm hn hz hu,
        fun hz hfree => recvt_waits h ha hd hb hsync hp hal hrun hm hn hz hfree⟩

/-- Settles O20, from the courses of sending, of arrival, of receipt, and of the reply, timeout and notice that come back. -/
theorem messages : Obligations.Messages := ⟨messagesHold, receivingHold⟩

end Sys2Proof.Proofs
end


section
/-!
PROOFS. The matrix engine: its instructions at issue, in the order of their checks, and the start of the one at the head of its queue.
-/

namespace Sys2Proof.Proofs

open Sys2Proof Sys2Proof.Machine Sys2Proof.Claims

/-! ### Entering the engine's queue (R120, R174) -/

theorem HistoriesOnly.trans {s t u : State} (h : HistoriesOnly s t) (k : HistoriesOnly t u) : HistoriesOnly s u :=
  ⟨by rw [k.rest, h.rest], fun c => (k.bare c).trans (h.bare c), fun c => (k.threads c).trans (h.threads c)⟩

theorem raceCheck_clear {x : Ctx} {write : Bool} : ∀ {ls : List Loc}, (∀ l ∈ ls, x.race l write false = none) →
    x.raceCheck write false (ls.map (fun l => (0, l))) = .ok ()
  | [], _ => rfl
  | l :: r, h => by
    rw [List.map_cons, Ctx.raceCheck, h l List.mem_cons_self]
    exact raceCheck_clear fun l' hl => h l' (List.mem_cons_of_mem _ hl)

theorem engineRace_clear {x : Ctx} {reads writes : List Loc} (h : Clear x reads writes) : x.engineRace reads writes = .ok () := by
  unfold Ctx.engineRace Ctx.steward
  rcases h with hsl | ⟨hr, hw⟩
  · rw [if_pos (by simpa using hsl)]
  · split
    · rfl
    · simp only [raceCheck_clear hr, raceCheck_clear hw, bind, Except.bind]

/-- What an instruction enters the queue with. -/
def engineEntry (x : Ctx) (i : Instr) (args : List Nat) : EngineOp :=
  { slot := x.sl, op := { instr := i, pc := x.th.pc, hint := x.hint, args := args }, started := false, retried := false }

section
variable {s : State} {i : Instr} {x : Ctx}

/-- An instruction that joins the queue: the histories of race detection change, the entry stands last, its thread waits, and the engine
is told where it was idle. -/
theorem engineEnter_val (h : Issues s i x) (args : List Nat) (reads writes : List Loc) : ∃ u, HistoriesOnly s u ∧
    ((begin s).engineEnter x args reads writes).1 =
      let v := withThread (onCore u x.c (fun k => { k with matrixQ := k.matrixQ ++ [engineEntry x i args] })) x.c x.sl (x.th.wait i x.hint .out args)
      if (s.core x.c).matrixQ = [] then due v .matrixStart [x.c] else v := by
  have hist := (enterAll_histories (begin s) x false false reads).trans (enterAll_histories _ x true false writes)
  refine ⟨_, hist, ?_⟩
  unfold Trail.engineEnter
  rw [h.i_eq]
  generalize ((begin s).enterAll x false false reads).enterAll x true false writes = t at hist
  have hthread : (t.modCore x.c (fun k => { k with matrixQ := k.matrixQ ++ [engineEntry x i args] })).1.thread? x.c x.sl = some x.th := by
    rw [modCore_onCore, onCore_thread (f := fun k => { k with matrixQ := k.matrixQ ++ [engineEntry x i args] }) rfl, hist.thread]
    exact h.thread
  have hwaits := waits_of hthread .out args
  rw [h.i_eq] at hwaits
  dsimp only
  simp only [begin_val, List.isEmpty_iff]
  split
  · rw [pend_val]
    exact congrArg (fun v => due v .matrixStart [x.c]) hwaits
  · exact hwaits

theorem enters_of {args : List Nat} {reads writes : List Loc} (h : Issues s i x)
    (hex : exec i s = .next ((begin s).engineEnter x args reads writes).1) : Enters s x i args := by
  obtain ⟨u, hist, hval⟩ := engineEnter_val h args reads writes
  generalize hv : withThread (onCore u x.c (fun k => { k with matrixQ := k.matrixQ ++ [engineEntry x i args] })) x.c x.sl
    (x.th.wait i x.hint .out args) = v at hval
  have hcores : (if (s.core x.c).matrixQ = [] then due v .matrixStart [x.c] else v).cores = v.cores := by split <;> rfl
  have hcore (c : Nat) : (if (s.core x.c).matrixQ = [] then due v .matrixStart [x.c] else v).core c = v.core c := by split <;> rfl
  have hthread (c sl : Nat) : (if (s.core x.c).matrixQ = [] then due v .matrixStart [x.c] else v).thread? c sl = v.thread? c sl := by split <;> rfl
  have hqueue : (u.core x.c).matrixQ = (s.core x.c).matrixQ := by
    show (bare (u.core x.c)).matrixQ = (bare (s.core x.c)).matrixQ
    rw [hist.bare]
  have hrest : v = { s with cores := v.cores } := by
    rw [← hv, withThread, onCore, hist.rest]
  refine ⟨_, hex, ?_⟩
  rw [hval]
  dsimp only
  refine ⟨?_, ?_, ?_, fun c sl hne => ?_, ?_⟩
  · rw [hthread, ← hv]
    exact withThread_thread _ _ _ _
  · rw [hcore, ← hv, withThread_core, onCore_core, hqueue]
    rfl
  · rw [hrest]
    split
    · rfl
    · exact (List.append_nil _).symm
  · rw [hthread, ← hv, withThread_thread_other _ _ _ _ _ _ (not_and_pair hne),
      onCore_thread (f := fun k => { k with matrixQ := k.matrixQ ++ [engineEntry x i args] }) rfl, hist.thread]
  · rw [hrest]
    split <;> rfl

end

/-! ### `mma` and `mmas` (R123, R354) -/

section
variable {x : Ctx} {m : Mma}

/-- The output tiles lie within the accumulator store. -/
def Fits (m : Mma) : Prop := m.row0 + m.rows ≤ 128 ∧ m.col0 + m.cols ≤ 64

theorem checkMma_misaligned (h : m.base % 32 ≠ 0) : x.checkMma m = trap ALIGN m.base := if_pos h

theorem checkMma_outside (ha : m.base % 32 = 0) (hf : ¬Fits m) : x.checkMma m = trap ACCR (m.row0 * 64 + m.col0) := by
  unfold Ctx.checkMma
  rw [if_neg (not_not.mpr ha), if_pos (by unfold Fits at hf; omega)]

theorem checkMma_noSlot (ha : m.base % 32 = 0) (hf : Fits m) (hfu : m.fusion = 3) (hs : 15 < m.slot + 3) : x.checkMma m = trap WBUF m.slot := by
  unfold Ctx.checkMma
  rw [if_neg (not_not.mpr ha), if_neg (by unfold Fits at hf; omega), if_pos ⟨hfu, hs⟩]

/-- All checks but that of the slots' in-use flags pass. -/
structure Placed (x : Ctx) (m : Mma) : Prop where
  aligned : m.base % 32 = 0
  fits : Fits m
  slots : m.fusion = 3 → m.slot + 3 ≤ 15
  rows : ∀ r, r < m.rows → x.inRun (m.rowAddr r) m.kext = true

theorem checkMma_placed {o : Option Nat} (h : Placed x m) (ho : m.slots.find? (fun n => !(x.k.wslot n).inUse) = o) :
    x.checkMma m = o.elim (.ok ()) (trap WBUF) := by
  have hrows : (upFrom 0 m.rows).find? (fun r => !x.inRun (m.rowAddr r) m.kext) = none := by
    rw [List.find?_eq_none]
    intro r hr
    rw [h.rows r (by have := (mem_upFrom _ _ _).mp hr; omega)]
    decide
  have hfits := h.fits
  unfold Fits at hfits
  unfold Ctx.checkMma
  rw [if_neg (not_not.mpr h.aligned), if_neg (by omega), if_neg (fun e => by have := h.slots e.1; omega), hrows, ho]
  cases o <;> rfl

theorem checkMma_unused {p q : List Nat} {n : Nat} (h : Placed x m) (hs : m.slots = p ++ n :: q) (hp : ∀ k ∈ p, (x.k.wslot k).inUse = true)
    (hn : (x.k.wslot n).inUse = false) : x.checkMma m = trap WBUF n :=
  checkMma_placed h (List.find?_eq_some_iff_append.mpr ⟨by rw [hn]; rfl, p, q, hs, fun k hk => by rw [hp k hk]; rfl⟩)

theorem checkMma_ok (h : Placed x m) (hs : ∀ n ∈ m.slots, (x.k.wslot n).inUse = true) : x.checkMma m = .ok () :=
  checkMma_placed h (List.find?_eq_none.mpr fun n hn => by rw [hs n hn]; decide)

end

section
variable {s : State} {i : Instr} {x : Ctx} {a b tile zi : Nat} {sparse : Bool} {da db : Desc}

/-- The operands of a matrix instruction, as its registers and its hint give them. -/
def mmaIssued (x : Ctx) (a b tile zi : Nat) (sparse : Bool) : Mma :=
  mmaOf ((val x a).headD 0) ((val x b).headD 0) (x.hintStride.getD (32 * bits ((val x b).headD 0) 31 17)) tile sparse (zi == 1)

theorem mmaIssue_badDesc (h : Issues s i x) (ha : Operand x a isInt da) (hb : Operand x b isInt db) (hd : badDesc ((val x b).headD 0) sparse = true) :
    mmaIssue i a b tile zi sparse s = .next (trapped s x KIND ((val x b).headD 0)) := by
  refine issue_traps h ?_
  simp only [check_int ha.dest, check_int hb.dest, ha.read0, hb.read0, bind, Except.bind, if_pos hd]

theorem mmaIssue_traps {c v : Nat} (h : Issues s i x) (ha : Operand x a isInt da) (hb : Operand x b isInt db)
    (hd : badDesc ((val x b).headD 0) sparse = false) (hc : x.checkMma (mmaIssued x a b tile zi sparse) = trap c v) :
    mmaIssue i a b tile zi sparse s = .next (trapped s x c v) := by
  refine issue_traps h ?_
  unfold mmaIssued at hc
  simp only [check_int ha.dest, check_int hb.dest, ha.read0, hb.read0, bind, Except.bind, hd, Bool.false_eq_true, if_false, hc]
  rfl

theorem mmaIssue_enters (h : Issues s i x) (ha : Operand x a isInt da) (hb : Operand x b isInt db)
    (hd : badDesc ((val x b).headD 0) sparse = false) (hc : x.checkMma (mmaIssued x a b tile zi sparse) = .ok ())
    (hr : Clear x (x.rowGranules (mmaIssued x a b tile zi sparse)) ((mmaIssued x a b tile zi sparse).tiles.map .tile))
    (hex : exec i s = mmaIssue i a b tile zi sparse s) :
    Enters s x i [(val x a).headD 0, (val x b).headD 0, x.hintStride.getD (32 * bits ((val x b).headD 0) 31 17)] := by
  have hr' := engineRace_clear hr
  refine enters_of h (hex.trans (issue_next (g := fun t => t.engineEnter x _ (x.rowGranules (mmaIssued x a b tile zi sparse))
    ((mmaIssued x a b tile zi sparse).tiles.map .tile)) h ?_))
  unfold mmaIssued at hc hr' ⊢
  simp only [check_int ha.dest, check_int hb.dest, ha.read0, hb.read0, bind, Except.bind, hd, Bool.false_eq_true, if_false, hc, hr']

theorem mmaIssues_of {mk : Nat → Nat → Nat → Nat → Instr} (hmk : ∀ a b tile zi s, exec (mk a b tile zi) s = mmaIssue (mk a b tile zi) a b tile zi sparse s) :
    MmaIssues mk sparse := by
  intro s x a b tile zi da db h ha hb
  dsimp only
  rw [hmk]
  refine ⟨mmaIssue_badDesc h ha hb, fun hd hal => mmaIssue_traps h ha hb hd (checkMma_misaligned hal),
    fun hd hal hf => mmaIssue_traps h ha hb hd (checkMma_outside hal hf),
    fun hd hal hf hfu hs => mmaIssue_traps h ha hb hd (checkMma_noSlot hal hf hfu hs), fun hd hal hf hs hrows => ?_⟩
  have hplaced : Placed x (mmaIssued x a b tile zi sparse) := ⟨hal, hf, hs, hrows⟩
  exact ⟨fun p n q hpq hp hn => mmaIssue_traps h ha hb hd (checkMma_unused hplaced hpq hp hn),
    fun hin hclear => mmaIssue_enters h ha hb hd (checkMma_ok hplaced hin) hclear (hmk _ _ _ _ _)⟩

end

/-! ### Tiles and scales (R357, R358) -/

section
variable {s : State} {x : Ctx} {a tile : Nat} {d : Desc}

theorem find_upFrom {p : Nat → Bool} : ∀ {n a j : Nat}, j < n → (∀ i, i < j → p (a + i) = false) → p (a + j) = true →
    (upFrom a n).find? p = some (a + j)
  | n + 1, a, 0, _, _, h => by
    rw [upFrom, List.find?_cons, show p a = true from h]
    rfl
  | n + 1, a, j + 1, hj, hlow, h => by
    rw [upFrom, List.find?_cons, show p a = false from hlow 0 (Nat.succ_pos j), show a + (j + 1) = a + 1 + j by omega]
    exact find_upFrom (Nat.lt_of_succ_lt_succ hj) (fun i hi => by rw [show a + 1 + i = a + (i + 1) by omega]; exact hlow (i + 1) (by omega))
      (by rw [show a + 1 + j = a + (j + 1) by omega]; exact h)

theorem mzero_enters (h : Issues s (.mzero tile) x) (hc : Clear x [] [.tile tile]) : Enters s x (.mzero tile) [] := by
  refine enters_of (args := []) (reads := []) (writes := [.tile tile]) h ?_
  show execMzero tile s = _
  refine issue_next (g := fun t => t.engineEnter x [] [] [.tile tile]) h ?_
  simp only [engineRace_clear hc, bind, Except.bind]

theorem maccrd_enters (h : Issues s (.maccrd a tile) x) (hd : Dest x a isAny d) (ht : tileName d = true) (hc : Clear x [.tile tile] []) :
    Enters s x (.maccrd a tile) [] := by
  refine enters_of (args := []) (reads := [.tile tile]) (writes := []) h ?_
  show execMaccrd a tile s = _
  refine issue_next (g := fun t => t.engineEnter x [] [.tile tile] []) h ?_
  simp only [check_any hd, ht, engineRace_clear hc, bind, Except.bind, Bool.not_true, Bool.false_eq_true, if_false]

theorem maccrd_traps (h : Issues s (.maccrd a tile) x) (hd : Dest x a isAny d) (ht : tileName d = false) :
    exec (.maccrd a tile) s = .next (trapped s x KIND a) := by
  show execMaccrd a tile s = _
  refine issue_traps h ?_
  simp only [check_any hd, ht, bind, Except.bind, Bool.not_false, if_true]

theorem maccwr_enters (h : Issues s (.maccwr a tile) x) (ha : Operand x a isAny d) (ht : tileName d = true) (hc : Clear x [] [.tile tile]) :
    Enters s x (.maccwr a tile) (val x a) := by
  refine enters_of (args := val x a) (reads := []) (writes := [.tile tile]) h ?_
  show execMaccwr a tile s = _
  refine issue_next (g := fun t => t.engineEnter x (val x a) [] [.tile tile]) h ?_
  simp only [check_any ha.dest, ha.read, ht, engineRace_clear hc, bind, Except.bind, Bool.not_true, Bool.false_eq_true, if_false]

theorem maccwr_traps (h : Issues s (.maccwr a tile) x) (ha : Operand x a isAny d) (ht : tileName d = false) :
    exec (.maccwr a tile) s = .next (trapped s x KIND a) := by
  show execMaccwr a tile s = _
  refine issue_traps h ?_
  simp only [check_any ha.dest, ht, bind, Except.bind, Bool.not_false, if_true]

/-- The format of a vector of scales. -/
def scaleFmt (d : Desc) : Fmt := if d.kind = .f32 then fmtF32 else fmtF64

theorem scacc_traps {src j : Nat} (h : Issues s (.scacc a tile src) x) (ha : Operand x a isAny d) (hl : d.lanes = 16) (hk : d.kind = .f32 ∨ d.kind = .f64)
    (hj : j < 16) (hlow : ∀ i, i < j → badScale (scaleFmt d) ((val x a).getD i 0) = false) (hbad : badScale (scaleFmt d) ((val x a).getD j 0) = true) :
    exec (.scacc a tile src) s = .next (trapped s x SCALE j) := by
  have hname : ¬(d.lanes ≠ 16 ∨ (d.kind ≠ .f32 ∧ d.kind ≠ .f64)) := by tauto
  have hfind : (upFrom 0 16).find? (fun j => badScale (scaleFmt d) ((val x a).getD j 0)) = some j := by
    rw [find_upFrom hj (fun i hi => by rw [Nat.zero_add]; exact hlow i hi) (by rw [Nat.zero_add]; exact hbad), Nat.zero_add]
  unfold scaleFmt at hfind
  show execScacc a tile src s = _
  refine issue_traps h ?_
  simp only [check_any ha.dest, ha.read, bind, Except.bind, if_neg hname, hfind]

theorem scacc_enters {src : Nat} (h : Issues s (.scacc a tile src) x) (ha : Operand x a isAny d) (hl : d.lanes = 16) (hk : d.kind = .f32 ∨ d.kind = .f64)
    (hgood : ∀ j, j < 16 → badScale (scaleFmt d) ((val x a).getD j 0) = false) (hc : Clear x (if src = tile then [] else [.tile src]) [.tile tile]) :
    Enters s x (.scacc a tile src) ((if d.kind = .f32 then 1 else 0) :: val x a) := by
  have hname : ¬(d.lanes ≠ 16 ∨ (d.kind ≠ .f32 ∧ d.kind ≠ .f64)) := by tauto
  have hfind : (upFrom 0 16).find? (fun j => badScale (scaleFmt d) ((val x a).getD j 0)) = none := by
    rw [List.find?_eq_none]
    intro j hj
    rw [hgood j (by have := (mem_upFrom _ _ _).mp hj; omega)]
    decide
  have hbit : (if d.kind = .f32 then 1 else 0) = bitAt (decide (d.kind = .f32)) 0 := by simp [bitAt]
  unfold scaleFmt at hfind
  rw [hbit]
  refine enters_of (reads := if src = tile then [] else [.tile src]) (writes := [.tile tile]) h ?_
  show execScacc a tile src s = _
  refine issue_next (g := fun t => t.engineEnter x (bitAt (decide (d.kind = .f32)) 0 :: val x a) (if src = tile then [] else [.tile src]) [.tile tile]) h ?_
  simp only [check_any ha.dest, ha.read, bind, Except.bind, if_neg hname, hfind, engineRace_clear hc]

end

/-! ### Loads (R360) -/

section
variable {s : State} {i : Instr} {x : Ctx} {a b slot limit : Nat} {da db : Desc}

theorem loadIssue_misaligned (h : Issues s i x) (ha : Operand x a isInt da) (hb : Operand x b isInt db) (hp : (val x a).headD 0 % 64 ≠ 0) :
    loadIssue i a b slot limit s = .next (trapped s x ALIGN ((val x a).headD 0)) := by
  refine issue_traps h ?_
  simp only [check_int ha.dest, check_int hb.dest, ha.read0, hb.read0, bind, Except.bind, if_pos hp]

theorem loadIssue_badLength (h : Issues s i x) (ha : Operand x a isInt da) (hb : Operand x b isInt db) (hp : (val x a).headD 0 % 64 = 0)
    (hn : (val x b).headD 0 = 0 ∨ (val x b).headD 0 % 64 ≠ 0 ∨ limit < (val x b).headD 0) :
    loadIssue i a b slot limit s = .next (trapped s x WBUF slot) := by
  refine issue_traps h ?_
  simp only [check_int ha.dest, check_int hb.dest, ha.read0, hb.read0, bind, Except.bind, if_neg (not_not.mpr hp), if_pos hn]

theorem loadIssue_enters (h : Issues s i x) (ha : Operand x a isInt da) (hb : Operand x b isInt db) (hp : (val x a).headD 0 % 64 = 0)
    (hn : ¬((val x b).headD 0 = 0 ∨ (val x b).headD 0 % 64 ≠ 0 ∨ limit < (val x b).headD 0))
    (hin : x.inRun ((val x a).headD 0 : Nat) ((val x b).headD 0) = true)
    (hc : Clear x ((granules (x.runBase + (val x a).headD 0) ((val x b).headD 0)).map .gran) [])
    (hex : exec i s = loadIssue i a b slot limit s) : Enters s x i [(val x a).headD 0, (val x b).headD 0] := by
  refine enters_of (args := [(val x a).headD 0, (val x b).headD 0])
    (reads := (granules (x.runBase + (val x a).headD 0) ((val x b).headD 0)).map .gran) (writes := []) h (hex.trans (issue_next (g := fun t => t.engineEnter x _ _ _) h ?_))
  simp only [check_int ha.dest, check_int hb.dest, ha.read0, hb.read0, bind, Except.bind, if_neg (not_not.mpr hp), if_neg hn, hin, Bool.not_true,
    Bool.false_eq_true, if_false, engineRace_clear hc]

theorem loadIssues_of {mk : Nat → Nat → Nat → Instr} (hmk : ∀ a b slot s, exec (mk a b slot) s = loadIssue (mk a b slot) a b slot limit s) :
    LoadIssues mk limit := by
  intro s x a b slot da db h ha hb
  dsimp only
  rw [hmk]
  exact ⟨loadIssue_misaligned h ha hb, loadIssue_badLength h ha hb,
    fun hp h0 h64 hlim hin hc => loadIssue_enters h ha hb hp (by omega) hin hc (hmk _ _ _ _)⟩

end

/-! ### The start of the instruction at the head (R120, R360) -/

theorem matrixStart_starts {s : State} {c : Nat} {e : EngineOp} {r : List EngineOp} {x : Ctx} {args : List Nat} (ha : s.args = [c])
    (hq : (s.core c).matrixQ = e :: r) (hs : e.started = false) (hop : s.opCtx? c e.slot = some (x, args)) (hl : x.loadBad args = none) :
    exec .matrixStart s = .next (due (onCore s c (fun k => { k with matrixQ := { e with started := true } :: r })) .matrixComplete [c]) := by
  show execMatrixStart s = _
  unfold execMatrixStart
  rw [event_val]
  have hfits : (if (x.fetchBad (x.operands args)).isSome then none else x.loadBad args) = none := by rw [hl, ite_self]
  simp only [arg_of ha, List.getD_cons_zero, begin_val, hq, hs, Bool.false_eq_true, if_false, hop, hfits]
  rfl

/-- Settles O26: the checks of each instruction in their order, the entry into the engine's queue said once for all of them, and the start
of the head. -/
theorem matrixIssues : Obligations.MatrixIssues := by
  refine ⟨mmaIssues_of fun _ _ _ _ _ => rfl, mmaIssues_of fun _ _ _ _ _ => rfl, fun s x tile h hc => mzero_enters h hc,
    fun s x a tile d h hd => ⟨maccrd_enters h hd, maccrd_traps h hd⟩, fun s x a tile d h ha => ⟨maccwr_enters h ha, maccwr_traps h ha⟩,
    fun s x a tile src d h ha hl hk => ⟨fun j hj => scacc_traps h ha hl hk hj, scacc_enters h ha hl hk⟩,
    loadIssues_of fun _ _ _ _ => rfl, loadIssues_of fun _ _ _ _ => rfl,
    fun s c e r x args ha hq hs hop hl => matrixStart_starts ha hq hs hop hl⟩

end Sys2Proof.Proofs
end


section
/-!
PROOFS. The matrix engine: what each instruction writes as it completes, and the retry after a soft error.
-/

namespace Sys2Proof.Proofs

open Sys2Proof Sys2Proof.Machine Sys2Proof.Claims

/-! ### What a write of tiles leaves (R130) -/

theorem foldl_setDirty : ∀ (l : List Nat) (k : Core),
    l.foldl (fun k n => k.setDirty n true) k = { k with dirty := l.foldl (fun d n => flagTile d n true) k.dirty }
  | [], _ => rfl
  | n :: r, k => foldl_setDirty r (k.setDirty n true)

theorem foldl_setSat {α : Type} (p : α → Bool) (f : α → Nat) : ∀ (l : List α) (k : Core),
    ∃ sat, l.foldl (fun k e => if p e then k.setSat (f e) true else k) k = { k with sat := sat }
  | [], k => ⟨k.sat, rfl⟩
  | e :: r, k => by
    obtain ⟨sat, h⟩ := foldl_setSat p f r (if p e then k.setSat (f e) true else k)
    rw [List.foldl_cons, h]
    split
    · exact ⟨sat, rfl⟩
    · exact ⟨sat, rfl⟩

/-- The elements, the dirty flags and the saturation flags change, and nothing else of the core. -/
theorem writeMma_form (k : Core) (m : Mma) (outs : List (Nat × Nat × Nat × Bool)) : ∃ sat, k.writeMma m outs = { k with
    acc := outs.foldl (fun a e => setAcc a e.1 e.2.1 e.2.2.1) k.acc, dirty := m.tiles.foldl (fun d n => flagTile d n true) k.dirty, sat := sat } := by
  unfold Core.writeMma
  dsimp only
  rw [foldl_setDirty]
  exact foldl_setSat (fun e => e.2.2.2) (fun e => e.1 / 8 * 8 + e.2.1 / 8) outs _

theorem writeMma_matrixQ (k : Core) (m : Mma) (outs : List (Nat × Nat × Nat × Bool)) : (k.writeMma m outs).matrixQ = k.matrixQ := by
  obtain ⟨_, h⟩ := writeMma_form k m outs
  rw [h]

theorem tileFlags_matrixQ (k : Core) (tile : Nat) (vs : List Nat) (dirty sat : Bool) :
    (((k.setTile tile vs).setDirty tile dirty).setSat tile sat).matrixQ = k.matrixQ := rfl

/-! ### The course of a completion (R120, R124) -/

/-- The engine's instruction leaves it. -/
def engineLeft (k : Core) : Core := { k with matrixQ := k.matrixQ.drop 1 }

theorem engineNext_val {s : State} (t : Trail s) (c : Nat) : (t.engineNext c).1 =
    if (t.1.core c).matrixQ.drop 1 = [] then onCore t.1 c engineLeft else due (onCore t.1 c engineLeft) .matrixStart [c] := by
  unfold Trail.engineNext
  dsimp only
  simp only [List.isEmpty_iff]
  split <;> rfl

/-- An update of a core, after one beside which the errors changed. -/
theorem onCore_mended (s : State) (c : Nat) (f g : Core → Core) (bad : List (Nat × Nat × Nat)) :
    onCore { onCore s c f with bad := bad } c g = { onCore s c (fun k => g (f k)) with bad := bad } :=
  congrArg (fun v : State => { v with bad := bad }) (onCore_onCore s c f g)

section
variable {s : State} {x : Ctx} {args : List Nat}

theorem exec_matrixComplete (h : Engaged s x args) :
    exec .matrixComplete s = .next (((engineEffect x args (begin s)).engineNext x.c).settle x.c x.sl).1 := by
  obtain ⟨e, r, hq, hstarted, hslot⟩ := h.head
  obtain ⟨hacc, hfetch⟩ := h.sound
  show execMatrixComplete s = _
  unfold execMatrixComplete
  rw [event_val]
  simp only [arg_of h.core, List.getD_cons_zero, begin_val, hq, hstarted, hslot, h.op, hacc, hfetch, h.fits, Bool.not_true, Bool.false_eq_true, if_false]

/-- An effect that changes the core, the list of errors and the instruction's own thread, and leaves the engine's queue. -/
theorem completes_of {th : Thread} {bad : List (Nat × Nat × Nat)} {f : Core → Core} (h : Engaged s x args)
    (hf : (f (s.core x.c)).matrixQ = (s.core x.c).matrixQ)
    (hval : (engineEffect x args (begin s)).1 = withThread { onCore s x.c f with bad := bad } x.c x.sl (th.retire (x.th.pc + 4))) :
    Completes s x th bad f := by
  have hleft : onCore (engineEffect x args (begin s)).1 x.c engineLeft =
      withThread { onCore s x.c (fun k => { f k with matrixQ := k.matrixQ.drop 1 }) with bad := bad } x.c x.sl (th.retire (x.th.pc + 4)) := by
    rw [hval, withThread_onCore, withThread_onCore, onCore_onCore, onCore_mended, onCore_mended]
    refine congrArg (fun v : State => { v with bad := bad }) (onCore_congr ?_)
    show ({ f (s.core x.c) with threads := _, matrixQ := (f (s.core x.c)).matrixQ.drop 1 } : Core) = _
    rw [hf]
  have hlook := settle_looksAgain ((engineEffect x args (begin s)).engineNext x.c) x.c x.sl
  rw [engineNext_val, hleft] at hlook
  refine ⟨_, exec_matrixComplete h, ?_⟩
  split at hlook
  · obtain ⟨hown, honly⟩ := hlook.only (s := { onCore s x.c (fun k => { f k with matrixQ := k.matrixQ.drop 1 }) with bad := bad }) rfl rfl
    exact ⟨hown, honly, hlook.rest⟩
  · obtain ⟨hown, honly⟩ := LooksAgain.only (b := due { onCore s x.c (fun k => { f k with matrixQ := k.matrixQ.drop 1 }) with bad := bad } .matrixStart [x.c])
      (s := { onCore s x.c (fun k => { f k with matrixQ := k.matrixQ.drop 1 }) with bad := bad }) hlook rfl rfl
    exact ⟨hown, honly, hlook.rest⟩

/-! ### The effects (R353 to R361) -/

theorem mendTiles_val (t : Trail s) (c : Nat) (tiles : List Nat) : (t.mendTiles c tiles).1 = { t.1 with
    bad := t.1.bad.filter (fun q => !(decide (q.1 = 5) && decide (q.2.1 = c) && decide (tileOf q.2.2 ∈ tiles))) } := by
  unfold Trail.mendTiles Trail.mend
  simp only [Trail.act_val, Act.apply_errors, List.contains_eq_mem]

theorem mma_completes {m : Mma} (h : Engaged s x args) (hi : (∃ a b t z, x.i = .mma a b t z) ∨ ∃ a b t z, x.i = .mmas a b t z)
    (hm : x.mma? args = some m) : Completes s x x.th (outsideTiles s x m.tiles) (fun k => k.writeMma m (m.outputs x k)) := by
  refine completes_of h (writeMma_matrixQ _ _ _) ?_
  have heffect : engineEffect x args (begin s) =
      own x id (((begin s).modCore x.c (fun k => k.writeMma m (m.outputs x k))).mendTiles x.c m.tiles) := by
    unfold engineEffect
    rcases hi with ⟨a, b, t, z, hi⟩ | ⟨a, b, t, z, hi⟩
    · rw [hi]
      dsimp only
      rw [hm]
    · rw [hi]
      dsimp only
      rw [hm]
  rw [heffect]
  show withThread _ _ _ _ = _
  rw [mendTiles_val]
  rfl

theorem mzero_completes {tile : Nat} (h : Engaged s x args) (hi : x.i = .mzero tile) : Completes s x x.th (outsideTiles s x [tile])
    (fun k => ((k.setTile tile (List.replicate 64 0)).setDirty tile false).setSat tile false) := by
  refine completes_of h (tileFlags_matrixQ _ _ _ _ _) ?_
  unfold engineEffect
  rw [hi]
  show withThread _ _ _ _ = _
  rw [mendTiles_val]
  rfl

theorem maccrd_completes {a tile : Nat} (h : Engaged s x args) (hi : x.i = .maccrd a tile) :
    Completes s x ((x.th.setLanes a (x.k.tile tile)).replied (if tile ∈ x.k.sat then 1 else 0) 0) s.bad id := by
  refine completes_of h rfl ?_
  unfold engineEffect
  rw [hi]
  have hsat : (if x.k.sat.contains tile then 1 else 0) = if tile ∈ x.k.sat then 1 else 0 := by simp only [List.contains_iff_mem]
  dsimp only
  rw [hsat, withThread_onCore, onCore_mended]
  rfl

theorem maccwr_completes {a tile : Nat} (h : Engaged s x args) (hi : x.i = .maccwr a tile) : Completes s x x.th (outsideTiles s x [tile])
    (fun k => ((k.setTile tile args).setDirty tile true).setSat tile false) := by
  refine completes_of h (tileFlags_matrixQ _ _ _ _ _) ?_
  unfold engineEffect
  rw [hi]
  show withThread _ _ _ _ = _
  rw [mendTiles_val]
  rfl

theorem scacc_completes {single a dst src : Nat} {scales : List Nat} (h : Engaged s x (single :: scales)) (hi : x.i = .scacc a dst src) :
    Completes s x x.th s.bad (fun k => (k.setTile dst (scaccTile k dst src (single == 1) scales)).setDirty dst true) := by
  refine completes_of h rfl ?_
  unfold engineEffect
  rw [hi]
  rfl

theorem mldb_completes {p n a b slot : Nat} (h : Engaged s x [p, n]) (hi : x.i = .mldb a b slot) : Completes s x x.th
    (s.bad.filter (fun q => !(decide (q.1 = 3) && decide (q.2.1 = x.c) && decide (q.2.2 / 512 = slot))))
    (fun k => { k with wbuf := put k.wbuf slot { image := x.locBytes p n, inUse := true, adr := x.runBase + p, len := n } }) := by
  refine completes_of h rfl ?_
  unfold engineEffect
  rw [hi]
  rfl

/-- The bytes of a run are written into side memory from a record up, and their source is noted (R128, R360). -/
def sideLoaded (first adr n : Nat) (bs : List Byte) (k : Core) : Core :=
  { k with
    side := ((upFrom 0 bs.length).zip bs).foldl (fun m p => Mem.set m (first * 64 + p.1) p.2) k.side
    sideSrc := k.sideSrc.filter (fun r => decide (r.1 ≠ first)) ++ [(first, adr, n)] }

theorem mldm_completes {p n a b slot : Nat} (h : Engaged s x [p, n]) (hi : x.i = .mldm a b slot) : Completes s x x.th
    (s.bad.filter (fun q => !(decide (q.1 = 4) && decide (q.2.1 = x.c) && (decide (slot % 4 * 64 ≤ q.2.2) &&
      decide (q.2.2 < slot % 4 * 64 + (x.locBytes p n).length / 64)))))
    (sideLoaded (slot % 4 * 64) (x.runBase + p) n (x.locBytes p n)) := by
  refine completes_of h rfl ?_
  unfold engineEffect
  rw [hi]
  rfl

end

/-! ### Soft errors (R131) -/

theorem matrixComplete_retries {s : State} {c v : Nat} {e : EngineOp} {r : List EngineOp} {x : Ctx} {args : List Nat} (ha : s.args = [c])
    (hq : (s.core c).matrixQ = e :: r) (hs : e.started = true) (hop : s.opCtx? c e.slot = some (x, args)) (hacc : x.accBad (x.operands args) = none)
    (hfetch : x.fetchBad (x.operands args) = some v) (hr : e.retried = false) :
    exec .matrixComplete s = .next (due s .matrixSoftErrorRetry [c]) := by
  show execMatrixComplete s = _
  unfold execMatrixComplete
  rw [event_val]
  simp only [arg_of ha, List.getD_cons_zero, begin_val, hq, hs, hop, hacc, hfetch, hr, Bool.not_true, Bool.false_eq_true, if_false]
  rfl

/-- The weight slots and the side memory of cores are reloaded; their errors go, and nothing else changes. -/
structure Reloads (s t : State) : Prop where
  rest : t = { s with cores := t.cores, bad := t.bad }
  core : ∀ c, { t.core c with wbuf := [], side := [] } = { s.core c with wbuf := [], side := [] }

theorem Reloads.refl (s : State) : Reloads s s := ⟨rfl, fun _ => rfl⟩

theorem Reloads.trans {s t u : State} (h : Reloads s t) (k : Reloads t u) : Reloads s u :=
  ⟨by rw [k.rest, h.rest], fun c => (k.core c).trans (h.core c)⟩

theorem forEach_reloads {s : State} {α : Type} {f : Trail s → α → Trail s} (h : ∀ t a, Reloads t.1 (f t a).1) :
    ∀ (l : List α) (t : Trail s), Reloads t.1 (forEach t l f).1
  | [], _ => .refl _
  | a :: r, t => (h t a).trans (forEach_reloads h r (f t a))

theorem reloads_mend {s : State} (t : Trail s) (unit c : Nat) (p : Nat → Bool) {f : Core → Core}
    (hf : ∀ k, { f k with wbuf := [], side := [] } = { k with wbuf := [], side := [] }) : Reloads t.1 ((t.modCore c f).mend unit c p).1 := by
  refine ⟨rfl, fun c' => ?_⟩
  show { (onCore t.1 c f).core c' with wbuf := [], side := [] } = _
  by_cases hc : c' = c
  · rw [hc, onCore_core, hf]
  · rw [onCore_core_other _ _ hc]

theorem reloadSlot_reloads {s : State} (t : Trail s) (c n : Nat) : Reloads t.1 (t.reloadSlot c n).1 := by
  unfold Trail.reloadSlot
  dsimp only
  split
  · exact .refl _
  · exact reloads_mend t _ _ _ fun _ => rfl

theorem reloadSide_reloads {s : State} (t : Trail s) (c : Nat) (src : Nat × Nat × Nat) : Reloads t.1 (t.reloadSide c src).1 := by
  unfold Trail.reloadSide
  dsimp only
  split
  · exact .refl _
  · exact reloads_mend t _ _ _ fun _ => rfl

theorem Reloads.acc {s t : State} (h : Reloads s t) (c : Nat) : (t.core c).acc = (s.core c).acc := by
  show ({ t.core c with wbuf := [], side := [] } : Core).acc = ({ s.core c with wbuf := [], side := [] } : Core).acc
  rw [h.core]

theorem Reloads.threads {s t : State} (h : Reloads s t) (c : Nat) : (t.core c).threads = (s.core c).threads := by
  show ({ t.core c with wbuf := [], side := [] } : Core).threads = ({ s.core c with wbuf := [], side := [] } : Core).threads
  rw [h.core]

/-- The instruction at the head goes again from its operand fetch. -/
theorem matrixSoftErrorRetry_retries {s : State} {c : Nat} {e : EngineOp} {r : List EngineOp} {x : Ctx} {args : List Nat} (ha : s.args = [c])
    (hq : (s.core c).matrixQ = e :: r) (hs : e.started = true) (hr : e.retried = false) (hop : s.opCtx? c e.slot = some (x, args)) :
    ∃ u, Reloads s u ∧ exec .matrixSoftErrorRetry s =
      .next (due (onCore u c (fun k => { k with matrixQ := { e with retried := true } :: r })) .matrixComplete [c]) := by
  have hex : ∃ (slots : List Nat) (side : List (Nat × Nat × Nat)), exec .matrixSoftErrorRetry s = .next
      (((forEach (forEach (begin s) slots (fun t n => t.reloadSlot c n)) side (fun t src => t.reloadSide c src)).modCore c
        (fun k => { k with matrixQ := { e with retried := true } :: r })).pend .matrixComplete [c]).1 := by
    show ∃ slots side, execMatrixSoftErrorRetry s = _
    unfold execMatrixSoftErrorRetry
    rw [event_val]
    simp only [arg_of ha, List.getD_cons_zero, begin_val, hq, hs, hop, hr, Bool.not_true, Bool.or_self, Bool.false_eq_true, if_false]
    exact ⟨_, _, rfl⟩
  obtain ⟨slots, side, hex⟩ := hex
  exact ⟨_, (forEach_reloads (fun t n => reloadSlot_reloads t c n) slots (begin s)).trans (forEach_reloads (fun t src => reloadSide_reloads t c src) side _), hex⟩

/-- Settles O27: one course for every completion, of which each instruction gives its own effect; and a retry, which reloads slots and side
memory alone. -/
theorem matrixCompletes : Obligations.MatrixCompletes := by
  refine ⟨fun s x args m h hi hm => mma_completes h hi hm, fun s x args tile h hi => mzero_completes h hi,
    fun s x args a tile h hi => maccrd_completes h hi, fun s x args a tile h hi => maccwr_completes h hi,
    fun s x single scales a dst src h hi => scacc_completes h hi, fun s x p n a b slot h hi => mldb_completes h hi,
    fun s x p n a b slot h hi => mldm_completes h hi, fun s c e r x args v ha hq hs hop hacc hfetch hr => matrixComplete_retries ha hq hs hop hacc hfetch hr,
    fun s c e r x args ha hq hs hr hop => ?_⟩
  obtain ⟨u, hu, hex⟩ := matrixSoftErrorRetry_retries ha hq hs hr hop
  refine ⟨_, hex, ?_, List.mem_append_right _ (List.mem_singleton.mpr rfl), fun c' sl => ?_, fun c' => ?_, ?_, ?_⟩
  · show ((onCore u c (fun k => { k with matrixQ := { e with retried := true } :: r })).core c).matrixQ = _
    rw [onCore_core]
  · show (onCore u c (fun k => { k with matrixQ := { e with retried := true } :: r })).thread? c' sl = _
    rw [onCore_thread (f := fun k => { k with matrixQ := { e with retried := true } :: r }) rfl, State.thread?, hu.threads]
    rfl
  · show ((onCore u c (fun k => { k with matrixQ := { e with retried := true } :: r })).core c').acc = _
    by_cases hc : c' = c
    · rw [hc, onCore_core, hu.acc]
    · rw [onCore_core_other _ _ hc, hu.acc]
  · rw [hu.rest]
    rfl
  · rw [hu.rest]
    rfl

end Sys2Proof.Proofs
end


section
/-!
PROOFS. The accumulator store: where the elements of a tile stand, and what a write of tiles changes.
-/

namespace Sys2Proof.Proofs

open Sys2Proof Sys2Proof.Machine Sys2Proof.Claims

/-! ### Elements (R129) -/

/-- An element is written, and no other element of the 64 columns changes. -/
theorem lookD_setAcc (acc : Tab Nat) {row col row' col' : Nat} (v : Nat) (hcol : col < 64) (hcol' : col' < 64) :
    lookD (setAcc acc row' col' v) (row * 64 + col) 0 = if row' = row ∧ col' = col then v else lookD acc (row * 64 + col) 0 := by
  unfold setAcc
  split_ifs with hv hsame hsame
  · obtain ⟨rfl, rfl⟩ := hsame
    rw [lookD, look_del_same, hv]
    rfl
  · rw [lookD, look_del_other _ _ _ (by omega), lookD]
  · obtain ⟨rfl, rfl⟩ := hsame
    exact lookD_put_same _ _ _ _
  · exact lookD_put_other _ _ _ _ _ (by omega)

/-- Writes of elements leave an element at w, if each write of it gives w, and there is one or it is w already. -/
theorem lookD_foldl_setAcc {α : Type} {r c v : α → Nat} {row col w : Nat} (hcol : col < 64) : ∀ (l : List α) (acc : Tab Nat),
    (∀ e ∈ l, c e < 64) → (∀ e ∈ l, r e = row ∧ c e = col → v e = w) →
    (∃ e ∈ l, r e = row ∧ c e = col) ∨ lookD acc (row * 64 + col) 0 = w →
    lookD (l.foldl (fun a e => setAcc a (r e) (c e) (v e)) acc) (row * 64 + col) 0 = w
  | [], acc, _, _, h => h.resolve_left (by simp)
  | e :: l, acc, hc, hv, h => by
    refine lookD_foldl_setAcc hcol l _ (fun e' he' => hc e' (List.mem_cons_of_mem _ he')) (fun e' he' => hv e' (List.mem_cons_of_mem _ he')) ?_
    rw [lookD_setAcc _ _ hcol (hc e List.mem_cons_self)]
    by_cases hsame : r e = row ∧ c e = col
    · exact .inr (by rw [if_pos hsame, hv e List.mem_cons_self hsame])
    · rw [if_neg hsame]
      refine h.imp_left fun ⟨e', he', hat⟩ => ⟨e', ?_, hat⟩
      exact (List.mem_cons.mp he').resolve_left fun heq => hsame (heq ▸ hat)

/-! ### Tiles (R129, R357) -/

theorem zip_map_upFrom {α β : Type} (f : Nat → α) (d : β) {n : Nat} {vs : List β} (h : vs.length = n) :
    ((upFrom 0 n).map f).zip vs = (upFrom 0 n).map (fun i => (f i, vs.getD i d)) := by
  refine List.ext_getElem? fun i => ?_
  by_cases hi : i < n
  · have hv : vs[i]? = some (vs.getD i d) := by
      rw [List.getD_eq_getElem?_getD, List.getElem?_eq_getElem (h ▸ hi)]
      rfl
    rw [List.zip, List.getElem?_zipWith, List.getElem?_map, List.getElem?_map, upFrom_getElem? 0 n i hi, hv, Option.map_some, Nat.zero_add]
    rfl
  · rw [List.getElem?_eq_none (by simp; omega), List.getElem?_eq_none (by simp; omega)]

theorem accAt_setTile (k : Core) {tile row col : Nat} {vs : List Nat} (hvs : vs.length = 64) (hcol : col < 64) :
    (k.setTile tile vs).accAt row col =
      if row / 8 = tile / 8 ∧ col / 8 = tile % 8 then vs.getD (row % 8 * 8 + col % 8) 0 else k.accAt row col := by
  unfold Core.setTile Core.accAt tileCells
  dsimp only
  rw [zip_map_upFrom _ 0 hvs]
  refine lookD_foldl_setAcc (r := fun e : (Nat × Nat) × Nat => e.1.1) (c := fun e => e.1.2) (v := fun e => e.2) hcol _ _ ?_ ?_ ?_
  · intro e he
    obtain ⟨i, hi, rfl⟩ := List.mem_map.mp he
    have := (mem_upFrom _ _ _).mp hi
    dsimp only
    omega
  · intro e he
    obtain ⟨i, hi, rfl⟩ := List.mem_map.mp he
    have := (mem_upFrom _ _ _).mp hi
    rintro ⟨hrow, hcol'⟩
    dsimp only at hrow hcol' ⊢
    rw [if_pos (by omega)]
    congr 1
    omega
  · split_ifs with hin
    · refine .inl ⟨_, List.mem_map.mpr ⟨row % 8 * 8 + col % 8, (mem_upFrom _ _ _).mpr (by omega), rfl⟩, ?_⟩
      dsimp only
      omega
    · exact .inr rfl

/-! ### The tiles of an instruction (R130) -/

theorem mem_outputs {m : Mma} {x : Ctx} {k : Core} {e : Nat × Nat × Nat × Bool} : e ∈ m.outputs x k ↔
    ∃ r n, r < m.rows ∧ n < m.cols ∧ e = (m.row0 + r, m.col0 + n, (m.element x k r n).1, (m.element x k r n).2) := by
  unfold Mma.outputs
  simp only [List.mem_flatMap, List.mem_map, mem_upFrom, Nat.zero_le, true_and, Nat.zero_add]
  constructor
  · rintro ⟨r, hr, n, hn, rfl⟩
    exact ⟨r, n, hr, hn, rfl⟩
  · rintro ⟨r, n, hr, hn, rfl⟩
    exact ⟨r, hr, n, hn, rfl⟩

theorem accAt_writeMma (k : Core) (x : Ctx) (m : Mma) {row col : Nat} (hfits : m.col0 + m.cols ≤ 64) (hcol : col < 64) :
    (k.writeMma m (m.outputs x k)).accAt row col =
      if m.row0 ≤ row ∧ row < m.row0 + m.rows ∧ m.col0 ≤ col ∧ col < m.col0 + m.cols
      then (m.element x k (row - m.row0) (col - m.col0)).1 else k.accAt row col := by
  obtain ⟨_, hform⟩ := writeMma_form k m (m.outputs x k)
  rw [hform]
  refine lookD_foldl_setAcc (r := fun e : Nat × Nat × Nat × Bool => e.1) (c := fun e => e.2.1) (v := fun e => e.2.2.1) hcol _ _ ?_ ?_ ?_
  · intro e he
    obtain ⟨r, n, _, hn, rfl⟩ := mem_outputs.mp he
    dsimp only
    omega
  · intro e he
    obtain ⟨r, n, hr, hn, rfl⟩ := mem_outputs.mp he
    rintro ⟨rfl, rfl⟩
    dsimp only
    rw [if_pos (by omega), Nat.add_sub_cancel_left, Nat.add_sub_cancel_left]
  · split_ifs with hin
    · refine .inl ⟨_, mem_outputs.mpr ⟨row - m.row0, col - m.col0, by omega, by omega, rfl⟩, ?_⟩
      dsimp only
      omega
    · exact .inr rfl

/-! ### Flags of tiles -/

theorem mem_insertBy_iff {α : Type} (before : α → α → Bool) (x y : α) : ∀ l : List α, y ∈ insertBy before x l ↔ y = x ∨ y ∈ l
  | [] => by simp [insertBy]
  | z :: r => by
    unfold insertBy
    split
    · exact List.mem_cons
    · rw [List.mem_cons, mem_insertBy_iff before x y r, List.mem_cons]
      tauto

theorem mem_flagTile (l : List Nat) (tile : Nat) (on : Bool) (n : Nat) : n ∈ flagTile l tile on ↔ (on = true ∧ n = tile) ∨ (n ≠ tile ∧ n ∈ l) := by
  have hothers : n ∈ l.filter (fun x => decide (x ≠ tile)) ↔ n ≠ tile ∧ n ∈ l := by
    rw [List.mem_filter, decide_eq_true_eq, and_comm]
  unfold flagTile
  cases on with
  | false =>
    rw [if_neg Bool.false_ne_true, hothers]
    simp
  | true =>
    rw [if_pos rfl, mem_insertBy_iff, hothers]
    simp

theorem mem_foldl_flagTile : ∀ (tiles l : List Nat) (n : Nat), n ∈ tiles.foldl (fun d n => flagTile d n true) l ↔ n ∈ tiles ∨ n ∈ l
  | [], l, n => by simp
  | tile :: r, l, n => by
    rw [List.foldl_cons, mem_foldl_flagTile r, mem_flagTile, List.mem_cons]
    tauto

theorem mem_dirty_writeMma (k : Core) (m : Mma) (outs : List (Nat × Nat × Nat × Bool)) (n : Nat) :
    n ∈ (k.writeMma m outs).dirty ↔ n ∈ m.tiles ∨ n ∈ k.dirty := by
  obtain ⟨_, hform⟩ := writeMma_form k m outs
  rw [hform]
  exact mem_foldl_flagTile _ _ _

theorem accumulatorElementsHold : AccumulatorElementsHold :=
  ⟨fun k _ _ _ _ hvs hcol => accAt_setTile k hvs hcol, fun k x m _ _ hfits hcol => accAt_writeMma k x m hfits hcol,
    fun k x m n => mem_dirty_writeMma k m (m.outputs x k) n, fun k tile on n => mem_flagTile k.sat tile on n⟩

end Sys2Proof.Proofs
end


section
/-!
PROOFS. The sums of the matrix engine: exact integer sums held at the ends of their range, exact float sums, and the window value.
-/

namespace Sys2Proof.Proofs

open Sys2Proof Sys2Proof.Machine Sys2Proof.Claims

/-! ### Integer elements (R128, R129) -/

theorem foldl_upFrom_sum (g : Nat → Int) : ∀ n, (upFrom 0 n).foldl (fun acc i => acc + g i) 0 = ∑ i ∈ Finset.range n, g i
  | 0 => rfl
  | n + 1 => by
    rw [upFrom_succ, List.foldl_append, foldl_upFrom_sum g n, Finset.sum_range_succ, Nat.zero_add]
    rfl

theorem zip_upFrom {β : Type} (d : β) (vs : List β) : (upFrom 0 vs.length).zip vs = (upFrom 0 vs.length).map (fun i => (i, vs.getD i d)) := by
  have h := zip_map_upFrom id d (vs := vs) rfl
  rwa [List.map_id] at h

theorem intSum_eq {m : Mma} (hm : m.pair = 0) (x : Ctx) (k : Core) (r n : Nat) :
    m.intSum x k r n = ∑ i ∈ Finset.range (m.places k (m.slotOf r) n).length,
      extInt .sgn 8 (m.rowBits x r ((m.places k (m.slotOf r) n).getD i 0)) * extInt .sgn 8 (m.colBits (k.wslot (m.slotOf r)) n i) := by
  have hplane : ¬m.pair = 1 := by omega
  unfold Mma.intSum
  dsimp only
  rw [zip_upFrom 0, List.foldl_map, ← foldl_upFrom_sum]
  simp only [if_neg hplane]

theorem element_int {m : Mma} (hm : m.pair = 0) (x : Ctx) (k : Core) (r n : Nat) {v : Int}
    (hv : v = m.intSum x k r n + (if m.zi then 0 else extInt .sgn 64 (k.accAt (m.row0 + r) (m.col0 + n)))) : m.element x k r n =
      if v < -2 ^ 63 then (2 ^ 63, true) else if 2 ^ 63 ≤ v then (2 ^ 63 - 1, true) else (bitsOf 64 v, false) := by
  have hlo : rangeLo .sgn 64 = -2 ^ 63 := rfl
  have hhi : rangeHi .sgn 64 = 2 ^ 63 - 1 := rfl
  unfold Mma.element
  dsimp only
  have hup : 2 ^ 63 - 1 < v ↔ 2 ^ 63 ≤ v := by omega
  rw [if_pos (by omega), ← hv, hlo, hhi]
  simp only [hup]
  rfl

/-! ### Exact values (R149) -/

theorem ratOf_num (s : Bool) (n d : Nat) : ratOf (.num s n d) = (if s then -1 else 1) * ((n : ℚ) / d) := by
  cases s
  · exact (one_mul _).symm
  · exact (neg_one_mul _).symm

theorem isFin_num (s : Bool) (n : Nat) {d : Nat} (hd : d ≠ 0) : IsFin (.num s n d) := ⟨s, n, d, rfl, hd⟩

/-- A quotient written with a multiple of its denominator. -/
theorem cast_scaled_div {n d den : Nat} (h : d ∣ den) (hden : den ≠ 0) : ((n * (den / d) : Nat) : ℚ) / den = n / d := by
  obtain ⟨c, rfl⟩ := h
  obtain ⟨hd, hc⟩ := mul_ne_zero_iff.mp hden
  rw [Nat.mul_div_cancel_left c (Nat.pos_of_ne_zero hd)]
  have hd' : (d : ℚ) ≠ 0 := Nat.cast_ne_zero.mpr hd
  have hc' : (c : ℚ) ≠ 0 := Nat.cast_ne_zero.mpr hc
  push_cast
  field_simp

/-- The denominator of a sum. -/
def sumDen (d e : Nat) : Nat := if d % e = 0 then d else if e % d = 0 then e else d * e

theorem sumDen_spec {d e : Nat} (hd : d ≠ 0) (he : e ≠ 0) : sumDen d e ≠ 0 ∧ d ∣ sumDen d e ∧ e ∣ sumDen d e := by
  unfold sumDen
  split_ifs with h1 h2
  · exact ⟨hd, dvd_rfl, Nat.dvd_of_mod_eq_zero h1⟩
  · exact ⟨he, Nat.dvd_of_mod_eq_zero h2, dvd_rfl⟩
  · exact ⟨mul_ne_zero hd he, dvd_mul_right _ _, dvd_mul_left _ _⟩

/-- A sum of finite values is exact. -/
theorem add_exact {rdn : Bool} {u v : FVal} (hu : IsFin u) (hv : IsFin v) : IsFin (u.add rdn v) ∧ ratOf (u.add rdn v) = ratOf u + ratOf v := by
  obtain ⟨s, n, d, rfl, hd⟩ := hu
  obtain ⟨t, m, e, rfl, he⟩ := hv
  obtain ⟨hden, hdvd, hevd⟩ := sumDen_spec hd he
  have hn := cast_scaled_div (n := n) hdvd hden
  have hm := cast_scaled_div (n := m) hevd hden
  have hadd : FVal.add rdn (.num s n d) (.num t m e) =
      if s = t then .num s (n * (sumDen d e / d) + m * (sumDen d e / e)) (sumDen d e)
      else if n * (sumDen d e / d) = m * (sumDen d e / e) then .num rdn 0 1
      else if m * (sumDen d e / e) < n * (sumDen d e / d) then .num s (n * (sumDen d e / d) - m * (sumDen d e / e)) (sumDen d e)
      else .num t (m * (sumDen d e / e) - n * (sumDen d e / d)) (sumDen d e) := rfl
  rw [hadd, ratOf_num s, ratOf_num t, ← hn, ← hm]
  generalize n * (sumDen d e / d) = a
  generalize m * (sumDen d e / e) = b
  by_cases hst : s = t
  · subst hst
    rw [if_pos rfl, ratOf_num]
    refine ⟨isFin_num _ _ hden, ?_⟩
    push_cast
    ring
  · have hsign : (if t then (-1 : ℚ) else 1) = -(if s then -1 else 1) := by cases s <;> cases t <;> simp_all
    rw [if_neg hst, hsign]
    rcases lt_trichotomy a b with hab | rfl | hba
    · rw [if_neg hab.ne, if_neg hab.not_gt, ratOf_num, hsign, Nat.cast_sub hab.le]
      exact ⟨isFin_num _ _ hden, by ring⟩
    · rw [if_pos rfl, ratOf_num]
      exact ⟨isFin_num _ _ one_ne_zero, by push_cast; ring⟩
    · rw [if_neg hba.ne', if_pos hba, ratOf_num, Nat.cast_sub hba.le]
      exact ⟨isFin_num _ _ hden, by ring⟩

theorem foldl_add_exact {α : Type} {g : α → FVal} : ∀ {l : List α} {b : FVal}, IsFin b → (∀ p ∈ l, IsFin (g p)) →
    IsFin (l.foldl (fun acc p => FVal.add false acc (g p)) b) ∧ ratOf (l.foldl (fun acc p => FVal.add false acc (g p)) b) =
      ratOf b + (l.map (fun p => ratOf (g p))).sum
  | [], b, hb, _ => ⟨hb, by simp⟩
  | p :: r, b, hb, h => by
    obtain ⟨hfin, hsum⟩ := add_exact (rdn := false) hb (h p List.mem_cons_self)
    obtain ⟨hfin', hsum'⟩ := foldl_add_exact hfin fun p' hp => h p' (List.mem_cons_of_mem _ hp)
    refine ⟨hfin', ?_⟩
    rw [List.foldl_cons, hsum', hsum, List.map_cons, List.sum_cons, add_assoc]

/-! ### Sums with a NaN or an infinity (R160) -/

theorem any_isNan {ps : List FVal} : ps.any FVal.isNan = true ↔ .nan ∈ ps := by
  rw [List.any_eq_true]
  constructor
  · rintro ⟨p, hp, h⟩
    cases p with
    | nan => exact hp
    | inf b => cases h
    | num s n d => cases h
  · exact fun h => ⟨_, h, rfl⟩

theorem any_isInf {ps : List FVal} {b : Bool} : ps.any (FVal.isInf b) = true ↔ .inf b ∈ ps := by
  rw [List.any_eq_true]
  constructor
  · rintro ⟨p, hp, h⟩
    cases p with
    | nan => cases h
    | inf c => cases eq_of_beq h; exact hp
    | num s n d => cases h
  · exact fun h => ⟨_, h, beq_self_eq_true b⟩

theorem blockSum_nan (w : Bool) {ps : List FVal} (h : (∃ p ∈ ps, p = .nan) ∨ (.inf true ∈ ps ∧ .inf false ∈ ps)) : blockSum w ps = .nan := by
  refine if_pos ?_
  rw [Bool.or_eq_true, Bool.and_eq_true, any_isNan, any_isInf, any_isInf]
  exact h.imp_left fun ⟨p, hp, e⟩ => e ▸ hp

theorem blockSum_inf (w : Bool) {ps : List FVal} {b : Bool} (hnan : FVal.nan ∉ ps) (hb : .inf b ∈ ps) (hnb : FVal.inf (!b) ∉ ps) :
    blockSum w ps = .inf b := by
  have h1 : ¬((ps.any FVal.isNan || (ps.any (FVal.isInf true) && ps.any (FVal.isInf false))) = true) := by
    rw [Bool.or_eq_true, Bool.and_eq_true, any_isNan, any_isInf, any_isInf]
    cases b <;> simp_all
  unfold blockSum
  rw [if_neg h1]
  cases b with
  | true => rw [if_pos (any_isInf.mpr hb)]
  | false => rw [if_neg (fun e => hnb (any_isInf (b := true) |>.mp e)), if_pos (any_isInf.mpr hb)]

/-- A sum of finite values, of which those that are not zero count. -/
theorem blockSum_finite (w : Bool) {ps : List FVal} (h : ∀ p ∈ ps, IsFin p) : blockSum w ps =
    if ps.filter (fun p => !p.isZero) = [] then .num false 0 1
    else if w then windowSum (ps.filter (fun p => !p.isZero)) else (ps.filter (fun p => !p.isZero)).foldl (FVal.add false) (.num false 0 1) := by
  have hnan : FVal.nan ∉ ps := fun hp => by obtain ⟨_, _, _, e, _⟩ := h _ hp; cases e
  have hinf (b : Bool) : FVal.inf b ∉ ps := fun hp => by obtain ⟨_, _, _, e, _⟩ := h _ hp; cases e
  unfold blockSum
  rw [if_neg (by rw [Bool.or_eq_true, Bool.and_eq_true, any_isNan, any_isInf, any_isInf]; tauto), if_neg (fun e => hinf _ (any_isInf.mp e)),
    if_neg (fun e => hinf _ (any_isInf.mp e))]
  simp only [List.isEmpty_iff]

theorem ratOf_isZero {p : FVal} (h : p.isZero = true) : ratOf p = 0 := by
  cases p with
  | num s n d =>
    rw [ratOf_num, eq_of_beq h]
    simp
  | nan => rfl
  | inf b => rfl

theorem sum_nonzero : ∀ ps : List FVal, ((ps.filter (fun p => !p.isZero)).map ratOf).sum = (ps.map ratOf).sum
  | [] => rfl
  | p :: r => by
    rw [List.filter_cons, List.map_cons, List.sum_cons, ← sum_nonzero r]
    split_ifs with hz
    · rw [List.map_cons, List.sum_cons]
    · rw [ratOf_isZero (by simpa using hz), zero_add]

theorem blockSum_exact {ps : List FVal} (h : ∀ p ∈ ps, IsFin p) : IsFin (blockSum false ps) ∧ ratOf (blockSum false ps) = (ps.map ratOf).sum := by
  have hzero : IsFin (.num false 0 1) ∧ ratOf (.num false 0 1) = 0 := ⟨isFin_num _ _ one_ne_zero, ratOf_isZero rfl⟩
  rw [blockSum_finite false h, ← sum_nonzero]
  simp only [Bool.false_eq_true, if_false]
  split_ifs with hempty
  · rw [hempty]
    exact hzero
  · obtain ⟨hfin, hsum⟩ := foldl_add_exact (g := id) hzero.1 (l := ps.filter (fun p => !p.isZero)) fun p hp => h p (List.mem_of_mem_filter hp)
    refine ⟨hfin, hsum.trans ?_⟩
    rw [hzero.2, zero_add]
    rfl

/-! ### The window value (R161 to R163) -/

theorem pow2_ratio (q : Int) : ((pow2Num q : Nat) : ℚ) / (pow2Den q : Nat) = 2 ^ q := by
  unfold pow2Num pow2Den
  split_ifs with h
  · obtain ⟨n, rfl⟩ := Int.eq_ofNat_of_zero_le h
    simp
  · obtain ⟨n, hn⟩ := Int.exists_eq_neg_ofNat (not_le.mp h).le
    rw [hn]
    simp

theorem pow2Num_pos (q : Int) : 0 < pow2Num q := by
  unfold pow2Num
  split_ifs <;> positivity

theorem pow2Den_pos (q : Int) : 0 < pow2Den q := by
  unfold pow2Den
  split_ifs <;> positivity

/-- A finite value in units of 2^q: its whole units and a rest of less than one, both of its sign. -/
theorem cut_spec (q : Int) {p : FVal} (hp : IsFin p) : IsFin (p.cut q).2 ∧ ratOf p = (p.cut q).1 * 2 ^ q + ratOf (p.cut q).2 * 2 ^ q ∧
    |ratOf (p.cut q).2 * 2 ^ q| < 2 ^ q ∧ 0 ≤ ratOf (p.cut q).2 * 2 ^ q * ratOf p ∧ |((p.cut q).1 : ℚ)| * 2 ^ q ≤ |ratOf p| := by
  obtain ⟨s, n, d, rfl, hd⟩ := hp
  have hunit : (0 : ℚ) < 2 ^ q := by positivity
  have hden : 0 < d * pow2Num q := Nat.mul_pos (Nat.pos_of_ne_zero hd) (pow2Num_pos q)
  have hdenQ : (0 : ℚ) < ((d * pow2Num q : Nat) : ℚ) := Nat.cast_pos.mpr hden
  have hsplit : (n : ℚ) / d = ((n * pow2Den q / (d * pow2Num q) : Nat) : ℚ) * 2 ^ q +
      ((n * pow2Den q % (d * pow2Num q) : Nat) : ℚ) / ((d * pow2Num q : Nat) : ℚ) * 2 ^ q := by
    have hmod : ((n * pow2Den q : Nat) : ℚ) = ((d * pow2Num q : Nat) : ℚ) * ((n * pow2Den q / (d * pow2Num q) : Nat) : ℚ) +
        ((n * pow2Den q % (d * pow2Num q) : Nat) : ℚ) := by exact_mod_cast (Nat.div_add_mod _ _).symm
    have hunits : (n : ℚ) / d = ((n * pow2Den q : Nat) : ℚ) / ((d * pow2Num q : Nat) : ℚ) * 2 ^ q := by
      have h1 : (d : ℚ) ≠ 0 := Nat.cast_ne_zero.mpr hd
      have h2 : ((pow2Num q : Nat) : ℚ) ≠ 0 := Nat.cast_ne_zero.mpr (pow2Num_pos q).ne'
      have h3 : ((pow2Den q : Nat) : ℚ) ≠ 0 := Nat.cast_ne_zero.mpr (pow2Den_pos q).ne'
      rw [← pow2_ratio]
      push_cast
      field_simp
    rw [hunits, hmod]
    field_simp
  have hrest0 : 0 ≤ ((n * pow2Den q % (d * pow2Num q) : Nat) : ℚ) / ((d * pow2Num q : Nat) : ℚ) := by positivity
  have hrest1 : ((n * pow2Den q % (d * pow2Num q) : Nat) : ℚ) / ((d * pow2Num q : Nat) : ℚ) < 1 := by
    rw [div_lt_one hdenQ]
    exact_mod_cast Nat.mod_lt _ hden
  have hwhole0 : (0 : ℚ) ≤ ((n * pow2Den q / (d * pow2Num q) : Nat) : ℚ) := by positivity
  have hcut : (FVal.num s n d).cut q = (if s then -((n * pow2Den q / (d * pow2Num q) : Nat) : Int) else ((n * pow2Den q / (d * pow2Num q) : Nat) : Int),
      .num s (n * pow2Den q % (d * pow2Num q)) (d * pow2Num q)) := rfl
  rw [hcut, ratOf_num, ratOf_num, hsplit]
  refine ⟨isFin_num _ _ hden.ne', ?_⟩
  generalize ((n * pow2Den q % (d * pow2Num q) : Nat) : ℚ) / ((d * pow2Num q : Nat) : ℚ) = rest at *
  generalize n * pow2Den q / (d * pow2Num q) = whole at *
  have hsum : 0 ≤ (whole : ℚ) * 2 ^ q + rest * 2 ^ q := by positivity
  have hrest : 0 ≤ rest * 2 ^ q := by positivity
  have hle : (whole : ℚ) * 2 ^ q ≤ whole * 2 ^ q + rest * 2 ^ q := by linarith
  have hlt : rest * 2 ^ q < 2 ^ q := by nlinarith
  have hprod : 0 ≤ rest * 2 ^ q * (whole * 2 ^ q + rest * 2 ^ q) := mul_nonneg hrest hsum
  cases s
  · simp only [Bool.false_eq_true, if_false, one_mul, Int.cast_natCast, abs_of_nonneg hrest, abs_of_nonneg hwhole0, abs_of_nonneg hsum]
    exact ⟨trivial, hlt, hprod, hle⟩
  · simp only [if_true, one_mul, Int.cast_neg, Int.cast_natCast, neg_mul, abs_neg, abs_of_nonneg hrest, abs_of_nonneg hwhole0, abs_of_nonneg hsum,
      mul_neg, neg_neg]
    exact ⟨by ring, hlt, hprod, hle⟩

/-- The sign of a finite value is that of its number. -/
theorem sign_eq {v : FVal} (hv : IsFin v) : (v.sign : ℚ) = if 0 < ratOf v then 1 else if ratOf v < 0 then -1 else 0 := by
  obtain ⟨s, n, d, rfl, hd⟩ := hv
  rw [ratOf_num]
  unfold FVal.sign
  dsimp only
  by_cases hn : n = 0
  · simp [hn]
  · have hpos : (0 : ℚ) < (n : ℚ) / d := div_pos (Nat.cast_pos.mpr (Nat.pos_of_ne_zero hn)) (Nat.cast_pos.mpr (Nat.pos_of_ne_zero hd))
    rw [if_neg hn]
    cases s
    · simp [hpos]
    · simp [hpos, hpos.le]

theorem ratOf_scaled (v q : Int) : ratOf (scaled v q) = v * 2 ^ q := by
  unfold scaled
  rw [ratOf_num, ← pow2_ratio]
  push_cast
  rcases lt_or_ge v 0 with h | h
  · rw [if_pos (by simpa using h), show ((v.natAbs : Nat) : ℚ) = -v by rw [Nat.cast_natAbs, abs_of_neg h]; push_cast; ring]
    ring
  · rw [if_neg (by simpa using h), show ((v.natAbs : Nat) : ℚ) = v by rw [Nat.cast_natAbs, abs_of_nonneg h]]
    ring

theorem foldl_fst_sum {α : Type} (l : List (Int × α)) : l.foldl (fun acc c => acc + c.1) 0 = (l.map (·.1)).sum := by
  rw [List.sum_eq_foldl, List.foldl_map]

/-- The whole units that the products of a sum hold, and what is left of each. -/
def wholes (q : Int) (ps : List FVal) : List Int := ps.map (fun p => (p.cut q).1)
def rests (q : Int) (ps : List FVal) : List ℚ := ps.map (fun p => ratOf (p.cut q).2 * 2 ^ q)

theorem windowSum_value {ps : List FVal} (h : ∀ p ∈ ps, IsFin p) {q : Int}
    (hq : q = (ps.foldl (fun m p => max m p.exponent) (ps.headD .nan).exponent) - 149) : ratOf (windowSum ps) = ((wholes q ps).sum : ℚ) * 2 ^ q +
      (if 0 < (rests q ps).sum then 2 ^ (q - 1) else if (rests q ps).sum < 0 then -2 ^ (q - 1) else 0) := by
  have hzero : IsFin (.num false 0 1) ∧ ratOf (.num false 0 1) = 0 := ⟨isFin_num _ _ one_ne_zero, ratOf_isZero rfl⟩
  obtain ⟨hfin, hsum⟩ := foldl_add_exact (g := fun p => (p.cut q).2) hzero.1 (l := ps) fun p hp => (cut_spec q (h p hp)).1
  rw [hzero.2, zero_add] at hsum
  have hunit : (0 : ℚ) < 2 ^ q := by positivity
  have hrests : (rests q ps).sum = (ps.map (fun p => ratOf (p.cut q).2)).sum * 2 ^ q := by
    unfold rests
    exact List.sum_map_mul_right ..
  have hhalf : (2 : ℚ) ^ q = 2 * 2 ^ (q - 1) := by
    rw [zpow_sub_one₀ two_ne_zero]
    ring
  have hvalue : windowSum ps = scaled (2 * (wholes q ps).sum + (ps.foldl (fun acc p => FVal.add false acc (p.cut q).2) (.num false 0 1)).sign) (q - 1) := by
    unfold windowSum
    dsimp only
    rw [← hq, foldl_fst_sum, List.map_map, List.foldl_map]
    rfl
  rw [hvalue, ratOf_scaled]
  push_cast
  rw [sign_eq hfin, hsum, hrests]
  generalize (ps.map (fun p => ratOf (p.cut q).2)).sum = rest
  have hpos : 0 < rest * 2 ^ q ↔ 0 < rest := mul_pos_iff_of_pos_right hunit
  have hneg : rest * 2 ^ q < 0 ↔ rest < 0 := by simp [mul_neg_iff, hunit, hunit.not_gt]
  simp only [hpos, hneg]
  rw [hhalf]
  split_ifs <;> ring

theorem windowSumHolds {ps : List FVal} (hne : ps ≠ []) (h : ∀ p ∈ ps, IsFin p ∧ p.isZero = false) {q : Int}
    (hq : q = (ps.foldl (fun m p => max m p.exponent) (ps.headD .nan).exponent) - 149) : ratOf (blockSum true ps) = ((wholes q ps).sum : ℚ) * 2 ^ q +
      (if 0 < (rests q ps).sum then 2 ^ (q - 1) else if (rests q ps).sum < 0 then -2 ^ (q - 1) else 0) := by
  have hfin : ∀ p ∈ ps, IsFin p := fun p hp => (h p hp).1
  have hall : ps.filter (fun p => !p.isZero) = ps := List.filter_eq_self.mpr fun p hp => by rw [(h p hp).2]; rfl
  rw [blockSum_finite true hfin, hall, if_neg hne, if_pos rfl]
  exact windowSum_value hfin hq

theorem matrixSumsHold : MatrixSumsHold := by
  refine ⟨fun m x k r n hm => ?_, fun m x k r n hm => ?_, fun w ps => blockSum_nan w, fun w ps b => blockSum_inf w, fun ps => blockSum_exact,
    fun ps hne h q hq => ⟨wholes q ps, rests q ps, by simp [wholes], by simp [rests], fun i hi => ?_, windowSumHolds hne h hq⟩⟩
  · have helement := element_int hm x k r n rfl
    rw [intSum_eq hm] at helement
    dsimp only
    rw [helement]
    refine ⟨fun hlo hhi => ?_, fun hlo => if_pos hlo, fun hhi => ?_⟩
    · rw [if_neg (not_lt.mpr hlo), if_neg (not_le.mpr hhi)]
    · rw [if_neg (by omega), if_pos hhi]
  · unfold Mma.element
    dsimp only
    rw [if_neg (by omega)]
  · have hget : ps.getD i .nan ∈ ps := by
      rw [List.getD_eq_getElem _ _ hi]
      exact List.getElem_mem hi
    obtain ⟨-, hsplit, hrest, hsign, hwhole⟩ := cut_spec q (h _ hget).1
    have hw : (wholes q ps).getD i 0 = ((ps.getD i .nan).cut q).1 := by simp [wholes, hi]
    have hr : (rests q ps).getD i 0 = ratOf ((ps.getD i .nan).cut q).2 * 2 ^ q := by simp [rests, hi]
    rw [hw, hr]
    exact ⟨hsplit, hrest, hsign, hwhole⟩

/-- Settles O28: a write of elements read back by induction on the list of writes; integer elements as sums over the K extent; float sums
from the exactness of one addition; and the window value from the cut of each product into whole units and a rest. -/
theorem matrixSums : Obligations.MatrixSums := ⟨accumulatorElementsHold, matrixSumsHold⟩

end Sys2Proof.Proofs
end


section
/-!
PROOFS. The courier's cards: the checks of a card-issuing instruction in their order, and acceptance at the port.
-/

namespace Sys2Proof.Proofs

open Sys2Proof Sys2Proof.Machine Sys2Proof.Claims

/-! ### At issue (R365) -/

/-- Each element passes a check, and so does the list, with a result for each element. -/
theorem eachOf_passes {α β : Type} {f : α → Except Stop β} : ∀ {l : List α}, (∀ a ∈ l, ∃ b, f a = .ok b) →
    ∃ r, eachOf f l = .ok r ∧ ∀ a ∈ l, ∀ b, f a = .ok b → b ∈ r
  | [], _ => ⟨[], rfl, fun _ h => absurd h List.not_mem_nil⟩
  | a :: l, h => by
    obtain ⟨b, hb⟩ := h a List.mem_cons_self
    obtain ⟨r, hr, hmem⟩ := eachOf_passes fun a' ha => h a' (List.mem_cons_of_mem _ ha)
    refine ⟨b :: r, ?_, fun a' ha b' hb' => ?_⟩
    · unfold eachOf
      simp only [hb, hr, bind, Except.bind]
    · rcases List.mem_cons.mp ha with rfl | ha
      · rw [hb] at hb'
        cases hb'
        exact List.mem_cons_self
      · exact List.mem_cons_of_mem _ (hmem a' ha b' hb')

theorem runEcc_bad {x : Ctx} {a n v : Nat} (h : x.localBad (x.runBase + a) n = some v) : x.runEcc a n = trap ECCU v := by
  unfold Ctx.runEcc
  rw [h]

section
variable {s : State} {i : Instr} {x : Ctx} {kind a p : Nat}

/-- The card that the buffer at an address holds. -/
def cardAt (x : Ctx) (kind p : Nat) : Card := Card.ofNat kind (x.locNum p 64)

theorem issueCard_badField {off : Nat} {r : List Nat} (h : Issues s i x) (hb : CardBuffer x a p)
    (hf : (cardAt x kind p).fieldFails (x.locNum p 64) = off :: r) : issueCard i kind a s = .next (trapped s x KIND (0x200 + off)) := by
  obtain ⟨⟨da, ha, rfl⟩, hal, hrun, hrace, hbad⟩ := hb
  unfold cardAt at hf
  refine issue_traps h ?_
  simp only [check_int ha.dest, ha.read0, hal, hrun, hrace, runEcc_sound hbad, hf, bind, Except.bind, ne_eq, not_true_eq_false, if_false,
    Bool.not_true, Bool.false_eq_true]

theorem issueCard_badRing {v : Nat} (h : Issues s i x) (hb : CardBuffer x a p) (hf : (cardAt x kind p).fieldFails (x.locNum p 64) = [])
    (hr : x.ringEcc (cardAt x kind p) = trap ECCU v) : issueCard i kind a s = .next (trapped s x ECCU v) := by
  obtain ⟨⟨da, ha, rfl⟩, hal, hrun, hrace, hbad⟩ := hb
  unfold cardAt at hf hr
  refine issue_traps h ?_
  simp only [check_int ha.dest, ha.read0, hal, hrun, hrace, runEcc_sound hbad, hf, hr, bind, Except.bind, ne_eq, not_true_eq_false, if_false,
    Bool.not_true, Bool.false_eq_true]
  rfl

theorem issueCard_badRelation {off : Nat} {r : List Nat} (h : Issues s i x) (hb : CardBuffer x a p)
    (hf : (cardAt x kind p).fieldFails (x.locNum p 64) = []) (hr : x.ringEcc (cardAt x kind p) = .ok ())
    (hrel : (cardAt x kind p).relationFails (x.ringOf (cardAt x kind p)) = off :: r) :
    issueCard i kind a s = .next (trapped s x KIND (0x200 + off)) := by
  obtain ⟨⟨da, ha, rfl⟩, hal, hrun, hrace, hbad⟩ := hb
  unfold cardAt at hf hr hrel
  refine issue_traps h ?_
  simp only [check_int ha.dest, ha.read0, hal, hrun, hrace, runEcc_sound hbad, hf, hr, hrel, bind, Except.bind, ne_eq, not_true_eq_false,
    if_false, Bool.not_true, Bool.false_eq_true]

/-- The card goes to the port with the word that holds it. -/
def offersCard (x : Ctx) (p : Nat) : Effect s := fun t =>
  (waits x .inFlight [x.locNum p 64] (t.enterRun x p 64 false false)).pend .cardAccept [x.c, x.sl]

theorem issueCard_passes (h : Issues s i x) (hb : CardBuffer x a p) (hf : (cardAt x kind p).fieldFails (x.locNum p 64) = [])
    (hr : x.ringEcc (cardAt x kind p) = .ok ()) (hrel : (cardAt x kind p).relationFails (x.ringOf (cardAt x kind p)) = [])
    (hc : CardRanges x (cardAt x kind p)) : issueCard i kind a s = .next (afterStores x (offersCard x p) (begin s)).1 := by
  obtain ⟨⟨da, ha, rfl⟩, hal, hrun, hrace, hbad⟩ := hb
  obtain ⟨hranges, hring, hword, hclear, hfree⟩ := hc
  obtain ⟨rv, hrv, -⟩ := eachOf_passes fun r hr => hranges r (List.mem_of_mem_filter (p := (·.virt)) hr)
  obtain ⟨rl, hrl, -⟩ := eachOf_passes fun r hr => hranges r (List.mem_of_mem_filter (p := fun r => !r.virt) hr)
  have hraces := eachOf_map hclear
  have hblock : ¬(kind = 3 ∧ (!x.inRun (cardAt x kind ((val x a).headD 0)).dst 64) = true) := fun e => by
    rw [hring e.1] at e
    exact Bool.false_ne_true e.2
  unfold cardAt at hf hr hrel hrv hrl hraces hblock hword hfree
  refine issue_next (g := afterStores x (offersCard x ((val x a).headD 0))) h ?_
  simp only [check_int ha.dest, ha.read0, hal, hrun, hrace, runEcc_sound hbad, hf, hr, hrel, hrv, hrl, hraces, if_neg hblock, hword, hfree, bind,
    Except.bind, ne_eq, not_true_eq_false, if_false, Bool.not_true, Bool.false_eq_true]
  rfl

theorem holds_val (h : Issues s i x) : (holds x (begin s)).1 = withThread s x.c x.sl (x.th.wait i x.hint .inFlight []) :=
  (waits_of h.thread .inFlight []).trans (by rw [h.i_eq]; rfl)

theorem offersCard_reads (h : Issues s i x) : ReadsOnly (due s .cardAccept [x.c, x.sl]) (offersCard x p (begin s)).1 x.c x.sl
    (x.th.wait i x.hint .inFlight [x.locNum p 64]) := by
  have hist := enterAll_histories (begin s) x false false ((granules (x.runBase + p) 64).map .gran)
  have hwaits := waits_of ((hist.thread x.c x.sl).trans h.thread) .inFlight [x.locNum p 64]
  have hreads := hist.readsOnly x.c x.sl (x.th.wait i x.hint .inFlight [x.locNum p 64])
  rw [h.i_eq] at hwaits
  rw [← hwaits] at hreads
  exact readsOnly_due hreads _ _

end

theorem cardIssues_of {mk : Nat → Instr} {kind : Nat} (hmk : ∀ a s, exec (mk a) s = issueCard (mk a) kind a s) : CardIssues mk kind := by
  intro s x a p h hb
  dsimp only
  rw [hmk]
  refine ⟨fun off r hf => issueCard_badField h hb hf, fun v hf hk hin hbad => issueCard_badRing h hb hf ?_,
    fun off r hf hr hrel => issueCard_badRelation h hb hf hr hrel, fun hf hr hrel hc => ⟨fun hd => ?_, fun hd => ?_⟩⟩
  · have hcard : (cardAt x kind p).kind = 3 ∧ x.inRun (cardAt x kind p).dst 64 = true := ⟨hk, hin⟩
    unfold Ctx.ringEcc
    rw [if_pos hcard]
    exact runEcc_bad hbad
  · rw [issueCard_passes h hb hf hr hrel hc, afterStores, hd]
    exact congrArg _ (holds_val h)
  · exact ⟨_, by rw [issueCard_passes h hb hf hr hrel hc, afterStores_drained hd], offersCard_reads h⟩

/-! ### Acceptance at the port (R133, R135, R178) -/

theorem dueOnce_adds (s : State) (i : Instr) (args : List Nat) : AddsDue s (dueOnce s i args) ∧ ⟨i, args⟩ ∈ (dueOnce s i args).pending := by
  unfold dueOnce
  split
  · next h => exact ⟨.refl _, h⟩
  · exact ⟨⟨_, rfl, fun _ h => List.mem_append_left _ h⟩, List.mem_append_right _ (List.mem_singleton_self _)⟩

theorem mem_tagsOf {n kind g : Nat} {u : Run} (hk : kind ≠ 3) (hv : u.virt = false) (hg : g ∈ granules u.phys u.len) :
    ∃ y ∈ tagsOf n kind true u, y.job = n ∧ y.write = true ∧ y.first ≤ g ∧ g < y.first + y.count := by
  unfold granules at hg
  split at hg
  · cases hg
  · next hlen =>
    rw [mem_upFrom] at hg
    have hsome : ¬((u.virt || decide (u.len = 0)) = true) := by rw [hv, Bool.false_or, decide_eq_true_iff]; exact hlen
    refine ⟨{ job := n, first := u.phys / 32, count := (u.phys + u.len + 31) / 32 - u.phys / 32, write := true }, ?_, rfl, rfl, hg.1, hg.2⟩
    unfold tagsOf
    rw [if_neg hsome, if_neg hk]
    exact List.mem_singleton_self _

theorem granules_nonempty {off len g : Nat} (h : g ∈ granules off len) : len ≠ 0 := by
  unfold granules at h
  split at h
  · cases h
  · assumption

/-- A local range is a local run of its length. -/
theorem cardRun_local {x : Ctx} {r : CardRange} {u : Run} (hr : r.virt = false) (h : x.cardRun r = .ok u) : u.virt = false ∧ u.len = r.len := by
  unfold Ctx.cardRun at h
  rw [hr, if_neg Bool.false_ne_true] at h
  split at h <;> cases h
  exact ⟨rfl, rfl⟩

section
variable {s : State} {x : Ctx} {kind w : Nat}

/-- The job that the port makes of a card (R365). -/
def acceptedJob (s : State) (x : Ctx) (c : Card) (reads writes : List Run) : Job :=
  { core := x.c, slot := x.sl, task := x.th.task, agent := s.agents + 1, tag := (s.core x.c).nextTag, kind := c.kind, src := c.src
    dst := c.dst, len := c.len, cw := c.cw, cval := c.cval, ver := c.ver, flags := c.flags, p0 := c.p0, p1 := c.p1, p2 := c.p2
    reads := reads, writes := writes, state := 1, code := 0, zblk := false, tiny := false, rawc := false, cancel := false, taken := 0
    given := 0, delivered := 0, firstSlot := 0, failed := none, written := [], after := x.th.lastRec, vc := put x.th.vc (s.agents + 1) 1 }

def acceptedTags (s : State) (c : Card) (reads writes : List Run) : List Tag :=
  reads.flatMap (tagsOf (s.jobCount + 1) c.kind false) ++ writes.flatMap (tagsOf (s.jobCount + 1) c.kind true)

/-- The port with the job. -/
def portOf (s : State) (c : Card) (reads writes : List Run) (k : Core) : Core :=
  { k with
    nextTag := tagAfter k.nextTag, recent := ((s.jobCount + 1) :: k.recent).take 16, portQ := k.portQ ++ [s.jobCount + 1]
    tags := k.tags ++ acceptedTags s c reads writes }

/-- The state with the job, before its thread goes on. -/
def ported (s : State) (x : Ctx) (c : Card) (reads writes : List Run) : State :=
  onCore { s with
    jobCount := s.jobCount + 1, agents := s.agents + 1
    jobs := put s.jobs (s.jobCount + 1) (acceptedJob s x c reads writes) } x.c (portOf s c reads writes)

/-- The thread that has given its card away. -/
def acceptedThread (s : State) (x : Ctx) : Thread := (x.th.released.replied 0 (s.core x.c).nextTag).retire (x.th.pc + 4)

theorem accept_val (c : Card) (reads writes : List Run) : ((begin s).accept x c reads writes).1 =
    dueOnce (withThread (ported s x c reads writes) x.c x.sl (acceptedThread s x)) .courierJobStart [clusterOf x.c] := by
  unfold Trail.accept own
  dsimp only
  rw [pendOnce_val, setThread_val, modCore_onCore]
  rfl

theorem cardAccept_next {reads writes : List Run} (h : Offers s x kind w) (hroom : x.k.portQ.length < 8)
    (hgoes : ∀ n p, x.part = some n → s.part? n = some p → p.halted = false)
    (hr : eachOf x.cardRun (((Card.ofNat kind w).ranges (x.ringOf (Card.ofNat kind w))).filter (fun r => !r.write)) = .ok reads)
    (hw : eachOf x.cardRun (((Card.ofNat kind w).ranges (x.ringOf (Card.ofNat kind w))).filter (fun r => r.write && decide (r.len ≠ 0))) = .ok writes) :
    exec .cardAccept s = .next (((begin s).accept x (Card.ofNat kind w) reads writes).settle x.c x.sl).1 := by
  have hxs : x.s = s := by
    obtain ⟨_, _, -, -, e, -⟩ := opCtx_eq h.op
    rw [e]
  have hopen : ¬(8 ≤ x.k.portQ.length ∨ (x.part.bind x.s.part?).any (·.halted) = true) := by
    rintro (hfull | hhalted)
    · omega
    · rw [Option.any_eq_true] at hhalted
      obtain ⟨p, hp, hhalt⟩ := hhalted
      obtain ⟨n, hn, hpart⟩ := Option.bind_eq_some_iff.mp hp
      rw [hxs] at hpart
      rw [hgoes n p hn hpart] at hhalt
      cases hhalt
  show execCardAccept s = _
  unfold execCardAccept
  rw [event_val]
  simp only [arg_of h.args, List.getD_cons_zero, List.getD_cons_succ]
  rw [resume_ok (g := fun t => t.accept x (Card.ofNat kind w) reads writes) (begin s) h.op]
  simp only [h.kind, if_neg hopen, hr, hw, bind, Except.bind]

theorem ported_port (c : Card) (reads writes : List Run) : (ported s x c reads writes).core x.c = portOf s c reads writes (s.core x.c) := onCore_core _ _ _

theorem ported_thread (c : Card) (reads writes : List Run) (c' sl : Nat) : (ported s x c reads writes).thread? c' sl = s.thread? c' sl :=
  onCore_thread (s := { s with
    jobCount := s.jobCount + 1, agents := s.agents + 1
    jobs := put s.jobs (s.jobCount + 1) (acceptedJob s x c reads writes) }) (f := portOf s c reads writes) rfl c' sl

/-- What acceptance leaves, for the threads and the port, up to what looks again. -/
theorem accepted_leaves {t : State} {c : Card} {reads writes : List Run}
    (h : LooksAgain (withThread (ported s x c reads writes) x.c x.sl (acceptedThread s x)) t) :
    t.thread? x.c x.sl = some (acceptedThread s x) ∧ (∀ c' sl, ¬(c' = x.c ∧ sl = x.sl) → SameOrAgain s t c' sl) ∧
      { t.core x.c with threads := [] } = { portOf s c reads writes (s.core x.c) with threads := [] } := by
  obtain ⟨hown, hport, hothers⟩ := h.only (s := ported s x c reads writes) rfl rfl
  refine ⟨hown, fun c' sl hne => ?_, (hport x.c).trans (by rw [ported_port])⟩
  have hother := hothers c' sl hne
  unfold SameOrAgain at hother ⊢
  rwa [ported_thread] at hother

theorem cardAccept_holds (h : Offers s x kind w) (hroom : x.k.portQ.length < 8)
    (hgoes : ∀ n p, x.part = some n → s.part? n = some p → p.halted = false)
    (hranges : ∀ r ∈ (Card.ofNat kind w).ranges (x.ringOf (Card.ofNat kind w)), ∃ u, x.cardRun r = .ok u) :
    ∃ t j, exec .cardAccept s = .next t ∧ look t.jobs (s.jobCount + 1) = some j ∧ j.state = 1 ∧ j.cancel = false ∧ j.tag = x.k.nextTag ∧
      (j.core, j.slot, j.task) = (x.c, x.sl, x.th.task) ∧ (j.kind, j.src, j.dst, j.len, j.cw, j.cval) =
        (kind, (Card.ofNat kind w).src, (Card.ofNat kind w).dst, (Card.ofNat kind w).len, (Card.ofNat kind w).cw, (Card.ofNat kind w).cval) ∧
      t.thread? x.c x.sl = some ((x.th.released.replied 0 x.k.nextTag).retire (x.th.pc + 4)) ∧
      (∀ c sl, ¬(c = x.c ∧ sl = x.sl) → SameOrAgain s t c sl) ∧ (t.core x.c).portQ = x.k.portQ ++ [s.jobCount + 1] ∧
      (t.core x.c).nextTag = (if x.k.nextTag = 0xFFFF then 1 else x.k.nextTag + 1) ∧
      (kind ≠ 3 → ∀ r u g, r ∈ (Card.ofNat kind w).ranges (x.ringOf (Card.ofNat kind w)) → r.write = true → r.virt = false →
        x.cardRun r = .ok u → g ∈ granules u.phys u.len →
        ∃ y ∈ (t.core x.c).tags, y.job = s.jobCount + 1 ∧ y.write = true ∧ y.first ≤ g ∧ g < y.first + y.count) ∧
      ⟨.courierJobStart, [clusterOf x.c]⟩ ∈ t.pending ∧ t.mem = s.mem ∧ t.loc = s.loc := by
  obtain ⟨reads, hr, -⟩ := eachOf_passes fun r hr => hranges r (List.mem_of_mem_filter (p := fun r => !r.write) hr)
  obtain ⟨writes, hw, hin⟩ := eachOf_passes fun r hr => hranges r (List.mem_of_mem_filter (p := fun r => r.write && decide (r.len ≠ 0)) hr)
  have hk : x.k = s.core x.c := by
    obtain ⟨_, _, -, -, e, -⟩ := opCtx_eq h.op
    rw [e]
  generalize hcard : Card.ofNat kind w = c at *
  have hkind : c.kind = kind := by rw [← hcard]; rfl
  have hnext := cardAccept_next h hroom hgoes (reads := reads) (writes := writes) (by rw [hcard]; exact hr) (by rw [hcard]; exact hw)
  have hadds : LooksAgain (withThread (ported s x c reads writes) x.c x.sl (acceptedThread s x)) ((begin s).accept x c reads writes).1 := by
    rw [accept_val]
    exact looksAgain_of_addsDue (dueOnce_adds _ _ _).1
  have hsettle := settle_looksAgain ((begin s).accept x c reads writes) x.c x.sl
  obtain ⟨hown, hothers, hport⟩ := accepted_leaves (hadds.trans hsettle)
  have hrest := (hadds.trans hsettle).rest
  rw [hcard] at hnext
  refine ⟨_, acceptedJob s x c reads writes, hnext, ?_, rfl, rfl, by rw [hk]; rfl, rfl, by rw [← hkind]; rfl, by rw [hk]; exact hown, hothers,
    by rw [hk]; exact congrArg Core.portQ hport, by rw [hk]; exact congrArg Core.nextTag hport, fun hne r u g hmem hwr hvirt hu hg => ?_,
    hsettle.due _ (by rw [accept_val]; exact (dueOnce_adds _ _ _).2), by rw [hrest]; rfl, by rw [hrest]; rfl⟩
  · rw [hrest]
    exact look_put_same _ _ _
  · obtain ⟨huv, hlen⟩ := cardRun_local hvirt hu
    have hsome : r.len ≠ 0 := hlen ▸ granules_nonempty hg
    have huw : u ∈ writes := hin r (List.mem_filter.mpr ⟨hmem, by simp [hwr, hsome]⟩) u hu
    obtain ⟨y, hy, hspec⟩ := mem_tagsOf (n := s.jobCount + 1) (kind := c.kind) (by rw [hkind]; exact hne) huv hg
    refine ⟨y, ?_, hspec⟩
    have htags : ((((begin s).accept x c reads writes).settle x.c x.sl).1.core x.c).tags = (s.core x.c).tags ++ acceptedTags s c reads writes :=
      congrArg Core.tags hport
    rw [htags]
    exact List.mem_append_right _ (List.mem_append_right _ (List.mem_flatMap.mpr ⟨u, huw, hy⟩))

end

/-! ### A full port (R133) -/

theorem waitsRelease_modThread {s : State} {t : Trail s} {c sl : Nat} {th : Thread} (c' sl' : Nat) (h : t.1.thread? c sl = some th)
    (hw : th.waitsRelease = false) : (t.modThread c' sl' (fun th => if th.waitsRelease then th.again else th)).1.thread? c sl = some th := by
  cases ht : t.1.thread? c' sl' with
  | none =>
    unfold Trail.modThread
    rw [ht]
    exact h
  | some th' =>
    rw [modThread_val t c' sl' _ th' ht]
    by_cases e : c = c' ∧ sl = sl'
    · obtain ⟨rfl, rfl⟩ := e
      rw [h] at ht
      cases ht
      rw [withThread_thread, hw]
      rfl
    · rw [withThread_thread_other _ _ _ _ _ _ (not_and_pair e)]
      exact h

/-- A thread that does not wait in `lease.rel` is left alone when an instruction settles. -/
theorem settle_leaves {s : State} {t : Trail s} {c sl : Nat} {th : Thread} (c' sl' : Nat) (h : t.1.thread? c sl = some th)
    (hw : th.waitsRelease = false) : (t.settle c' sl').1.thread? c sl = some th := by
  have hwake : (t.wakeReleases c').1.thread? c sl = some th :=
    forEach_keeps (P := fun u => u.1.thread? c sl = some th) (fun u p hu => waitsRelease_modThread c' p.1 hu hw) _ t h
  have hadds {u v : State} (huv : AddsDue u v) (hu : u.thread? c sl = some th) : v.thread? c sl = some th := by
    obtain ⟨p, rfl, -⟩ := huv
    exact hu
  unfold Trail.settle
  cases t.1.thread? c' sl' with
  | none => exact h
  | some th' =>
    dsimp only
    cases t.1.task? th'.task with
    | none => exact h
    | some x =>
      dsimp only
      have hend := hadds (ite_pendOnce_adds (t.wakeReleases c') x.ending.isSome .taskExtentEnd [th'.task]) hwake
      split
      · split
        · exact hadds (pendOnce_adds _ _ _) hend
        · exact hadds (ite_pendOnce_adds _ _ _ _) hend
      · exact hend

theorem cardKind_waits {th : Thread} {o : Op} {kind : Nat} (ho : th.op = some o) (hk : cardKind o.instr = some kind) : th.waitsRelease = false := by
  unfold Thread.waitsRelease
  rw [ho]
  cases o with
  | mk i pc hint args =>
    dsimp only at hk ⊢
    rw [Bool.and_eq_false_iff]
    refine .inr ?_
    split
    · cases hk
    · rfl

theorem cardAccept_full {s : State} {x : Ctx} {kind w : Nat} (h : Offers s x kind w) (hfull : 8 ≤ x.k.portQ.length) :
    Answered s .cardAccept x.c x.sl x.th := by
  obtain ⟨th, o, hth, ho, hx, -⟩ := opCtx_eq h.op
  have hthread : s.thread? x.c x.sl = some x.th := by rw [hth, hx]
  have hwaits : x.th.waitsRelease = false := cardKind_waits (by rw [hx]; exact ho) (by rw [← h.kind, hx])
  have hlook := settle_looksAgain (begin s) x.c x.sl
  refine ⟨_, ?_, settle_leaves x.c x.sl hthread hwaits, ⟨hlook.core, fun c sl _ => hlook.thread c sl⟩, hlook.rest⟩
  have hshut : 8 ≤ x.k.portQ.length ∨ (x.part.bind x.s.part?).any (·.halted) = true := .inl hfull
  show execCardAccept s = _
  unfold execCardAccept
  rw [event_val]
  simp only [arg_of h.args, List.getD_cons_zero, List.getD_cons_succ]
  rw [resume_ok (g := id) (begin s) h.op]
  · rfl
  · simp only [h.kind, if_pos hshut]

/-- Settles O29: the checks of a card in their order, the same for the four instructions, with the wait for the thread's stores; and the
port's acceptance, where the job, its tags and the reply are read off the state that it leaves. -/
theorem courierCards : Obligations.CourierCards :=
  ⟨cardIssues_of fun _ _ => rfl, cardIssues_of fun _ _ => rfl, cardIssues_of fun _ _ => rfl, cardIssues_of fun _ _ => rfl,
    fun _ _ _ _ h hroom hgoes hranges => cardAccept_holds h hroom hgoes hranges, fun _ _ _ _ h hfull => cardAccept_full h hfull⟩

end Sys2Proof.Proofs
end


section
/-!
PROOFS. A courier job's bytes: what reading and writing a run changes, and what it leaves.
-/

namespace Sys2Proof.Proofs

open Sys2Proof Sys2Proof.Machine Sys2Proof.Claims

/-! ### What moving bytes leaves (R136) -/

/-- Bytes may have changed, with what goes with them, and counts of pages; no error has come. -/
structure Drifts (s t : State) : Prop where
  rest : t = { s with
    mem := t.mem, loc := t.loc, cores := t.cores, heads := t.heads, bad := t.bad, pages := t.pages, notices := t.notices
    pending := t.pending }
  bad : ∀ b ∈ t.bad, b ∈ s.bad

theorem Drifts.refl (s : State) : Drifts s s := ⟨rfl, fun _ h => h⟩

theorem Drifts.trans {s t u : State} (h : Drifts s t) (k : Drifts t u) : Drifts s u :=
  ⟨by rw [k.rest, h.rest], fun b hb => h.bad b (k.bad b hb)⟩

theorem drifts_of_counted {s t : State} (h : Counted s t) : Drifts s t := by
  unfold Counted at h
  rw [h]
  exact ⟨rfl, fun _ h => h⟩

theorem drifts_of_wakes {s t : State} (h : Wakes s t) : Drifts s t := by
  rw [h.rest]
  exact ⟨rfl, fun _ h => h⟩

theorem drifts_of_addsDue {s t : State} (h : AddsDue s t) : Drifts s t := by
  obtain ⟨p, rfl, -⟩ := h
  exact ⟨rfl, fun _ h => h⟩

/-- What a part of a run needs to be read. -/
theorem readFail_none {s : State} {j : Job} {r : Run} {off len : Nat} : s.readFail j r off len = none ↔
    if r.virt then (backed (r.phys + off) && backed (r.phys + off + len - 1)) = true ∧ s.mayReachRun (s.jobMaster j) (r.phys + off) len permRd = true ∧
      s.memBad (r.phys + off) len = none
    else s.portGrants j permRd = true ∧
      ∀ b ∈ s.bad, ¬(b.1 = 2 ∧ b.2.1 = j.core ∧ (r.phys + off) / 8 ≤ b.2.2 ∧ b.2.2 < (r.phys + off + len + 7) / 8) := by
  unfold State.readFail
  dsimp only
  split
  · cases backed (r.phys + off) && backed (r.phys + off + len - 1) <;>
      cases s.mayReachRun (s.jobMaster j) (r.phys + off) len permRd <;> cases s.memBad (r.phys + off) len <;> simp
  · have hany : s.bad.any (fun b => decide (b.1 = 2) && decide (b.2.1 = j.core) && decide ((r.phys + off) / 8 ≤ b.2.2) &&
        decide (b.2.2 < (r.phys + off + len + 7) / 8)) = true ↔
        ¬∀ b ∈ s.bad, ¬(b.1 = 2 ∧ b.2.1 = j.core ∧ (r.phys + off) / 8 ≤ b.2.2 ∧ b.2.2 < (r.phys + off + len + 7) / 8) := by
      simp only [List.any_eq_true, Bool.and_eq_true, decide_eq_true_eq, not_forall, not_not, exists_prop, and_assoc]
    cases s.portGrants j permRd
    · simp
    · simp only [hany, Bool.not_true, Bool.false_eq_true, if_false, true_and, ite_not, ite_eq_left_iff, reduceCtorEq, imp_false, not_not]

namespace Drifts

variable {s t : State} (h : Drifts s t) {j : Job} {r : Run} {off len : Nat}

include h

theorem parts : t.parts = s.parts := by rw [h.rest]

theorem jobs : t.jobs = s.jobs := by rw [h.rest]

theorem tasks : t.tasks = s.tasks := by rw [h.rest]

theorem jobPart : t.jobPart j = s.jobPart j := by rw [h.rest]; rfl

theorem quiet {n : Option Nat} (hq : Quiet s n) : Quiet t n := quiet_of_parts hq h.parts

theorem baseOf : baseOf t j = baseOf s j := by rw [h.rest]; rfl

theorem compAt : t.compAt j r off len = s.compAt j r off len := by rw [h.rest]; rfl

theorem compAll : t.compAll j r off len = s.compAll j r off len := by rw [h.rest]; rfl

theorem writeFail : t.writeFail j r off len = s.writeFail j r off len := by rw [h.rest]; rfl

theorem memBad {a n : Nat} (hb : s.memBad a n = none) : t.memBad a n = none := by
  unfold State.memBad at hb ⊢
  rw [Option.map_eq_none_iff, List.find?_eq_none] at hb ⊢
  exact fun b hmem => hb b (h.bad b hmem)

theorem readFail (hr : s.readFail j r off len = none) : t.readFail j r off len = none := by
  have hreach (a : Nat) : t.mayReachRun (t.jobMaster j) a len permRd = s.mayReachRun (s.jobMaster j) a len permRd := by rw [h.rest]; rfl
  have hport : t.portGrants j permRd = s.portGrants j permRd := by rw [h.rest]; rfl
  rw [readFail_none] at hr ⊢
  rw [hreach, hport]
  split at hr
  · next hv =>
    rw [if_pos hv]
    exact ⟨hr.1, hr.2.1, h.memBad hr.2.2⟩
  · next hv =>
    rw [if_neg hv]
    exact ⟨hr.1, fun b hb => hr.2 b (h.bad b hb)⟩

end Drifts

/-! ### Reading and writing a run (R77, R136, R217) -/

theorem flagRacy_quiet {s : State} {t : Trail s} {n : Option Nat} (h : Quiet t.1 n) (racy : Bool) : t.flagRacy n racy = t := by
  unfold Trail.flagRacy
  split
  · next m =>
    unfold Trail.logFlag
    cases hp : t.1.part? m with
    | none => rfl
    | some p =>
      have hmode : ¬((decide (p.mode = 1) && !bit p.log.flags flagNotExact) = true) := by
        rw [decide_eq_false (h m p rfl hp).1]
        exact Bool.false_ne_true
      exact if_neg hmode
  · rfl

/-- Reading or writing a run is counted, and no more, where nothing records. -/
theorem runTouch_counted {s : State} {t : Trail s} {j : Job} (h : Quiet t.1 (t.1.jobPart j)) (r : Run) (off len : Nat) :
    Counted t.1 (t.runTouch j r off len).1 := by
  unfold Trail.runTouch
  split
  · have hcount := countAll_counted (dieOf j.core) (unitsOf (r.phys + off) len) t
    rw [flagRacy_quiet ((drifts_of_counted hcount).quiet h)]
    exact hcount
  · rfl

theorem memPut_drifts {s : State} (t : Trail s) (a : Nat) (bs : List Byte) (hs : List Head) : Drifts t.1 (t.memPut a bs hs).1 := by
  obtain ⟨h, hheads⟩ := setHeads_val (t.memWrite a bs) a bs.length hs
  have hput : Drifts t.1 (((t.memWrite a bs).setHeads a bs.length hs).mendRun none a bs.length).1 := by
    unfold Trail.mendRun
    rw [Trail.act_val, Act.apply_errors, hheads, memWrite_val]
    exact ⟨rfl, fun b hb => List.mem_of_mem_filter hb⟩
  exact hput.trans (drifts_of_wakes (forEach_wakes _ (fun t (k : Nat × Core) => wakeWord_wakes t k.1 false a bs.length) _ _))

theorem localWrite_drifts {s : State} (t : Trail s) (c off : Nat) (bs : List Byte) (hs : List Head) : Drifts t.1 (t.localWrite c off bs hs).1 := by
  have hput : Drifts t.1 (((t.locWrite c off bs).modCore c (fun k => k.setHeads off bs.length hs)).mendRun (some c) off bs.length).1 := by
    unfold Trail.mendRun
    rw [Trail.act_val, Act.apply_errors, modCore_onCore, onCore, locWrite_val]
    exact ⟨rfl, fun b hb => List.mem_of_mem_filter hb⟩
  exact (hput.trans (drifts_of_wakes (wakeWord_wakes _ c true off bs.length))).trans (drifts_of_addsDue (wakeRing_adds _ c off bs.length))

/-- A byte of device memory, or of the local stores. -/
def byteOf (s : State) (virt : Bool) (k : Nat) : Byte := if virt then s.mem.get k else s.loc.get k

/-- Where a part of a job's run begins there. -/
def startOf (j : Job) (r : Run) (off : Nat) : Nat := if r.virt then r.phys + off else locKey j.core (r.phys + off)

theorem startOf_eq (j : Job) (r : Run) (off : Nat) : startOf j r off = startOf j r 0 + off := by
  unfold startOf locKey
  split <;> omega

theorem runBytes_length (s : State) (j : Job) (r : Run) (off len : Nat) : (s.runBytes j r off len).length = len := by
  unfold State.runBytes
  split <;> exact Mem.bytes_length _ _ _

theorem bytes_getD (m : Mem) : ∀ (n a i : Nat), i < n → (m.bytes a n).getD i 0 = m.get (a + i)
  | n + 1, a, 0, _ => rfl
  | n + 1, a, i + 1, h => by
    rw [Mem.bytes, List.getD_cons_succ, bytes_getD m n (a + 1) i (Nat.lt_of_succ_lt_succ h), Nat.add_assoc, Nat.add_comm 1]

theorem runBytes_getD (s : State) (j : Job) (r : Run) {off len i : Nat} (h : i < len) :
    (s.runBytes j r off len).getD i 0 = byteOf s r.virt (startOf j r off + i) := by
  unfold State.runBytes byteOf startOf
  split <;> exact bytes_getD _ _ _ _ h

/-- A part of a run holds given bytes. -/
theorem runBytes_of_bytes {s : State} {j : Job} {r : Run} {off : Nat} {bs : List Byte}
    (h : ∀ i, i < bs.length → byteOf s r.virt (startOf j r off + i) = bs.getD i 0) : s.runBytes j r off bs.length = bs := by
  unfold byteOf startOf at h
  unfold State.runBytes
  split
  · next hv =>
    simp only [hv, if_true] at h
    exact bytes_eq_of_get h
  · next hv =>
    simp only [if_neg hv] at h
    exact bytes_eq_of_get h

/-- Two parts of runs hold the same bytes. -/
theorem runBytes_congr {s t : State} {j : Job} {a b : Run} {p q len : Nat}
    (h : ∀ i, i < len → byteOf t a.virt (startOf j a p + i) = byteOf s b.virt (startOf j b q + i)) : t.runBytes j a p len = s.runBytes j b q len := by
  have hbytes := runBytes_of_bytes (s := t) (j := j) (r := a) (off := p) (bs := s.runBytes j b q len) fun i hi => by
    rw [runBytes_length] at hi
    rw [runBytes_getD s j b hi]
    exact h i hi
  rwa [runBytes_length] at hbytes

/-- The first bytes of a run lie where they can be written. -/
def Within (j : Job) (r : Run) (len : Nat) : Prop :=
  j.core < 512 ∧ if r.virt then ∀ k, k < len → backed (r.phys + k) = true else r.phys + len ≤ 2097152

/-- The stores are in canonical form. -/
def StoresWf (s : State) : Prop := s.mem.wf ∧ s.loc.wf

theorem writeBacked_wf : ∀ (bs : List Byte) {m : Mem} (a : Nat), m.wf → (writeBacked m a bs).wf
  | [], _, _, h => h
  | b :: r, m, a, h => writeBacked_wf r (a + 1) (by split; exacts [Mem.set_wf m a b h, h])

theorem writeLocal_wf : ∀ (bs : List Byte) {m : Mem} (a : Nat), m.wf → (writeLocal m a bs).wf
  | [], _, _, h => h
  | b :: r, m, a, h => writeLocal_wf r (a + 1) (by split; exacts [Mem.set_wf m a b h, h])

section
variable {s : State} {t : Trail s} {j : Job} (hq : Quiet t.1 (t.1.jobPart j)) (r : Run) (off : Nat) (bs : List Byte)

include hq

/-- What a write to a run does. -/
theorem runPut_val : Drifts t.1 (t.runPut j r off bs).1 ∧
    (t.runPut j r off bs).1.mem = (if r.virt then writeBacked t.1.mem (startOf j r off) bs else t.1.mem) ∧
    (t.runPut j r off bs).1.loc = (if r.virt then t.1.loc else writeLocal t.1.loc (startOf j r off) bs) := by
  unfold Trail.runPut startOf
  cases r.virt with
  | true =>
    simp only [if_true]
    have hput := memPut_drifts t (r.phys + off) bs []
    have hcount := runTouch_counted (t := t.memStore (r.phys + off) bs) (j := j) (by rw [Trail.memStore, hput.jobPart]; exact hput.quiet hq) r off bs.length
    obtain ⟨_, _, _, hval⟩ : ∃ h b cs, (t.memStore (r.phys + off) bs).1 = _ := memPut_val t (r.phys + off) bs []
    refine ⟨hput.trans (drifts_of_counted hcount), ?_, ?_⟩
    · rw [hcount, hval]
    · rw [hcount, hval]
  | false =>
    have hval := localWrite_stored t j.core (r.phys + off) bs []
    have hmem : (t.localStore j.core (r.phys + off) bs).1.mem = t.1.mem := by rw [Trail.localStore, hval.rest]
    exact ⟨localWrite_drifts _ _ _ _ _, hmem, hval.loc⟩

theorem runPut_drifts : Drifts t.1 (t.runPut j r off bs).1 := (runPut_val hq r off bs).1

theorem runPut_wf (hw : StoresWf t.1) : StoresWf (t.runPut j r off bs).1 := by
  obtain ⟨-, hmem, hloc⟩ := runPut_val hq r off bs
  unfold StoresWf
  rw [hmem, hloc]
  split
  · exact ⟨writeBacked_wf _ _ hw.1, hw.2⟩
  · exact ⟨hw.1, writeLocal_wf _ _ hw.2⟩

theorem runPut_other {virt : Bool} {k : Nat} (h : virt = r.virt → k < startOf j r off ∨ startOf j r off + bs.length ≤ k) :
    byteOf (t.runPut j r off bs).1 virt k = byteOf t.1 virt k := by
  obtain ⟨-, hmem, hloc⟩ := runPut_val hq r off bs
  unfold byteOf
  rw [hmem, hloc]
  cases virt <;> cases hv : r.virt
  · exact writeLocal_other _ _ _ _ (h hv.symm)
  · rfl
  · rfl
  · exact writeBacked_other _ _ _ _ (h hv.symm)

theorem runPut_same {len i : Nat} (hw : StoresWf t.1) (hin : Within j r len) (hlen : off + bs.length ≤ len) (hi : i < bs.length) :
    byteOf (t.runPut j r off bs).1 r.virt (startOf j r off + i) = bs.getD i 0 := by
  obtain ⟨-, hmem, hloc⟩ := runPut_val hq r off bs
  obtain ⟨hcore, hplace⟩ := hin
  unfold byteOf
  rw [hmem, hloc]
  unfold startOf
  cases hv : r.virt with
  | true =>
    rw [hv, if_pos rfl] at hplace
    exact writeBacked_at _ _ _ _ hw.1 hi (by rw [if_pos rfl, Nat.add_assoc]; exact hplace (off + i) (by omega))
  | false =>
    rw [hv, if_neg Bool.false_ne_true] at hplace
    refine writeLocal_at _ _ _ _ hw.2 hi (decide_eq_true ?_)
    have := locKey_inside (n := bs.length) hcore (show r.phys + off + bs.length ≤ 2097152 by omega)
    simp only [Bool.false_eq_true, if_false]
    omega

end

end Sys2Proof.Proofs
end


section
/-!
PROOFS. The end of a courier job: its completion word, and what it leaves.
-/

namespace Sys2Proof.Proofs

open Sys2Proof Sys2Proof.Machine Sys2Proof.Claims

/-! ### What goes on beside a job -/

/-- Neither bytes, jobs, partitions nor granule tags have changed. -/
structure Aside (s t : State) : Prop where
  mem : t.mem = s.mem
  loc : t.loc = s.loc
  jobs : t.jobs = s.jobs
  parts : t.parts = s.parts
  tags : ∀ c, (t.core c).tags = (s.core c).tags

theorem Aside.refl (s : State) : Aside s s := ⟨rfl, rfl, rfl, rfl, fun _ => rfl⟩

theorem Aside.trans {s t u : State} (h : Aside s t) (k : Aside t u) : Aside s u :=
  ⟨k.mem.trans h.mem, k.loc.trans h.loc, k.jobs.trans h.jobs, k.parts.trans h.parts, fun c => (k.tags c).trans (h.tags c)⟩

theorem aside_of_addsDue {s t : State} (h : AddsDue s t) : Aside s t := by
  obtain ⟨p, rfl, -⟩ := h
  exact ⟨rfl, rfl, rfl, rfl, fun _ => rfl⟩

theorem onCore_aside (s : State) (c : Nat) {f : Core → Core} (h : ∀ k, (f k).tags = k.tags) : Aside s (onCore s c f) := by
  refine ⟨rfl, rfl, rfl, rfl, fun c' => ?_⟩
  by_cases hc : c' = c
  · rw [hc, onCore_core, h]
  · rw [onCore_core_other _ _ hc]

theorem modCore_aside {s : State} (t : Trail s) (c : Nat) {f : Core → Core} (h : ∀ k, (f k).tags = k.tags) : Aside t.1 (t.modCore c f).1 :=
  onCore_aside t.1 c h

theorem modThread_aside {s : State} (t : Trail s) (c sl : Nat) (f : Thread → Thread) : Aside t.1 (t.modThread c sl f).1 := by
  rw [modThread_onThread]
  unfold onThread
  split
  · next th hth =>
    exact onCore_aside t.1 c (f := fun k => { k with threads := put k.threads sl (f th) }) fun _ => rfl
  · exact .refl _

theorem forEach_aside {s : State} {α : Type} {f : Trail s → α → Trail s} (h : ∀ t a, Aside t.1 (f t a).1) (l : List α) (t : Trail s) :
    Aside t.1 (forEach t l f).1 := forEach_keeps (P := fun u => Aside t.1 u.1) (fun u a hu => hu.trans (h u a)) l t (.refl _)

theorem sendTo_aside {s : State} (t : Trail s) (src dst : Nat) (i : Instr) (args : List Nat) : Aside t.1 (t.sendTo src dst i args).1 := by
  rw [sendTo_val, sent_form]
  exact ⟨rfl, rfl, rfl, rfl, fun _ => rfl⟩

/-! ### A delivery at the core's barriers (R344) -/

theorem modBarrier_aside {s : State} (t : Trail s) (c b : Nat) (f : Barrier → Barrier) : Aside t.1 (t.modBarrier c b f).1 :=
  modCore_aside t c (f := fun k => { k with barriers := put k.barriers b (f (k.barrier b)) }) fun _ => rfl

theorem completePhase_aside {s : State} (t : Trail s) (c b : Nat) : Aside t.1 (t.completePhase c b).1 := by
  unfold Trail.completePhase
  dsimp only
  exact (modBarrier_aside t c b _).trans (forEach_aside (fun t sl => modThread_aside t c sl _) _ _)

theorem barrierTry_aside {s : State} {t : Trail s} {c : Nat} (h : Quiet t.1 (t.1.partOfCore c)) (b : Nat) (w : Waiter) :
    Aside t.1 (t.barrierTry c b w).1 := by
  unfold Trail.barrierTry
  dsimp only
  split
  · exact .refl _
  · split
    · rw [logged_quiet h (completePhase_aside t c b).parts]
      exact completePhase_aside t c b
    · split
      · exact .refl _
      · unfold Trail.sendArrival
        exact (modBarrier_aside t c b _).trans (sendTo_aside _ _ _ _ _)

theorem countDelivery_aside {s : State} {t : Trail s} {c : Nat} (h : Quiet t.1 (t.1.partOfCore c)) (message : Bool) :
    Aside t.1 (t.countDelivery c message).1 := by
  refine forEach_keeps (P := fun u : Trail s => Aside t.1 u.1) (fun u b hu => ?_) _ t (.refl _)
  have hcount := hu.trans (modBarrier_aside u c b (fun x => if message then { x with gotMsg := x.gotMsg + 1 } else { x with gotComp := x.gotComp + 1 }))
  refine hcount.trans (barrierTry_aside ?_ b _)
  rw [partOfCore_of_parts hcount.parts]
  exact quiet_of_parts h hcount.parts

theorem retry_aside {s : State} (t : Trail s) (c : Nat) : Aside t.1 (t.retry c).1 :=
  forEach_aside (fun t (p : Nat × Thread) => modThread_aside t c p.1 Thread.again) _ t

theorem pokePort_adds {s : State} (t : Trail s) (c : Nat) : AddsDue t.1 (t.pokePort c).1 := by
  refine forEach_adds _ (fun u p => ?_) _ t
  split
  · split
    · exact pendOnce_adds _ _ _
    · exact .refl _
  · exact .refl _

/-! ### The histories that a job enters (R174) -/

theorem setHistory_tags (k : Core) (l : Loc) (h : List Access) : (k.setHistory l h).tags = k.tags := by
  unfold Core.setHistory
  split <;> rfl

theorem foldl_tags {α : Type} {g : Core → α → Core} (h : ∀ k a, (g k a).tags = k.tags) : ∀ (l : List α) (k : Core), (l.foldl g k).tags = k.tags
  | [], _ => rfl
  | a :: r, k => (foldl_tags h r (g k a)).trans (h k a)

theorem ite_tags {p : Prop} [Decidable p] {k a b : Core} (ha : a.tags = k.tags) (hb : b.tags = k.tags) : (if p then a else b).tags = k.tags := by
  split
  exacts [ha, hb]

theorem enterJob_aside {s : State} (t : Trail s) (j : Job) : Aside t.1 (t.enterJob j).1 := by
  have htask (u : Trail s) (n : Nat) (f : Task → Task) : Aside u.1 (u.modTask n f).1 := by
    unfold Trail.modTask
    split
    · exact ⟨rfl, rfl, rfl, rfl, fun _ => rfl⟩
    · exact .refl _
  unfold Trail.enterJob
  dsimp only
  refine (modCore_aside t j.core fun k => ?_).trans (htask _ _ _)
  rw [foldl_tags (fun k g => setHistory_tags k _ _), foldl_tags (fun k r => ite_tags rfl (foldl_tags (fun k g => setHistory_tags k _ _) _ _)),
    foldl_tags (fun k r => ite_tags rfl (foldl_tags (fun k g => setHistory_tags k _ _) _ _))]

/-! ### The end (R135, R136) -/

/-- A job as its end leaves it. -/
def endedJob (j : Job) (code : Nat) (zblk tiny rawc : Bool) : Job := { j with state := 3, code := code, zblk := zblk, tiny := tiny, rawc := rawc }

/-- A core without a job's tags and its place at the port. -/
def dropJob (n : Nat) (k : Core) : Core :=
  { k with tags := k.tags.filter (fun g => decide (g.job ≠ n)), portQ := k.portQ.filter (fun q => decide (q ≠ n)) }

section
variable {s : State} {t : Trail s} {n : Nat} {j : Job} (hq : Quiet t.1 (t.1.partOfCore j.core)) (e : Ended) (z ti ra : Bool)

include hq

/-- What the end of a job leaves of jobs, bytes and tags. -/
structure JobEnds (s t : State) (n : Nat) (j q : Job) (w : Nat) : Prop where
  jobs : t.jobs = put s.jobs n q
  mem : t.mem = s.mem
  loc : t.loc = writeLocal s.loc (locKey j.core (baseOf s j + j.cw)) (leBytes w 8)
  parts : t.parts = s.parts
  tags : ∀ y ∈ (t.core j.core).tags, y.job ≠ n

theorem endJob_ends : JobEnds t.1 (t.endJob n j e z ti ra).1 n j (endedJob j e.1 z ti ra) (j.endWord e) := by
  have henter := enterJob_aside t j
  have hend : t.endJob n j e z ti ra = ((((((((t.enterJob j).act (.job n (some (endedJob j e.1 z ti ra)))).modCore j.core (dropJob n)).localWrite j.core
    (baseOf t.1 j + j.cw) (leBytes (j.endWord e) 8) [{ vc := j.vc, place := j.core, scope := 0 }]).countDelivery j.core false).retry
    j.core).pokePort j.core).pokeTask j.task).pendOnce .courierJobStart [clusterOf j.core] := rfl
  rw [hend]
  clear hend
  generalize t.enterJob j = u at henter
  generalize hv : (u.act (.job n (some (endedJob j e.1 z ti ra)))).modCore j.core (dropJob n) = v
  have hvval : v.1 = onCore { u.1 with jobs := put u.1.jobs n (endedJob j e.1 z ti ra) } j.core (dropJob n) := by rw [← hv]; rfl
  have hword := localWrite_stored v j.core (baseOf t.1 j + j.cw) (leBytes (j.endWord e) 8) [{ vc := j.vc, place := j.core, scope := 0 }]
  generalize v.localWrite j.core (baseOf t.1 j + j.cw) (leBytes (j.endWord e) 8) [{ vc := j.vc, place := j.core, scope := 0 }] = w at hword
  have hparts : w.1.parts = t.1.parts := by rw [hword.rest, hvval, ← henter.parts]; rfl
  have hcount := countDelivery_aside (t := w) (c := j.core) (by rw [partOfCore_of_parts hparts]; exact quiet_of_parts hq hparts) false
  have hrest := (hcount.trans (retry_aside _ j.core)).trans ((aside_of_addsDue (pokePort_adds _ j.core)).trans
    ((aside_of_addsDue (pokeTask_adds _ j.task)).trans (aside_of_addsDue (pendOnce_adds _ .courierJobStart [clusterOf j.core]))))
  refine ⟨?_, ?_, ?_, hrest.parts.trans hparts, ?_⟩
  · rw [hrest.jobs, hword.rest, hvval, ← henter.jobs]
    rfl
  · rw [hrest.mem, hword.rest, hvval, ← henter.mem]
    rfl
  · rw [hrest.loc, hword.loc, hvval, ← henter.loc]
    rfl
  · have hcore : (w.1.core j.core).tags = (u.1.core j.core).tags.filter (fun g => decide (g.job ≠ n)) := by
      show (wordless (w.1.core j.core)).tags = _
      rw [hword.core, hvval, onCore_core]
      rfl
    rw [hrest.tags, hcore]
    exact fun y hy => of_decide_eq_true (List.mem_filter.mp hy).2

end

/-- The completion word reads back. -/
theorem JobEnds.word {s t : State} {n w : Nat} {j q : Job} (h : JobEnds s t n j q w) (hwf : s.loc.wf) (hc : j.core < 512)
    (hin : baseOf s j + j.cw + 8 ≤ 2097152) : t.loc.bytes (locKey j.core (baseOf s j + j.cw)) 8 = leBytes w 8 := by
  have hread := bytes_writeLocal (a := locKey j.core (baseOf s j + j.cw)) (bs := leBytes w 8) hwf (by
    rw [leBytes_length]
    exact locKey_inside hc hin)
  rwa [leBytes_length, ← h.loc] at hread

/-- Bytes of local store beside the completion word are left. -/
theorem JobEnds.beside {s t : State} {n w : Nat} {j q : Job} (h : JobEnds s t n j q w) {k : Nat}
    (hk : k < locKey j.core (baseOf s j + j.cw) ∨ locKey j.core (baseOf s j + j.cw) + 8 ≤ k) : t.loc.get k = s.loc.get k := by
  rw [h.loc]
  exact writeLocal_other _ _ _ _ (by rwa [leBytes_length])

theorem JobEnds.look {s t : State} {n w : Nat} {j q : Job} (h : JobEnds s t n j q w) : look t.jobs n = some q := by
  rw [h.jobs]
  exact look_put_same _ _ _

/-- Where nothing records, a logged act of a job is done. -/
theorem jobLogged_quiet {s : State} {t : Trail s} {j : Job} {go : Effect s} (h : Quiet t.1 (t.1.jobPart j)) (hp : (go t).1.parts = t.1.parts) (r : Rec)
    (d : Due) : t.jobLogged j r d go = go t := by
  unfold Trail.jobLogged
  cases hj : t.1.jobPart j with
  | none => rfl
  | some m =>
    rw [hj] at h
    exact logged_quiet h hp _ _ _ _

/-- The end of a job whose bytes have been moved. -/
theorem finishes {s : State} {n : Nat} {j : Job} (hj : Quiet s (s.jobPart j)) (hc : Quiet s (s.partOfCore j.core)) {u : Trail s} (hu : Drifts s u.1)
    (r : Rec) (d : Due) (e : Ended) (z ti ra : Bool) :
    (begin s).jobLogged j r d (fun _ => u.endJob n j e z ti ra) = u.endJob n j e z ti ra ∧
      JobEnds u.1 (u.endJob n j e z ti ra).1 n j (endedJob j e.1 z ti ra) (j.endWord e) := by
  have hcore : Quiet u.1 (u.1.partOfCore j.core) := by
    rw [partOfCore_of_parts hu.parts]
    exact hu.quiet hc
  have hends := endJob_ends hcore (n := n) e z ti ra
  have hparts : (u.endJob n j e z ti ra).1.parts = s.parts := hends.parts.trans hu.parts
  refine ⟨?_, hends⟩
  generalize u.endJob n j e z ti ra = v at hparts
  exact jobLogged_quiet (t := begin s) (go := fun _ => v) hj hparts r d

end Sys2Proof.Proofs
end


section
/-!
PROOFS. The moves of a courier job unit by unit; jobs that are cancelled; and copies.
-/

namespace Sys2Proof.Proofs

open Sys2Proof Sys2Proof.Machine Sys2Proof.Claims

/-! ### Unit by unit -/

/-- What every unit of work keeps, the work keeps. -/
theorem inUnits_keeps {β : Type} {work : Nat → β → Except Ended β} {P : β → Prop} (h : ∀ i b b', P b → work i b = .ok b' → P b') :
    ∀ (l : List Nat) (b : β), P b → P (inUnits work l b).1
  | [], _, hb => hb
  | i :: l, b, hb => by
    unfold inUnits
    cases hw : work i b with
    | ok b' => exact inUnits_keeps h l b' (h i b b' hb hw)
    | error e => exact hb

/-- Every unit can be done: the work comes to its end, and what each unit takes from a number to the next holds of it. -/
theorem inUnits_all {β : Type} {work : Nat → β → Except Ended β} {P : Nat → β → Prop} : ∀ {n a : Nat} {b : β},
    (∀ i b, a ≤ i → i < a + n → P i b → ∃ b', work i b = .ok b' ∧ P (i + 1) b') → P a b →
    ∃ b', inUnits work (upFrom a n) b = (b', none) ∧ P (a + n) b'
  | 0, _, b, _, hb => ⟨b, rfl, hb⟩
  | n + 1, a, b, h, hb => by
    obtain ⟨b', hw, hb'⟩ := h a b (Nat.le_refl a) (by omega) hb
    obtain ⟨b'', hall, hb''⟩ := inUnits_all (n := n) (a := a + 1) (b := b') (fun i b hi hn => h i b (by omega) (by omega)) hb'
    refine ⟨b'', ?_, by rwa [show a + (n + 1) = a + 1 + n by omega]⟩
    unfold upFrom inUnits
    simp only [hw]
    exact hall

section
variable {s : State} {j : Job} (hq : Quiet s (s.jobPart j))

include hq

theorem Drifts.jobQuiet {u : State} (hu : Drifts s u) : Quiet u (u.jobPart j) := by
  rw [hu.jobPart]
  exact hu.quiet hq

theorem runTouch_drifts {t : Trail s} (ht : Drifts s t.1) (r : Run) (off len : Nat) : Drifts s (t.runTouch j r off len).1 :=
  ht.trans (drifts_of_counted (runTouch_counted (ht.jobQuiet hq) r off len))

theorem drifts_runPut {t : Trail s} (ht : Drifts s t.1) (r : Run) (off : Nat) (bs : List Byte) : Drifts s (t.runPut j r off bs).1 :=
  ht.trans (runPut_drifts (ht.jobQuiet hq) r off bs)

theorem copyBlock_drifts {i : Nat} {t t' : Trail s} (ht : Drifts s t.1) (h : Trail.copyBlock j i t = .ok t') : Drifts s t'.1 := by
  unfold Trail.copyBlock at h
  dsimp only at h
  split at h
  · cases h
  · cases h
    exact drifts_runPut hq (runTouch_drifts hq ht _ _ _) _ _ _

theorem padRow_drifts {c : Card} {i : Nat} {t : Trail s} (ht : Drifts s t.1) : Drifts s (t.padRow j c i).1 :=
  forEach_keeps (P := fun u : Trail s => Drifts s u.1) (fun _ _ hu => drifts_runPut hq hu _ _ _) _ t ht

theorem putBlock_drifts {c : Card} {i scale : Nat} {ws : List Nat} {t : Trail s} (ht : Drifts s t.1) : Drifts s (t.putBlock j c i scale ws).1 :=
  drifts_runPut hq (forEach_keeps (P := fun u : Trail s => Drifts s u.1) (fun _ _ hu => drifts_runPut hq hu _ _ _) _ t ht) _ _ _

theorem quantBlock_drifts {c : Card} {tile : Nat → List FVal} {i : Nat} {a a' : Trail s × Quantised} (ht : Drifts s a.1.1)
    (h : Trail.quantBlock j c tile i a = .ok a') : Drifts s a'.1.1 := by
  unfold Trail.quantBlock at h
  dsimp only at h
  have hread := runTouch_drifts hq ht j.src! (i * 64 * c.elem) (64 * c.elem)
  split at h
  · cases h
  · split at h
    · cases h
      exact padRow_drifts hq (putBlock_drifts hq hread)
    · cases h
      exact padRow_drifts hq hread

theorem packChunk_drifts {i : Nat} {a a' : Trail s × Packed} (ht : Drifts s a.1.1) (h : Trail.packChunk j i a = .ok a') : Drifts s a'.1.1 := by
  unfold Trail.packChunk at h
  dsimp only at h
  split at h
  · cases h
  · split at h
    · cases h
    · cases h
      exact drifts_runPut hq (runTouch_drifts hq ht _ _ _) _ _ _

theorem pack_drifts {units : List Nat} {t : Trail s} (ht : Drifts s t.1) : Drifts s (t.pack j units).1.1.1 := by
  unfold Trail.pack
  dsimp only
  split
  · exact ht
  · have hunits := inUnits_keeps (work := Trail.packChunk j) (P := fun a : Trail s × Packed => Drifts s a.1.1) (fun _ _ _ ha => packChunk_drifts hq ha) units
      (t, { dir := [], next := roundUp (64 + 8 * ((j.len + 8191) / 8192)) 64, rawc := false }) ht
    split
    · exact drifts_runPut hq hunits _ _ _
    · exact hunits

/-- Whatever a job moves, nothing but bytes, and what goes with them, changes. -/
theorem moveUnits_drifts (units : List Nat) : Drifts s ((begin s).moveUnits j units).trail.1 := by
  unfold Trail.moveUnits
  split
  · exact inUnits_keeps (P := fun u : Trail s => Drifts s u.1) (fun _ _ _ hb => copyBlock_drifts hq hb) units (begin s) (.refl s)
  · exact inUnits_keeps (P := fun a : Trail s × Quantised => Drifts s a.1.1) (fun _ _ _ hb => quantBlock_drifts hq hb) units (begin s, _) (.refl s)
  · exact pack_drifts hq (.refl s)

end

/-! ### The course of a completion (R136, R144, R145) -/

section
variable {s : State} {n : Nat} {j : Job}

/-- The block of a job's stream whose guard tag fails, where the environment says so. -/
def jobGuard (s : State) (j : Job) : Option Nat := (s.args[2]?).filter (fun b => decide (256 * b < j.len))

/-- How many of its units a job moves. -/
def jobStop (s : State) (j : Job) : Nat :=
  min (if j.cancel then s.arg 1 else j.unitCount) (min j.unitCount (((jobGuard s j).map j.unitOfBlock).getD j.unitCount))

/-- What it has moved. -/
def jobMoved (s : State) (j : Job) : Moved s := (begin s).moveUnits j (upFrom 0 (jobStop s j))

/-- How it ends. -/
def jobEnd (s : State) (j : Job) : Ended :=
  if j.cancel then (7, ((jobMoved s j).fails.map (·.1)).getD (jobStop s j))
  else ((jobMoved s j).fails.map (·.2)).getD (((jobGuard s j).map (fun b => (4, b))).getD (0, 0))

/-- A job that runs and that nothing stops has moved its bytes, and ends. -/
theorem courierJobComplete_runs (hn : s.arg 0 = n) (hj : look s.jobs n = some j) (hst : j.state = 2) (hk : j.kind ≠ 3)
    (hh : s.jobHalted j = false) (hcut : s.jobCutOff j = false) (hq : Quiet s (s.jobPart j)) (hqc : Quiet s (s.partOfCore j.core)) :
    ∃ t, exec .courierJobComplete s = .next t ∧ JobEnds (jobMoved s j).trail.1 t n j
      (endedJob j (jobEnd s j).1 (jobMoved s j).zblk (jobMoved s j).tiny (jobMoved s j).rawc) (j.endWord (jobEnd s j)) := by
  have hgo : ¬((s.jobHalted j || j.state == 3 || (j.state == 1 && !j.cancel) || j.kind == 3 && j.state == 2) = true) := by
    rw [hh, hst, beq_false_of_ne hk]
    exact Bool.false_ne_true
  have hway : ¬((j.state == 2 && s.jobCutOff j) = true) := by
    rw [hcut, Bool.and_false]
    exact Bool.false_ne_true
  have hrun : ¬j.state = 1 := by omega
  obtain ⟨hlog, hends⟩ := finishes (n := n) hq hqc (u := (jobMoved s j).trail) (moveUnits_drifts hq _) (j.endRec (jobEnd s j))
    ⟨.courierJobComplete, s.args⟩ (jobEnd s j) (jobMoved s j).zblk (jobMoved s j).tiny (jobMoved s j).rawc
  refine ⟨_, ?_, hends⟩
  show execCourierJobComplete s = _
  unfold execCourierJobComplete
  rw [event_val]
  simp only [begin_val, hn, hj]
  rw [if_neg hgo, if_neg hway, if_neg hrun]
  exact congrArg (fun t : Trail s => Host.Outcome.next t.1) hlog

/-- A job that is cancelled in its queue ends at once. -/
theorem courierJobComplete_queued (hn : s.arg 0 = n) (hj : look s.jobs n = some j) (hst : j.state = 1) (hc : j.cancel = true)
    (hh : s.jobHalted j = false) (hq : Quiet s (s.jobPart j)) (hqc : Quiet s (s.partOfCore j.core)) :
    ∃ t, exec .courierJobComplete s = .next t ∧ JobEnds s t n j (endedJob j 7 false false false) (j.endWord (7, 0)) := by
  have hgo : ¬((s.jobHalted j || j.state == 3 || (j.state == 1 && !j.cancel) || j.kind == 3 && j.state == 2) = true) := by
    rw [hh, hst, hc, Bool.and_comm (j.kind == 3)]
    exact Bool.false_ne_true
  have hway : ¬((j.state == 2 && s.jobCutOff j) = true) := by
    rw [hst]
    exact Bool.false_ne_true
  obtain ⟨hlog, hends⟩ := finishes (n := n) hq hqc (u := begin s) (.refl s) (j.endRec (7, 0)) ⟨.courierJobComplete, s.args⟩ (7, 0) false false false
  refine ⟨_, ?_, hends⟩
  show execCourierJobComplete s = _
  unfold execCourierJobComplete
  rw [event_val]
  simp only [begin_val, hn, hj]
  rw [if_neg hgo, if_neg hway, if_pos hst]
  exact congrArg (fun t : Trail s => Host.Outcome.next t.1) hlog

/-! ### Jobs that are cancelled (R145, R368) -/

theorem running_cancelled (hn : s.args.headD 0 = n) (hj : look s.jobs n = some j) (hst : j.state = 2) (hk : j.kind ≠ 3) (hc : j.cancel = true)
    (hh : s.jobHalted j = false) (hcut : s.jobCutOff j = false) (hq : Quiet s (s.jobPart j)) (hqc : Quiet s (s.partOfCore j.core)) :
    ∃ t q, exec .courierJobComplete s = .next t ∧ look t.jobs n = some q ∧ q.state = 3 ∧ q.code = 7 := by
  have harg : s.arg 0 = n := by
    rw [← hn, State.arg]
    cases s.args <;> rfl
  obtain ⟨t, hex, hends⟩ := courierJobComplete_runs harg hj hst hk hh hcut hq hqc
  refine ⟨t, _, hex, hends.look, rfl, ?_⟩
  show (jobEnd s j).1 = 7
  unfold jobEnd
  rw [if_pos hc]

theorem queued_cancelled (ha : s.args = [n]) (hj : look s.jobs n = some j) (hst : j.state = 1) (hc : j.cancel = true) (hh : s.jobHalted j = false)
    (hq : Quiet s (s.jobPart j)) (hqc : Quiet s (s.partOfCore j.core)) (hwf : s.loc.wf) (hcore : j.core < 512)
    (hin : baseOf s j + j.cw + 8 ≤ 2097152) : ∃ t q, exec .courierJobComplete s = .next t ∧ look t.jobs n = some q ∧ q.state = 3 ∧ q.code = 7 ∧
      t.loc.bytes (locKey j.core (baseOf s j + j.cw)) 8 = leBytes (2 ^ 63 + 7 * 2 ^ 56) 8 ∧ t.mem = s.mem := by
  obtain ⟨t, hex, hends⟩ := courierJobComplete_queued (arg_of ha 0) hj hst hc hh hq hqc
  exact ⟨t, _, hex, hends.look, rfl, rfl, hends.word hwf hcore hin, hends.mem⟩

end

end Sys2Proof.Proofs
end


section
/-!
PROOFS. Copies of the courier: what a copy moves, block by block.
-/

namespace Sys2Proof.Proofs

open Sys2Proof Sys2Proof.Machine Sys2Proof.Claims

/-! ### A job that comes to its end -/

section
variable {s : State} {n : Nat} {j : Job}

/-- How a job that nothing stops ends. -/
def endOf (m : Moved s) : Ended := (m.fails.map (·.2)).getD (0, 0)

/-- A job that nothing stops has moved all its units, and ends. -/
theorem finishing_ends (h : Finishing s n j) (hk : j.kind ≠ 3) {m : Moved s} (hm : (begin s).moveUnits j (upFrom 0 j.unitCount) = m) :
    ∃ t, exec .courierJobComplete s = .next t ∧
      JobEnds m.trail.1 t n j (endedJob j (endOf m).1 m.zblk m.tiny m.rawc) (j.endWord (endOf m)) := by
  obtain ⟨ha, hj, ⟨hst, hc⟩, ⟨hh, hcut, hq, hqc⟩, -⟩ := h
  have hguard : jobGuard s j = none := by rw [jobGuard, ha]; rfl
  have hstop : jobStop s j = j.unitCount := by
    rw [jobStop, hguard, hc]
    exact (min_eq_left (Nat.le_of_eq (min_self j.unitCount).symm)).trans rfl
  have hmoved : jobMoved s j = m := by rw [jobMoved, hstop, hm]
  have hend : jobEnd s j = endOf m := by
    rw [jobEnd, hc, hmoved, hguard]
    rfl
  have hruns := courierJobComplete_runs (arg_of ha 0) hj hst hk hh hcut hq hqc
  rw [hmoved, hend] at hruns
  exact hruns

/-- The completion word stands beside a run of the job. -/
theorem word_beside {r : Run} {len i : Nat} (h : r.virt = true ∨ baseOf s j + j.cw + 8 ≤ r.phys ∨ r.phys + len ≤ baseOf s j + j.cw) (hi : i < len)
    (hv : r.virt = false) : startOf j r 0 + i < locKey j.core (baseOf s j + j.cw) ∨ locKey j.core (baseOf s j + j.cw) + 8 ≤ startOf j r 0 + i := by
  unfold startOf locKey
  rw [hv] at h ⊢
  simp only [Bool.false_eq_true, false_or, if_false] at h ⊢
  omega

theorem JobEnds.byte {t u : State} {q : Job} {w : Nat} (h : JobEnds u t n j q w) {virt : Bool} {k : Nat}
    (hk : virt = false → k < locKey j.core (baseOf u j + j.cw) ∨ locKey j.core (baseOf u j + j.cw) + 8 ≤ k) : byteOf t virt k = byteOf u virt k := by
  unfold byteOf
  cases virt with
  | true => exact congrArg (fun m : Mem => m.get k) h.mem
  | false => exact h.beside (hk rfl)

/-- Bytes of two runs that share none. -/
theorem apart_outside {a b : Run} {la lb i : Nat} (h : Apart a la b lb) (hi : i < la) (hv : a.virt = b.virt) :
    startOf j a 0 + i < startOf j b 0 ∨ startOf j b 0 + lb ≤ startOf j a 0 + i := by
  have hbytes : a.phys + la ≤ b.phys ∨ b.phys + lb ≤ a.phys := h.resolve_left (not_not.mpr hv)
  unfold startOf locKey
  rw [hv]
  split <;> omega

theorem Drifts.blockFail {t : State} (h : Drifts s t) {src dst : Run} {off len : Nat} (hb : s.blockFail j src dst off len = none) :
    t.blockFail j src dst off len = none := by
  unfold State.blockFail at hb ⊢
  rw [h.compAt, h.compAt, h.writeFail]
  split at hb
  · cases hb
  · next hc =>
    rw [if_neg hc]
    rw [Option.or_eq_none_iff] at hb ⊢
    exact ⟨h.readFail hb.1, hb.2⟩

theorem runTouch_byte {t : Trail s} (hq : Quiet t.1 (t.1.jobPart j)) (r : Run) (off len : Nat) (virt : Bool) (k : Nat) :
    byteOf (t.runTouch j r off len).1 virt k = byteOf t.1 virt k := by
  rw [runTouch_counted hq r off len]
  rfl

theorem runTouch_wf {t : Trail s} (hq : Quiet t.1 (t.1.jobPart j)) (r : Run) (off len : Nat) (hw : StoresWf t.1) :
    StoresWf (t.runTouch j r off len).1 := by
  rw [runTouch_counted hq r off len]
  exact hw

/-! ### Copies (R137) -/

theorem copy_units (hk : j.kind = 0) : j.unitCount = (j.len + 255) / 256 := by
  unfold Job.unitCount
  rw [hk]
  rfl

/-- The first bytes of a copy are there, and no byte beside the destination has changed. -/
structure Copied (s : State) (j : Job) (src dst : Run) (k : Nat) (t : State) : Prop where
  drifts : Drifts s t
  wf : StoresWf t
  made : ∀ i, i < k → i < j.len → byteOf t dst.virt (startOf j dst 0 + i) = byteOf s src.virt (startOf j src 0 + i)
  beside : ∀ virt k, (virt = dst.virt → k < startOf j dst 0 ∨ startOf j dst 0 + j.len ≤ k) → byteOf t virt k = byteOf s virt k

theorem copyBlock_copies {src dst : Run} {t : Trail s} {i : Nat} (h : CopyJob s n j src dst) (hi : i < j.unitCount)
    (ht : Copied s j src dst (256 * i) t.1) : ∃ t', Trail.copyBlock j i t = .ok t' ∧ Copied s j src dst (256 * (i + 1)) t'.1 := by
  obtain ⟨-, -, ⟨-, hkind, -⟩, ⟨hreads, hwrites⟩, ⟨-, -, hq, -⟩, hblocks, hapart, -, ⟨-, -, hcore, -⟩, hplace⟩ := h
  obtain ⟨hdrifts, hwf, hmade, hbeside⟩ := ht
  have hsrc : j.src! = src := by rw [Job.src!, hreads]; rfl
  have hdst : j.dst! = dst := by rw [Job.dst!, hwrites]; rfl
  have hunits : j.unitCount = (j.len + 255) / 256 := copy_units hkind
  generalize hlen : min 256 (j.len - 256 * i) = len
  have hpos : 0 < len := by omega
  have hend : 256 * i + len ≤ j.len := by omega
  have hqt := hdrifts.jobQuiet hq
  have hdrifts' := runTouch_drifts hq hdrifts src (256 * i) len
  have hbs : (t.1.runBytes j src (256 * i) len).length = len := runBytes_length _ _ _ _ _
  have hsame (k : Nat) (hk : k < j.len) : byteOf t.1 src.virt (startOf j src 0 + k) = byteOf s src.virt (startOf j src 0 + k) :=
    hbeside _ _ fun hv => apart_outside hapart hk hv
  have hput {v : Bool} {k : Nat} (hk : v = dst.virt → k < startOf j dst (256 * i) ∨ startOf j dst (256 * i) + len ≤ k) :
      byteOf (((t.runTouch j src (256 * i) len).runPut j dst (256 * i) (t.1.runBytes j src (256 * i) len))).1 v k = byteOf t.1 v k := by
    rw [runPut_other (hdrifts'.jobQuiet hq) dst _ _ (by rwa [hbs]), runTouch_byte hqt]
  refine ⟨(t.runTouch j src (256 * i) len).runPut j dst (256 * i) (t.1.runBytes j src (256 * i) len), ?_, drifts_runPut hq hdrifts' dst _ _,
    runPut_wf (hdrifts'.jobQuiet hq) dst _ _ (runTouch_wf hqt _ _ _ hwf), fun k hk hkl => ?_, fun v k hk => ?_⟩
  · unfold Trail.copyBlock
    dsimp only
    rw [hsrc, hdst, hlen, hdrifts.blockFail (hblocks _ _ hpos hend)]
  · by_cases hlow : k < 256 * i
    · rw [hput fun _ => .inl (by rw [startOf_eq j dst (256 * i)]; omega)]
      exact hmade k hlow hkl
    · have hki : k - 256 * i < len := by omega
      have hplaced := runPut_same (hdrifts'.jobQuiet hq) dst (256 * i) (t.1.runBytes j src (256 * i) len) (runTouch_wf hqt src (256 * i) len hwf)
        ⟨hcore, hplace⟩ (by rw [hbs]; exact hend) (by rw [hbs]; exact hki)
      rw [startOf_eq, runBytes_getD _ _ _ hki, startOf_eq j src (256 * i), show startOf j dst 0 + 256 * i + (k - 256 * i) = startOf j dst 0 + k by omega,
        show startOf j src 0 + 256 * i + (k - 256 * i) = startOf j src 0 + k by omega] at hplaced
      rw [hplaced, hsame k hkl]
  · rw [hput fun hv => by rw [startOf_eq]; have := hk hv; omega]
    exact hbeside v k hk

theorem copy_moves {src dst : Run} (h : CopyJob s n j src dst) : ∃ u : Trail s, Copied s j src dst (256 * j.unitCount) u.1 ∧
    (begin s).moveUnits j (upFrom 0 j.unitCount) = ⟨u, none, false, false, false⟩ := by
  have hstart : Copied s j src dst (256 * 0) (begin s).1 := ⟨.refl s, ⟨h.stores.1, h.stores.2.1⟩, fun i hi => by omega, fun _ _ _ => rfl⟩
  obtain ⟨u, hall, hu⟩ := inUnits_all (P := fun i (t : Trail s) => Copied s j src dst (256 * i) t.1) (n := j.unitCount)
    (fun i t _ hi ht => copyBlock_copies h (by omega) ht) hstart
  rw [Nat.zero_add] at hu
  refine ⟨u, hu, ?_⟩
  unfold Trail.moveUnits
  rw [h.runs.2.1]
  dsimp only
  rw [hall]
  rfl

theorem copyJob_completes {src dst : Run} (h : CopyJob s n j src dst) :
    ∃ t q, exec .courierJobComplete s = .next t ∧ look t.jobs n = some q ∧ q.state = 3 ∧ q.code = 0 ∧
      t.runBytes j dst 0 j.len = s.runBytes j src 0 j.len ∧ t.loc.bytes (locKey j.core (baseOf s j + j.cw)) 8 = leBytes j.cval 8 ∧
      (∀ y ∈ (t.core j.core).tags, y.job ≠ n) ∧
      (∀ k, (dst.virt = false ∨ k < dst.phys ∨ dst.phys + j.len ≤ k) → t.mem.get k = s.mem.get k) ∧
      (∀ k, (k < locKey j.core (baseOf s j + j.cw) ∨ locKey j.core (baseOf s j + j.cw) + 8 ≤ k) →
        (dst.virt = true ∨ k < locKey j.core dst.phys ∨ locKey j.core dst.phys + j.len ≤ k) → t.loc.get k = s.loc.get k) := by
  obtain ⟨u, ⟨hdrifts, hwf, hmade, hbeside⟩, hmoved⟩ := copy_moves h
  have hkind := h.runs.2.1
  have hunits : j.unitCount = (j.len + 255) / 256 := copy_units hkind
  have hfin : Finishing s n j := ⟨h.args, h.job, ⟨h.runs.1, h.runs.2.2⟩, h.goes, h.stores⟩
  obtain ⟨t, hex, hends⟩ := finishing_ends hfin (by omega) hmoved
  have hbase := hdrifts.baseOf (j := j)
  have hbyte {v : Bool} {k : Nat} (hk : v = false → k < locKey j.core (baseOf s j + j.cw) ∨ locKey j.core (baseOf s j + j.cw) + 8 ≤ k) :
      byteOf t v k = byteOf u.1 v k := hends.byte (by rwa [hbase])
  refine ⟨t, _, hex, hends.look, rfl, rfl, runBytes_congr fun i hi => ?_, ?_, hends.tags, fun k hk => ?_, fun k hk hd => ?_⟩
  · rw [hbyte fun hv => word_beside h.word hi hv]
    exact hmade i (by omega) hi
  · have hword := hends.word hwf.2 h.stores.2.2.1 (by rw [hbase]; exact h.stores.2.2.2)
    rw [hbase] at hword
    exact hword
  · refine (hbyte (v := true) fun e => nomatch e).trans (hbeside true k fun hv => ?_)
    unfold startOf
    rw [← hv] at hk ⊢
    simpa using hk
  · refine (hbyte (v := false) fun _ => hk).trans (hbeside false k fun hv => ?_)
    unfold startOf
    rw [← hv] at hd ⊢
    simpa using hd

end

end Sys2Proof.Proofs
end


section
/-!
PROOFS. Quantising copies of the courier: where the pieces of a block go, and what each block leaves.
-/

namespace Sys2Proof.Proofs

open Sys2Proof Sys2Proof.Machine Sys2Proof.Claims

/-! ### The bytes of a run, by offset -/

/-- Byte x of a run of a job. -/
def runAt (s : State) (j : Job) (r : Run) (x : Nat) : Byte := byteOf s r.virt (startOf j r 0 + x)

section
variable {s : State} {t : Trail s} {j : Job} {r : Run}

theorem runBytes_eq_of {s t : State} {p len : Nat} (h : ∀ i, i < len → runAt t j r (p + i) = runAt s j r (p + i)) :
    t.runBytes j r p len = s.runBytes j r p len :=
  runBytes_congr fun i hi => by
    rw [startOf_eq, Nat.add_assoc]
    exact h i hi

theorem runBytes_are {s : State} {p : Nat} {bs : List Byte} (h : ∀ i, i < bs.length → runAt s j r (p + i) = bs.getD i 0) :
    s.runBytes j r p bs.length = bs :=
  runBytes_of_bytes fun i hi => by
    rw [startOf_eq, Nat.add_assoc]
    exact h i hi

theorem runAt_touch (hq : Quiet t.1 (t.1.jobPart j)) (a : Run) (off len x : Nat) : runAt (t.runTouch j a off len).1 j r x = runAt t.1 j r x :=
  runTouch_byte hq a off len _ _

theorem runAt_put_same {len x off : Nat} {bs : List Byte} (hq : Quiet t.1 (t.1.jobPart j)) (hw : StoresWf t.1) (hin : Within j r len)
    (hlen : off + bs.length ≤ len) (hx : x < bs.length) : runAt (t.runPut j r off bs).1 j r (off + x) = bs.getD x 0 := by
  unfold runAt
  rw [← Nat.add_assoc, ← startOf_eq]
  exact runPut_same hq r off bs hw hin hlen hx

theorem runAt_put_other {x off : Nat} {bs : List Byte} (hq : Quiet t.1 (t.1.jobPart j)) (hx : x < off ∨ off + bs.length ≤ x) :
    runAt (t.runPut j r off bs).1 j r x = runAt t.1 j r x := by
  refine runPut_other hq r off bs fun _ => ?_
  rw [startOf_eq j r off]
  omega

theorem runAt_put_apart {a : Run} {la lr x off : Nat} {bs : List Byte} (hq : Quiet t.1 (t.1.jobPart j)) (h : Apart a la r lr) (hx : x < la)
    (hlen : off + bs.length ≤ lr) : runAt (t.runPut j r off bs).1 j a x = runAt t.1 j a x := by
  refine runPut_other hq r off bs fun hv => ?_
  have hout := apart_outside (j := j) h hx hv
  rw [startOf_eq j r off]
  omega

end

theorem apart_symm {a b : Run} {la lb : Nat} (h : Apart a la b lb) : Apart b lb a la := by
  rcases h with h | h | h
  · exact .inl (Ne.symm h)
  · exact .inr (.inr h)
  · exact .inr (.inl h)

/-! ### Several pieces of a run -/

section
variable {s : State} {j : Job} {r : Run} {α : Type} {o : α → Nat} {b : α → List Byte} (hq : Quiet s (s.jobPart j))

include hq

theorem runPuts_keeps (l : List α) {t : Trail s} (ht : Drifts s t.1) (hw : StoresWf t.1) :
    Drifts s (forEach t l (fun t a => t.runPut j r (o a) (b a))).1 ∧ StoresWf (forEach t l (fun t a => t.runPut j r (o a) (b a))).1 :=
  forEach_keeps (P := fun u : Trail s => Drifts s u.1 ∧ StoresWf u.1) (fun _ _ hu => ⟨drifts_runPut hq hu.1 _ _ _,
    runPut_wf (hu.1.jobQuiet hq) _ _ _ hu.2⟩) l t ⟨ht, hw⟩

theorem runPuts_other {x : Nat} {l : List α} {t : Trail s} (ht : Drifts s t.1) (h : ∀ a ∈ l, x < o a ∨ o a + (b a).length ≤ x) :
    runAt (forEach t l (fun t a => t.runPut j r (o a) (b a))).1 j r x = runAt t.1 j r x :=
  (forEach_keeps_mem (P := fun u : Trail s => Drifts s u.1 ∧ runAt u.1 j r x = runAt t.1 j r x) (fun _ a ha hu =>
    ⟨drifts_runPut hq hu.1 _ _ _, (runAt_put_other (hu.1.jobQuiet hq) (h a ha)).trans hu.2⟩) t ⟨ht, rfl⟩).2

theorem runPuts_apart {c : Run} {lc lr x : Nat} {l : List α} {t : Trail s} (hap : Apart c lc r lr) (hx : x < lc) (ht : Drifts s t.1)
    (h : ∀ a ∈ l, o a + (b a).length ≤ lr) : runAt (forEach t l (fun t a => t.runPut j r (o a) (b a))).1 j c x = runAt t.1 j c x :=
  (forEach_keeps_mem (P := fun u : Trail s => Drifts s u.1 ∧ runAt u.1 j c x = runAt t.1 j c x) (fun _ a ha hu =>
    ⟨drifts_runPut hq hu.1 _ _ _, (runAt_put_apart (hu.1.jobQuiet hq) hap hx (h a ha)).trans hu.2⟩) t ⟨ht, rfl⟩).2

/-- Pieces that share no byte hold what was written to each. -/
theorem runPuts_same {len i : Nat} {a : α} (hin : Within j r len) (hi : i < (b a).length) {l : List α} {t : Trail s} (ht : Drifts s t.1)
    (hw : StoresWf t.1) (h : ∀ a ∈ l, o a + (b a).length ≤ len) (hd : l.Pairwise (fun p q => o p + (b p).length ≤ o q)) (hmem : a ∈ l) :
    runAt (forEach t l (fun t a => t.runPut j r (o a) (b a))).1 j r (o a + i) = (b a).getD i 0 := by
  induction l generalizing t with
  | nil => cases hmem
  | cons p l ih =>
    have hq' := ht.jobQuiet hq
    have htail : Drifts s (t.runPut j r (o p) (b p)).1 := drifts_runPut hq ht r _ _
    obtain ⟨hp, hd'⟩ := List.pairwise_cons.mp hd
    show runAt (forEach (t.runPut j r (o p) (b p)) l (fun t a => t.runPut j r (o a) (b a))).1 j r (o a + i) = _
    rcases List.mem_cons.mp hmem with rfl | hmem
    · rw [runPuts_other hq htail fun a' ha' => .inl (Nat.lt_of_lt_of_le (Nat.add_lt_add_left hi (o a)) (hp a' ha'))]
      exact runAt_put_same hq' hw hin (h a List.mem_cons_self) hi
    · exact ih htail (runPut_wf hq' r _ _ hw) (fun a' ha' => h a' (List.mem_cons_of_mem _ ha')) hd' hmem

end

/-! ### Where a block's pieces go (R138, R364) -/

section
variable {c : Card} (hrow : c.row ≠ 0 ∧ c.row % 64 = 0 ∧ (c.planar = true → c.row ≤ 512))

/-- The bytes of a piece of a block, and how many a block has. -/
def pieceLen (c : Card) : Nat := if c.planar then 8 else 64
def pieceCount (c : Card) : Nat := if c.planar then 8 else 1

/-- Where piece k of block i begins. -/
def pieceAt (c : Card) (i k : Nat) : Nat :=
  if c.planar then i / (c.row / 64) * 512 + k * 64 + i % (c.row / 64) * 8 else i / (c.row / 64) * c.row + i % (c.row / 64) * 64

/-- The bytes of a quantising card's destination. -/
def tileBytes (c : Card) : Nat := c.rows * if c.planar then 512 else c.row

theorem pieces_eq (c : Card) (i : Nat) : c.pieces i = (upFrom 0 (pieceCount c)).map (pieceAt c i) := by
  unfold Card.pieces pieceCount pieceAt
  dsimp only
  split <;> rfl

include hrow

/-- Two pieces that share a byte are one. -/
theorem piece_unique {i i' k k' x : Nat} (hk : k < pieceCount c) (hk' : k' < pieceCount c) (h1 : pieceAt c i k ≤ x) (h2 : x < pieceAt c i k + pieceLen c)
    (h3 : pieceAt c i' k' ≤ x) (h4 : x < pieceAt c i' k' + pieceLen c) : i = i' ∧ k = k' := by
  obtain ⟨h0, h64, h512⟩ := hrow
  have hnb : 0 < c.row / 64 := by omega
  have hi := Nat.div_add_mod i (c.row / 64)
  have hi' := Nat.div_add_mod i' (c.row / 64)
  have hm := Nat.mod_lt i hnb
  have hm' := Nat.mod_lt i' hnb
  unfold pieceAt at h1 h2 h3 h4
  unfold pieceLen at h2 h4
  unfold pieceCount at hk hk'
  split at hk
  · next hp =>
    have hle : c.row / 64 ≤ 8 := by have := h512 hp; omega
    simp only [hp, if_true] at h1 h2 h3 h4 hk'
    have hq : i / (c.row / 64) = i' / (c.row / 64) := by omega
    have hr : i % (c.row / 64) = i' % (c.row / 64) := by omega
    refine ⟨?_, by omega⟩
    rw [← hi, ← hi', hq, hr]
  · next hp =>
    have hwide (q m : Nat) : q * c.row + m * 64 = 64 * (c.row / 64 * q + m) := by
      obtain ⟨w, hw⟩ := Nat.dvd_of_mod_eq_zero h64
      rw [hw, Nat.mul_div_cancel_left w (by omega)]
      ring
    simp only [if_neg hp, hwide, hi, hi'] at h1 h2 h3 h4 hk'
    omega

/-- A piece lies within the destination. -/
theorem piece_within {i k : Nat} (hk : k < pieceCount c) (hi : i < c.rows * c.row / 64) : pieceAt c i k + pieceLen c ≤ tileBytes c := by
  obtain ⟨h0, h64, h512⟩ := hrow
  have hnb : 0 < c.row / 64 := by omega
  have hdiv := Nat.div_add_mod i (c.row / 64)
  have hm := Nat.mod_lt i hnb
  have hblocks : i / (c.row / 64) < c.rows := by
    rw [Nat.div_lt_iff_lt_mul hnb, ← Nat.mul_div_assoc _ (Nat.dvd_of_mod_eq_zero h64)]
    exact hi
  unfold pieceAt pieceLen tileBytes
  unfold pieceCount at hk
  split at hk
  · next hp =>
    have hle : c.row / 64 ≤ 8 := by have := h512 hp; omega
    simp only [hp, if_true]
    omega
  · next hp =>
    have hmul : (i / (c.row / 64) + 1) * c.row ≤ c.rows * c.row := Nat.mul_le_mul_right _ hblocks
    simp only [if_neg hp]
    rw [Nat.add_one_mul] at hmul
    omega

/-- The bits beyond a row lie within the destination, and in no piece. -/
theorem padding_beside {i off : Nat} (h : off ∈ (c.padding i).1) : (i < c.rows * c.row / 64 → off + (c.padding i).2 ≤ tileBytes c) ∧
    ∀ i' k x, k < pieceCount c → pieceAt c i' k ≤ x → x < pieceAt c i' k + pieceLen c → x < off ∨ off + (c.padding i).2 ≤ x := by
  obtain ⟨h0, h64, h512⟩ := hrow
  have hnb : 0 < c.row / 64 := by omega
  unfold Card.padding at h ⊢
  dsimp only at h ⊢
  split at h
  · next hpad =>
    rw [if_pos hpad]
    simp only [Bool.and_eq_true, decide_eq_true_eq] at hpad
    obtain ⟨⟨hp, hlt⟩, -⟩ := hpad
    obtain ⟨pl, hpl, rfl⟩ := List.mem_map.mp h
    have hpl' := (mem_upFrom _ _ _).mp hpl
    refine ⟨fun hi => ?_, fun i' k x hk h1 h2 => ?_⟩
    · have hblocks : i / (c.row / 64) < c.rows := by
        rw [Nat.div_lt_iff_lt_mul hnb, ← Nat.mul_div_assoc _ (Nat.dvd_of_mod_eq_zero h64)]
        exact hi
      unfold tileBytes
      simp only [hp, if_true]
      omega
    · have hm := Nat.mod_lt i' hnb
      unfold pieceAt at h1 h2
      unfold pieceLen at h2
      unfold pieceCount at hk
      simp only [hp, if_true] at h1 h2 hk
      omega
  · cases h

end

end Sys2Proof.Proofs
end


section
/-!
PROOFS. Quantising copies of the courier: block by block to the end.
-/

namespace Sys2Proof.Proofs

open Sys2Proof Sys2Proof.Machine Sys2Proof.Claims

/-! ### The bytes of a block -/

/-- The bytes of piece k of a block. -/
def pieceOf (c : Card) (ws : List Nat) (k : Nat) : List Byte := if c.planar then planeBytes ws k else ws.map (BitVec.ofNat 8)

theorem pieceBytes_eq (c : Card) (ws : List Nat) : c.pieceBytes ws = (upFrom 0 (pieceCount c)).map (pieceOf c ws) := by
  unfold Card.pieceBytes pieceCount pieceOf
  split <;> rfl

theorem pieceOf_length {c : Card} {ws : List Nat} (h : ws.length = 64) (k : Nat) : (pieceOf c ws k).length = pieceLen c := by
  unfold pieceOf pieceLen
  split
  · exact leBytes_length _ _
  · rw [List.length_map, h]

theorem upFrom_length : ∀ (n a : Nat), (upFrom a n).length = n
  | 0, _ => rfl
  | n + 1, a => by rw [upFrom, List.length_cons, upFrom_length n]

theorem upFrom_getElem : ∀ (n a i : Nat) (h : i < (upFrom a n).length), (upFrom a n)[i] = a + i
  | n + 1, a, 0, _ => rfl
  | n + 1, a, i + 1, h => by
    simp only [upFrom, List.getElem_cons_succ]
    rw [upFrom_getElem n (a + 1) i (by simpa [upFrom] using h)]
    omega

theorem map_upFrom_getD {α : Type} (f : Nat → α) (d : α) {n k : Nat} (h : k < n) : ((upFrom 0 n).map f).getD k d = f k := by
  have hk : k < (upFrom 0 n).length := by rwa [upFrom_length]
  rw [List.getD_eq_getElem _ _ (by rwa [List.length_map]), List.getElem_map, upFrom_getElem, Nat.zero_add]

theorem elements_length (size : Nat) : ∀ (n : Nat) (l : List Byte), (elements size n l).length = n
  | 0, _ => rfl
  | n + 1, l => by rw [elements, List.length_cons, elements_length size n]

/-- The values of block i as they are written, and its scale. -/
def blockOut (s : State) (j : Job) (i : Nat) : List Nat :=
  let b := blockScale j.card.planes (s.tile j j.card i)
  if b.2.1 then List.replicate 64 0 else blockValues j.card.planes b.1 (s.tile j j.card i)

def scaleOut (s : State) (j : Job) (i : Nat) : Nat := (blockScale j.card.planes (s.tile j j.card i)).1

theorem blockOut_eq (s : State) (j : Job) (i : Nat) : blockOut s j i =
    if (blockScale j.card.planes (s.tile j j.card i)).2.1 then List.replicate 64 0
    else blockValues j.card.planes (blockScale j.card.planes (s.tile j j.card i)).1 (s.tile j j.card i) := rfl

theorem blockOut_length (s : State) (j : Job) (i : Nat) : (blockOut s j i).length = 64 := by
  unfold blockOut
  dsimp only
  split
  · exact List.length_replicate
  · rw [blockValues, List.length_map, State.tile, List.length_map, elements_length]

section
variable {s : State} {n : Nat} {j : Job} {dst scales : Run}

/-- The bytes of block i, and of its scale, are in u what they are in t. -/
structure BlockKept (j : Job) (dst scales : Run) (i : Nat) (t u : State) : Prop where
  values : ∀ k x, k < pieceCount j.card → x < pieceLen j.card → runAt u j dst (pieceAt j.card i k + x) = runAt t j dst (pieceAt j.card i k + x)
  scale : ∀ x, x < 4 → runAt u j scales (4 * i + x) = runAt t j scales (4 * i + x)

theorem BlockKept.trans {i : Nat} {t u v : State} (h : BlockKept j dst scales i t u) (k : BlockKept j dst scales i u v) :
    BlockKept j dst scales i t v :=
  ⟨fun p x hp hx => (k.values p x hp hx).trans (h.values p x hp hx), fun x hx => (k.scale x hx).trans (h.scale x hx)⟩

theorem pieces_getD {c : Card} {i k : Nat} (h : k < pieceCount c) : (c.pieces i).getD k 0 = pieceAt c i k := by
  rw [pieces_eq, map_upFrom_getD _ _ h]

theorem pieces_length (c : Card) (i : Nat) : (c.pieces i).length = pieceCount c := by
  rw [pieces_eq, List.length_map, upFrom_length]

theorem blockLeft_of_kept {i : Nat} {t : State} (h : BlockKept j dst scales i s t) : BlockLeft s t j dst scales i := by
  refine ⟨fun k hk => ?_, runBytes_eq_of h.scale⟩
  rw [pieces_length] at hk
  rw [pieces_getD hk]
  exact runBytes_eq_of fun x hx => h.values k x hk hx

/-- A block that is written, byte by byte. -/
structure BlockMade (s : State) (j : Job) (dst scales : Run) (i : Nat) (t : State) : Prop where
  values : ∀ k x, k < pieceCount j.card → x < pieceLen j.card →
    runAt t j dst (pieceAt j.card i k + x) = (pieceOf j.card (blockOut s j i) k).getD x 0
  scale : ∀ x, x < 4 → runAt t j scales (4 * i + x) = (leBytes (scaleOut s j i) 4).getD x 0

theorem BlockMade.kept {i : Nat} {t u : State} (h : BlockMade s j dst scales i t) (k : BlockKept j dst scales i t u) :
    BlockMade s j dst scales i u :=
  ⟨fun p x hp hx => (k.values p x hp hx).trans (h.values p x hp hx), fun x hx => (k.scale x hx).trans (h.scale x hx)⟩

theorem blockWritten_of_made {i : Nat} {t : State} (h : BlockMade s j dst scales i t) : BlockWritten s t j dst scales i := by
  refine ⟨fun k hk => ?_, ?_⟩
  · rw [pieces_length] at hk
    have hbytes : (j.card.pieceBytes (blockOut s j i)).getD k [] = pieceOf j.card (blockOut s j i) k := by
      rw [pieceBytes_eq, map_upFrom_getD _ _ hk]
    unfold blockOut at hbytes
    dsimp only at hbytes
    rw [pieces_getD hk, hbytes]
    refine runBytes_are fun x hx => h.values k x hk ?_
    rwa [← pieceOf_length (blockOut_length s j i) k]
  · have hlen := leBytes_length (scaleOut s j i) 4
    have hread := runBytes_are (s := t) (j := j) (r := scales) (p := 4 * i) (bs := leBytes (scaleOut s j i) 4) fun x hx =>
      h.scale x (by rwa [hlen] at hx)
    rwa [hlen] at hread

/-! ### One block -/

theorem quant_units (hk : j.kind = 1) : j.unitCount = j.card.rows * j.card.row / 64 := by
  unfold Job.unitCount
  rw [hk]
  rfl

theorem quant_dst (h : QuantJob s n j dst scales) : j.dst! = dst := by rw [Job.dst!, h.writes]; rfl

theorem quant_scales (h : QuantJob s n j dst scales) : j.scales = scales := by rw [Job.scales, h.writes]; rfl

theorem quant_apart (h : QuantJob s n j dst scales) : Apart scales (4 * j.unitCount) dst (tileBytes j.card) := apart_symm h.apart

theorem ite_code_none {p : Bool} {c : Nat} {x : Option Nat} : (if p = true then some c else x) = none ↔ p = false ∧ x = none := by
  cases p <;> simp

theorem Drifts.quantFail {t : State} (h : Drifts s t) {c : Card} {i : Nat} (hf : s.quantFail j c i = none) : t.quantFail j c i = none := by
  unfold State.quantFail at hf ⊢
  simp only [h.compAt, h.writeFail]
  rw [ite_code_none, Option.or_eq_none_iff] at hf ⊢
  exact ⟨hf.1, h.readFail hf.2.1, hf.2.2⟩

/-- The bits beyond a row are written beside every block. -/
theorem padRow_kept (h : QuantJob s n j dst scales) {t : Trail s} (ht : Drifts s t.1) {i i' : Nat} (hi : i < j.unitCount) (hi' : i' < j.unitCount) :
    BlockKept j dst scales i' t.1 (t.padRow j j.card i).1 := by
  have hpad {off : Nat} (ho : off ∈ (j.card.padding i).1) := padding_beside h.shape ho
  rw [quant_units h.kind] at hi
  unfold Trail.padRow
  dsimp only
  rw [quant_dst h]
  refine ⟨fun k x hk hx => runPuts_other h.goes.2.2.1 ht fun off ho => ?_,
    fun x hx => runPuts_apart h.goes.2.2.1 (quant_apart h) (by omega) ht fun off ho => ?_⟩
  · rw [List.length_replicate]
    exact (hpad ho).2 i' k _ hk (Nat.le_add_right _ _) (Nat.add_lt_add_left hx _)
  · rw [List.length_replicate]
    exact (hpad ho).1 hi

/-- Two pieces of a block stand in their order. -/
theorem pieceAt_rising {c : Card} {i k k' : Nat} (hk : k < k') (hk' : k' < pieceCount c) : pieceAt c i k + pieceLen c ≤ pieceAt c i k' := by
  unfold pieceCount at hk'
  split at hk'
  · next hp =>
    unfold pieceAt pieceLen
    simp only [hp, if_true]
    omega
  · omega

/-- The writes of a block's pieces. -/
def piecesOf (s : State) (j : Job) (i : Nat) : List (Nat × List Byte) :=
  (upFrom 0 (pieceCount j.card)).map (fun k => (pieceAt j.card i k, pieceOf j.card (blockOut s j i) k))

theorem putBlock_eq (h : QuantJob s n j dst scales) (t : Trail s) (i : Nat) : t.putBlock j j.card i (scaleOut s j i) (blockOut s j i) =
    (forEach t (piecesOf s j i) (fun t p => t.runPut j dst p.1 p.2)).runPut j scales (4 * i) (leBytes (scaleOut s j i) 4) := by
  unfold Trail.putBlock
  rw [quant_dst h, quant_scales h, pieces_eq, pieceBytes_eq, List.zip_map']
  rfl

/-- A block's pieces are written, and no other block's. -/
theorem putBlock_moves (h : QuantJob s n j dst scales) {t : Trail s} (ht : Drifts s t.1) (hw : StoresWf t.1) {i : Nat} (hi : i < j.unitCount) :
    BlockMade s j dst scales i (t.putBlock j j.card i (scaleOut s j i) (blockOut s j i)).1 ∧
      ∀ i', i' < j.unitCount → i' ≠ i → BlockKept j dst scales i' t.1 (t.putBlock j j.card i (scaleOut s j i) (blockOut s j i)).1 := by
  have hq := h.goes.2.2.1
  have hi' := hi
  rw [quant_units h.kind] at hi'
  have hpiece {p : Nat × List Byte} (hp : p ∈ piecesOf s j i) : ∃ k, k < pieceCount j.card ∧ p.1 = pieceAt j.card i k ∧
      p.2 = pieceOf j.card (blockOut s j i) k ∧ p.2.length = pieceLen j.card := by
    obtain ⟨k, hk, rfl⟩ := List.mem_map.mp hp
    exact ⟨k, by have := (mem_upFrom _ _ _).mp hk; omega, rfl, rfl, pieceOf_length (blockOut_length s j i) k⟩
  have hbound (p : Nat × List Byte) (hp : p ∈ piecesOf s j i) : p.1 + p.2.length ≤ tileBytes j.card := by
    obtain ⟨k, hk, hat, -, hlen⟩ := hpiece hp
    rw [hat, hlen]
    exact piece_within h.shape hk hi'
  obtain ⟨hdrifts, hwf⟩ := runPuts_keeps (r := dst) (o := Prod.fst) (b := Prod.snd) hq (piecesOf s j i) ht hw
  rw [putBlock_eq h]
  have hscale := leBytes_length (scaleOut s j i) 4
  have hvalues {x : Nat} (hx : x < tileBytes j.card) : runAt ((forEach t (piecesOf s j i) (fun t p => t.runPut j dst p.1 p.2)).runPut j scales (4 * i)
      (leBytes (scaleOut s j i) 4)).1 j dst x = runAt (forEach t (piecesOf s j i) (fun t p => t.runPut j dst p.1 p.2)).1 j dst x :=
    runAt_put_apart (hdrifts.jobQuiet hq) h.apart hx (by rw [hscale]; omega)
  refine ⟨⟨fun k x hk hx => ?_, fun x hx => ?_⟩, fun i' hi' hne => ⟨fun k x hk hx => ?_, fun x hx => ?_⟩⟩
  · have hmem : (pieceAt j.card i k, pieceOf j.card (blockOut s j i) k) ∈ piecesOf s j i :=
      List.mem_map.mpr ⟨k, (mem_upFrom _ _ _).mpr ⟨Nat.zero_le k, by omega⟩, rfl⟩
    have hin := piece_within h.shape hk hi'
    rw [hvalues (by omega)]
    refine runPuts_same (o := Prod.fst) (b := Prod.snd) (a := (pieceAt j.card i k, pieceOf j.card (blockOut s j i) k)) hq
      ⟨h.stores.2.2.1, h.holds.1.place⟩ (by rw [pieceOf_length (blockOut_length s j i)]; exact hx) ht hw hbound ?_ hmem
    rw [piecesOf, List.pairwise_map]
    refine (upFrom_pairwise (pieceCount j.card) 0).imp_of_mem fun {a b} _ hb hab => ?_
    rw [pieceOf_length (blockOut_length s j i)]
    exact pieceAt_rising hab (by have := (mem_upFrom _ _ _).mp hb; omega)
  · exact runAt_put_same (hdrifts.jobQuiet hq) hwf ⟨h.stores.2.2.1, h.holds.2.place⟩ (by rw [hscale]; omega) (by rw [hscale]; exact hx)
  · have hin := piece_within h.shape hk (by rw [← quant_units h.kind]; exact hi')
    rw [hvalues (by omega)]
    refine runPuts_other hq ht fun p hp => ?_
    obtain ⟨k', hk', hat, -, hlen⟩ := hpiece hp
    rw [hat, hlen]
    by_contra hmeet
    exact hne (piece_unique h.shape hk hk' (Nat.le_add_right _ _) (Nat.add_lt_add_left hx _) (by omega) (by omega)).1
  · rw [runAt_put_other (hdrifts.jobQuiet hq) (by rw [hscale]; omega)]
    exact runPuts_apart hq (quant_apart h) (by omega) ht hbound

/-! ### Block by block (R138, R139) -/

/-- Block i is as the job leaves it. -/
def BlockDone (s : State) (j : Job) (dst scales : Run) (i : Nat) (t : State) : Prop :=
  (FiniteBlock s j i → BlockMade s j dst scales i t) ∧ (¬FiniteBlock s j i → BlockKept j dst scales i s t)

theorem BlockDone.kept {i : Nat} {t u : State} (h : BlockDone s j dst scales i t) (k : BlockKept j dst scales i t u) :
    BlockDone s j dst scales i u := ⟨fun hf => (h.1 hf).kept k, fun hf => (h.2 hf).trans k⟩

/-- The first block below k, if any, that holds a value that is not finite. -/
def FirstBad (s : State) (j : Job) (k : Nat) : Option Nat → Prop
  | none => ∀ i, i < k → FiniteBlock s j i
  | some b => b < k ∧ ¬FiniteBlock s j b ∧ ∀ i, i < b → FiniteBlock s j i

/-- The first k blocks of a quantising job are done. -/
structure Quantising (s : State) (j : Job) (dst scales : Run) (k : Nat) (a : Trail s × Quantised) : Prop where
  drifts : Drifts s a.1.1
  wf : StoresWf a.1.1
  done : ∀ i, i < k → BlockDone s j dst scales i a.1.1
  ahead : ∀ i, k ≤ i → i < j.unitCount → BlockKept j dst scales i s a.1.1
  bad : FirstBad s j k a.2.bad

theorem allNum_iff {vs : List FVal} : vs.all (fun v => match v with | .num _ _ _ => true | _ => false) = true ↔ ∀ v ∈ vs, ∃ a b c, v = .num a b c := by
  rw [List.all_eq_true]
  refine forall₂_congr fun v _ => ?_
  cases v <;> simp

/-- A block that is written, with the bits beyond its row. -/
theorem written_moves (h : QuantJob s n j dst scales) {t : Trail s} (ht : Drifts s t.1) (hw : StoresWf t.1) {i : Nat} (hi : i < j.unitCount) :
    BlockMade s j dst scales i ((t.putBlock j j.card i (scaleOut s j i) (blockOut s j i)).padRow j j.card i).1 ∧
      ∀ i', i' < j.unitCount → i' ≠ i →
        BlockKept j dst scales i' t.1 ((t.putBlock j j.card i (scaleOut s j i) (blockOut s j i)).padRow j j.card i).1 := by
  obtain ⟨hmade, hkept⟩ := putBlock_moves h ht hw hi
  have hdrifts := putBlock_drifts h.goes.2.2.1 (c := j.card) (i := i) (scale := scaleOut s j i) (ws := blockOut s j i) ht
  exact ⟨hmade.kept (padRow_kept h hdrifts hi hi), fun i' hi' hne => (hkept i' hi' hne).trans (padRow_kept h hdrifts hi hi')⟩

theorem padRow_wf (hq : Quiet s (s.jobPart j)) {c : Card} {i : Nat} {t : Trail s} (ht : Drifts s t.1) (hw : StoresWf t.1) :
    StoresWf (t.padRow j c i).1 := (runPuts_keeps hq _ ht hw).2

theorem putBlock_wf (hq : Quiet s (s.jobPart j)) {c : Card} {i scale : Nat} {ws : List Nat} {t : Trail s} (ht : Drifts s t.1) (hw : StoresWf t.1) :
    StoresWf (t.putBlock j c i scale ws).1 := by
  obtain ⟨hdrifts, hwf⟩ := runPuts_keeps (r := j.dst!) (o := Prod.fst) (b := Prod.snd) hq ((c.pieces i).zip (c.pieceBytes ws)) ht hw
  exact runPut_wf (hdrifts.jobQuiet hq) _ _ _ hwf

/-- One block more is done, and the others are as they were. -/
theorem Quantising.step {i : Nat} {t v : Trail s} {q q' : Quantised} (h : Quantising s j dst scales i (t, q)) (hv : Drifts s v.1) (hw : StoresWf v.1)
    (hi : BlockDone s j dst scales i v.1) (hkept : ∀ i', i' < j.unitCount → i' ≠ i → BlockKept j dst scales i' t.1 v.1) (hlt : i < j.unitCount)
    (hbad : FirstBad s j (i + 1) q'.bad) : Quantising s j dst scales (i + 1) (v, q') where
  drifts := hv
  wf := hw
  done i' hi' := by
    rcases Nat.lt_succ_iff_lt_or_eq.mp hi' with hlow | rfl
    · exact (h.done i' hlow).kept (hkept i' (by omega) (by omega))
    · exact hi
  ahead i' hi' hin := (h.ahead i' (by omega) hin).trans (hkept i' hin (by omega))
  bad := hbad

theorem quantBlock_does (h : QuantJob s n j dst scales) {i : Nat} (hi : i < j.unitCount) {a : Trail s × Quantised} (ha : Quantising s j dst scales i a) :
    ∃ a', Trail.quantBlock j j.card (s.tile j j.card) i a = .ok a' ∧ Quantising s j dst scales (i + 1) a' := by
  obtain ⟨t, q⟩ := a
  have hdrifts : Drifts s t.1 := ha.drifts
  have hq := h.goes.2.2.1
  have hqt := hdrifts.jobQuiet hq
  generalize hu : t.runTouch j j.src! (i * 64 * j.card.elem) (64 * j.card.elem) = u
  have hread : Drifts s u.1 := hu ▸ runTouch_drifts hq hdrifts _ _ _
  have hreadwf : StoresWf u.1 := hu ▸ runTouch_wf hqt _ _ _ ha.wf
  have hseen (i' : Nat) : BlockKept j dst scales i' t.1 u.1 := by
    rw [← hu]
    exact ⟨fun _ _ _ _ => runAt_touch hqt _ _ _ _, fun _ _ => runAt_touch hqt _ _ _ _⟩
  have hall := allNum_iff (vs := s.tile j j.card i)
  have hbad : FirstBad s j i q.bad := ha.bad
  by_cases hfin : FiniteBlock s j i
  · obtain ⟨hmade, hkept⟩ := written_moves h hread hreadwf hi
    refine ⟨((u.putBlock j j.card i (scaleOut s j i) (blockOut s j i)).padRow j j.card i, { q with
        zblk := q.zblk || (blockScale j.card.planes (s.tile j j.card i)).2.1
        tiny := q.tiny || (blockScale j.card.planes (s.tile j j.card i)).2.2 }), ?_,
      ha.step (padRow_drifts hq (putBlock_drifts hq hread)) (padRow_wf hq (putBlock_drifts hq hread) (putBlock_wf hq hread hreadwf))
        ⟨fun _ => hmade, fun hnot => absurd hfin hnot⟩ (fun i' hi' hne => (hseen i').trans (hkept i' hi' hne)) hi ?_⟩
    · unfold Trail.quantBlock
      dsimp only
      rw [hdrifts.quantFail (h.sound i hi)]
      dsimp only
      rw [hu]
      refine (if_pos ?_).trans ?_
      · exact hall.mpr hfin
      · rw [blockOut_eq, scaleOut]
    · show FirstBad s j (i + 1) q.bad
      cases hb : q.bad with
      | none =>
        rw [hb] at hbad
        intro i' hi'
        rcases Nat.lt_succ_iff_lt_or_eq.mp hi' with hlow | rfl
        exacts [hbad i' hlow, hfin]
      | some b =>
        rw [hb] at hbad
        exact ⟨Nat.lt_succ_of_lt hbad.1, hbad.2⟩
  · refine ⟨(u.padRow j j.card i, { q with bad := some (q.bad.getD i) }), ?_,
      ha.step (padRow_drifts hq hread) (padRow_wf hq hread hreadwf)
        ⟨fun hyes => absurd hyes hfin, fun _ => ((ha.ahead i (Nat.le_refl i) hi).trans (hseen i)).trans (padRow_kept h hread hi hi)⟩
        (fun i' hi' _ => (hseen i').trans (padRow_kept h hread hi hi')) hi ?_⟩
    · unfold Trail.quantBlock
      dsimp only
      rw [hdrifts.quantFail (h.sound i hi)]
      dsimp only
      rw [hu]
      exact if_neg fun e => hfin (hall.mp e)
    · show FirstBad s j (i + 1) (some (q.bad.getD i))
      cases hb : q.bad with
      | none =>
        rw [hb] at hbad
        exact ⟨Nat.lt_succ_self i, hfin, hbad⟩
      | some b =>
        rw [hb] at hbad
        exact ⟨Nat.lt_succ_of_lt hbad.1, hbad.2⟩

/-! ### The end of a quantising job -/

theorem quant_moves (h : QuantJob s n j dst scales) : ∃ a : Trail s × Quantised, Quantising s j dst scales j.unitCount a ∧
    (begin s).moveUnits j (upFrom 0 j.unitCount) = ⟨a.1, a.2.bad.map (fun i => (i, 5, i)), a.2.zblk, a.2.tiny, false⟩ := by
  have hstart : Quantising s j dst scales 0 (begin s, ⟨none, false, false⟩) :=
    ⟨.refl s, ⟨h.stores.1, h.stores.2.1⟩, fun i hi => absurd hi (Nat.not_lt_zero i), fun i _ _ => ⟨fun _ _ _ _ => rfl, fun _ _ => rfl⟩,
      fun i hi => absurd hi (Nat.not_lt_zero i)⟩
  obtain ⟨a, hall, ha⟩ := inUnits_all (P := Quantising s j dst scales) (n := j.unitCount)
    (fun i a _ hi ha => quantBlock_does h (by omega) ha) hstart
  rw [Nat.zero_add] at ha
  refine ⟨a, ha, ?_⟩
  unfold Trail.moveUnits
  rw [h.kind]
  show (let r := inUnits (Trail.quantBlock j j.card (s.tile j j.card)) (upFrom 0 j.unitCount) (begin s, ⟨none, false, false⟩);
    (⟨r.1.1, r.2.or (r.1.2.bad.map (fun i => (i, 5, i))), r.1.2.zblk, r.1.2.tiny, false⟩ : Moved s)) = _
  rw [hall]
  rfl

/-- A run of a job stands beside its completion word, and its bytes are left when the job ends. -/
theorem JobEnds.kept {t u : State} {q : Job} {w len x : Nat} {r : Run} (h : JobEnds u t n j q w) (hb : baseOf u j = baseOf s j) (hr : Holds s j r len)
    (hx : x < len) : runAt t j r x = runAt u j r x := by
  refine h.byte fun hv => ?_
  rw [hb]
  exact word_beside hr.word hx hv

theorem quantJob_completes (h : QuantJob s n j dst scales) :
    ∃ t q, exec .courierJobComplete s = .next t ∧ look t.jobs n = some q ∧ q.state = 3 ∧
      (∀ i, i < j.unitCount → (FiniteBlock s j i → BlockWritten s t j dst scales i) ∧ (¬FiniteBlock s j i → BlockLeft s t j dst scales i)) ∧
      ((∀ i, i < j.unitCount → FiniteBlock s j i) → q.code = 0 ∧
        t.loc.bytes (locKey j.core (baseOf s j + j.cw)) 8 = leBytes j.cval 8) ∧
      (∀ i, i < j.unitCount → ¬FiniteBlock s j i → (∀ k, k < i → FiniteBlock s j k) → q.code = 5 ∧
        t.loc.bytes (locKey j.core (baseOf s j + j.cw)) 8 = leBytes (2 ^ 63 + 5 * 2 ^ 56 + i % 2 ^ 48) 8) := by
  obtain ⟨⟨u, q⟩, ha, hmoved⟩ := quant_moves h
  obtain ⟨t, hex, hends⟩ := finishing_ends h.toFinishing (by rw [h.kind]; decide) hmoved
  have hbase : baseOf u.1 j = baseOf s j := ha.drifts.baseOf
  have hword := hends.word ha.wf.2 h.stores.2.2.1 (by rw [hbase]; exact h.stores.2.2.2)
  rw [hbase] at hword
  have hbad : FirstBad s j j.unitCount q.bad := ha.bad
  refine ⟨t, _, hex, hends.look, rfl, fun i hi => ?_, fun hall => ?_, fun i hi hnot hlow => ?_⟩
  · have hkept : BlockKept j dst scales i u.1 t := by
      refine ⟨fun k x hk hx => hends.kept hbase h.holds.1 ?_, fun x hx => hends.kept hbase h.holds.2 (by omega)⟩
      have := piece_within h.shape hk (by rw [← quant_units h.kind]; exact hi)
      unfold tileBytes at this
      omega
    exact ⟨fun hfin => blockWritten_of_made (((ha.done i hi).kept hkept).1 hfin), fun hnot => blockLeft_of_kept (((ha.done i hi).kept hkept).2 hnot)⟩
  · have hnone : q.bad = none := by
      cases hb : q.bad with
      | none => rfl
      | some b =>
        rw [hb] at hbad
        exact absurd (hall b hbad.1) hbad.2.1
    simp only [hnone] at hword ⊢
    exact ⟨rfl, hword⟩
  · have hsome : q.bad = some i := by
      cases hb : q.bad with
      | none =>
        rw [hb] at hbad
        exact absurd (hbad i hi) hnot
      | some b =>
        rw [hb] at hbad
        obtain ⟨-, hb1, hb2⟩ := hbad
        rcases lt_trichotomy b i with hlt | rfl | hlt
        · exact absurd (hlow b hlt) hb1
        · rfl
        · exact absurd (hb2 i hlt) hnot
    simp only [hsome] at hword ⊢
    exact ⟨rfl, hword⟩

end

end Sys2Proof.Proofs
end


section
/-!
PROOFS. Compressing jobs of the courier: the LZ4 block format, the chunks of a buffer, and its header and directory.
-/

namespace Sys2Proof.Proofs

open Sys2Proof Sys2Proof.Machine Sys2Proof.Claims

/-! ### The LZ4 block format (R140) -/

theorem lz4Ext_extend : ∀ {fuel m : Nat} (rest : List Byte), m < fuel → lz4Ext (lz4Extend fuel m ++ rest) = some (m, rest)
  | fuel + 1, m, rest, h => by
    unfold lz4Extend
    split
    · next hm =>
      have hne : ¬BitVec.ofNat 8 m = 255 := fun e => by
        have hnum := congrArg BitVec.toNat e
        have h255 : (255 : Byte).toNat = 255 := rfl
        rw [BitVec.toNat_ofNat, h255] at hnum
        omega
      rw [List.singleton_append, lz4Ext, if_neg hne, BitVec.toNat_ofNat, Nat.mod_eq_of_lt (by omega)]
    · next hm =>
      rw [List.cons_append, lz4Ext, if_pos rfl, lz4Ext_extend rest (by omega), Option.map_some, Nat.sub_add_cancel (by omega)]

theorem lz4Decode_literal (data : List Byte) : lz4Decode (lz4Literal data) = some data := by
  unfold lz4Decode lz4Literal
  dsimp only
  split
  · next h =>
    have htok : (BitVec.ofNat 8 (data.length * 16)).toNat / 16 = data.length := by
      rw [BitVec.toNat_ofNat, Nat.mod_eq_of_lt (by omega)]
      omega
    have hlen : lz4Len data.length data = some (data.length, data) := if_neg (by omega)
    unfold lz4Go
    simp only [htok, hlen, Nat.lt_irrefl, if_false, List.drop_length, List.take_length, List.nil_append]
  · next h =>
    have hlen : lz4Len 15 (lz4Extend data.length (data.length - 15) ++ data) = some (data.length, data) := by
      unfold lz4Len
      rw [if_pos rfl, lz4Ext_extend data (by omega), Option.map_some, Nat.sub_add_cancel (by omega)]
    unfold lz4Go
    simp only [List.cons_append, show (0xF0 : Byte).toNat / 16 = 15 from rfl, hlen, Nat.lt_irrefl, if_false, List.drop_length, List.take_length,
      List.nil_append]

theorem lz4Decode_encode (data : List Byte) : lz4Decode (lz4Encode data) = some data := by
  unfold lz4Encode
  dsimp only
  split
  · assumption
  · exact lz4Decode_literal data

theorem lz4Encode_nonempty (data : List Byte) : 0 < (lz4Encode data).length := by
  rw [List.length_pos_iff]
  intro h
  have hdecode := lz4Decode_encode data
  rw [h] at hdecode
  cases hdecode

/-! ### A chunk (R140) -/

section
variable {s : State} {n : Nat} {j : Job} {src dst : Run}

/-- How many chunks a job makes, and where the first one stands. -/
def chunkCount (j : Job) : Nat := (j.len + 8191) / 8192
def chunkStart (j : Job) : Nat := roundUp (64 + 8 * chunkCount j) 64

/-- The bytes of chunk i of the source. -/
def chunkData (s : State) (j : Job) (src : Run) (i : Nat) : List Byte := s.runBytes j src (8192 * i) (min 8192 (j.len - 8192 * i))

/-- A directory entry. -/
def chunkWord (off len : Nat) (raw : Bool) : Nat := off % 2 ^ 32 + len * 2 ^ 32 + bitAt raw 63

/-- A chunk as it stands in the buffer, from an offset. -/
structure ChunkAt (s t : State) (j : Job) (src dst : Run) (i off : Nat) (out : List Byte) (raw : Bool) : Prop where
  place : off % 64 = 0 ∧ chunkStart j ≤ off
  size : 0 < out.length ∧ out.length ≤ 8192
  coded : if raw then out = chunkData s j src i else lz4Decode out = some (chunkData s j src i)
  bytes : ∀ x, x < out.length → runAt t j dst (off + x) = out.getD x 0

/-- The first k chunks are written below p.next, each with its entry. -/
structure Packing (s : State) (j : Job) (src dst : Run) (k : Nat) (a : Trail s × Packed) : Prop where
  drifts : Drifts s a.1.1
  wf : StoresWf a.1.1
  source : ∀ x, x < j.len → runAt a.1.1 j src x = runAt s j src x
  next : a.2.next % 64 = 0 ∧ chunkStart j ≤ a.2.next ∧ a.2.next ≤ chunkStart j + 8192 * k
  length : a.2.dir.length = k
  chunks : ∀ i, i < k → ∃ off out raw, a.2.dir.getD i 0 = chunkWord off out.length raw ∧ off + out.length ≤ a.2.next ∧
    ChunkAt s a.1.1 j src dst i off out raw

theorem codedRange_eq (j : Job) : codedRange j.len = chunkStart j + 8192 * chunkCount j := rfl

theorem pack_units (h : PackJob s n j src dst) : j.unitCount = chunkCount j := by
  unfold Job.unitCount
  rw [h.kind]
  rfl

theorem pack_src (h : PackJob s n j src dst) : j.src! = src := by rw [Job.src!, h.ranges.1]; rfl

theorem pack_dst (h : PackJob s n j src dst) : j.dst! = dst := by rw [Job.dst!, h.ranges.2]; rfl

theorem roundUp_spec (a : Nat) : roundUp a 64 % 64 = 0 ∧ a ≤ roundUp a 64 ∧ roundUp a 64 < a + 64 := by
  unfold roundUp
  omega

theorem chunkFail_none (h : PackJob s n j src dst) {t : State} (ht : Drifts s t) (i : Nat) :
    t.chunkFail j i (min 8192 (j.len - 8192 * i)) = none := by
  unfold State.chunkFail
  rw [List.head?_eq_none_iff, List.filterMap_eq_nil_iff]
  intro b hb
  have hb' := (mem_upFrom _ _ _).mp hb
  obtain ⟨hcomp, hread⟩ := h.reads (8192 * i + 256 * b) (min 256 (j.len - (8192 * i + 256 * b))) (by omega) (by omega)
  simp only [pack_src h, ht.compAt, hcomp, ht.readFail hread, Bool.false_eq_true, if_false, Option.map_none]

theorem codedFail_none (h : PackJob s n j src dst) {t : State} (ht : Drifts s t) {off len : Nat} (hpos : 0 < len) (hin : off + len ≤ codedRange j.len) :
    t.codedFail j off len = none := by
  obtain ⟨hcomp, hwrite⟩ := h.coded off len hpos hin
  unfold State.codedFail
  simp only [pack_dst h, ht.compAll, ht.writeFail, hcomp, hwrite, Bool.not_true, Bool.false_eq_true, if_false]

/-- What chunk i becomes: its encoding, or its bytes where the encoding is the longer. -/
def chunkOut (s : State) (j : Job) (src : Run) (i : Nat) : List Byte :=
  if 8192 < (lz4Encode (chunkData s j src i)).length then chunkData s j src i else lz4Encode (chunkData s j src i)

theorem chunkData_length (s : State) (j : Job) (src : Run) (i : Nat) : (chunkData s j src i).length = min 8192 (j.len - 8192 * i) :=
  runBytes_length _ _ _ _ _

theorem chunkOut_length {i : Nat} (hi : i < chunkCount j) : 0 < (chunkOut s j src i).length ∧ (chunkOut s j src i).length ≤ 8192 := by
  have hdata := chunkData_length s j src i
  have hpos := lz4Encode_nonempty (chunkData s j src i)
  unfold chunkCount at hi
  unfold chunkOut
  split <;> omega

theorem chunkOut_coded (i : Nat) : if decide (8192 < (lz4Encode (chunkData s j src i)).length) then chunkOut s j src i = chunkData s j src i
    else lz4Decode (chunkOut s j src i) = some (chunkData s j src i) := by
  unfold chunkOut
  split
  · next h => rw [if_pos (of_decide_eq_true h)]
  · next h =>
    rw [if_neg (fun e => h (decide_eq_true e))]
    exact lz4Decode_encode _

theorem packChunk_does (h : PackJob s n j src dst) {i : Nat} (hi : i < chunkCount j) {a : Trail s × Packed} (ha : Packing s j src dst i a) :
    ∃ a', Trail.packChunk j i a = .ok a' ∧ Packing s j src dst (i + 1) a' := by
  obtain ⟨t, p⟩ := a
  obtain ⟨hdrifts, hwf, hsource, ⟨hnext, hlow, hhigh⟩, hlength, hchunks⟩ := ha
  dsimp only at hdrifts hwf hsource hnext hlow hhigh hlength hchunks
  have hq := h.goes.2.2.1
  have hqt := hdrifts.jobQuiet hq
  have hdata : t.1.runBytes j src (8192 * i) (min 8192 (j.len - 8192 * i)) = chunkData s j src i := runBytes_eq_of fun x hx => hsource _ (by omega)
  obtain ⟨hpos, hmax⟩ := chunkOut_length (s := s) (src := src) hi
  have hcoded := chunkOut_coded (s := s) (j := j) (src := src) i
  generalize hraw : decide (8192 < (lz4Encode (chunkData s j src i)).length) = raw at hcoded
  generalize hout : chunkOut s j src i = out at hpos hmax hcoded
  have hfits : p.next + out.length ≤ codedRange j.len := by rw [codedRange_eq]; omega
  generalize hu : t.runTouch j src (8192 * i) (min 8192 (j.len - 8192 * i)) = u
  have hread : Drifts s u.1 := hu ▸ runTouch_drifts hq hdrifts _ _ _
  have hreadwf : StoresWf u.1 := hu ▸ runTouch_wf hqt _ _ _ hwf
  have hseen (r : Run) (x : Nat) : runAt u.1 j r x = runAt t.1 j r x := by rw [← hu, runAt_touch hqt]
  have hround := roundUp_spec (p.next + out.length)
  refine ⟨(u.runPut j dst p.next out, { dir := p.dir ++ [chunkWord p.next out.length raw], next := roundUp (p.next + out.length) 64, rawc := p.rawc || raw }),
    ?_, drifts_runPut hq hread _ _ _, runPut_wf (hread.jobQuiet hq) _ _ _ hreadwf, fun x hx => ?_,
    ⟨hround.1, by dsimp only; omega, by dsimp only; omega⟩, ?_, fun i' hi' => ?_⟩
  · unfold Trail.packChunk
    dsimp only
    rw [chunkFail_none h hdrifts, pack_src h, pack_dst h, hdata, hu]
    dsimp only
    rw [hraw]
    have hif : (if raw = true then chunkData s j src i else lz4Encode (chunkData s j src i)) = out := by
      rw [← hout, chunkOut, ← hraw]
      simp only [decide_eq_true_eq]
    rw [hif, codedFail_none h hdrifts hpos hfits]
    rfl
  · rw [runAt_put_apart (hread.jobQuiet hq) h.apart hx hfits, hseen]
    exact hsource x hx
  · rw [List.length_append, hlength]
    rfl
  · rcases Nat.lt_succ_iff_lt_or_eq.mp hi' with hold | rfl
    · obtain ⟨off, out', raw', hentry, hend, hat⟩ := hchunks i' hold
      refine ⟨off, out', raw', ?_, by dsimp only; omega, hat.place, hat.size, hat.coded, fun x hx => ?_⟩
      · dsimp only
        rw [List.getD_append _ _ _ _ (by omega), hentry]
      · rw [runAt_put_other (hread.jobQuiet hq) (by omega), hseen]
        exact hat.bytes x hx
    · refine ⟨p.next, out, raw, ?_, hround.2.1, ⟨hnext, hlow⟩, ⟨hpos, hmax⟩, hcoded, fun x hx => ?_⟩
      · dsimp only
        rw [List.getD_append_right _ _ _ _ (by omega), hlength, Nat.sub_self]
        rfl
      · exact runAt_put_same (hread.jobQuiet hq) hreadwf ⟨h.stores.2.2.1, h.holds.place⟩ hfits hx

/-! ### The header and the directory (R140) -/

theorem packWords_getD : ∀ {l : List Nat} {i x : Nat}, i < l.length → x < 8 → (packWords 8 l).getD (8 * i + x) 0 = (leBytes (l.getD i 0) 8).getD x 0
  | v :: r, 0, x, _, hx => by
    rw [packWords, List.flatMap_cons, List.getD_append _ _ _ _ (by rw [leBytes_length]; omega)]
    rw [Nat.mul_zero, Nat.zero_add]
    rfl
  | v :: r, i + 1, x, hi, hx => by
    have ih := packWords_getD (l := r) (i := i) (Nat.lt_of_succ_lt_succ hi) hx
    rw [packWords, List.flatMap_cons, List.getD_append_right _ _ _ _ (by rw [leBytes_length]; omega), leBytes_length,
      show 8 * (i + 1) + x - 8 = 8 * i + x by omega]
    exact ih

/-- The header of a buffer. -/
def bufferHead (len n : Nat) : List Byte := leBytes len 8 ++ leBytes n 4 ++ List.replicate 52 0

theorem bufferHead_length (len n : Nat) : (bufferHead len n).length = 64 := by
  simp only [bufferHead, List.length_append, leBytes_length, List.length_replicate]

theorem head_eq (p : Packed) (len n : Nat) : p.head len n = bufferHead len n ++ packWords 8 p.dir := rfl

theorem head_length (p : Packed) (len n : Nat) : (p.head len n).length = 64 + 8 * p.dir.length := by
  rw [head_eq, List.length_append, bufferHead_length, packWords_length]

/-- A buffer with its chunks, its directory and its header. -/
structure PackedBuffer (s : State) (j : Job) (src dst : Run) (u : State) : Prop where
  drifts : Drifts s u
  wf : StoresWf u
  head : ∀ x, x < 64 → runAt u j dst x = (bufferHead j.len (chunkCount j)).getD x 0
  chunks : ∀ i, i < chunkCount j → ∃ off out raw, off + out.length ≤ codedRange j.len ∧ ChunkAt s u j src dst i off out raw ∧
    ∀ x, x < 8 → runAt u j dst (64 + 8 * i + x) = (leBytes (chunkWord off out.length raw) 8).getD x 0

theorem pack_moves (h : PackJob s n j src dst) : ∃ (u : Trail s) (ra : Bool), PackedBuffer s j src dst u.1 ∧
    (begin s).moveUnits j (upFrom 0 j.unitCount) = ⟨u, none, false, false, ra⟩ := by
  have hq := h.goes.2.2.1
  have hcount : 0 < chunkCount j := by have := h.size.1; unfold chunkCount; omega
  have hstart := roundUp_spec (64 + 8 * chunkCount j)
  have hfirst : Packing s j src dst 0 (begin s, { dir := [], next := chunkStart j, rawc := false }) :=
    ⟨.refl s, ⟨h.stores.1, h.stores.2.1⟩, fun _ _ => rfl, ⟨hstart.1, Nat.le_refl _, Nat.le_refl _⟩, rfl, fun i hi => absurd hi (Nat.not_lt_zero i)⟩
  obtain ⟨⟨t, p⟩, hall, ha⟩ := inUnits_all (P := Packing s j src dst) (n := chunkCount j) (fun i a _ hi ha => packChunk_does h (by omega) ha) hfirst
  rw [Nat.zero_add] at ha
  obtain ⟨hdrifts, hwf, -, ⟨-, -, hhigh⟩, hlength, hchunks⟩ := ha
  dsimp only at hdrifts hwf hhigh hlength hchunks
  have hqt := hdrifts.jobQuiet hq
  have hhead : (p.head j.len (chunkCount j)).length = 64 + 8 * chunkCount j := by rw [head_length, hlength]
  have hroom : 64 + 8 * chunkCount j ≤ chunkStart j := hstart.2.1
  have hin : 0 + (p.head j.len (chunkCount j)).length ≤ codedRange j.len := by rw [hhead, codedRange_eq]; omega
  have hput {x : Nat} (hx : x < 64 + 8 * chunkCount j) : runAt (t.runPut j dst 0 (p.head j.len (chunkCount j))).1 j dst x =
      (p.head j.len (chunkCount j)).getD x 0 := by
    have hsame := runAt_put_same hqt hwf ⟨h.stores.2.2.1, h.holds.place⟩ hin (x := x) (by omega)
    rwa [Nat.zero_add] at hsame
  refine ⟨t.runPut j dst 0 (p.head j.len (chunkCount j)), p.rawc, ⟨drifts_runPut hq hdrifts _ _ _, runPut_wf hqt _ _ _ hwf, fun x hx => ?_,
    fun i hi => ?_⟩, ?_⟩
  · rw [hput (by omega), head_eq, List.getD_append _ _ _ _ (by rw [bufferHead_length]; exact hx)]
  · obtain ⟨off, out, raw, hentry, hend, hat⟩ := hchunks i hi
    refine ⟨off, out, raw, by rw [codedRange_eq]; omega, ⟨hat.place, hat.size, hat.coded, fun x hx => ?_⟩, fun x hx => ?_⟩
    · rw [runAt_put_other hqt (by have := hat.place.2; omega)]
      exact hat.bytes x hx
    · rw [hput (by omega), head_eq, List.getD_append_right _ _ _ _ (by rw [bufferHead_length]; omega), bufferHead_length,
        show 64 + 8 * i + x - 64 = 8 * i + x by omega, packWords_getD (by omega) hx, hentry]
  · unfold Trail.moveUnits
    rw [h.kind]
    show (let r := (begin s).pack j (upFrom 0 j.unitCount); (⟨r.1.1, r.2, false, false, r.1.2.rawc⟩ : Moved s)) = _
    have hpack : (begin s).pack j (upFrom 0 j.unitCount) = ((t.runPut j dst 0 (p.head j.len (chunkCount j)), p), none) := by
      have hopen : (begin s).1.codedFail j 0 (64 + 8 * ((j.len + 8191) / 8192)) = none :=
        codedFail_none h (.refl s) (by omega) (by rw [Nat.zero_add, codedRange_eq]; exact Nat.le_trans hroom (Nat.le_add_right _ _))
      have hall' : inUnits (Trail.packChunk j) (upFrom 0 j.unitCount)
          (begin s, { dir := [], next := roundUp (64 + 8 * ((j.len + 8191) / 8192)) 64, rawc := false }) = ((t, p), none) := by
        rw [pack_units h]
        exact hall
      have hdone : (((t, p), (none : Option (Nat × Ended))).2.isNone && decide (p.dir.length = (j.len + 8191) / 8192)) = true :=
        decide_eq_true hlength
      unfold Trail.pack
      dsimp only
      rw [hopen]
      dsimp only
      rw [hall', if_pos hdone, pack_dst h]
      rfl
    rw [hpack]

/-! ### The end of a compressing job -/

/-- A directory entry gives its chunk's place, its length, and whether it went raw (R140). -/
theorem chunkWord_fields {off len : Nat} (raw : Bool) (hoff : off < 2 ^ 32) (hlen : len ≤ 8192) : chunkWord off len raw % 2 ^ 32 = off ∧
    bits (chunkWord off len raw) 45 32 = len ∧ bits (chunkWord off len raw) 62 46 = 0 ∧ bit (chunkWord off len raw) 63 = raw ∧
    chunkWord off len raw % 256 ^ 8 = chunkWord off len raw := by
  have hbit (v : Nat) : bit v 63 = decide (v / 2 ^ 63 % 2 = 1) := rfl
  rw [hbit]
  unfold chunkWord bits
  cases raw
  · simp only [bitAt, Bool.false_eq_true, if_false, decide_eq_false_iff_not]
    omega
  · simp only [bitAt, if_true, decide_eq_true_eq]
    omega

theorem chunkCoded_of {t : State} {i off : Nat} {out : List Byte} {raw : Bool} (h : ChunkAt s t j src dst i off out raw) (hoff : off < 2 ^ 32)
    (hentry : ∀ x, x < 8 → runAt t j dst (64 + 8 * i + x) = (leBytes (chunkWord off out.length raw) 8).getD x 0) :
    ChunkCoded s t j src dst i := by
  obtain ⟨hplace, hlen, hhigh, hraw, hsmall⟩ := chunkWord_fields raw hoff h.size.2
  have hword : leNat (t.runBytes j dst (64 + 8 * i) 8) = chunkWord off out.length raw := by
    have hread := runBytes_are (s := t) (j := j) (r := dst) (p := 64 + 8 * i) (bs := leBytes (chunkWord off out.length raw) 8) fun x hx =>
      hentry x (by rwa [leBytes_length] at hx)
    rw [leBytes_length] at hread
    rw [hread, leNat_leBytes, hsmall]
  unfold ChunkCoded
  dsimp only
  rw [hword, hplace, hlen, hhigh, hraw, runBytes_are h.bytes]
  refine ⟨h.place.1, rfl, ?_⟩
  have hcoded := h.coded
  split at hcoded
  · next hr => rw [if_pos hr]; exact hcoded
  · next hr => rw [if_neg hr]; exact ⟨hcoded, h.size.2⟩

theorem packJob_completes (h : PackJob s n j src dst) : ∃ t q, exec .courierJobComplete s = .next t ∧ look t.jobs n = some q ∧ q.state = 3 ∧
    q.code = 0 ∧ t.runBytes j dst 0 64 = leBytes j.len 8 ++ leBytes (chunkCount j) 4 ++ List.replicate 52 0 ∧
    (∀ i, i < chunkCount j → ChunkCoded s t j src dst i) ∧ t.loc.bytes (locKey j.core (baseOf s j + j.cw)) 8 = leBytes j.cval 8 := by
  obtain ⟨u, ra, hbuf, hmoved⟩ := pack_moves h
  obtain ⟨t, hex, hends⟩ := finishing_ends h.toFinishing (by rw [h.kind]; decide) hmoved
  have hbase : baseOf u.1 j = baseOf s j := hbuf.drifts.baseOf
  have hword := hends.word hbuf.wf.2 h.stores.2.2.1 (by rw [hbase]; exact h.stores.2.2.2)
  rw [hbase] at hword
  have hroom : 64 + 8 * chunkCount j ≤ codedRange j.len := (roundUp_spec _).2.1.trans (Nat.le_add_right _ _)
  have hkept {x : Nat} (hx : x < codedRange j.len) : runAt t j dst x = runAt u.1 j dst x := hends.kept hbase h.holds hx
  refine ⟨t, _, hex, hends.look, rfl, rfl, ?_, fun i hi => ?_, hword⟩
  · have hread := runBytes_are (s := t) (j := j) (r := dst) (p := 0) (bs := bufferHead j.len (chunkCount j)) fun x hx => by
      rw [bufferHead_length] at hx
      rw [Nat.zero_add, hkept (by omega)]
      exact hbuf.head x hx
    rwa [bufferHead_length] at hread
  · obtain ⟨off, out, raw, hend, hat, hentry⟩ := hbuf.chunks i hi
    have hsize := h.size.2
    have hpos := hat.size.1
    refine chunkCoded_of ⟨hat.place, hat.size, hat.coded, fun x hx => ?_⟩ (by omega) fun x hx => ?_
    · rw [hkept (by omega)]
      exact hat.bytes x hx
    · rw [hkept (by omega)]
      exact hentry x hx

end

end Sys2Proof.Proofs
end


section
/-!
PROOFS. Courier jobs that take a channel, and the status and cancelling of jobs.
-/

namespace Sys2Proof.Proofs

open Sys2Proof Sys2Proof.Machine Sys2Proof.Claims

/-! ### Channels (R133) -/

section
variable {s : State} {cl n : Nat} {j : Job}

/-- The first queued job of a cluster that may take a channel. -/
def nextJob (s : State) (cl : Nat) : Option (Nat × Job) := s.jobs.find? (fun j => decide (clusterOf j.2.core = cl) && s.eligible j.1 j.2)

theorem fillChannels_succ (cl fuel : Nat) (t : Trail s) : Trail.fillChannels cl (fuel + 1) t =
    if 4 ≤ t.1.running cl then t else (nextJob t.1 cl).elim t (fun p => Trail.fillChannels cl fuel (t.startJob p.1 p.2)) := by
  rw [Trail.fillChannels, nextJob]
  split
  · rfl
  · cases t.1.jobs.find? (fun j => decide (clusterOf j.2.core = cl) && t.1.eligible j.1 j.2) <;> rfl

theorem courierJobStart_eq (h : s.args = [cl]) : exec .courierJobStart s = .next (Trail.fillChannels cl 4 (begin s)).1 := by
  show execCourierJobStart s = _
  unfold execCourierJobStart
  rw [event_val, arg_of h]
  rfl

theorem courierJobStart_idle (h : s.args = [cl]) (hi : 4 ≤ s.running cl ∨ nextJob s cl = none) : exec .courierJobStart s = .next s := by
  rw [courierJobStart_eq h, fillChannels_succ, begin_val]
  rcases hi with hfull | hnone
  · rw [if_pos hfull]
    rfl
  · rw [hnone]
    split <;> rfl

/-- A core whose port has given a job away. -/
def leavesPort (n : Nat) (k : Core) : Core := { k with portQ := k.portQ.filter (fun q => decide (q ≠ n)) }

/-- A job that takes a channel: what it leaves but for steps that become due. -/
theorem startJob_val (t : Trail s) (n : Nat) (j : Job) : ∃ vc, AddsDue (onCore { t.1 with jobs := put t.1.jobs n { j with state := 2, vc := vc } } j.core
    (leavesPort n)) (t.startJob n j).1 ∧ ⟨jobStep j, [n]⟩ ∈ (t.startJob n j).1.pending := by
  unfold Trail.startJob
  dsimp only
  generalize t.1.jobs.foldl (fun (v : Clock) o =>
    if o.1 < n ∧ o.2.task = j.task ∧ o.2.state = 3 ∧ o.2.overlapsWith j then v.join o.2.vc else v) j.vc = vc
  refine ⟨vc, ?_, List.mem_append_right _ (List.mem_singleton_self _)⟩
  exact (pokePort_adds ((t.act (.job n (some { j with state := 2, vc := vc }))).modCore j.core (leavesPort n)) j.core).trans (pend_adds _ _ _)

/-- Job n runs, its step is due, and it has left its port; no thread and no byte has changed. -/
structure Channelled (s : State) (n : Nat) (j : Job) (t : State) : Prop where
  job : ∃ q, look t.jobs n = some q ∧ q.state = 2
  due : ⟨jobStep j, [n]⟩ ∈ t.pending
  port : n ∉ (t.core j.core).portQ
  threads : ∀ c sl, t.thread? c sl = s.thread? c sl
  bytes : t.mem = s.mem ∧ t.loc = s.loc

theorem startJob_starts (t : Trail s) (n : Nat) (j : Job) : Channelled t.1 n j (t.startJob n j).1 := by
  obtain ⟨vc, ⟨p, hval, -⟩, hdue⟩ := startJob_val t n j
  refine ⟨⟨{ j with state := 2, vc := vc }, ?_, rfl⟩, hdue, ?_, fun c sl => ?_, ?_⟩
  · rw [hval]
    exact look_put_same _ _ _
  · rw [hval]
    show n ∉ ((onCore _ j.core (leavesPort n)).core j.core).portQ
    rw [onCore_core]
    simp [leavesPort]
  · rw [hval]
    exact onCore_thread (f := leavesPort n) rfl c sl
  · rw [hval]
    exact ⟨rfl, rfl⟩

theorem startJob_keeps {t : Trail s} (h : Channelled s n j t.1) (n' : Nat) (j' : Job) : Channelled s n j (t.startJob n' j').1 := by
  obtain ⟨vc, ⟨p, hval, hp⟩, -⟩ := startJob_val t n' j'
  obtain ⟨⟨q, hq, hst⟩, hdue, hport, hthreads, hbytes⟩ := h
  refine ⟨?_, ?_, ?_, fun c sl => ?_, ?_⟩
  · rw [hval]
    by_cases e : n = n'
    · exact ⟨{ j' with state := 2, vc := vc }, by rw [e]; exact look_put_same _ _ _, rfl⟩
    · exact ⟨q, (look_put_other _ _ _ _ e).trans hq, hst⟩
  · rw [hval]
    exact hp _ hdue
  · rw [hval]
    show n ∉ ((onCore _ j'.core (leavesPort n')).core j.core).portQ
    by_cases e : j.core = j'.core
    · rw [e, onCore_core]
      rw [e] at hport
      exact fun hmem => hport (List.mem_of_mem_filter hmem)
    · rw [onCore_core_other _ _ e]
      exact hport
  · rw [hval]
    exact (onCore_thread (f := leavesPort n') rfl c sl).trans (hthreads c sl)
  · rw [hval]
    exact hbytes

theorem fillChannels_keeps : ∀ {fuel : Nat} {t : Trail s}, Channelled s n j t.1 → Channelled s n j (Trail.fillChannels cl fuel t).1
  | 0, _, h => h
  | fuel + 1, t, h => by
    rw [fillChannels_succ]
    split
    · exact h
    · cases nextJob t.1 cl with
      | none => exact h
      | some p => exact fillChannels_keeps (startJob_keeps h p.1 p.2)

theorem courierJobStart_starts (h : s.args = [cl]) (hroom : s.running cl < 4) (hn : nextJob s cl = some (n, j)) :
    ∃ t q, exec .courierJobStart s = .next t ∧ look t.jobs n = some q ∧ q.state = 2 ∧ ⟨jobStep j, [n]⟩ ∈ t.pending ∧
      n ∉ (t.core j.core).portQ ∧ (∀ c sl, t.thread? c sl = s.thread? c sl) ∧ t.mem = s.mem ∧ t.loc = s.loc := by
  obtain ⟨⟨q, hq, hst⟩, hdue, hport, hthreads, hbytes⟩ : Channelled s n j (Trail.fillChannels cl 4 (begin s)).1 := by
    rw [fillChannels_succ, begin_val, if_neg (by omega), hn]
    exact fillChannels_keeps (startJob_starts (begin s) n j)
  exact ⟨_, q, courierJobStart_eq h, hq, hst, hdue, hport, hthreads, hbytes⟩

end

/-! ### Status and cancelling (R367, R368) -/

section
variable {s : State} {x : Ctx} {a d : Nat} {da dd : Desc}

theorem jobOf_look {tag n : Nat} {j : Job} (h : x.jobOf tag = some (n, j)) : look x.s.jobs n = some j := by
  have hmem := List.mem_of_find?_eq_some h
  rw [List.mem_filterMap] at hmem
  obtain ⟨n', -, hn'⟩ := hmem
  obtain ⟨j', hj', hpair⟩ := Option.map_eq_some_iff.mp hn'
  cases hpair
  exact hj'

theorem jstat_retires {v : Nat} (h : Issues s (.jstat d a) x) (ha : Operand x a isInt da) (hd : Dest x d isInt dd)
    (hv : fitInt dd (statWord ((val x a).headD 0) ((x.jobOf ((val x a).headD 0)).map (·.2)) : Nat) = some v) :
    exec (.jstat d a) s = .next (retired s x (x.th.setLane0 x.k.vt d v)) := by
  have hint : dd.kind.isFloat = false := not_isFloat hd.fits
  show execJstat d a s = _
  refine issue_next (g := own x (fun th => th.setLane0 x.k.vt d v)) h ?_
  simp only [check_int ha.dest, check_int hd, ha.read0, bind, Except.bind, Ctx.assignInt, hint, Bool.false_eq_true, if_false, hv, orTrap]

theorem jcancel_refuses (h : Issues s (.jcancel a) x) (ha : Operand x a isInt da)
    (hj : ∀ n j, x.jobOf ((val x a).headD 0) = some (n, j) → j.state = 3) : exec (.jcancel a) s = .next (retired s x (x.th.replied 1 0)) := by
  show execJcancel a s = _
  refine issue_next (g := own x (fun th => th.replied 1 0)) h ?_
  simp only [check_int ha.dest, ha.read0, bind, Except.bind]
  cases hof : x.jobOf ((val x a).headD 0) with
  | none => rfl
  | some p => exact if_pos (hj p.1 p.2 hof)

theorem jcancel_cancels {n : Nat} {j : Job} (h : Issues s (.jcancel a) x) (ha : Operand x a isInt da)
    (hof : x.jobOf ((val x a).headD 0) = some (n, j)) (hst : j.state ≠ 3) : exec (.jcancel a) s =
      .next (dueOnce { retired s x (x.th.replied 0 0) with jobs := put s.jobs n { j with cancel := true } }
        (if j.state = 1 then .courierJobComplete else jobStep j) [n]) := by
  have hlook : look s.jobs n = some j := by
    have hl := jobOf_look hof
    rwa [h.s_eq] at hl
  show execJcancel a s = _
  refine (issue_next (g := fun t => (own x (fun th => th.replied 0 0) (t.modJob n (fun j => { j with cancel := true }))).pendOnce
    (if j.state = 1 then .courierJobComplete else jobStep j) [n]) h ?_).trans ?_
  · simp only [check_int ha.dest, ha.read0, bind, Except.bind, hof, if_neg hst]
  · rw [pendOnce_val]
    unfold Trail.modJob
    rw [begin_val, hlook]
    rfl

end

end Sys2Proof.Proofs
end


section
/-!
PROOFS. Expansions of the courier, act by act.
-/

namespace Sys2Proof.Proofs

open Sys2Proof Sys2Proof.Machine Sys2Proof.Claims

/-! ### The course of an act (R142, R143) -/

/-- A permit is taken. -/
def permitAct {s : State} (n : Nat) (j : Job) : Effect s := fun t =>
  ((t.ringPut n j 8 8 (t.1.ringNum j 8 8 - 1) true false).modJob n (fun q => { q with taken := q.taken + 1 })).pend .xcpyChunkDeliver [n]

section
variable (s : State) (n : Nat) (j : Job)

/-- The step that goes on with the expansion. -/
def nextAct : Due := ⟨.xcpyChunkDeliver, [n]⟩

/-- The slots of the chunks that may be delivered. -/
def readySlots : List Nat := (upFrom j.delivered j.intact).map (j.slotOf (s.ringNum j 4 1))

/-- Valid bits are set, and the chunks are delivered. -/
def deliverAct (v : Nat) : Effect s := fun t =>
  let gone := (readySlots s j).map (t.1.slotTag n j)
  let t := t.modCore j.core (fun c => { c with tags := c.tags.filter (fun g => !gone.contains g) })
  ((t.ringPut n j 16 8 (Nat.lor (t.1.ringNum j 16 8) v) false true).modJob n (fun q => { q with
    delivered := j.delivered + j.intact, written := q.written.filter (fun k => decide (j.delivered + j.intact ≤ k)) })).pend .xcpyChunkDeliver [n]

/-- The next slot of the ring. -/
def freeSlot : Nat := s.ringNum j 24 4 % s.ringNum j 4 1
def slotAfter : Nat := if s.ringNum j 4 1 ≤ freeSlot s j + 1 then 0 else freeSlot s j + 1

/-- A chunk that has its permit takes a slot. -/
def slotAct : Effect s := fun t =>
  let t := (t.ringPut n j 24 4 (slotAfter s j) false false).modJob n (fun q =>
    { q with given := q.given + 1, firstSlot := if j.given = 0 then freeSlot s j else q.firstSlot })
  let g := t.1.slotTag n j (freeSlot s j)
  (t.modCore j.core (fun c => if c.tags.contains g then c else { c with tags := c.tags ++ [g] })).pend .xcpyChunkDeliver [n]

/-- The bits of the slots whose chunks are delivered. -/
def readyBits : Nat := ((readySlots s j).map (2 ^ ·)).foldl Nat.lor 0

/-- An act of an expansion that nothing has stopped. -/
def expandAct : Trail s :=
  if 0 < j.intact then (begin s).jobLogged j (j.ringRec 2 8 2 16 (readyBits s j)) (nextAct n) (deliverAct s n j (readyBits s j))
  else if j.given < j.taken then (begin s).jobLogged j (j.ringRec 10 4 0 24 (s.ringNum j 4 1 - 1)) (nextAct n) (slotAct s n j)
  else if j.taken < s.wanted j ∧ j.taken - j.delivered < s.ringNum j 4 1 ∧ j.lanes.length < 4 ∧ 0 < s.ringNum j 8 8 then
    (begin s).jobLogged j (j.ringRec 0 8 1 8 (2 ^ 64 - 1)) (nextAct n) (permitAct n j)
  else (s.nextLane n j).elim
    (if j.delivered = s.wanted j then (begin s).windDown n j (s.ringNum j 4 1) (0, 0) (nextAct n) else begin s)
    (fun k => ((begin s).laneEnds n j (s.ringNum j 4 1) k).pend .xcpyChunkDeliver [n])

end

section
variable {s : State} {n : Nat} {j : Job}

theorem ringFails_none (h : Expands s n j) : s.ringFails j = none := by
  have hsound : ¬(s.bad.any (fun b => decide (b.1 = 2) && decide (b.2.1 = j.core) && decide (s.ringBlock j / 8 ≤ b.2.2) &&
      decide (b.2.2 < s.ringBlock j / 8 + 8)) = true) := by
    rw [List.any_eq_true]
    rintro ⟨b, hb, hmeet⟩
    simp only [Bool.and_eq_true, decide_eq_true_eq, and_assoc] at hmeet
    exact h.sound b hb hmeet
  obtain ⟨h0, h64, h5, h28, hbase⟩ := h.ring
  have hfields : ¬(s.ringNum j 4 1 = 0 ∨ 64 < s.ringNum j 4 1 ∨ s.ringNum j 5 3 ≠ 0 ∨ s.ringNum j 28 36 ≠ 0 ∨ s.ringNum j 0 4 % 64 ≠ 0) := by
    rintro (e | e | e | e | e)
    exacts [h0 e, absurd h64 (Nat.not_le.mpr e), e h5, e h28, e hbase]
  unfold State.ringFails
  dsimp only
  rw [if_neg hsound]
  by_cases htaken : j.taken ≠ 0 ∨ j.given ≠ 0 ∨ j.failed.isSome = true
  · rw [if_pos htaken]
  · rw [if_neg htaken, if_neg hfields, if_neg (Nat.not_lt.mpr h.chunks)]

theorem expand_course (h : Expands s n j) : exec .xcpyChunkDeliver s = .next (expandAct s n j).1 := by
  obtain ⟨hst, hk, hc, hf⟩ := h.runs
  obtain ⟨hh, hcut, -, -⟩ := h.goes
  have hgo : ¬(j.kind ≠ 3 ∨ j.state ≠ 2 ∨ s.jobHalted j = true) := by
    rw [hh]
    simp [hk, hst]
  show execXcpyChunkDeliver s = _
  unfold execXcpyChunkDeliver
  rw [event_val]
  simp only [begin_val, arg_of h.args, List.getD_cons_zero, h.job, if_neg hgo, hcut, Bool.false_eq_true, if_false, ringFails_none h]
  have hguard : s.args[2]? = none := by rw [h.args]; rfl
  simp only [hguard, Option.filter_none, hf, hc, Option.isNone_none, Bool.not_false, Bool.and_true, Bool.true_and, decide_eq_true_eq, Bool.and_eq_true,
    and_assoc, Bool.false_eq_true, if_false]
  unfold expandAct
  split
  · rfl
  · split
    · rfl
    · split
      · next hm =>
        rw [if_pos ⟨of_decide_eq_true hm.1, of_decide_eq_true hm.2.1, hm.2.2.1, of_decide_eq_true hm.2.2.2⟩]
        rfl
      · next hm =>
        have hnot : ¬(j.taken < s.wanted j ∧ j.taken - j.delivered < s.ringNum j 4 1 ∧ j.lanes.length < 4 ∧ 0 < s.ringNum j 8 8) :=
          fun e => hm ⟨decide_eq_true e.1, decide_eq_true e.2.1, e.2.2.1, decide_eq_true e.2.2.2⟩
        rw [if_neg hnot]
        cases s.nextLane n j <;> rfl

/-! ### A word of the ring block (R142, R182) -/

theorem ringBlock_congr {t : State} (h : t.tasks = s.tasks) : t.ringBlock j = s.ringBlock j := by
  unfold State.ringBlock State.ringAt State.task?
  rw [h]

theorem modJob_val {t : Trail s} {q : Job} (h : look t.1.jobs n = some q) (f : Job → Job) :
    (t.modJob n f).1 = { t.1 with jobs := put t.1.jobs n (f q) } := by
  unfold Trail.modJob
  rw [h]
  rfl

/-- A word of the ring block is written, and the job's clock may have gone on; nothing else of jobs, bytes, partitions or tasks. -/
structure RingPut (s t : State) (n : Nat) (j : Job) (off size v : Nat) : Prop where
  loc : t.loc = writeLocal s.loc (locKey j.core (s.ringBlock j + off)) (leBytes v size)
  mem : t.mem = s.mem
  parts : t.parts = s.parts
  tasks : t.tasks = s.tasks
  job : ∃ vc, look t.jobs n = some { j with vc := vc }

theorem ringPut_puts {t : Trail s} (hj : look t.1.jobs n = some j) (off size v : Nat) (acq rel : Bool) :
    RingPut t.1 (t.ringPut n j off size v acq rel).1 n j off size v := by
  unfold Trail.ringPut
  dsimp only
  generalize (t.1.core j.core).headsOf (t.1.ringBlock j + off) size = hs
  generalize (if acq then hs.foldl (fun (v : Clock) h => if meets h 0 j.core then v.join h.vc else v) j.vc else j.vc) = vc
  generalize hu : t.modCore j.core (fun k => k.setHistory (.gran ((t.1.ringBlock j + off) / 32)) (enter (k.history (.gran ((t.1.ringBlock j + off) / 32)))
    { agent := j.agent, epoch := lookD vc j.agent 0, slot := 15, write := true, atomic := true } vc)) = u
  have huval : u.1 = onCore t.1 j.core (fun k => k.setHistory (.gran ((t.1.ringBlock j + off) / 32)) (enter (k.history (.gran ((t.1.ringBlock j + off) / 32)))
    { agent := j.agent, epoch := lookD vc j.agent 0, slot := 15, write := true, atomic := true } vc)) := by rw [← hu]; rfl
  have hword := localWrite_stored u j.core (t.1.ringBlock j + off) (leBytes v size) (hs ++ (if rel then [{ vc := vc, place := j.core, scope := 0 }] else []))
  generalize u.localWrite j.core (t.1.ringBlock j + off) (leBytes v size) (hs ++ (if rel then [{ vc := vc, place := j.core, scope := 0 }] else [])) = w at hword
  have hlook : look w.1.jobs n = some j := by rw [hword.rest, huval]; exact hj
  rw [modJob_val hlook]
  refine ⟨?_, ?_, ?_, ?_, ⟨_, look_put_same _ _ _⟩⟩
  · show w.1.loc = _
    rw [hword.loc, huval]
    rfl
  · show w.1.mem = _
    rw [hword.rest, huval]
    rfl
  · show w.1.parts = _
    rw [hword.rest, huval]
    rfl
  · show w.1.tasks = _
    rw [hword.rest, huval]
    rfl

/-- The word reads back. -/
theorem RingPut.num {t : State} {off size v : Nat} (h : RingPut s t n j off size v) (hwf : s.loc.wf) (hc : j.core < 512)
    (hin : s.ringBlock j + off + size ≤ 2097152) (hv : v < 256 ^ size) : t.ringNum j off size = v := by
  have hread := bytes_writeLocal (a := locKey j.core (s.ringBlock j + off)) (bs := leBytes v size) hwf (by
    rw [leBytes_length]
    exact locKey_inside hc hin)
  rw [leBytes_length] at hread
  rw [State.ringNum, ringBlock_congr h.tasks, Mem.read_eq_leNat, h.loc, hread, leNat_leBytes, Nat.mod_eq_of_lt hv]

/-- An act on a word of the ring block: the word, the job as it goes on, and the bytes that are left. -/
structure RingAct (s t : State) (n : Nat) (j : Job) (off size v : Nat) (q : Job) : Prop where
  num : t.ringNum j off size = v
  job : look t.jobs n = some q
  mem : t.mem = s.mem
  parts : t.parts = s.parts
  other : ∀ k, (k < locKey j.core (s.ringBlock j + off) ∨ locKey j.core (s.ringBlock j + off) + size ≤ k) → t.loc.get k = s.loc.get k

theorem RingPut.act {w t : State} {off size v : Nat} {q : Job} {cs : Tab Core} {p : List Due} (h : RingPut s w n j off size v) (hex : Expands s n j)
    (hin : off + size ≤ 64) (hv : v < 256 ^ size) (ht : t = { w with jobs := put w.jobs n q, cores := cs, pending := p }) :
    RingAct s t n j off size v q := by
  obtain ⟨hwf, hcore, hplace⟩ := hex.place
  have hnum := h.num hwf hcore (by omega) hv
  rw [ht]
  refine ⟨hnum, look_put_same _ _ _, h.mem, h.parts, fun k hk => ?_⟩
  show w.loc.get k = _
  rw [h.loc]
  exact writeLocal_other _ _ _ _ (by rwa [leBytes_length])

/-- Where nothing records, an act of an expansion is done. -/
theorem act_done (h : Expands s n j) {go : Effect s} (hp : (go (begin s)).1.parts = s.parts) (r : Rec) (d : Due) :
    (begin s).jobLogged j r d go = go (begin s) := jobLogged_quiet (t := begin s) h.goes.2.2.1 hp r d

/-! ### Permits (R142) -/

theorem expands_waits (h : Expands s n j) (hi : j.intact = 0) (hg : j.given = j.taken) (hd : j.delivered ≠ s.wanted j) (hl : j.lanes = [])
    (hm : ¬MayTake s j) : exec .xcpyChunkDeliver s = .next s := by
  have hlane : s.nextLane n j = none := by rw [State.nextLane, hl]
  unfold MayTake at hm
  rw [expand_course h, expandAct, if_neg (by omega), if_neg (by omega), if_neg hm, hlane, Option.elim_none, if_neg hd]
  rfl

theorem permitAct_acts (h : Expands s n j) :
    ∃ vc, RingAct s (permitAct n j (begin s)).1 n j 8 8 (s.ringNum j 8 8 - 1) { j with vc := vc, taken := j.taken + 1 } := by
  have hput := ringPut_puts (t := begin s) h.job 8 8 (s.ringNum j 8 8 - 1) true false
  obtain ⟨vc, hvc⟩ := hput.job
  have hact : permitAct n j (begin s) = (((begin s).ringPut n j 8 8 (s.ringNum j 8 8 - 1) true false).modJob n (fun q => { q with
    taken := q.taken + 1 })).pend .xcpyChunkDeliver [n] := rfl
  rw [hact, pend_val, modJob_val hvc]
  generalize ((begin s).ringPut n j 8 8 (s.ringNum j 8 8 - 1) true false).1 = w at hput
  exact ⟨vc, hput.act h (by omega) (Nat.lt_of_le_of_lt (Nat.sub_le _ _) (read_lt _ _ _)) rfl⟩

theorem expands_takes (h : Expands s n j) (hi : j.intact = 0) (hg : j.given = j.taken) (hm : MayTake s j) :
    ∃ t q, exec .xcpyChunkDeliver s = .next t ∧ t.ringNum j 8 8 = s.ringNum j 8 8 - 1 ∧
      look t.jobs n = some q ∧ q.taken = j.taken + 1 ∧ q.given = j.given ∧ q.delivered = j.delivered ∧ q.state = 2 ∧
      ⟨.xcpyChunkDeliver, [n]⟩ ∈ t.pending ∧ t.mem = s.mem ∧
      (∀ k, (k < locKey j.core (s.ringBlock j + 8) ∨ locKey j.core (s.ringBlock j + 8) + 8 ≤ k) → t.loc.get k = s.loc.get k) := by
  obtain ⟨vc, hact⟩ := permitAct_acts h
  have hex : exec .xcpyChunkDeliver s = .next (permitAct n j (begin s)).1 := by
    unfold MayTake at hm
    rw [expand_course h, expandAct, if_neg (by omega), if_neg (by omega), if_pos hm, act_done h hact.parts]
  exact ⟨_, _, hex, hact.num, hact.job, rfl, rfl, rfl, h.runs.1, List.mem_append_right _ (List.mem_singleton_self _), hact.mem, hact.other⟩

/-! ### Slots (R142) -/

theorem slotAfter_lt (h : Expands s n j) : slotAfter s j < 256 ^ 4 := by
  obtain ⟨h0, h64, -⟩ := h.ring
  have hmod : freeSlot s j < s.ringNum j 4 1 := Nat.mod_lt _ (Nat.pos_of_ne_zero h0)
  unfold slotAfter
  split <;> omega

theorem slotAct_acts (h : Expands s n j) : ∃ vc, RingAct s (slotAct s n j (begin s)).1 n j 24 4 (slotAfter s j)
    { j with vc := vc, given := j.given + 1, firstSlot := if j.given = 0 then freeSlot s j else j.firstSlot } := by
  have hput := ringPut_puts (t := begin s) h.job 24 4 (slotAfter s j) false false
  obtain ⟨vc, hvc⟩ := hput.job
  unfold slotAct
  dsimp only
  rw [pend_val, modCore_onCore, modJob_val hvc]
  generalize ((begin s).ringPut n j 24 4 (slotAfter s j) false false).1 = w at hput
  exact ⟨vc, hput.act h (by omega) (slotAfter_lt h) rfl⟩

theorem expands_slot (h : Expands s n j) (hi : j.intact = 0) (hg : j.given < j.taken) :
    ∃ t q, exec .xcpyChunkDeliver s = .next t ∧ t.ringNum j 24 4 = slotAfter s j ∧
      look t.jobs n = some q ∧ q.given = j.given + 1 ∧ q.firstSlot = (if j.given = 0 then freeSlot s j else j.firstSlot) ∧
      ⟨.xcpyChunkDeliver, [n]⟩ ∈ t.pending ∧ t.mem = s.mem := by
  obtain ⟨vc, hact⟩ := slotAct_acts h
  have hex : exec .xcpyChunkDeliver s = .next (slotAct s n j (begin s)).1 := by
    rw [expand_course h, expandAct, if_neg (by omega), if_pos hg, act_done h hact.parts]
  exact ⟨_, _, hex, hact.num, hact.job, rfl, rfl, List.mem_append_right _ (List.mem_singleton_self _), hact.mem⟩

/-! ### Delivery (R142) -/

theorem foldl_lor_lt {n : Nat} {l : List Nat} {v : Nat} (hv : v < 2 ^ n) (h : ∀ k ∈ l, k < n) :
    l.foldl (fun v k => Nat.lor v (2 ^ k)) v < 2 ^ n := by
  induction l generalizing v with
  | nil => exact hv
  | cons k r ih =>
    rw [List.foldl_cons]
    exact ih (Nat.or_lt_two_pow hv (Nat.pow_lt_pow_right (by omega) (h k List.mem_cons_self))) fun k' hk => h k' (List.mem_cons_of_mem _ hk)

theorem readyBits_eq (s : State) (j : Job) : readyBits s j = (readySlots s j).foldl (fun v k => Nat.lor v (2 ^ k)) 0 := by
  unfold readyBits
  rw [List.foldl_map]

theorem readyBits_lt (h : Expands s n j) : readyBits s j < 2 ^ 64 := by
  obtain ⟨h0, h64, -⟩ := h.ring
  rw [readyBits_eq]
  refine foldl_lor_lt (by omega) fun k hk => ?_
  obtain ⟨i, -, rfl⟩ := List.mem_map.mp hk
  exact Nat.lt_of_lt_of_le (Nat.mod_lt _ (Nat.pos_of_ne_zero h0)) h64

theorem deliverAct_acts (h : Expands s n j) : ∃ vc written, RingAct s (deliverAct s n j (readyBits s j) (begin s)).1 n j 16 8
    (Nat.lor (s.ringNum j 16 8) (readyBits s j)) { j with vc := vc, delivered := j.delivered + j.intact, written := written } := by
  have hv : Nat.lor (s.ringNum j 16 8) (readyBits s j) < 256 ^ 8 := Nat.or_lt_two_pow (n := 64) (read_lt s.loc 8 _) (readyBits_lt h)
  unfold deliverAct
  dsimp only
  generalize (readySlots s j).map ((begin s).1.slotTag n j) = gone
  generalize hu : (begin s).modCore j.core (fun c => { c with tags := c.tags.filter (fun g => !gone.contains g) }) = u
  have huval : u.1 = onCore s j.core (fun c => { c with tags := c.tags.filter (fun g => !gone.contains g) }) := by rw [← hu]; rfl
  have hnum : u.1.ringNum j 16 8 = s.ringNum j 16 8 := by rw [huval]; rfl
  rw [hnum]
  have hput := ringPut_puts (t := u) (by rw [huval]; exact h.job) 16 8 (Nat.lor (s.ringNum j 16 8) (readyBits s j)) false true
  obtain ⟨vc, hvc⟩ := hput.job
  rw [pend_val, modJob_val hvc]
  generalize (u.ringPut n j 16 8 (Nat.lor (s.ringNum j 16 8) (readyBits s j)) false true).1 = w at hput
  rw [huval] at hput
  have hputs : RingPut s w n j 16 8 (Nat.lor (s.ringNum j 16 8) (readyBits s j)) := ⟨hput.loc, hput.mem, hput.parts, hput.tasks, hput.job⟩
  exact ⟨vc, _, hputs.act h (by omega) hv rfl⟩

theorem expands_delivers (h : Expands s n j) (hi : 0 < j.intact) :
    ∃ t q, exec .xcpyChunkDeliver s = .next t ∧
      t.ringNum j 16 8 = Nat.lor (s.ringNum j 16 8) ((readySlots s j).foldl (fun v k => Nat.lor v (2 ^ k)) 0) ∧ look t.jobs n = some q ∧
      q.delivered = j.delivered + j.intact ∧ ⟨.xcpyChunkDeliver, [n]⟩ ∈ t.pending ∧ t.mem = s.mem := by
  obtain ⟨vc, written, hact⟩ := deliverAct_acts h
  have hex : exec .xcpyChunkDeliver s = .next (deliverAct s n j (readyBits s j) (begin s)).1 := by
    rw [expand_course h, expandAct, if_pos hi, act_done h hact.parts]
  rw [← readyBits_eq]
  exact ⟨_, _, hex, hact.num, hact.job, rfl, List.mem_append_right _ (List.mem_singleton_self _), hact.mem⟩

/-! ### Lanes (R142, R143) -/

theorem expand_lane {k : Nat} (h : Expands s n j) (hi : j.intact = 0) (hg : j.given = j.taken) (hm : ¬MayTake s j) (hl : s.nextLane n j = some k) :
    exec .xcpyChunkDeliver s = .next (((begin s).laneEnds n j (s.ringNum j 4 1) k).pend .xcpyChunkDeliver [n]).1 := by
  unfold MayTake at hm
  rw [expand_course h, expandAct, if_neg (by omega), if_neg (by omega), if_neg hm, hl, Option.elim_some]

theorem expands_fails {k code : Nat} (h : Expands s n j) (hi : j.intact = 0) (hg : j.given = j.taken) (hm : ¬MayTake s j)
    (hl : s.nextLane n j = some k) (he : s.expand j (j.firstChunk + k) = .error code) : exec .xcpyChunkDeliver s =
      .next (due { s with jobs := put s.jobs n { j with
        written := j.written ++ [k], failed := some (j.firstChunk + k, code) } } .xcpyChunkDeliver [n]) := by
  have hfails : j.fails k code = { j with written := j.written ++ [k], failed := some (j.firstChunk + k, code) } := by
    unfold Job.fails
    rw [h.runs.2.2.2]
  rw [expand_lane h hi hg hm hl, pend_val]
  unfold Trail.laneEnds
  rw [begin_val, he]
  dsimp only
  rw [modJob_val (t := begin s) h.job, hfails]
  rfl

/-- A chunk that expands is no longer than a slot. -/
theorem expand_length {i : Nat} {d : List Byte} (h : s.expand j i = .ok d) : d.length ≤ 8192 := by
  unfold State.expand at h
  dsimp only at h
  split at h
  · cases h
  · split at h
    · cases h
    · split at h
      · cases h
      · split at h
        · cases h
        · split at h
          · cases h
          · split at h
            · cases h
            · split at h
              · next hlen =>
                cases h
                exact hlen.2
              · cases h

/-- The reads of a chunk are counted. -/
theorem chunkReads_counted (hq : Quiet s (s.jobPart j)) (k a b c d : Nat) :
    Counted s (((if k = 0 then (begin s).runTouch j j.src! 0 64 else begin s).runTouch j j.src! a b).runTouch j j.src! c d).1 := by
  have hfirst : Counted s (if k = 0 then (begin s).runTouch j j.src! 0 64 else begin s).1 := by
    split
    · exact runTouch_counted (t := begin s) hq _ _ _
    · rfl
  have hentry := hfirst.trans (runTouch_counted ((drifts_of_counted hfirst).jobQuiet hq) j.src! a b)
  exact hentry.trans (runTouch_counted ((drifts_of_counted hentry).jobQuiet hq) j.src! c d)

theorem putChunk_puts (h : Expands s n j) (hv : j.dst!.virt = false) (k slot : Nat) (d : List Byte) :
    ((begin s).putChunk j k slot d).1.jobs = s.jobs ∧ ((begin s).putChunk j k slot d).1.mem = s.mem ∧
      ((begin s).putChunk j k slot d).1.loc = writeLocal s.loc (locKey j.core (j.dst!.phys + 8192 * slot)) d := by
  unfold Trail.putChunk
  dsimp only
  have hreads := chunkReads_counted h.goes.2.2.1 k (64 + 8 * (j.firstChunk + k)) 8 ((begin s).1.chunkEntry j (j.firstChunk + k) % 2 ^ 32)
    (bits ((begin s).1.chunkEntry j (j.firstChunk + k)) 45 32)
  generalize ((if k = 0 then (begin s).runTouch j j.src! 0 64 else begin s).runTouch j j.src! (64 + 8 * (j.firstChunk + k)) 8).runTouch j j.src!
    ((begin s).1.chunkEntry j (j.firstChunk + k) % 2 ^ 32) (bits ((begin s).1.chunkEntry j (j.firstChunk + k)) 45 32) = u at hreads
  have hput : u.runPut j j.dst! (8192 * slot) d = u.localWrite j.core (j.dst!.phys + 8192 * slot) d [] := by
    unfold Trail.runPut
    rw [hv]
    rfl
  have hstored := localWrite_stored u j.core (j.dst!.phys + 8192 * slot) d []
  rw [hput, modCore_onCore, onCore]
  generalize u.localWrite j.core (j.dst!.phys + 8192 * slot) d [] = w at hstored
  refine ⟨?_, ?_, ?_⟩
  · show w.1.jobs = _
    rw [hstored.rest, hreads]
  · show w.1.mem = _
    rw [hstored.rest, hreads]
  · show w.1.loc = _
    rw [hstored.loc, hreads]

theorem expands_writes {k : Nat} {d : List Byte} (h : Expands s n j) (hi : j.intact = 0) (hg : j.given = j.taken) (hm : ¬MayTake s j)
    (hl : s.nextLane n j = some k) (he : s.expand j (j.firstChunk + k) = .ok d) (hv : j.dst!.virt = false)
    (hin : j.dst!.phys + 8192 * j.slotOf (s.ringNum j 4 1) k + 8192 ≤ 2097152) :
    ∃ t q, exec .xcpyChunkDeliver s = .next t ∧
      t.loc.bytes (locKey j.core (j.dst!.phys + 8192 * j.slotOf (s.ringNum j 4 1) k)) d.length = d ∧
      (∀ a, (a < locKey j.core (j.dst!.phys + 8192 * j.slotOf (s.ringNum j 4 1) k) ∨
        locKey j.core (j.dst!.phys + 8192 * j.slotOf (s.ringNum j 4 1) k) + d.length ≤ a) → t.loc.get a = s.loc.get a) ∧
      look t.jobs n = some q ∧ q.written = j.written ++ [k] ∧ q.delivered = j.delivered ∧ ⟨.xcpyChunkDeliver, [n]⟩ ∈ t.pending ∧
      t.mem = s.mem := by
  obtain ⟨hwf, hcore, -⟩ := h.place
  have hlen := expand_length he
  obtain ⟨hjobs, hmem, hloc⟩ := putChunk_puts h hv k (j.slotOf (s.ringNum j 4 1) k) d
  have hlook : look ((begin s).putChunk j k (j.slotOf (s.ringNum j 4 1) k) d).1.jobs n = some j := by rw [hjobs]; exact h.job
  have hends : ((begin s).laneEnds n j (s.ringNum j 4 1) k).1 = { ((begin s).putChunk j k (j.slotOf (s.ringNum j 4 1) k) d).1 with
      jobs := put ((begin s).putChunk j k (j.slotOf (s.ringNum j 4 1) k) d).1.jobs n { j with written := j.written ++ [k] } } := by
    unfold Trail.laneEnds
    rw [begin_val, he]
    exact modJob_val hlook _
  generalize ((begin s).putChunk j k (j.slotOf (s.ringNum j 4 1) k) d).1 = w at hjobs hmem hloc hends
  rw [expand_lane h hi hg hm hl, pend_val, hends]
  refine ⟨_, { j with written := j.written ++ [k] }, rfl, ?_, fun a ha => ?_, look_put_same _ _ _, rfl, rfl,
    List.mem_append_right _ (List.mem_singleton_self _), hmem⟩
  · show w.loc.bytes _ _ = d
    rw [hloc]
    exact bytes_writeLocal hwf (locKey_inside hcore (by omega))
  · show w.loc.get a = _
    rw [hloc]
    exact writeLocal_other _ _ _ _ ha

/-! ### The end of an expansion -/

theorem expands_ends (h : Expands s n j) (hd : j.delivered = s.wanted j) (hg : j.given = j.delivered) (ht : j.taken = j.delivered)
    (hin : baseOf s j + j.cw + 8 ≤ 2097152) : ∃ t q, exec .xcpyChunkDeliver s = .next t ∧ look t.jobs n = some q ∧ q.state = 3 ∧ q.code = 0 ∧
      t.loc.bytes (locKey j.core (baseOf s j + j.cw)) 8 = leBytes j.cval 8 ∧ t.mem = s.mem := by
  obtain ⟨hwf, hcore, -⟩ := h.place
  have hnone : upFrom j.delivered (j.given - j.delivered) = [] := by
    rw [hg, Nat.sub_self]
    rfl
  have hintact : ¬0 < j.intact := by
    rw [Job.intact, hnone]
    exact Nat.lt_irrefl 0
  have hlane : s.nextLane n j = none := by rw [State.nextLane, Job.lanes, hnone, List.filter_nil]
  have hends := endJob_ends (t := begin s) (n := n) h.goes.2.2.2 (0, 0) false false false
  have hwind : (begin s).windDown n j (s.ringNum j 4 1) (0, 0) (nextAct n) = (begin s).endJob n j (0, 0) false false false := by
    unfold Trail.windDown
    dsimp only
    rw [if_neg (by omega), if_neg (by omega)]
    exact act_done (go := fun t => t.endJob n j (0, 0) false false false) h hends.parts _ _
  have hex : exec .xcpyChunkDeliver s = .next ((begin s).endJob n j (0, 0) false false false).1 := by
    rw [expand_course h, expandAct, if_neg hintact, if_neg (by omega), if_neg (by omega), hlane, Option.elim_none, if_pos hd, hwind]
  exact ⟨_, _, hex, hends.look, rfl, rfl, hends.word hwf hcore hin, hends.mem⟩

end

theorem expansionHold : ExpansionHold :=
  ⟨lz4Decode_encode, fun _ _ _ h hi hg => ⟨expands_waits h hi hg, expands_takes h hi hg⟩, fun _ _ _ h hi hg => expands_slot h hi hg,
    fun _ _ _ _ h hi hg hm hl => ⟨fun _ he hv hin => expands_writes h hi hg hm hl he hv hin, fun _ he => expands_fails h hi hg hm hl he⟩,
    fun _ _ _ h hi => expands_delivers h hi, fun _ _ _ h hd hg ht hin => expands_ends h hd hg ht hin⟩

theorem courierJobsHold : CourierJobsHold :=
  ⟨fun _ _ ha hi => courierJobStart_idle ha hi, fun _ _ _ _ ha hroom _ hn => courierJobStart_starts ha hroom hn,
    fun _ _ _ _ _ h => copyJob_completes h, fun _ _ _ _ _ h => quantJob_completes h, fun _ _ _ _ _ h => packJob_completes h,
    fun _ _ _ hn hj hst hk hc hh hcut hq hqc => running_cancelled hn hj hst hk hc hh hcut hq hqc,
    fun _ _ _ ha hj hst hc hh hq hqc hwf hcore hin => queued_cancelled ha hj hst hc hh hq hqc hwf hcore hin,
    fun s x d a da dd v h ha hd hv => jstat_retires h ha hd (by
      unfold statWord
      cases hj : x.jobOf ((val x a).headD 0) <;> rw [hj] at hv <;> exact hv),
    fun _ _ _ _ h ha => ⟨fun hnone => jcancel_refuses h ha fun _ _ hj => (by rw [hnone] at hj; cases hj),
      fun _ _ hof hst => jcancel_refuses h ha fun _ _ hj => (by rw [hof] at hj; cases hj; exact hst),
      fun _ _ hof hst => jcancel_cancels h ha hof hst⟩⟩

/-- Settles O30: jobs by induction on their units, with what each unit leaves of the bytes of the others, and the end of a job said once; the
acts of an expansion, each a write of a word of the ring block or of a slot. -/
theorem courierJobs : Obligations.CourierJobs := ⟨courierJobsHold, expansionHold⟩

end Sys2Proof.Proofs
end
